-- ==== Sys2Proof/Word.lean ====
section
/-! DEFINITION. The word types of the Chedon and their plainest arithmetic (R3, R161). -/

namespace Sys2Proof

/-- A scalar register's contents (R161). -/
abbrev W64 := BitVec 64

/-- One byte of storage. -/
abbrev Byte := BitVec 8

/-- The 512 bytes of a vector register (R14, R127); bit 0 is bit 0 of byte 0. -/
abbrev VBits := BitVec 4096

/-- A mask register: one bit per byte lane (R127). -/
abbrev KBits := BitVec 512

/-- The 48 bits of a syllable (R104). -/
abbrev Syl48 := BitVec 48

/-- The 384 bits of a bundle (R102). -/
abbrev Bundle384 := BitVec 384

/-- A code unit (R82). -/
abbrev CodeUnit := BitVec 16

/-- Wrap64 of R161: an exact integer modulo 2^64. -/
abbrev wrap64 (x : Int) : W64 := BitVec.ofInt 64 x

/-- A map from keys to values held as a list of pairs in rising key order. -/
abbrev FMap (β : Type) := List (Nat × β)

end Sys2Proof
end

