-- ==== Sys2Proof/Config.lean ====
section
/-! DEFINITION. What the implementation fixes, and the free values: constants with no body, so that nothing in
Lean can evaluate them. Each is named in the assumption log. -/

namespace Sys2Proof.Config

/-- The n-th choice among events that the spec does not order (log 4). -/
opaque freeChoice : Nat → Nat

/-- Which entry of a CONT group whose entries disagree decides (R390), by the tick and the entry's address (log 4). -/
opaque contEntry : Nat → Nat → Nat

/-- A free byte: a value the spec leaves open, by the n-th use (log 5). -/
opaque freeByte : Nat → BitVec 8

/-- The activity forecast's LEVEL (R51): the spec names its inputs and no formula (log 6). -/
opaque forecastLevel : Nat → BitVec 8

/-- The ciphertext of a pool line under a key ID at an aperture address (R270); the cipher's key is the tenant's (log 7). -/
opaque poolCipher : BitVec 8 → Nat → BitVec 512 → BitVec 512

/-- What a line of a pool device deciphers to under a key ID at an aperture address, for a line that the package did not itself
write last under that key ID (R270; log 7). -/
opaque poolPlain : BitVec 8 → Nat → BitVec 512 → BitVec 512

/-- SHA-384 over the given bytes (R444), not computed by the model (log 7). -/
opaque sha384 : List (BitVec 8) → BitVec 384

/-- The ECDSA P-384 signature by the alias key (R444) (log 7). -/
opaque ecdsaP384 : List (BitVec 8) → BitVec 768

/-- The package number's silicon stepping and spare counts, per part (R22): STEP, SPARE0, SPARE1 (log 8). -/
opaque partStep : BitVec 4
opaque partSpare : Nat → BitVec 3

/-- Package power averaged over 1 ms (R452), a measured value (log 6). -/
opaque powerWatts : Nat → BitVec 16

/-- What authentication of a flash image against the part's fuses answers (R449, R451): modulo 4, 0 passes, 1 NOIMAGE,
2 AUTHFAIL, 3 ROLLBACK (log 7). -/
opaque imageVerdict : List (Nat × BitVec 8) → Nat

/-- The version of a flash image (R450) (log 7). -/
opaque imageVersion : List (Nat × BitVec 8) → BitVec 16

/-- The distance of R62 between two packages: 1 for Keuri neighbours, 2 for packages that share one neighbour (log 11). -/
opaque podDistance : Nat → Nat → Nat

/-- Where a leaf's command processor keeps a member's context area in the leaf's HBM, by gang and member (R420): the host
driver writes the area's head there before the gang's first launch (R421; log 14). -/
opaque contextArea : Nat → Nat → Nat

/-- A byte of a context image in a part whose inner layout R421 to R423 do not give, by gang, member, NOW at save and offset (log 45). -/
opaque contextByte : Nat → Nat → BitVec 64 → Nat → BitVec 8

/-- The place of a member that is on another package, by gang, member, STFRAME0 and slot: the pod manager's stencil holds it
(R52, R59; log 14). -/
opaque memberPlace : Nat → Nat → Nat → Nat → Nat

/-- Strands of one core (R1). -/
def strandsPerCore : Nat := 4

/-- Cores of one leaf (R13). -/
def coresPerLeaf : Nat := 64

/-- The safe-point bound when SAFEBOUND is 0 (R25, R131). -/
def defaultSafeMax : Nat := 20000

/-- NOW units in one microsecond: NOW counts 2^-10 ns (R264). -/
def nowPerMicrosecond : Nat := 1024000

/-- NOW units of one core clock times CLK, where CLK counts 25 MHz (R452): 40,000 / CLK nanoseconds / 1000. -/
def nowPerClockTimesClk : Nat := 40960

/-- Whether a node of a collective whose ranks lie on several packages is placed at a router, and at which package's: it depends on other
packages (R373; log 17). -/
opaque nodePlace : Nat → BitVec 64 → Nat → Nat → Option Nat

/-- The contributor bitmap of a combining node on another package at a gang fault (R377; log 43). -/
opaque farBitmap : Nat → BitVec 64 → Nat → Nat → Nat → Nat

end Sys2Proof.Config
end

