-- ==== Sys2Proof/Syntax.lean ====
section
/-! DEFINITION. The instruction set: operand formats (R106), the contents of the messages that reach the package, and
Instr, one constructor per row of the opcode table: 204 syllables and 128 events. -/

namespace Sys2Proof

/-- Format codes of FMT and format tags (R108, R137). -/
inductive Fmt where
  | raw | fp32 | bf16 | fp16 | t8 | t6 | int4 | int8 | uint8 | int16 | int32 | s12 | spline
deriving DecidableEq, Repr

/-- Rounding modifier RM (R108). -/
inductive Rm where
  | fmode | rne | rz | rd | ru
deriving DecidableEq, Repr

/-- Scopes (R108). -/
inductive Scope where
  | strand | core | cluster | leaf | chip | gang | pool | system
deriving DecidableEq, Repr

/-- XPUT directions (R108). -/
inductive Dir where
  | north | east | south | west
deriving DecidableEq, Repr

/-- The slots of a bundle, in slot order (R102). -/
inductive Slot where
  | s0 | s1 | v0 | v1 | m | q | e | b
deriving DecidableEq, Repr

/-- Operand format RRR with C zero (R106). -/
structure Rrr where
  d : BitVec 6
  a : BitVec 6
  b : BitVec 6
deriving DecidableEq, Repr

/-- Operand format RRR with all four fields (R165). -/
structure Rrrr where
  d : BitVec 6
  a : BitVec 6
  b : BitVec 6
  c : BitVec 6
deriving DecidableEq, Repr

/-- Operand format RRR with B and C zero (R166). -/
structure Rr where
  d : BitVec 6
  a : BitVec 6
deriving DecidableEq, Repr

/-- Operand format RRI with AUX zero (R167). -/
structure Rri where
  d : BitVec 6
  a : BitVec 6
  imm : BitVec 16
deriving DecidableEq, Repr

/-- Operand format RRI of WIDF: AUX is the field index (R171). -/
structure Widf where
  d : BitVec 6
  n : BitVec 4
deriving DecidableEq, Repr

/-- Operand format RI24 (R168). -/
structure Ri24 where
  d : BitVec 6
  sel : BitVec 2
  imm : BitVec 24
deriving DecidableEq, Repr

/-- Operand format VVV (R106). -/
structure Vvv where
  vd : BitVec 8
  va : BitVec 8
  vb : BitVec 8
  k : BitVec 4
  fmt : Fmt
deriving DecidableEq, Repr

/-- Operand format VVV with VB zero. -/
structure Vv where
  vd : BitVec 8
  va : BitVec 8
  k : BitVec 4
  fmt : Fmt
deriving DecidableEq, Repr

/-- Operand format VVV of VTAG: VB and K zero (R208). -/
structure Vt where
  vd : BitVec 8
  va : BitVec 8
  fmt : Fmt
deriving DecidableEq, Repr

/-- Operand format VVVV (R196). -/
structure Vvvv where
  vd : BitVec 8
  va : BitVec 8
  vb : BitVec 8
  vc : BitVec 8
deriving DecidableEq, Repr

/-- Operand format VVS (R106). -/
structure Vvs where
  vd : BitVec 8
  va : BitVec 8
  sb : BitVec 6
  k : BitVec 4
  fmt : Fmt
deriving DecidableEq, Repr

/-- Operand format VVS of VBCAST: VA zero (R206). -/
structure Vbc where
  vd : BitVec 8
  sb : BitVec 6
  k : BitVec 4
  fmt : Fmt
deriving DecidableEq, Repr

/-- Operand format VCV (R201). -/
structure Vcv where
  vd : BitVec 8
  va : BitVec 8
  rm : Rm
  sat : Bool
  k : BitVec 4
  fmt : Fmt
deriving DecidableEq, Repr

/-- Operand format KVV (R197). -/
structure Kvv where
  kd : BitVec 4
  va : BitVec 8
  vb : BitVec 8
  k : BitVec 4
  fmt : Fmt
deriving DecidableEq, Repr

/-- Operand format KKK (R198). -/
structure Kkk where
  kd : BitVec 4
  ka : BitVec 4
  kb : BitVec 4
deriving DecidableEq, Repr

/-- Operand format VI (R206). -/
structure Vi where
  vd : BitVec 8
  imm : BitVec 16
  fmt : Fmt
deriving DecidableEq, Repr

/-- Operand format VSX (R207). -/
structure Vsx where
  sd : BitVec 6
  va : BitVec 8
  sb : BitVec 6
  k : BitVec 4
  fmt : Fmt
deriving DecidableEq, Repr

/-- Operand format VP (R209). -/
structure Vp where
  vd : BitVec 8
  sd : BitVec 6
  k : BitVec 4
  fmt : Fmt
deriving DecidableEq, Repr

/-- Operand format RQ (R213). -/
structure Rq where
  va : BitVec 8
  ps : BitVec 2
  k : BitVec 4
  fmt : Fmt
deriving DecidableEq, Repr

/-- Operand format RQ of QDRN (R214). -/
structure Qd where
  ps : BitVec 2
  sd : BitVec 6
deriving DecidableEq, Repr

/-- Operand format CBM (R244). -/
structure Cbm where
  reg : BitVec 8
  cb : BitVec 5
  nm1 : BitVec 3
  k : BitVec 4
  off : BitVec 8
  fmt : Fmt
deriving DecidableEq, Repr

/-- Operand format CBM of CBPUSH and CBPOP (R245). -/
structure Cbn where
  cb : BitVec 5
  nm1 : BitVec 3
deriving DecidableEq, Repr

/-- Operand format GM with SCOPE zero (R246, R248). -/
structure Gm where
  reg : BitVec 8
  sa : BitVec 6
  k : BitVec 4
  disp : BitVec 7
  fmt : Fmt
deriving DecidableEq, Repr

/-- Operand format GM of GLDACQ and GSTREL: K zero (R253). -/
structure Gms where
  reg : BitVec 8
  sa : BitVec 6
  scope : Scope
  disp : BitVec 7
  fmt : Fmt
deriving DecidableEq, Repr

/-- Operand format GM of GLDACQV and GSTRELV (R253). -/
structure Gmv where
  reg : BitVec 8
  sa : BitVec 6
  scope : Scope
  k : BitVec 4
  disp : BitVec 7
  fmt : Fmt
deriving DecidableEq, Repr

/-- Operand format GM of PREF (R252). -/
structure Pf where
  sa : BitVec 6
  disp : BitVec 7
deriving DecidableEq, Repr

/-- Operand format XP (R255). -/
structure Xp where
  va : BitVec 8
  sa : BitVec 6
  dir : Dir
deriving DecidableEq, Repr

/-- Operand format AT with C zero (R256). -/
structure At where
  d : BitVec 6
  a : BitVec 6
  b : BitVec 6
  scope : Scope
  wide : Bool
deriving DecidableEq, Repr

/-- Operand format AT of ACAS (R256). -/
structure Atc where
  d : BitVec 6
  a : BitVec 6
  b : BitVec 6
  c : BitVec 6
  scope : Scope
  wide : Bool
deriving DecidableEq, Repr

/-- Operand format SCR with S zero (R258, R260). -/
structure Sc where
  scope : Scope
deriving DecidableEq, Repr

/-- Operand format SCR (R261, R263). -/
structure Scr where
  s : BitVec 6
  scope : Scope
deriving DecidableEq, Repr

/-- Operand format SCR with SCOPE zero (R264, R265). -/
structure Sr where
  s : BitVec 6
deriving DecidableEq, Repr

/-- Operand format TW (R259). -/
structure Tw where
  tk : BitVec 5
deriving DecidableEq, Repr

/-- Operand format RRR with D zero (R266). -/
structure Rmap where
  a : BitVec 6
  b : BitVec 6
  c : BitVec 6
deriving DecidableEq, Repr

/-- Operand format RRR with only A (R266). -/
structure Ra where
  a : BitVec 6
deriving DecidableEq, Repr

/-- Operand format ET (R312). -/
structure Et where
  tp : BitVec 5
  ta : BitVec 5
  tb : BitVec 5
  tc : BitVec 5
  sa : BitVec 6
  mode : BitVec 6
deriving DecidableEq, Repr

/-- Operand format BR with SL zero (R174). -/
structure Bd where
  disp : BitVec 24
deriving DecidableEq, Repr

/-- Operand format BR with DISP zero (R174). -/
structure Bs where
  sl : BitVec 6
deriving DecidableEq, Repr

/-- Operand format BR of CALL (R176). -/
structure Bsd where
  sl : BitVec 6
  disp : BitVec 24
deriving DecidableEq, Repr

/-- Operand format LP of LOOP: NSTG zero (R177). -/
structure Lp where
  sc : BitVec 6
  lvl : Bool
  len : BitVec 16
deriving DecidableEq, Repr

/-- Operand format LP of MLOOP (R182). -/
structure Mlp where
  sc : BitVec 6
  lvl : Bool
  nstg : BitVec 5
  len : BitVec 16
deriving DecidableEq, Repr

/-- Operand format SYS with only IMM12 (R184, R413). -/
structure Im where
  imm : BitVec 12
deriving DecidableEq, Repr

/-- Operand format SYS of MFS (R172). -/
structure Mfs where
  sd : BitVec 6
  cr : BitVec 8
deriving DecidableEq, Repr

/-- Operand format SYS of MTS (R172). -/
structure Mts where
  sa : BitVec 6
  cr : BitVec 8
deriving DecidableEq, Repr

/-- Operand format SYS of STQRD (R432). -/
structure Sd where
  sd : BitVec 6
deriving DecidableEq, Repr

/-- Operand format SYS of DICTCHK: SD names a predicate (R428). -/
structure Dck where
  pd : BitVec 6
  sa : BitVec 6
  bank : BitVec 12
deriving DecidableEq, Repr

/-- Operand format SYS of DICTLD (R429). -/
structure Dld where
  sa : BitVec 6
  bank : BitVec 12
deriving DecidableEq, Repr

/-- Operand format SYS of SIGNAL: SD is read (R431). -/
structure Sig where
  sd : BitVec 6
  sa : BitVec 6
deriving DecidableEq, Repr

/-- What comes back to a scoreboarded load, acquire or atomic (R241, R275, R362). -/
inductive LoadReply where
  | data | refused | lost
deriving DecidableEq, Repr

/-- What a gang barrier's keeper answers an arrival (R263): it has been counted, its episode has ended, or its count differs from
the open episode's. -/
inductive BarAnswer where
  | arrived | over | differs
deriving DecidableEq, Repr

/-- What a fabric packet carries (R360, R374, R375, R73): a store with the mask of the bits it writes, a read or an atomic
with the requester's transaction number, the answers to those, a contribution of ranks lo to hi with the ranks it covers,
the same for each subtree that a router had completed, a value on its way down to those ranks, a strand's arrival at a gang barrier,
or the answer to it. -/
inductive PacketBody where
  | store (txn addr len : Nat) (data mask : BitVec 8192)
  | read (txn addr len : Nat)
  | atomic (txn addr : Nat) (op : BitVec 3) (wide : Bool) (x q : W64)
  | readReply (txn : Nat) (data : BitVec 4096)
  | atomicReply (txn : Nat) (old : W64)
  | ack (txn : Nat)
  | refusal (txn : Nat)
  | contribution (txn : Nat) (seq : W64) (chunk lo hi bits : Nat) (data : List (BitVec 32))
  | partials (txn : Nat) (seq : W64) (chunk : Nat) (parts : List (Nat × Nat × Nat × List (BitVec 32)))
  | deliver (txn : Nat) (seq : W64) (chunk lo hi : Nat) (data : List (BitVec 8))
  | arrive (number n who : Nat)
  | barReply (who : Nat) (answer : BarAnswer)
deriving DecidableEq, Repr

/-- The key a packet's payload is sealed under (R363): that of the issuing member's key ID, or a gang's reduction key. -/
inductive SealKey where
  | member (id : BitVec 8)
  | reduction (gang : Nat)
deriving DecidableEq, Repr

/-- A Keuri packet of a gang (R357, R358, R363, R73), its payload opened: under is the key it was sealed under, nonce the counter of its
source that the nonce holds beside srcPkg and srcLeaf, and tagOk whether its tag checks under that key. A member's number from 2048 on
names the router of a package, 2048 plus the package's number. -/
structure Packet where
  gang : Nat
  key : BitVec 8
  srcPkg : Nat
  srcLeaf : Nat
  srcMember : Nat
  dstMember : Nat
  seq : Nat
  flits : Nat
  nonce : BitVec 64
  under : SealKey
  tagOk : Bool
  body : PacketBody
deriving DecidableEq, Repr

/-- What the head of a gang fault report says (R403). -/
structure FaultHead where
  gang : Nat
  member : Nat
  cause : BitVec 8
  tcause : BitVec 8
  pkg : Nat
  leaf : Nat
  core : Nat
  strand : Nat
  pc : Nat
  addr : W64
  now : W64
  work : W64
deriving DecidableEq, Repr

/-- One constructor per row of the opcode table: the syllables of R114 to R119 in table order, then the events. An
event carries what its step needs to be told: which strand, core, queue or member, or what a message holds. -/
inductive Instr where
  | nop
  | add (o : Rrr)
  | sub (o : Rrr)
  | mul (o : Rrr)
  | mulh (o : Rrr)
  | mulhu (o : Rrr)
  | div (o : Rrr)
  | divu (o : Rrr)
  | rem (o : Rrr)
  | remu (o : Rrr)
  | andS (o : Rrr)
  | orS (o : Rrr)
  | xorS (o : Rrr)
  | andn (o : Rrr)
  | shl (o : Rrr)
  | shr (o : Rrr)
  | sar (o : Rrr)
  | rol (o : Rrr)
  | min (o : Rrr)
  | max (o : Rrr)
  | minu (o : Rrr)
  | maxu (o : Rrr)
  | sel (o : Rrrr)
  | shadd (o : Rrrr)
  | clz (o : Rr)
  | ctz (o : Rr)
  | popc (o : Rr)
  | brev (o : Rr)
  | bswap (o : Rr)
  | addi (o : Rri)
  | muli (o : Rri)
  | andi (o : Rri)
  | ori (o : Rri)
  | xori (o : Rri)
  | shli (o : Rri)
  | shri (o : Rri)
  | sari (o : Rri)
  | widf (o : Widf)
  | cmpeq (o : Rrr)
  | cmpne (o : Rrr)
  | cmplt (o : Rrr)
  | cmpltu (o : Rrr)
  | cmple (o : Rrr)
  | cmpleu (o : Rrr)
  | cmpeqi (o : Rri)
  | cmpnei (o : Rri)
  | cmplti (o : Rri)
  | cmpgei (o : Rri)
  | pand (o : Rrr)
  | por (o : Rrr)
  | pxor (o : Rrr)
  | pandn (o : Rrr)
  | movi (o : Ri24)
  | movk (o : Ri24)
  | vadd (o : Vvv)
  | vsub (o : Vvv)
  | vmul (o : Vvv)
  | vmin (o : Vvv)
  | vmax (o : Vvv)
  | vadds (o : Vvv)
  | vsubs (o : Vvv)
  | vmulh (o : Vvv)
  | vdot4 (o : Vvv)
  | vabs (o : Vv)
  | vneg (o : Vv)
  | fmaFp32 (o : Vvvv)
  | fmaBf16 (o : Vvvv)
  | fmaFp16 (o : Vvvv)
  | fmsFp32 (o : Vvvv)
  | fmsBf16 (o : Vvvv)
  | fmsFp16 (o : Vvvv)
  | fnmaFp32 (o : Vvvv)
  | fnmaBf16 (o : Vvvv)
  | fnmaFp16 (o : Vvvv)
  | vcmpeq (o : Kvv)
  | vcmpne (o : Kvv)
  | vcmplt (o : Kvv)
  | vcmple (o : Kvv)
  | kand (o : Kkk)
  | kor (o : Kkk)
  | kxor (o : Kkk)
  | kandn (o : Kkk)
  | vand (o : Vvv)
  | vor (o : Vvv)
  | vxor (o : Vvv)
  | vandn (o : Vvv)
  | vnot (o : Vv)
  | vshl (o : Vvv)
  | vshr (o : Vvv)
  | vsar (o : Vvv)
  | vshls (o : Vvs)
  | vshrs (o : Vvs)
  | vsars (o : Vvs)
  | vcvt (o : Vcv)
  | vcvtw (o : Vcv)
  | vcvtn (o : Vcv)
  | vperm (o : Vvv)
  | vslideup (o : Vvs)
  | vslidedn (o : Vvs)
  | vbcast (o : Vbc)
  | vmov (o : Vv)
  | vsel (o : Vvv)
  | vmvs (o : Vsx)
  | vsplati (o : Vi)
  | vsplitVpart (o : Vp)
  | vexp2 (o : Vv)
  | vlog2 (o : Vv)
  | vrecip (o : Vv)
  | vrsqrt (o : Vv)
  | vtanh (o : Vv)
  | vsilu (o : Vv)
  | vtag (o : Vt)
  | qacc (o : Rq)
  | qadd (o : Rq)
  | qmax (o : Rq)
  | qmin (o : Rq)
  | qdrn (o : Qd)
  | ldl (o : Cbm)
  | stl (o : Cbm)
  | ldls (o : Cbm)
  | stls (o : Cbm)
  | cbpush (o : Cbn)
  | cbpop (o : Cbn)
  | lld (o : Gm)
  | lst (o : Gm)
  | lsgath (o : Vvs)
  | lsscat (o : Vvs)
  | gld (o : Gm)
  | glds (o : Gm)
  | gst (o : Gm)
  | gsts (o : Gm)
  | gldacq (o : Gms)
  | gstrel (o : Gms)
  | gldacqv (o : Gmv)
  | gstrelv (o : Gmv)
  | pref (o : Pf)
  | ldlu (o : Gm)
  | xput (o : Xp)
  | aadd (o : At)
  | amin (o : At)
  | amax (o : At)
  | aand (o : At)
  | aor (o : At)
  | axor (o : At)
  | aswap (o : At)
  | acas (o : Atc)
  | fence (o : Sc)
  | drain (o : Sc)
  | twait (o : Tw)
  | sev (o : Scr)
  | wfe
  | bar (o : Scr)
  | waitt (o : Sr)
  | rdnow (o : Sr)
  | rmap (o : Rmap)
  | runmap (o : Ra)
  | rflush (o : Ra)
  | lsta (o : Et)
  | lswap (o : Et)
  | lmm (o : Et)
  | lmms (o : Et)
  | lzero (o : Et)
  | lepi (o : Et)
  | tcfg (o : Et)
  | tcfgd (o : Et)
  | tgo (o : Et)
  | tstat (o : Et)
  | hcpy (o : Et)
  | hstr (o : Et)
  | htrn (o : Et)
  | hgath (o : Et)
  | hfill (o : Et)
  | hscat (o : Et)
  | kset (o : Et)
  | kget (o : Et)
  | spld (o : Et)
  | spswap (o : Et)
  | spev (o : Et)
  | spdx (o : Et)
  | spgr (o : Et)
  | spref (o : Et)
  | coll (o : Et)
  | cwait (o : Et)
  | ctest (o : Et)
  | cabort (o : Et)
  | br (o : Bd)
  | bri (o : Bs)
  | call (o : Bsd)
  | ret (o : Bs)
  | banksw (o : Bd)
  | loop (o : Lp)
  | mloop (o : Mlp)
  | safe (o : Im)
  | tend
  | yield
  | trap (o : Im)
  | eret
  | mfs (o : Mfs)
  | mts (o : Mts)
  | stqrd (o : Sd)
  | ifence
  | dictchk (o : Dck)
  | dictld (o : Dld)
  | signal (o : Sig)
  | bundleFetch (who : Nat)
  | fetchLineFill (core : Nat) (line : W64)
  | trapEntry (who : Nat)
  | resultLand (who id : Nat)
  | loadDataReturn (who id : Nat) (reply : LoadReply)
  | storePerform (who id : Nat)
  | xputLand (core id : Nat)
  | eventLatchSet (who : Nat)
  | waittExpiry (who : Nat)
  | safeovr (who : Nat)
  | dictchkHoldEnd (who : Nat)
  | dictldDone (who : Nat)
  | taskDispatch (leaf : Nat)
  | taskStart (who : Nat)
  | taskRetire (who : Nat)
  | regionFillComplete (core region : Nat)
  | commandStart (queue : Nat)
  | commandComplete (queue : Nat)
  | monitorWake (leaf line : Nat)
  | rewalkTimer (leaf party : Nat)
  | walkComplete (leaf party : Nat)
  | qtailDoorbell (vf q : Nat) (tail : BitVec 32)
  | qstatSkip (vf q : Nat)
  | qstatReset (vf q : Nat)
  | launch (leaf vf q : Nat)
  | copy (leaf vf q : Nat)
  | waitsig (leaf vf q : Nat)
  | signalPacket (leaf vf q : Nat)
  | ckpt (leaf vf q : Nat)
  | meter (leaf vf q : Nat)
  | resize (leaf vf q : Nat)
  | packetStart (leaf pid : Nat)
  | waitsigPoll (leaf pid : Nat)
  | waitto (leaf pid : Nat)
  | copyComplete (leaf pid : Nat)
  | completionSignalRetry (leaf pid : Nat)
  | resizeApply (leaf pid : Nat)
  | actfcUpdate (leaf : Nat)
  | stencilArm (leaf : Nat)
  | stencilApply (leaf : Nat)
  | slotBegin (leaf : Nat)
  | restoreComplete (leaf : Nat)
  | ready (leaf gang member : Nat)
  | go (leaf gang : Nat)
  | startto (leaf : Nat)
  | prepareStart (leaf : Nat)
  | memberPrepared (leaf : Nat)
  | prepdlCapture (leaf : Nat)
  | voteRound (leaf : Nat)
  | countreq (leaf gang round : Nat)
  | count (leaf gang member round : Nat) (prepared : Bool) (sent recv : W64)
  | commit (leaf gang : Nat)
  | contextSaved (leaf : Nat)
  | done (leaf gang member : Nat)
  | abort (leaf : Nat) (lead : Bool) (head : FaultHead)
  | votedlExpiry (leaf : Nat)
  | memberComplete (leaf : Nat)
  | mdone (leaf gang member : Nat)
  | fabricPacketArrival (leaf : Nat) (p : Packet)
  | remoteRequest (leaf : Nat) (p : Packet)
  | remoteResend (leaf txn : Nat)
  | flitCrcError (port : Nat)
  | linkDown (port : Nat)
  | linkRetrainEnd (port : Nat) (ok : Bool)
  | linkdnDownClear (bits : BitVec 32)
  | collStart (leaf ctx : Nat)
  | placementRequest (leaf gang member : Nat) (block : BitVec 1024)
  | placement (leaf gang : Nat) (block : BitVec 1024) (routers : List (Nat × Nat × Nat))
  | contribution (leaf : Nat) (p : Packet)
  | collAck (leaf ctx txn : Nat)
  | abortNotice (leaf gang member : Nat) (seq : W64)
  | cabortCountRound (leaf ctx : Nat)
  | releaseNotice (leaf gang : Nat) (seq : W64)
  | sync (port : Nat) (origin arrival : W64)
  | followUp (port : Nat) (origin correction : W64)
  | pdelayReq (port : Nat) (arrival : W64)
  | pdelayResp (port : Nat) (reqReceipt arrival : W64)
  | pdelayRespFollowUp (port : Nat) (respOrigin : W64)
  | syncInterval
  | getVersion
  | getCapabilities
  | negotiateAlgorithms
  | getDigests
  | getCertificate
  | getMeasurements
  | keyExchange
  | finish
  | install (gang slot : Nat) (key : BitVec 256)
  | revoke (slot : Nat)
  | keySlotClear (slot : Nat)
  | kbshareWrite (key : Nat) (value : W64)
  | poolRegionEnable (region : Nat) (value : W64)
  | dump (region : Nat)
  | drop (region : Nat)
  | prstatRead (region : Nat)
  | plcshareWrite (key : Nat) (value : W64)
  | ownershipGrant (line : Nat)
  | bisnp (line : Nat) (data : BitVec 512)
  | poolLinkLoss (region : Nat)
  | poolRetrySuccess (region : Nat)
  | poolRetryExpiry (region : Nat)
  | tlbinv (vf : Nat) (value : W64)
  | tlbinvDone (vf : Nat)
  | uncorrectableError (leaf unit addr : Nat)
  | correctableError (leaf unit : Nat)
  | freezeEnd (leaf : Nat)
  | coreFailure (leaf core : Nat)
  | ckptStart (leaf pid : Nat)
  | ckptPageDrain (leaf pid page : Nat)
  | ckptComplete (leaf pid : Nat)
  | bufbytesRead (vf offset : Nat)
  | errleafRead (leaf offset : Nat)
  | errpkgRead (offset : Nat)
  | hbmWindowAccess (offset : Nat) (write : Bool) (value : W64)
  | powerOn
  | readyTimeout
  | restart
  | mprst
  | mpHeartbeat
  | pwrctlWrite (leaf : Nat) (value : W64)
  | pwrctlApply (leaf : Nat)
  | thwarn
  | thermalTrip
  | registerWrite (fn offset : Nat) (value : W64)
  | l1Evict (core line : Nat)
  | functionReset (vf : Nat)
  | flashWriteWindow (offset : Nat) (value : W64)
  | pdelayReqInterval (port : Nat)
deriving DecidableEq, Repr

/-- A syllable: its guard and what it does (R104). -/
structure Syllable where
  pred : BitVec 6
  sense : Bool
  instr : Instr
deriving DecidableEq, Repr

/-- The all-zero syllable, NOP of every class (R105). -/
def Syllable.nop : Syllable := { pred := 0, sense := false, instr := .nop }

/-- A bundle's eight syllables (R102). -/
structure Bundle where
  s0 : Syllable
  s1 : Syllable
  v0 : Syllable
  v1 : Syllable
  m : Syllable
  q : Syllable
  e : Syllable
  b : Syllable
deriving DecidableEq, Repr

/-- The syllables with their slots, in slot order (R102). -/
def Bundle.syllables (b : Bundle) : List (Slot × Syllable) :=
  [(.s0, b.s0), (.s1, b.s1), (.v0, b.v0), (.v1, b.v1), (.m, b.m), (.q, b.q), (.e, b.e), (.b, b.b)]

/-- The bundle of NOPs. -/
def Bundle.nop : Bundle :=
  { s0 := .nop, s1 := .nop, v0 := .nop, v1 := .nop, m := .nop, q := .nop, e := .nop, b := .nop }

end Sys2Proof
end

