-- ==== Sys2Proof/WellFormed.lean ====
section
/-! DEFINITION. Well-formed instructions: the checks that R107 to R109, R120, R162 and the instruction chapters make on
a syllable's own bits, whether or not its guard holds (R110). A syllable that fails one raises ILLINST. -/

namespace Sys2Proof

/-- F of R189: the floating formats. -/
def Fmt.isF : Fmt → Bool
  | .fp32 | .bf16 | .fp16 => true
  | _ => false

/-- I of R189: the integer formats. -/
def Fmt.isI : Fmt → Bool
  | .int4 | .int8 | .uint8 | .int16 | .int32 => true
  | _ => false

/-- I without INT4 (R189). -/
def Fmt.isI' (f : Fmt) : Bool := f.isI && f != .int4

/-- All without SPLINE-ROW (R189). -/
def Fmt.isAll' (f : Fmt) : Bool := f != .spline

/-- The signed integer formats and INT4, with F: VABS and VNEG (R189). -/
def Fmt.isAbs (f : Fmt) : Bool := f.isF || (f.isI && f != .uint8)

/-- The formats of the accumulating reduction forms (R189). -/
def Fmt.isRed (f : Fmt) : Bool :=
  match f with
  | .fp32 | .bf16 | .fp16 | .int8 | .uint8 | .int16 | .int32 => true
  | _ => false

/-- Element width in half-bytes (R137, R188): 1 for INT4, 2 for the byte formats, 4 and 8 above. -/
def Fmt.halfBytes : Fmt → Nat
  | .int4 => 1
  | .raw | .t8 | .t6 | .int8 | .uint8 => 2
  | .bf16 | .fp16 | .int16 | .s12 => 4
  | .fp32 | .int32 | .spline => 8

/-- Elements of one register (R137). -/
def Fmt.count (f : Fmt) : Nat := 1024 / f.halfBytes

/-- Element bits (R137). -/
def Fmt.bits (f : Fmt) : Nat := 4 * f.halfBytes

/-- A vector register field is 0 to 191 (R107). -/
def vOk (v : BitVec 8) : Bool := v.toNat < 192

/-- Base rule of R109 for an operand of n registers. -/
def baseOk (v : BitVec 8) (n : Nat) : Bool := vOk v && v.toNat % n == 0

/-- Registers of the INT16 index operand for a format (R204): one, a pair for bytes, a quad for INT4. -/
def idxRegs (f : Fmt) : Nat := if f = .int4 then 4 else if f.halfBytes = 2 then 2 else 1

/-- Destination formats g of VCVT (R201). -/
def cvtDst (g : Fmt) : Bool := g.isF || g.isI || g == .t8 || g == .t6 || g == .s12

/-- RM 2 to 4 is illegal for T8 and T6 (R149). -/
def cvtRm (g : Fmt) (rm : Rm) : Bool := !(g == .t8 || g == .t6) || rm == .fmode || rm == .rne

/-- Registers of VCVTW's destination by g, 0 where VCVTW refuses g (R203). -/
def widenRegs : Fmt → Nat
  | .fp32 | .int32 | .bf16 | .fp16 | .int16 => 4
  | .int8 | .uint8 | .t8 | .t6 => 2
  | _ => 0

/-- Registers of VCVTN's source by g, 0 where VCVTN refuses g (R203). -/
def narrowRegs : Fmt → Nat
  | .bf16 | .fp16 | .int16 | .s12 => 2
  | .int8 | .uint8 | .t8 | .t6 | .int4 => 4
  | _ => 0

/-- The IMM16 limits of VSPLATI (R206): bits beyond the element are zero. -/
def splatOk (f : Fmt) (imm : BitVec 16) : Bool :=
  match f with
  | .fp32 | .int32 | .bf16 | .fp16 | .int16 => true
  | .s12 => imm.toNat < 4096
  | .int8 | .uint8 | .t8 | .raw => imm.toNat < 256
  | .t6 => imm.toNat < 64
  | .int4 => imm.toNat < 16
  | .spline => false

/-- Bytes a scalar form moves, 0 where the form refuses the format (R239). -/
def scalarBytes : Fmt → Nat
  | .fp32 | .int32 => 4
  | .bf16 | .fp16 | .int16 | .s12 => 2
  | .t8 | .int8 | .uint8 => 1
  | .raw => 8
  | .int4 | .spline | .t6 => 0

/-- A scalar form's REG, K and FMT (R107, R239). -/
def scalarOk (reg : BitVec 8) (k : BitVec 4) (f : Fmt) : Bool := reg.toNat < 64 && k == 0 && scalarBytes f != 0

/-- Formats of LSGATH and LSSCAT (R247). -/
def gathFmt (f : Fmt) : Bool := f != .int4 && f != .t6 && f != .spline

/-- The control register numbers of R131. -/
def crOk (n : BitVec 8) : Bool :=
  n.toNat < 0x0C || (0x10 ≤ n.toNat && n.toNat < 0x18) || n.toNat == 0x20 ||
  (0x30 ≤ n.toNat && n.toNat < 0x36) || (0x40 ≤ n.toNat && n.toNat < 0x60)

/-- The format a MODE field names in bits 3:0 (R108). -/
def fmtOfCode : Nat → Option Fmt
  | 0 => some .raw | 1 => some .fp32 | 2 => some .bf16 | 3 => some .fp16 | 4 => some .t8 | 5 => some .t6
  | 6 => some .int4 | 7 => some .int8 | 8 => some .uint8 | 9 => some .int16 | 10 => some .int32
  | 11 => some .s12 | 12 => some .spline
  | _ => none

/-- The code of a format (R108). -/
def Fmt.code : Fmt → Nat
  | .raw => 0 | .fp32 => 1 | .bf16 => 2 | .fp16 => 3 | .t8 => 4 | .t6 => 5 | .int4 => 6 | .int8 => 7 | .uint8 => 8
  | .int16 => 9 | .int32 => 10 | .s12 => 11 | .spline => 12

/-- MODE bits 3:0 as a format. -/
def Et.fmt? (o : Et) : Option Fmt := fmtOfCode (o.mode.toNat % 16)

/-- MODE bit 4, SCALED (R312). -/
def Et.scaled (o : Et) : Bool := o.mode.getLsbD 4

/-- MODE bit 5, the tile (R312). -/
def Et.tile (o : Et) : Bool := o.mode.getLsbD 5

/-- Formats of the dense Lath commands, with SCALED only for T8, T6 and INT8 (R312). -/
def lathOk (f? : Option Fmt) (scaled : Bool) : Bool :=
  match f? with
  | some .t6 | some .t8 | some .int8 => true
  | some .bf16 | some .fp16 | some .fp32 => !scaled
  | _ => false

/-- FP32 or BF16 (R343). -/
def spFmt (f? : Option Fmt) : Bool := f? == some .fp32 || f? == some .bf16

/-- No token operand and no SA beyond those named (R312). -/
def Et.noSa (o : Et) : Bool := o.sa == 0

/-- TA, TB and TC zero. -/
def Et.noTok (o : Et) : Bool := o.ta == 0 && o.tb == 0 && o.tc == 0

/-- The barrier scopes of R263. -/
def barScope : Scope → Bool
  | .core | .cluster | .leaf | .gang => true
  | _ => false

/-- The event scopes of R261. -/
def sevScope : Scope → Bool
  | .strand | .core | .cluster | .leaf => true
  | _ => false

/-- The checks of a syllable's own bits; every event is well formed. -/
def Instr.wf : Instr → Bool
  | .shli o | .shri o | .sari o
    => o.imm.toNat < 64
  | .widf o
    => o.n.toNat < 6
  | .movi o | .movk o
    => o.sel != 3 && (o.sel != 2 || o.imm.toNat < 65536)
  | .vadd o | .vsub o | .vmul o | .vmin o | .vmax o
    => vOk o.vd && vOk o.va && vOk o.vb && (o.fmt.isF || o.fmt.isI)
  | .vadds o | .vsubs o
    => vOk o.vd && vOk o.va && vOk o.vb && o.fmt.isI
  | .vmulh o | .vshl o | .vshr o | .vsar o
    => vOk o.vd && vOk o.va && vOk o.vb && o.fmt.isI'
  | .vshls o | .vshrs o | .vsars o
    => vOk o.vd && vOk o.va && o.fmt.isI'
  | .vdot4 o
    => vOk o.vd && vOk o.va && vOk o.vb && (o.fmt == .int8 || o.fmt == .uint8)
  | .vabs o | .vneg o
    => vOk o.vd && vOk o.va && o.fmt.isAbs
  | .fmaFp32 o | .fmaBf16 o | .fmaFp16 o | .fmsFp32 o | .fmsBf16 o | .fmsFp16 o | .fnmaFp32 o | .fnmaBf16 o | .fnmaFp16 o
    => vOk o.vd && vOk o.va && vOk o.vb && vOk o.vc
  | .vcmpeq o | .vcmpne o | .vcmplt o | .vcmple o
    => vOk o.va && vOk o.vb && (o.fmt.isF || o.fmt.isI')
  | .vand o | .vor o | .vxor o | .vandn o
    => vOk o.vd && vOk o.va && vOk o.vb
  | .vnot o
    => vOk o.vd && vOk o.va
  | .vtag o
    => vOk o.vd && vOk o.va
  | .vcvt o
    => vOk o.vd && vOk o.va && cvtDst o.fmt && cvtRm o.fmt o.rm
  | .vcvtw o
    => vOk o.va && widenRegs o.fmt != 0 && baseOk o.vd (widenRegs o.fmt) && cvtRm o.fmt o.rm && o.k == 0
  | .vcvtn o
    => vOk o.vd && narrowRegs o.fmt != 0 && baseOk o.va (narrowRegs o.fmt) && cvtRm o.fmt o.rm && o.k == 0
  | .vperm o
    => vOk o.vd && vOk o.va && baseOk o.vb (idxRegs o.fmt) && o.fmt.isAll'
  | .vslideup o | .vslidedn o
    => vOk o.vd && vOk o.va && o.fmt.isAll'
  | .vbcast o
    => vOk o.vd && o.fmt.isAll'
  | .vmov o
    => vOk o.vd && vOk o.va && o.fmt.isAll'
  | .vsel o
    => vOk o.vd && vOk o.va && vOk o.vb && o.fmt.isAll'
  | .vmvs o
    => vOk o.va && o.fmt.isAll'
  | .vsplati o
    => vOk o.vd && splatOk o.fmt o.imm
  | .vsplitVpart o
    => baseOk o.vd (idxRegs o.fmt) && o.fmt.isAll'
  | .vexp2 o | .vlog2 o | .vrecip o | .vrsqrt o | .vtanh o | .vsilu o
    => vOk o.vd && vOk o.va && o.fmt.isF
  | .qacc o | .qadd o | .qmax o | .qmin o
    => vOk o.va && o.fmt.isRed
  | .ldl o | .stl o
    => vOk o.reg
  | .lld o | .lst o | .gld o | .gst o | .ldlu o
    => vOk o.reg
  | .ldls o | .stls o
    => scalarOk o.reg o.k o.fmt
  | .glds o | .gsts o
    => scalarOk o.reg o.k o.fmt
  | .lsgath o | .lsscat o
    => vOk o.vd && baseOk o.va (idxRegs o.fmt) && gathFmt o.fmt
  | .gldacq o | .gstrel o
    => scalarOk o.reg 0 o.fmt && o.scope != .strand
  | .gldacqv o | .gstrelv o
    => vOk o.reg && o.scope != .strand
  | .xput o
    => vOk o.va
  | .aadd o | .amin o | .amax o | .aand o | .aor o | .axor o | .aswap o
    => o.scope != .strand
  | .acas o
    => o.scope != .strand
  | .fence o | .drain o
    => o.scope != .strand
  | .sev o
    => sevScope o.scope
  | .bar o
    => barScope o.scope
  | .lsta o
    => lathOk o.fmt? o.scaled && !o.tile
  | .lmm o | .lmms o
    => lathOk o.fmt? o.scaled
  | .lswap o | .tgo o | .spswap o
    => o.noSa && o.mode == 0
  | .lzero o
    => o.noSa && (o.fmt? == some .fp32 || o.fmt? == some .int32) && !o.scaled
  | .tcfg o | .tcfgd o | .spld o | .spref o
    => o.mode == 0
  | .tstat o
    => o.mode == 0 && o.tp == 0 && o.noTok
  | .hcpy o | .hstr o | .htrn o | .hgath o | .hfill o | .hscat o
    => o.mode.toNat < 4
  | .kset o
    => o.mode.toNat < 2
  | .kget o
    => o.mode.toNat < 4 && o.mode != 3 || o.mode == 6
  | .spev o
    => spFmt o.fmt? && !o.scaled
  | .spdx o | .spgr o
    => spFmt o.fmt? && o.mode.toNat < 16
  | .coll o
    => o.mode.toNat < 8
  | .cwait o
    => o.mode.toNat < 8 && o.noTok
  | .ctest o
    => o.mode.toNat < 8 && o.noTok && o.tp == 0
  | .cabort o
    => o.mode.toNat < 8 && o.noTok && o.noSa
  | .loop o
    => o.len != 0
  | .mloop o
    => o.len != 0
  | .mfs o
    => crOk o.cr
  | .mts o
    => crOk o.cr
  | .dictchk o
    => o.bank.toNat < 2
  | .dictld o
    => o.bank.toNat < 2
  | .nop | .add _ | .sub _ | .mul _ | .mulh _ | .mulhu _ => true
  | .div _ | .divu _ | .rem _ | .remu _ | .andS _ | .orS _ => true
  | .xorS _ | .andn _ | .shl _ | .shr _ | .sar _ | .rol _ => true
  | .min _ | .max _ | .minu _ | .maxu _ | .sel _ | .shadd _ => true
  | .clz _ | .ctz _ | .popc _ | .brev _ | .bswap _ | .addi _ => true
  | .muli _ | .andi _ | .ori _ | .xori _ | .cmpeq _ | .cmpne _ => true
  | .cmplt _ | .cmpltu _ | .cmple _ | .cmpleu _ | .cmpeqi _ | .cmpnei _ => true
  | .cmplti _ | .cmpgei _ | .pand _ | .por _ | .pxor _ | .pandn _ => true
  | .kand _ | .kor _ | .kxor _ | .kandn _ | .qdrn _ | .cbpush _ => true
  | .cbpop _ | .pref _ | .twait _ | .wfe | .waitt _ | .rdnow _ => true
  | .rmap _ | .runmap _ | .rflush _ | .lepi _ | .br _ | .bri _ => true
  | .call _ | .ret _ | .banksw _ | .safe _ | .tend | .yield => true
  | .trap _ | .eret | .stqrd _ | .ifence | .signal _ => true
  | .bundleFetch _ | .fetchLineFill _ _ | .trapEntry _ | .resultLand _ _ | .loadDataReturn _ _ _ | .storePerform _ _ => true
  | .xputLand _ _ | .eventLatchSet _ | .waittExpiry _ | .safeovr _ | .dictchkHoldEnd _ | .dictldDone _ => true
  | .taskDispatch _ | .taskStart _ | .taskRetire _ | .regionFillComplete _ _ | .commandStart _ | .commandComplete _ => true
  | .monitorWake _ _ | .rewalkTimer _ _ | .walkComplete _ _ | .qtailDoorbell _ _ _ | .qstatSkip _ _ | .qstatReset _ _ => true
  | .launch _ _ _ | .copy _ _ _ | .waitsig _ _ _ | .signalPacket _ _ _ | .ckpt _ _ _ | .meter _ _ _ => true
  | .resize _ _ _ | .packetStart _ _ | .waitsigPoll _ _ | .waitto _ _ | .copyComplete _ _ | .completionSignalRetry _ _ => true
  | .resizeApply _ _ | .actfcUpdate _ | .stencilArm _ | .stencilApply _ | .slotBegin _ | .restoreComplete _ => true
  | .ready _ _ _ | .go _ _ | .startto _ | .prepareStart _ | .memberPrepared _ | .prepdlCapture _ => true
  | .voteRound _ | .countreq _ _ _ | .count _ _ _ _ _ _ _ | .commit _ _ | .contextSaved _ | .done _ _ _ => true
  | .abort _ _ _ | .votedlExpiry _ | .memberComplete _ | .mdone _ _ _ | .fabricPacketArrival _ _ | .remoteRequest _ _ => true
  | .remoteResend _ _ | .flitCrcError _ | .linkDown _ | .linkRetrainEnd _ _ | .linkdnDownClear _ | .collStart _ _ => true
  | .placementRequest _ _ _ _ | .placement _ _ _ _ | .contribution _ _ | .collAck _ _ _ | .abortNotice _ _ _ _ | .cabortCountRound _ _ => true
  | .releaseNotice _ _ _ | .sync _ _ _ | .followUp _ _ _ | .pdelayReq _ _ | .pdelayResp _ _ _ | .pdelayRespFollowUp _ _ => true
  | .syncInterval | .getVersion | .getCapabilities | .negotiateAlgorithms | .getDigests | .getCertificate => true
  | .getMeasurements | .keyExchange | .finish | .install _ _ _ | .revoke _ | .keySlotClear _ => true
  | .kbshareWrite _ _ | .poolRegionEnable _ _ | .dump _ | .drop _ | .prstatRead _ | .plcshareWrite _ _ => true
  | .ownershipGrant _ | .bisnp _ _ | .poolLinkLoss _ | .poolRetrySuccess _ | .poolRetryExpiry _ | .tlbinv _ _ => true
  | .tlbinvDone _ | .uncorrectableError _ _ _ | .correctableError _ _ | .freezeEnd _ | .coreFailure _ _ | .ckptStart _ _ => true
  | .ckptPageDrain _ _ _ | .ckptComplete _ _ | .bufbytesRead _ _ | .errleafRead _ _ | .errpkgRead _ | .hbmWindowAccess _ _ _ => true
  | .powerOn | .readyTimeout | .restart | .mprst | .mpHeartbeat | .pwrctlWrite _ _ => true
  | .pwrctlApply _ | .thwarn | .thermalTrip | .registerWrite _ _ _ | .l1Evict _ _ | .functionReset _ => true
  | .flashWriteWindow _ _ | .pdelayReqInterval _ => true

/-- The syllables: every instruction that has an encoding (R114 to R119). The events have none. -/
def Instr.isSyllable : Instr → Bool
  | .bundleFetch _ | .fetchLineFill _ _ | .trapEntry _ | .resultLand _ _ | .loadDataReturn _ _ _ | .storePerform _ _ => false
  | .xputLand _ _ | .eventLatchSet _ | .waittExpiry _ | .safeovr _ | .dictchkHoldEnd _ | .dictldDone _ => false
  | .taskDispatch _ | .taskStart _ | .taskRetire _ | .regionFillComplete _ _ | .commandStart _ | .commandComplete _ => false
  | .monitorWake _ _ | .rewalkTimer _ _ | .walkComplete _ _ | .qtailDoorbell _ _ _ | .qstatSkip _ _ | .qstatReset _ _ => false
  | .launch _ _ _ | .copy _ _ _ | .waitsig _ _ _ | .signalPacket _ _ _ | .ckpt _ _ _ | .meter _ _ _ => false
  | .resize _ _ _ | .packetStart _ _ | .waitsigPoll _ _ | .waitto _ _ | .copyComplete _ _ | .completionSignalRetry _ _ => false
  | .resizeApply _ _ | .actfcUpdate _ | .stencilArm _ | .stencilApply _ | .slotBegin _ | .restoreComplete _ => false
  | .ready _ _ _ | .go _ _ | .startto _ | .prepareStart _ | .memberPrepared _ | .prepdlCapture _ => false
  | .voteRound _ | .countreq _ _ _ | .count _ _ _ _ _ _ _ | .commit _ _ | .contextSaved _ | .done _ _ _ => false
  | .abort _ _ _ | .votedlExpiry _ | .memberComplete _ | .mdone _ _ _ | .fabricPacketArrival _ _ | .remoteRequest _ _ => false
  | .remoteResend _ _ | .flitCrcError _ | .linkDown _ | .linkRetrainEnd _ _ | .linkdnDownClear _ | .collStart _ _ => false
  | .placementRequest _ _ _ _ | .placement _ _ _ _ | .contribution _ _ | .collAck _ _ _ | .abortNotice _ _ _ _ | .cabortCountRound _ _ => false
  | .releaseNotice _ _ _ | .sync _ _ _ | .followUp _ _ _ | .pdelayReq _ _ | .pdelayResp _ _ _ | .pdelayRespFollowUp _ _ => false
  | .syncInterval | .getVersion | .getCapabilities | .negotiateAlgorithms | .getDigests | .getCertificate => false
  | .getMeasurements | .keyExchange | .finish | .install _ _ _ | .revoke _ | .keySlotClear _ => false
  | .kbshareWrite _ _ | .poolRegionEnable _ _ | .dump _ | .drop _ | .prstatRead _ | .plcshareWrite _ _ => false
  | .ownershipGrant _ | .bisnp _ _ | .poolLinkLoss _ | .poolRetrySuccess _ | .poolRetryExpiry _ | .tlbinv _ _ => false
  | .tlbinvDone _ | .uncorrectableError _ _ _ | .correctableError _ _ | .freezeEnd _ | .coreFailure _ _ | .ckptStart _ _ => false
  | .ckptPageDrain _ _ _ | .ckptComplete _ _ | .bufbytesRead _ _ | .errleafRead _ _ | .errpkgRead _ | .hbmWindowAccess _ _ _ => false
  | .powerOn | .readyTimeout | .restart | .mprst | .mpHeartbeat | .pwrctlWrite _ _ => false
  | .pwrctlApply _ | .thwarn | .thermalTrip | .registerWrite _ _ _ | .l1Evict _ _ | .functionReset _ => false
  | .flashWriteWindow _ _ | .pdelayReqInterval _ => false
  | _ => true

end Sys2Proof
end

