-- ==== Sys2Proof/Decode.lean ====
section
/-! DEFINITION. Decoding: a syllable's 48 bits in the map of its slot's class (R104 to R120), a literal's code units
(R82, R88), a bundle's 384 bits (R102), each total and rejecting by name; then the encoder, from the same tables. -/

namespace Sys2Proof

/-- The six opcode maps (R114 to R119). -/
inductive SlotClass where
  | scalar | vector | memory | reduction | engine | branch
deriving DecidableEq, Repr

/-- The class of a slot (R102). -/
def Slot.cls : Slot → SlotClass
  | .s0 | .s1 => .scalar
  | .v0 | .v1 => .vector
  | .m => .memory
  | .q => .reduction
  | .e => .engine
  | .b => .branch

/-- The bit position of a slot's syllable in the bundle (R102). -/
def Slot.lo : Slot → Nat
  | .s0 => 336 | .s1 => 288 | .v0 => 240 | .v1 => 192 | .m => 144 | .q => 96 | .e => 48 | .b => 0

/-- Why a syllable does not decode; each is ILLINST (R110). -/
inductive DecodeError where
  /-- The opcode is unassigned in the class's map. -/
  | unassigned
  /-- A field marked 0, or one the instruction leaves unused, is nonzero. -/
  | reservedNonzero
  /-- A modifier code outside R108. -/
  | badCode
  /-- A value the instruction does not accept (Instr.wf). -/
  | illFormed
deriving DecidableEq, Repr

/-- Bits lo to lo + len - 1 of a syllable. -/
def fld (w lo len : Nat) : Nat := w / 2 ^ lo % 2 ^ len

/-- Every listed field of a syllable is zero. -/
def zeros (w : Nat) (l : List (Nat × Nat)) : Bool := l.all fun p => fld w p.1 p.2 == 0

/-- RM codes (R108). -/
def rmOfCode : Nat → Option Rm
  | 0 => some .fmode | 1 => some .rne | 2 => some .rz | 3 => some .rd | 4 => some .ru
  | _ => none

/-- The code of a rounding modifier. -/
def Rm.code : Rm → Nat
  | .fmode => 0 | .rne => 1 | .rz => 2 | .rd => 3 | .ru => 4

/-- SCOPE codes (R108). -/
def scopeOfCode : Nat → Option Scope
  | 0 => some .strand | 1 => some .core | 2 => some .cluster | 3 => some .leaf | 4 => some .chip | 5 => some .gang
  | 6 => some .pool | 7 => some .system
  | _ => none

/-- The code of a scope. -/
def Scope.code : Scope → Nat
  | .strand => 0 | .core => 1 | .cluster => 2 | .leaf => 3 | .chip => 4 | .gang => 5 | .pool => 6 | .system => 7

/-- DIR codes (R108). -/
def dirOfCode : Nat → Option Dir
  | 0 => some .north | 1 => some .east | 2 => some .south | 3 => some .west
  | _ => none

/-- The code of a direction. -/
def Dir.code : Dir → Nat
  | .north => 0 | .east => 1 | .south => 2 | .west => 3

/-- AT SIZE codes (R108): true for 64 bits. -/
def sizeOfCode : Nat → Option Bool
  | 0 => some false | 1 => some true
  | _ => none

/-- A one-bit field. -/
def bitOf (b : Bool) : Nat := if b then 1 else 0

/-- An optional code, or the named rejection. -/
def code {α : Type} (o : Option α) : Except DecodeError α :=
  match o with
  | some a => .ok a
  | none => .error .badCode

/-- Read format RRR with C zero (R106). -/
def Rrr.read (w : Nat) : Except DecodeError Rrr :=
  if !zeros w [(0, 14)] then .error .reservedNonzero else
  .ok { d := BitVec.ofNat 6 (w / 2 ^ 26), a := BitVec.ofNat 6 (w / 2 ^ 20), b := BitVec.ofNat 6 (w / 2 ^ 14) }

/-- Read format RRR with all four fields (R165). -/
def Rrrr.read (w : Nat) : Except DecodeError Rrrr :=
  if !zeros w [(0, 8)] then .error .reservedNonzero else
  .ok { d := BitVec.ofNat 6 (w / 2 ^ 26), a := BitVec.ofNat 6 (w / 2 ^ 20), b := BitVec.ofNat 6 (w / 2 ^ 14), c := BitVec.ofNat 6 (w / 2 ^ 8) }

/-- Read format RRR with B and C zero (R166). -/
def Rr.read (w : Nat) : Except DecodeError Rr :=
  if !zeros w [(0, 20)] then .error .reservedNonzero else
  .ok { d := BitVec.ofNat 6 (w / 2 ^ 26), a := BitVec.ofNat 6 (w / 2 ^ 20) }

/-- Read format RRI with AUX zero (R167). -/
def Rri.read (w : Nat) : Except DecodeError Rri :=
  if !zeros w [(16, 4)] then .error .reservedNonzero else
  .ok { d := BitVec.ofNat 6 (w / 2 ^ 26), a := BitVec.ofNat 6 (w / 2 ^ 20), imm := BitVec.ofNat 16 (w / 2 ^ 0) }

/-- Read format RRI of WIDF: AUX is the field index (R171). -/
def Widf.read (w : Nat) : Except DecodeError Widf :=
  if !zeros w [(0, 16), (20, 6)] then .error .reservedNonzero else
  .ok { d := BitVec.ofNat 6 (w / 2 ^ 26), n := BitVec.ofNat 4 (w / 2 ^ 16) }

/-- Read format RI24 (R168). -/
def Ri24.read (w : Nat) : Except DecodeError Ri24 :=
  .ok { d := BitVec.ofNat 6 (w / 2 ^ 26), sel := BitVec.ofNat 2 (w / 2 ^ 24), imm := BitVec.ofNat 24 (w / 2 ^ 0) }

/-- Read format VVV (R106). -/
def Vvv.read (w : Nat) : Except DecodeError Vvv :=
  match fmtOfCode (fld w 0 4) with
  | none => .error .badCode
  | some fmt =>
  .ok { vd := BitVec.ofNat 8 (w / 2 ^ 24), va := BitVec.ofNat 8 (w / 2 ^ 16), vb := BitVec.ofNat 8 (w / 2 ^ 8), k := BitVec.ofNat 4 (w / 2 ^ 4), fmt := fmt }

/-- Read format VVV with VB zero. -/
def Vv.read (w : Nat) : Except DecodeError Vv :=
  if !zeros w [(8, 8)] then .error .reservedNonzero else
  match fmtOfCode (fld w 0 4) with
  | none => .error .badCode
  | some fmt =>
  .ok { vd := BitVec.ofNat 8 (w / 2 ^ 24), va := BitVec.ofNat 8 (w / 2 ^ 16), k := BitVec.ofNat 4 (w / 2 ^ 4), fmt := fmt }

/-- Read format VVV of VTAG: VB and K zero (R208). -/
def Vt.read (w : Nat) : Except DecodeError Vt :=
  if !zeros w [(4, 12)] then .error .reservedNonzero else
  match fmtOfCode (fld w 0 4) with
  | none => .error .badCode
  | some fmt =>
  .ok { vd := BitVec.ofNat 8 (w / 2 ^ 24), va := BitVec.ofNat 8 (w / 2 ^ 16), fmt := fmt }

/-- Read format VVVV (R196). -/
def Vvvv.read (w : Nat) : Except DecodeError Vvvv :=
  .ok { vd := BitVec.ofNat 8 (w / 2 ^ 24), va := BitVec.ofNat 8 (w / 2 ^ 16), vb := BitVec.ofNat 8 (w / 2 ^ 8), vc := BitVec.ofNat 8 (w / 2 ^ 0) }

/-- Read format VVS (R106). -/
def Vvs.read (w : Nat) : Except DecodeError Vvs :=
  if !zeros w [(8, 2)] then .error .reservedNonzero else
  match fmtOfCode (fld w 0 4) with
  | none => .error .badCode
  | some fmt =>
  .ok { vd := BitVec.ofNat 8 (w / 2 ^ 24), va := BitVec.ofNat 8 (w / 2 ^ 16), sb := BitVec.ofNat 6 (w / 2 ^ 10), k := BitVec.ofNat 4 (w / 2 ^ 4), fmt := fmt }

/-- Read format VVS of VBCAST: VA zero (R206). -/
def Vbc.read (w : Nat) : Except DecodeError Vbc :=
  if !zeros w [(8, 2), (16, 8)] then .error .reservedNonzero else
  match fmtOfCode (fld w 0 4) with
  | none => .error .badCode
  | some fmt =>
  .ok { vd := BitVec.ofNat 8 (w / 2 ^ 24), sb := BitVec.ofNat 6 (w / 2 ^ 10), k := BitVec.ofNat 4 (w / 2 ^ 4), fmt := fmt }

/-- Read format VCV (R201). -/
def Vcv.read (w : Nat) : Except DecodeError Vcv :=
  if !zeros w [(12, 4)] then .error .reservedNonzero else
  match rmOfCode (fld w 9 3) with
  | none => .error .badCode
  | some rm =>
  match fmtOfCode (fld w 0 4) with
  | none => .error .badCode
  | some fmt =>
  .ok { vd := BitVec.ofNat 8 (w / 2 ^ 24), va := BitVec.ofNat 8 (w / 2 ^ 16), rm := rm, sat := fld w 8 1 == 1, k := BitVec.ofNat 4 (w / 2 ^ 4), fmt := fmt }

/-- Read format KVV (R197). -/
def Kvv.read (w : Nat) : Except DecodeError Kvv :=
  if !zeros w [(24, 4)] then .error .reservedNonzero else
  match fmtOfCode (fld w 0 4) with
  | none => .error .badCode
  | some fmt =>
  .ok { kd := BitVec.ofNat 4 (w / 2 ^ 28), va := BitVec.ofNat 8 (w / 2 ^ 16), vb := BitVec.ofNat 8 (w / 2 ^ 8), k := BitVec.ofNat 4 (w / 2 ^ 4), fmt := fmt }

/-- Read format KKK (R198). -/
def Kkk.read (w : Nat) : Except DecodeError Kkk :=
  if !zeros w [(0, 20)] then .error .reservedNonzero else
  .ok { kd := BitVec.ofNat 4 (w / 2 ^ 28), ka := BitVec.ofNat 4 (w / 2 ^ 24), kb := BitVec.ofNat 4 (w / 2 ^ 20) }

/-- Read format VI (R206). -/
def Vi.read (w : Nat) : Except DecodeError Vi :=
  if !zeros w [(20, 4)] then .error .reservedNonzero else
  match fmtOfCode (fld w 0 4) with
  | none => .error .badCode
  | some fmt =>
  .ok { vd := BitVec.ofNat 8 (w / 2 ^ 24), imm := BitVec.ofNat 16 (w / 2 ^ 4), fmt := fmt }

/-- Read format VSX (R207). -/
def Vsx.read (w : Nat) : Except DecodeError Vsx :=
  if !zeros w [(8, 2), (24, 2)] then .error .reservedNonzero else
  match fmtOfCode (fld w 0 4) with
  | none => .error .badCode
  | some fmt =>
  .ok { sd := BitVec.ofNat 6 (w / 2 ^ 26), va := BitVec.ofNat 8 (w / 2 ^ 16), sb := BitVec.ofNat 6 (w / 2 ^ 10), k := BitVec.ofNat 4 (w / 2 ^ 4), fmt := fmt }

/-- Read format VP (R209). -/
def Vp.read (w : Nat) : Except DecodeError Vp :=
  if !zeros w [(8, 10)] then .error .reservedNonzero else
  match fmtOfCode (fld w 0 4) with
  | none => .error .badCode
  | some fmt =>
  .ok { vd := BitVec.ofNat 8 (w / 2 ^ 24), sd := BitVec.ofNat 6 (w / 2 ^ 18), k := BitVec.ofNat 4 (w / 2 ^ 4), fmt := fmt }

/-- Read format RQ (R213). -/
def Rq.read (w : Nat) : Except DecodeError Rq :=
  if !zeros w [(4, 8), (16, 6)] then .error .reservedNonzero else
  match fmtOfCode (fld w 0 4) with
  | none => .error .badCode
  | some fmt =>
  .ok { va := BitVec.ofNat 8 (w / 2 ^ 24), ps := BitVec.ofNat 2 (w / 2 ^ 22), k := BitVec.ofNat 4 (w / 2 ^ 12), fmt := fmt }

/-- Read format RQ of QDRN (R214). -/
def Qd.read (w : Nat) : Except DecodeError Qd :=
  if !zeros w [(0, 16), (24, 8)] then .error .reservedNonzero else
  .ok { ps := BitVec.ofNat 2 (w / 2 ^ 22), sd := BitVec.ofNat 6 (w / 2 ^ 16) }

/-- Read format CBM (R244). -/
def Cbm.read (w : Nat) : Except DecodeError Cbm :=
  match fmtOfCode (fld w 0 4) with
  | none => .error .badCode
  | some fmt =>
  .ok { reg := BitVec.ofNat 8 (w / 2 ^ 24), cb := BitVec.ofNat 5 (w / 2 ^ 19), nm1 := BitVec.ofNat 3 (w / 2 ^ 16), k := BitVec.ofNat 4 (w / 2 ^ 12), off := BitVec.ofNat 8 (w / 2 ^ 4), fmt := fmt }

/-- Read format CBM of CBPUSH and CBPOP (R245). -/
def Cbn.read (w : Nat) : Except DecodeError Cbn :=
  if !zeros w [(0, 16), (24, 8)] then .error .reservedNonzero else
  .ok { cb := BitVec.ofNat 5 (w / 2 ^ 19), nm1 := BitVec.ofNat 3 (w / 2 ^ 16) }

/-- Read format GM with SCOPE zero (R246, R248). -/
def Gm.read (w : Nat) : Except DecodeError Gm :=
  if !zeros w [(15, 3)] then .error .reservedNonzero else
  match fmtOfCode (fld w 0 4) with
  | none => .error .badCode
  | some fmt =>
  .ok { reg := BitVec.ofNat 8 (w / 2 ^ 24), sa := BitVec.ofNat 6 (w / 2 ^ 18), k := BitVec.ofNat 4 (w / 2 ^ 11), disp := BitVec.ofNat 7 (w / 2 ^ 4), fmt := fmt }

/-- Read format GM of GLDACQ and GSTREL: K zero (R253). -/
def Gms.read (w : Nat) : Except DecodeError Gms :=
  if !zeros w [(11, 4)] then .error .reservedNonzero else
  match scopeOfCode (fld w 15 3) with
  | none => .error .badCode
  | some scope =>
  match fmtOfCode (fld w 0 4) with
  | none => .error .badCode
  | some fmt =>
  .ok { reg := BitVec.ofNat 8 (w / 2 ^ 24), sa := BitVec.ofNat 6 (w / 2 ^ 18), scope := scope, disp := BitVec.ofNat 7 (w / 2 ^ 4), fmt := fmt }

/-- Read format GM of GLDACQV and GSTRELV (R253). -/
def Gmv.read (w : Nat) : Except DecodeError Gmv :=
  match scopeOfCode (fld w 15 3) with
  | none => .error .badCode
  | some scope =>
  match fmtOfCode (fld w 0 4) with
  | none => .error .badCode
  | some fmt =>
  .ok { reg := BitVec.ofNat 8 (w / 2 ^ 24), sa := BitVec.ofNat 6 (w / 2 ^ 18), scope := scope, k := BitVec.ofNat 4 (w / 2 ^ 11), disp := BitVec.ofNat 7 (w / 2 ^ 4), fmt := fmt }

/-- Read format GM of PREF (R252). -/
def Pf.read (w : Nat) : Except DecodeError Pf :=
  if !zeros w [(0, 4), (11, 7), (24, 8)] then .error .reservedNonzero else
  .ok { sa := BitVec.ofNat 6 (w / 2 ^ 18), disp := BitVec.ofNat 7 (w / 2 ^ 4) }

/-- Read format XP (R255). -/
def Xp.read (w : Nat) : Except DecodeError Xp :=
  if !zeros w [(0, 16)] then .error .reservedNonzero else
  match dirOfCode (fld w 16 2) with
  | none => .error .badCode
  | some dir =>
  .ok { va := BitVec.ofNat 8 (w / 2 ^ 24), sa := BitVec.ofNat 6 (w / 2 ^ 18), dir := dir }

/-- Read format AT with C zero (R256). -/
def At.read (w : Nat) : Except DecodeError At :=
  if !zeros w [(0, 3), (8, 6)] then .error .reservedNonzero else
  match scopeOfCode (fld w 5 3) with
  | none => .error .badCode
  | some scope =>
  match sizeOfCode (fld w 3 2) with
  | none => .error .badCode
  | some wide =>
  .ok { d := BitVec.ofNat 6 (w / 2 ^ 26), a := BitVec.ofNat 6 (w / 2 ^ 20), b := BitVec.ofNat 6 (w / 2 ^ 14), scope := scope, wide := wide }

/-- Read format AT of ACAS (R256). -/
def Atc.read (w : Nat) : Except DecodeError Atc :=
  if !zeros w [(0, 3)] then .error .reservedNonzero else
  match scopeOfCode (fld w 5 3) with
  | none => .error .badCode
  | some scope =>
  match sizeOfCode (fld w 3 2) with
  | none => .error .badCode
  | some wide =>
  .ok { d := BitVec.ofNat 6 (w / 2 ^ 26), a := BitVec.ofNat 6 (w / 2 ^ 20), b := BitVec.ofNat 6 (w / 2 ^ 14), c := BitVec.ofNat 6 (w / 2 ^ 8), scope := scope, wide := wide }

/-- Read format SCR with S zero (R258, R260). -/
def Sc.read (w : Nat) : Except DecodeError Sc :=
  if !zeros w [(3, 29)] then .error .reservedNonzero else
  match scopeOfCode (fld w 0 3) with
  | none => .error .badCode
  | some scope =>
  .ok { scope := scope }

/-- Read format SCR (R261, R263). -/
def Scr.read (w : Nat) : Except DecodeError Scr :=
  if !zeros w [(3, 23)] then .error .reservedNonzero else
  match scopeOfCode (fld w 0 3) with
  | none => .error .badCode
  | some scope =>
  .ok { s := BitVec.ofNat 6 (w / 2 ^ 26), scope := scope }

/-- Read format SCR with SCOPE zero (R264, R265). -/
def Sr.read (w : Nat) : Except DecodeError Sr :=
  if !zeros w [(0, 26)] then .error .reservedNonzero else
  .ok { s := BitVec.ofNat 6 (w / 2 ^ 26) }

/-- Read format TW (R259). -/
def Tw.read (w : Nat) : Except DecodeError Tw :=
  if !zeros w [(0, 27)] then .error .reservedNonzero else
  .ok { tk := BitVec.ofNat 5 (w / 2 ^ 27) }

/-- Read format RRR with D zero (R266). -/
def Rmap.read (w : Nat) : Except DecodeError Rmap :=
  if !zeros w [(0, 8), (26, 6)] then .error .reservedNonzero else
  .ok { a := BitVec.ofNat 6 (w / 2 ^ 20), b := BitVec.ofNat 6 (w / 2 ^ 14), c := BitVec.ofNat 6 (w / 2 ^ 8) }

/-- Read format RRR with only A (R266). -/
def Ra.read (w : Nat) : Except DecodeError Ra :=
  if !zeros w [(0, 20), (26, 6)] then .error .reservedNonzero else
  .ok { a := BitVec.ofNat 6 (w / 2 ^ 20) }

/-- Read format ET (R312). -/
def Et.read (w : Nat) : Except DecodeError Et :=
  .ok { tp := BitVec.ofNat 5 (w / 2 ^ 27), ta := BitVec.ofNat 5 (w / 2 ^ 22), tb := BitVec.ofNat 5 (w / 2 ^ 17), tc := BitVec.ofNat 5 (w / 2 ^ 12), sa := BitVec.ofNat 6 (w / 2 ^ 6), mode := BitVec.ofNat 6 (w / 2 ^ 0) }

/-- Read format BR with SL zero (R174). -/
def Bd.read (w : Nat) : Except DecodeError Bd :=
  if !zeros w [(24, 8)] then .error .reservedNonzero else
  .ok { disp := BitVec.ofNat 24 (w / 2 ^ 0) }

/-- Read format BR with DISP zero (R174). -/
def Bs.read (w : Nat) : Except DecodeError Bs :=
  if !zeros w [(0, 26)] then .error .reservedNonzero else
  .ok { sl := BitVec.ofNat 6 (w / 2 ^ 26) }

/-- Read format BR of CALL (R176). -/
def Bsd.read (w : Nat) : Except DecodeError Bsd :=
  if !zeros w [(24, 2)] then .error .reservedNonzero else
  .ok { sl := BitVec.ofNat 6 (w / 2 ^ 26), disp := BitVec.ofNat 24 (w / 2 ^ 0) }

/-- Read format LP of LOOP: NSTG zero (R177). -/
def Lp.read (w : Nat) : Except DecodeError Lp :=
  if !zeros w [(16, 9)] then .error .reservedNonzero else
  .ok { sc := BitVec.ofNat 6 (w / 2 ^ 26), lvl := fld w 25 1 == 1, len := BitVec.ofNat 16 (w / 2 ^ 0) }

/-- Read format LP of MLOOP (R182). -/
def Mlp.read (w : Nat) : Except DecodeError Mlp :=
  if !zeros w [(21, 4)] then .error .reservedNonzero else
  .ok { sc := BitVec.ofNat 6 (w / 2 ^ 26), lvl := fld w 25 1 == 1, nstg := BitVec.ofNat 5 (w / 2 ^ 16), len := BitVec.ofNat 16 (w / 2 ^ 0) }

/-- Read format SYS with only IMM12 (R184, R413). -/
def Im.read (w : Nat) : Except DecodeError Im :=
  if !zeros w [(12, 20)] then .error .reservedNonzero else
  .ok { imm := BitVec.ofNat 12 (w / 2 ^ 0) }

/-- Read format SYS of MFS (R172). -/
def Mfs.read (w : Nat) : Except DecodeError Mfs :=
  if !zeros w [(0, 12), (20, 6)] then .error .reservedNonzero else
  .ok { sd := BitVec.ofNat 6 (w / 2 ^ 26), cr := BitVec.ofNat 8 (w / 2 ^ 12) }

/-- Read format SYS of MTS (R172). -/
def Mts.read (w : Nat) : Except DecodeError Mts :=
  if !zeros w [(0, 12), (26, 6)] then .error .reservedNonzero else
  .ok { sa := BitVec.ofNat 6 (w / 2 ^ 20), cr := BitVec.ofNat 8 (w / 2 ^ 12) }

/-- Read format SYS of STQRD (R432). -/
def Sd.read (w : Nat) : Except DecodeError Sd :=
  if !zeros w [(0, 26)] then .error .reservedNonzero else
  .ok { sd := BitVec.ofNat 6 (w / 2 ^ 26) }

/-- Read format SYS of DICTCHK: SD names a predicate (R428). -/
def Dck.read (w : Nat) : Except DecodeError Dck :=
  if !zeros w [(12, 8)] then .error .reservedNonzero else
  .ok { pd := BitVec.ofNat 6 (w / 2 ^ 26), sa := BitVec.ofNat 6 (w / 2 ^ 20), bank := BitVec.ofNat 12 (w / 2 ^ 0) }

/-- Read format SYS of DICTLD (R429). -/
def Dld.read (w : Nat) : Except DecodeError Dld :=
  if !zeros w [(12, 8), (26, 6)] then .error .reservedNonzero else
  .ok { sa := BitVec.ofNat 6 (w / 2 ^ 20), bank := BitVec.ofNat 12 (w / 2 ^ 0) }

/-- Read format SYS of SIGNAL: SD is read (R431). -/
def Sig.read (w : Nat) : Except DecodeError Sig :=
  if !zeros w [(0, 20)] then .error .reservedNonzero else
  .ok { sd := BitVec.ofNat 6 (w / 2 ^ 26), sa := BitVec.ofNat 6 (w / 2 ^ 20) }

/-- Operand bits all zero: format N. -/
def readN (w : Nat) (i : Instr) : Except DecodeError Instr :=
  if fld w 0 32 == 0 then .ok i else .error .reservedNonzero

/-- The scalar map (R114). -/
def scalarMap (opc w : Nat) : Except DecodeError Instr :=
  match opc with
  | 0 => readN w .nop
  | 1 => (Rrr.read w).map .add
  | 2 => (Rrr.read w).map .sub
  | 3 => (Rrr.read w).map .mul
  | 4 => (Rrr.read w).map .mulh
  | 5 => (Rrr.read w).map .mulhu
  | 6 => (Rrr.read w).map .div
  | 7 => (Rrr.read w).map .divu
  | 8 => (Rrr.read w).map .rem
  | 9 => (Rrr.read w).map .remu
  | 10 => (Rrr.read w).map .andS
  | 11 => (Rrr.read w).map .orS
  | 12 => (Rrr.read w).map .xorS
  | 13 => (Rrr.read w).map .andn
  | 14 => (Rrr.read w).map .shl
  | 15 => (Rrr.read w).map .shr
  | 16 => (Rrr.read w).map .sar
  | 17 => (Rrr.read w).map .rol
  | 18 => (Rrr.read w).map .min
  | 19 => (Rrr.read w).map .max
  | 20 => (Rrr.read w).map .minu
  | 21 => (Rrr.read w).map .maxu
  | 22 => (Rrrr.read w).map .sel
  | 23 => (Rrrr.read w).map .shadd
  | 32 => (Rr.read w).map .clz
  | 33 => (Rr.read w).map .ctz
  | 34 => (Rr.read w).map .popc
  | 35 => (Rr.read w).map .brev
  | 36 => (Rr.read w).map .bswap
  | 48 => (Rri.read w).map .addi
  | 49 => (Rri.read w).map .muli
  | 50 => (Rri.read w).map .andi
  | 51 => (Rri.read w).map .ori
  | 52 => (Rri.read w).map .xori
  | 53 => (Rri.read w).map .shli
  | 54 => (Rri.read w).map .shri
  | 55 => (Rri.read w).map .sari
  | 56 => (Widf.read w).map .widf
  | 64 => (Rrr.read w).map .cmpeq
  | 65 => (Rrr.read w).map .cmpne
  | 66 => (Rrr.read w).map .cmplt
  | 67 => (Rrr.read w).map .cmpltu
  | 68 => (Rrr.read w).map .cmple
  | 69 => (Rrr.read w).map .cmpleu
  | 70 => (Rri.read w).map .cmpeqi
  | 71 => (Rri.read w).map .cmpnei
  | 72 => (Rri.read w).map .cmplti
  | 73 => (Rri.read w).map .cmpgei
  | 80 => (Rrr.read w).map .pand
  | 81 => (Rrr.read w).map .por
  | 82 => (Rrr.read w).map .pxor
  | 83 => (Rrr.read w).map .pandn
  | 96 => (Ri24.read w).map .movi
  | 97 => (Ri24.read w).map .movk
  | _ => .error .unassigned

/-- The vector map (R115). -/
def vectorMap (opc w : Nat) : Except DecodeError Instr :=
  match opc with
  | 0 => readN w .nop
  | 1 => (Vvv.read w).map .vadd
  | 2 => (Vvv.read w).map .vsub
  | 3 => (Vvv.read w).map .vmul
  | 4 => (Vvv.read w).map .vmin
  | 5 => (Vvv.read w).map .vmax
  | 6 => (Vvv.read w).map .vadds
  | 7 => (Vvv.read w).map .vsubs
  | 8 => (Vvv.read w).map .vmulh
  | 9 => (Vvv.read w).map .vdot4
  | 10 => (Vv.read w).map .vabs
  | 11 => (Vv.read w).map .vneg
  | 16 => (Vvvv.read w).map .fmaFp32
  | 17 => (Vvvv.read w).map .fmaBf16
  | 18 => (Vvvv.read w).map .fmaFp16
  | 19 => (Vvvv.read w).map .fmsFp32
  | 20 => (Vvvv.read w).map .fmsBf16
  | 21 => (Vvvv.read w).map .fmsFp16
  | 22 => (Vvvv.read w).map .fnmaFp32
  | 23 => (Vvvv.read w).map .fnmaBf16
  | 24 => (Vvvv.read w).map .fnmaFp16
  | 32 => (Kvv.read w).map .vcmpeq
  | 33 => (Kvv.read w).map .vcmpne
  | 34 => (Kvv.read w).map .vcmplt
  | 35 => (Kvv.read w).map .vcmple
  | 36 => (Kkk.read w).map .kand
  | 37 => (Kkk.read w).map .kor
  | 38 => (Kkk.read w).map .kxor
  | 39 => (Kkk.read w).map .kandn
  | 48 => (Vvv.read w).map .vand
  | 49 => (Vvv.read w).map .vor
  | 50 => (Vvv.read w).map .vxor
  | 51 => (Vvv.read w).map .vandn
  | 52 => (Vv.read w).map .vnot
  | 64 => (Vvv.read w).map .vshl
  | 65 => (Vvv.read w).map .vshr
  | 66 => (Vvv.read w).map .vsar
  | 67 => (Vvs.read w).map .vshls
  | 68 => (Vvs.read w).map .vshrs
  | 69 => (Vvs.read w).map .vsars
  | 80 => (Vcv.read w).map .vcvt
  | 81 => (Vcv.read w).map .vcvtw
  | 82 => (Vcv.read w).map .vcvtn
  | 96 => (Vvv.read w).map .vperm
  | 97 => (Vvs.read w).map .vslideup
  | 98 => (Vvs.read w).map .vslidedn
  | 99 => (Vbc.read w).map .vbcast
  | 100 => (Vv.read w).map .vmov
  | 101 => (Vvv.read w).map .vsel
  | 102 => (Vsx.read w).map .vmvs
  | 103 => (Vi.read w).map .vsplati
  | 104 => (Vp.read w).map .vsplitVpart
  | 112 => (Vv.read w).map .vexp2
  | 113 => (Vv.read w).map .vlog2
  | 114 => (Vv.read w).map .vrecip
  | 115 => (Vv.read w).map .vrsqrt
  | 116 => (Vv.read w).map .vtanh
  | 117 => (Vv.read w).map .vsilu
  | 128 => (Vt.read w).map .vtag
  | _ => .error .unassigned

/-- The memory map (R116). -/
def memoryMap (opc w : Nat) : Except DecodeError Instr :=
  match opc with
  | 0 => readN w .nop
  | 1 => (Cbm.read w).map .ldl
  | 2 => (Cbm.read w).map .stl
  | 3 => (Cbm.read w).map .ldls
  | 4 => (Cbm.read w).map .stls
  | 5 => (Cbn.read w).map .cbpush
  | 6 => (Cbn.read w).map .cbpop
  | 7 => (Gm.read w).map .lld
  | 8 => (Gm.read w).map .lst
  | 9 => (Vvs.read w).map .lsgath
  | 10 => (Vvs.read w).map .lsscat
  | 16 => (Gm.read w).map .gld
  | 17 => (Gm.read w).map .glds
  | 18 => (Gm.read w).map .gst
  | 19 => (Gm.read w).map .gsts
  | 20 => (Gms.read w).map .gldacq
  | 21 => (Gms.read w).map .gstrel
  | 22 => (Gmv.read w).map .gldacqv
  | 23 => (Gmv.read w).map .gstrelv
  | 24 => (Pf.read w).map .pref
  | 25 => (Gm.read w).map .ldlu
  | 32 => (Xp.read w).map .xput
  | 48 => (At.read w).map .aadd
  | 49 => (At.read w).map .amin
  | 50 => (At.read w).map .amax
  | 51 => (At.read w).map .aand
  | 52 => (At.read w).map .aor
  | 53 => (At.read w).map .axor
  | 54 => (At.read w).map .aswap
  | 55 => (Atc.read w).map .acas
  | 64 => (Sc.read w).map .fence
  | 65 => (Sc.read w).map .drain
  | 66 => (Tw.read w).map .twait
  | 67 => (Scr.read w).map .sev
  | 68 => readN w .wfe
  | 69 => (Scr.read w).map .bar
  | 70 => (Sr.read w).map .waitt
  | 71 => (Sr.read w).map .rdnow
  | 72 => (Rmap.read w).map .rmap
  | 73 => (Ra.read w).map .runmap
  | 74 => (Ra.read w).map .rflush
  | _ => .error .unassigned

/-- The reduction map (R117). -/
def reductionMap (opc w : Nat) : Except DecodeError Instr :=
  match opc with
  | 0 => readN w .nop
  | 1 => (Rq.read w).map .qacc
  | 2 => (Rq.read w).map .qadd
  | 3 => (Rq.read w).map .qmax
  | 5 => (Rq.read w).map .qmin
  | 4 => (Qd.read w).map .qdrn
  | _ => .error .unassigned

/-- The engine map (R118). -/
def engineMap (opc w : Nat) : Except DecodeError Instr :=
  match opc with
  | 0 => readN w .nop
  | 1 => (Et.read w).map .lsta
  | 2 => (Et.read w).map .lswap
  | 3 => (Et.read w).map .lmm
  | 4 => (Et.read w).map .lmms
  | 5 => (Et.read w).map .lzero
  | 6 => (Et.read w).map .lepi
  | 16 => (Et.read w).map .tcfg
  | 17 => (Et.read w).map .tcfgd
  | 18 => (Et.read w).map .tgo
  | 19 => (Et.read w).map .tstat
  | 32 => (Et.read w).map .hcpy
  | 33 => (Et.read w).map .hstr
  | 34 => (Et.read w).map .htrn
  | 35 => (Et.read w).map .hgath
  | 36 => (Et.read w).map .hfill
  | 37 => (Et.read w).map .hscat
  | 48 => (Et.read w).map .kset
  | 49 => (Et.read w).map .kget
  | 50 => (Et.read w).map .spld
  | 51 => (Et.read w).map .spswap
  | 52 => (Et.read w).map .spev
  | 53 => (Et.read w).map .spdx
  | 54 => (Et.read w).map .spgr
  | 55 => (Et.read w).map .spref
  | 64 => (Et.read w).map .coll
  | 65 => (Et.read w).map .cwait
  | 66 => (Et.read w).map .ctest
  | 67 => (Et.read w).map .cabort
  | _ => .error .unassigned

/-- The branch map (R119). -/
def branchMap (opc w : Nat) : Except DecodeError Instr :=
  match opc with
  | 0 => readN w .nop
  | 1 => (Bd.read w).map .br
  | 2 => (Bs.read w).map .bri
  | 3 => (Bsd.read w).map .call
  | 4 => (Bs.read w).map .ret
  | 5 => (Bd.read w).map .banksw
  | 16 => (Lp.read w).map .loop
  | 17 => (Mlp.read w).map .mloop
  | 32 => (Im.read w).map .safe
  | 33 => readN w .tend
  | 34 => readN w .yield
  | 35 => (Im.read w).map .trap
  | 36 => readN w .eret
  | 37 => (Mfs.read w).map .mfs
  | 38 => (Mts.read w).map .mts
  | 39 => (Sd.read w).map .stqrd
  | 40 => readN w .ifence
  | 41 => (Dck.read w).map .dictchk
  | 42 => (Dld.read w).map .dictld
  | 43 => (Sig.read w).map .signal
  | _ => .error .unassigned

/-- The instruction of a syllable in a class, before the checks of Instr.wf. -/
def readInstr (c : SlotClass) (w : Nat) : Except DecodeError Instr :=
  match c with
  | .scalar => scalarMap (fld w 32 9) w
  | .vector => vectorMap (fld w 32 9) w
  | .memory => memoryMap (fld w 32 9) w
  | .reduction => reductionMap (fld w 32 9) w
  | .engine => engineMap (fld w 32 9) w
  | .branch => branchMap (fld w 32 9) w

/-- A syllable's 48 bits in a slot class (R104, R110). -/
def decodeSyllable (c : SlotClass) (s : Syl48) : Except DecodeError Syllable :=
  match readInstr c s.toNat with
  | .error e => .error e
  | .ok i => if i.wf then .ok { pred := BitVec.ofNat 6 (s.toNat / 2 ^ 42), sense := fld s.toNat 41 1 == 1, instr := i }
             else .error .illFormed

/-- The syllable of a slot as fetched (R102). -/
def rawSyllable (b : Bundle384) (s : Slot) : Syl48 := b.extractLsb' s.lo 48

/-- The slots in slot order (R102). -/
def allSlots : List Slot := [.s0, .s1, .v0, .v1, .m, .q, .e, .b]

/-- The first slot in slot order whose syllable does not decode (R113). -/
def illegalSlot (b : Bundle384) : Option Slot :=
  allSlots.find? fun s => match decodeSyllable s.cls (rawSyllable b s) with
    | .ok _ => false
    | .error _ => true

/-- A slot's syllable, NOP where it does not decode. -/
def slotSyllable (b : Bundle384) (s : Slot) : Syllable :=
  match decodeSyllable s.cls (rawSyllable b s) with
  | .ok y => y
  | .error _ => .nop

/-- A bundle's eight syllables, or the first slot whose syllable is illegal (R110, R113). -/
def decodeBundle (b : Bundle384) : Except Slot Bundle :=
  match illegalSlot b with
  | some s => .error s
  | none => .ok { s0 := slotSyllable b .s0, s1 := slotSyllable b .s1, v0 := slotSyllable b .v0, v1 := slotSyllable b .v1,
                  m := slotSyllable b .m, q := slotSyllable b .q, e := slotSyllable b .e, b := slotSyllable b .b }

/-! Code units (R82, R88). -/

/-- What the code units at a bundle's start say. -/
inductive UnitRead where
  /-- A dictionary index (R82). -/
  | dict (i : Nat)
  /-- A literal: its bundle, the code units it spans with its escape, and whether it ends its run (R88). -/
  | literal (b : Bundle384) (len : Nat) (stop : Bool)
  /-- ILLCODE (R101). -/
  | illegal
deriving DecidableEq, Repr

/-- One syllable from the units that follow: three, low half first (R88). -/
def sylOfUnits (u : List CodeUnit) : Syl48 :=
  (u.getD 2 0) ++ (u.getD 1 0) ++ (u.getD 0 0)

/-- The present syllables of a template taken in slot order, S0 first (R88): bit 7 of PRES is S0. -/
def literalSyllables : List (Nat × Nat) → BitVec 8 → List CodeUnit → Nat
  | [], _, _ => 0
  | (bit, lo) :: rest, pres, u =>
    if pres.getLsbD bit then (sylOfUnits u).toNat * 2 ^ lo + literalSyllables rest pres (u.drop 3)
    else literalSyllables rest pres u

/-- PRES bits with the bundle position of the slot they name (R88, R102). -/
def presSlots : List (Nat × Nat) :=
  [(7, 336), (6, 288), (5, 240), (4, 192), (3, 144), (2, 96), (1, 48), (0, 0)]

/-- Bits set in PRES. -/
def presCount (p : BitVec 8) : Nat := (List.range 8).foldl (fun n i => n + bitOf (p.getLsbD i)) 0

/-- A template and its syllables; extra is 1 when an escape opens the run (R88). -/
def readTemplate (extra : Nat) (u : List CodeUnit) : UnitRead :=
  let t := u.getD 0 0
  if (t.extractLsb' 8 7) != 0 then .illegal else
    let pres := t.extractLsb' 0 8
    .literal (BitVec.ofNat 384 (literalSyllables presSlots pres (u.drop 1))) (extra + 1 + 3 * presCount pres) (t.getLsbD 15)

/-- The units at a bundle's start: inside a run the first is a template (R89); elsewhere R82 decides, and in supervisor
state a dictionary index is illegal (R407). -/
def readUnits (inRun super : Bool) (u : List CodeUnit) : UnitRead :=
  if inRun then readTemplate 0 u else
    let first := (u.getD 0 0).toNat
    if first < 0x400 then (if super then .illegal else .dict first)
    else if first == 0xFFFF then readTemplate 1 (u.drop 1)
    else .illegal

/-- Code units a bundle spans, from its first two units: what fetch must be able to read (R88, R90). -/
def unitSpan (inRun : Bool) (u0 u1 : CodeUnit) : Nat :=
  if inRun then 1 + 3 * presCount (u0.extractLsb' 0 8)
  else if u0.toNat == 0xFFFF then 2 + 3 * presCount (u1.extractLsb' 0 8)
  else 1

/-! The encoder. -/

/-- The operand word of format RRR with C zero (R106). -/
def Rrr.word (o : Rrr) : Nat :=
  o.d.toNat * 2 ^ 26 + o.a.toNat * 2 ^ 20 + o.b.toNat * 2 ^ 14

/-- The operand word of format RRR with all four fields (R165). -/
def Rrrr.word (o : Rrrr) : Nat :=
  o.d.toNat * 2 ^ 26 + o.a.toNat * 2 ^ 20 + o.b.toNat * 2 ^ 14 + o.c.toNat * 2 ^ 8

/-- The operand word of format RRR with B and C zero (R166). -/
def Rr.word (o : Rr) : Nat :=
  o.d.toNat * 2 ^ 26 + o.a.toNat * 2 ^ 20

/-- The operand word of format RRI with AUX zero (R167). -/
def Rri.word (o : Rri) : Nat :=
  o.d.toNat * 2 ^ 26 + o.a.toNat * 2 ^ 20 + o.imm.toNat

/-- The operand word of format RRI of WIDF: AUX is the field index (R171). -/
def Widf.word (o : Widf) : Nat :=
  o.d.toNat * 2 ^ 26 + o.n.toNat * 2 ^ 16

/-- The operand word of format RI24 (R168). -/
def Ri24.word (o : Ri24) : Nat :=
  o.d.toNat * 2 ^ 26 + o.sel.toNat * 2 ^ 24 + o.imm.toNat

/-- The operand word of format VVV (R106). -/
def Vvv.word (o : Vvv) : Nat :=
  o.vd.toNat * 2 ^ 24 + o.va.toNat * 2 ^ 16 + o.vb.toNat * 2 ^ 8 + o.k.toNat * 2 ^ 4 + o.fmt.code

/-- The operand word of format VVV with VB zero. -/
def Vv.word (o : Vv) : Nat :=
  o.vd.toNat * 2 ^ 24 + o.va.toNat * 2 ^ 16 + o.k.toNat * 2 ^ 4 + o.fmt.code

/-- The operand word of format VVV of VTAG: VB and K zero (R208). -/
def Vt.word (o : Vt) : Nat :=
  o.vd.toNat * 2 ^ 24 + o.va.toNat * 2 ^ 16 + o.fmt.code

/-- The operand word of format VVVV (R196). -/
def Vvvv.word (o : Vvvv) : Nat :=
  o.vd.toNat * 2 ^ 24 + o.va.toNat * 2 ^ 16 + o.vb.toNat * 2 ^ 8 + o.vc.toNat

/-- The operand word of format VVS (R106). -/
def Vvs.word (o : Vvs) : Nat :=
  o.vd.toNat * 2 ^ 24 + o.va.toNat * 2 ^ 16 + o.sb.toNat * 2 ^ 10 + o.k.toNat * 2 ^ 4 + o.fmt.code

/-- The operand word of format VVS of VBCAST: VA zero (R206). -/
def Vbc.word (o : Vbc) : Nat :=
  o.vd.toNat * 2 ^ 24 + o.sb.toNat * 2 ^ 10 + o.k.toNat * 2 ^ 4 + o.fmt.code

/-- The operand word of format VCV (R201). -/
def Vcv.word (o : Vcv) : Nat :=
  o.vd.toNat * 2 ^ 24 + o.va.toNat * 2 ^ 16 + o.rm.code * 2 ^ 9 + bitOf o.sat * 2 ^ 8 + o.k.toNat * 2 ^ 4 + o.fmt.code

/-- The operand word of format KVV (R197). -/
def Kvv.word (o : Kvv) : Nat :=
  o.kd.toNat * 2 ^ 28 + o.va.toNat * 2 ^ 16 + o.vb.toNat * 2 ^ 8 + o.k.toNat * 2 ^ 4 + o.fmt.code

/-- The operand word of format KKK (R198). -/
def Kkk.word (o : Kkk) : Nat :=
  o.kd.toNat * 2 ^ 28 + o.ka.toNat * 2 ^ 24 + o.kb.toNat * 2 ^ 20

/-- The operand word of format VI (R206). -/
def Vi.word (o : Vi) : Nat :=
  o.vd.toNat * 2 ^ 24 + o.imm.toNat * 2 ^ 4 + o.fmt.code

/-- The operand word of format VSX (R207). -/
def Vsx.word (o : Vsx) : Nat :=
  o.sd.toNat * 2 ^ 26 + o.va.toNat * 2 ^ 16 + o.sb.toNat * 2 ^ 10 + o.k.toNat * 2 ^ 4 + o.fmt.code

/-- The operand word of format VP (R209). -/
def Vp.word (o : Vp) : Nat :=
  o.vd.toNat * 2 ^ 24 + o.sd.toNat * 2 ^ 18 + o.k.toNat * 2 ^ 4 + o.fmt.code

/-- The operand word of format RQ (R213). -/
def Rq.word (o : Rq) : Nat :=
  o.va.toNat * 2 ^ 24 + o.ps.toNat * 2 ^ 22 + o.k.toNat * 2 ^ 12 + o.fmt.code

/-- The operand word of format RQ of QDRN (R214). -/
def Qd.word (o : Qd) : Nat :=
  o.ps.toNat * 2 ^ 22 + o.sd.toNat * 2 ^ 16

/-- The operand word of format CBM (R244). -/
def Cbm.word (o : Cbm) : Nat :=
  o.reg.toNat * 2 ^ 24 + o.cb.toNat * 2 ^ 19 + o.nm1.toNat * 2 ^ 16 + o.k.toNat * 2 ^ 12 + o.off.toNat * 2 ^ 4 + o.fmt.code

/-- The operand word of format CBM of CBPUSH and CBPOP (R245). -/
def Cbn.word (o : Cbn) : Nat :=
  o.cb.toNat * 2 ^ 19 + o.nm1.toNat * 2 ^ 16

/-- The operand word of format GM with SCOPE zero (R246, R248). -/
def Gm.word (o : Gm) : Nat :=
  o.reg.toNat * 2 ^ 24 + o.sa.toNat * 2 ^ 18 + o.k.toNat * 2 ^ 11 + o.disp.toNat * 2 ^ 4 + o.fmt.code

/-- The operand word of format GM of GLDACQ and GSTREL: K zero (R253). -/
def Gms.word (o : Gms) : Nat :=
  o.reg.toNat * 2 ^ 24 + o.sa.toNat * 2 ^ 18 + o.scope.code * 2 ^ 15 + o.disp.toNat * 2 ^ 4 + o.fmt.code

/-- The operand word of format GM of GLDACQV and GSTRELV (R253). -/
def Gmv.word (o : Gmv) : Nat :=
  o.reg.toNat * 2 ^ 24 + o.sa.toNat * 2 ^ 18 + o.scope.code * 2 ^ 15 + o.k.toNat * 2 ^ 11 + o.disp.toNat * 2 ^ 4 + o.fmt.code

/-- The operand word of format GM of PREF (R252). -/
def Pf.word (o : Pf) : Nat :=
  o.sa.toNat * 2 ^ 18 + o.disp.toNat * 2 ^ 4

/-- The operand word of format XP (R255). -/
def Xp.word (o : Xp) : Nat :=
  o.va.toNat * 2 ^ 24 + o.sa.toNat * 2 ^ 18 + o.dir.code * 2 ^ 16

/-- The operand word of format AT with C zero (R256). -/
def At.word (o : At) : Nat :=
  o.d.toNat * 2 ^ 26 + o.a.toNat * 2 ^ 20 + o.b.toNat * 2 ^ 14 + o.scope.code * 2 ^ 5 + bitOf o.wide * 2 ^ 3

/-- The operand word of format AT of ACAS (R256). -/
def Atc.word (o : Atc) : Nat :=
  o.d.toNat * 2 ^ 26 + o.a.toNat * 2 ^ 20 + o.b.toNat * 2 ^ 14 + o.c.toNat * 2 ^ 8 + o.scope.code * 2 ^ 5 + bitOf o.wide * 2 ^ 3

/-- The operand word of format SCR with S zero (R258, R260). -/
def Sc.word (o : Sc) : Nat :=
  o.scope.code

/-- The operand word of format SCR (R261, R263). -/
def Scr.word (o : Scr) : Nat :=
  o.s.toNat * 2 ^ 26 + o.scope.code

/-- The operand word of format SCR with SCOPE zero (R264, R265). -/
def Sr.word (o : Sr) : Nat :=
  o.s.toNat * 2 ^ 26

/-- The operand word of format TW (R259). -/
def Tw.word (o : Tw) : Nat :=
  o.tk.toNat * 2 ^ 27

/-- The operand word of format RRR with D zero (R266). -/
def Rmap.word (o : Rmap) : Nat :=
  o.a.toNat * 2 ^ 20 + o.b.toNat * 2 ^ 14 + o.c.toNat * 2 ^ 8

/-- The operand word of format RRR with only A (R266). -/
def Ra.word (o : Ra) : Nat :=
  o.a.toNat * 2 ^ 20

/-- The operand word of format ET (R312). -/
def Et.word (o : Et) : Nat :=
  o.tp.toNat * 2 ^ 27 + o.ta.toNat * 2 ^ 22 + o.tb.toNat * 2 ^ 17 + o.tc.toNat * 2 ^ 12 + o.sa.toNat * 2 ^ 6 + o.mode.toNat

/-- The operand word of format BR with SL zero (R174). -/
def Bd.word (o : Bd) : Nat :=
  o.disp.toNat

/-- The operand word of format BR with DISP zero (R174). -/
def Bs.word (o : Bs) : Nat :=
  o.sl.toNat * 2 ^ 26

/-- The operand word of format BR of CALL (R176). -/
def Bsd.word (o : Bsd) : Nat :=
  o.sl.toNat * 2 ^ 26 + o.disp.toNat

/-- The operand word of format LP of LOOP: NSTG zero (R177). -/
def Lp.word (o : Lp) : Nat :=
  o.sc.toNat * 2 ^ 26 + bitOf o.lvl * 2 ^ 25 + o.len.toNat

/-- The operand word of format LP of MLOOP (R182). -/
def Mlp.word (o : Mlp) : Nat :=
  o.sc.toNat * 2 ^ 26 + bitOf o.lvl * 2 ^ 25 + o.nstg.toNat * 2 ^ 16 + o.len.toNat

/-- The operand word of format SYS with only IMM12 (R184, R413). -/
def Im.word (o : Im) : Nat :=
  o.imm.toNat

/-- The operand word of format SYS of MFS (R172). -/
def Mfs.word (o : Mfs) : Nat :=
  o.sd.toNat * 2 ^ 26 + o.cr.toNat * 2 ^ 12

/-- The operand word of format SYS of MTS (R172). -/
def Mts.word (o : Mts) : Nat :=
  o.sa.toNat * 2 ^ 20 + o.cr.toNat * 2 ^ 12

/-- The operand word of format SYS of STQRD (R432). -/
def Sd.word (o : Sd) : Nat :=
  o.sd.toNat * 2 ^ 26

/-- The operand word of format SYS of DICTCHK: SD names a predicate (R428). -/
def Dck.word (o : Dck) : Nat :=
  o.pd.toNat * 2 ^ 26 + o.sa.toNat * 2 ^ 20 + o.bank.toNat

/-- The operand word of format SYS of DICTLD (R429). -/
def Dld.word (o : Dld) : Nat :=
  o.sa.toNat * 2 ^ 20 + o.bank.toNat

/-- The operand word of format SYS of SIGNAL: SD is read (R431). -/
def Sig.word (o : Sig) : Nat :=
  o.sd.toNat * 2 ^ 26 + o.sa.toNat * 2 ^ 20

/-- The class, opcode and operand word of an instruction (R114 to R119); none for an event. -/
def Instr.code : Instr → Option (SlotClass × Nat × Nat)
  | .nop => some (.scalar, 0, 0)
  | .add o => some (.scalar, 1, o.word)
  | .sub o => some (.scalar, 2, o.word)
  | .mul o => some (.scalar, 3, o.word)
  | .mulh o => some (.scalar, 4, o.word)
  | .mulhu o => some (.scalar, 5, o.word)
  | .div o => some (.scalar, 6, o.word)
  | .divu o => some (.scalar, 7, o.word)
  | .rem o => some (.scalar, 8, o.word)
  | .remu o => some (.scalar, 9, o.word)
  | .andS o => some (.scalar, 10, o.word)
  | .orS o => some (.scalar, 11, o.word)
  | .xorS o => some (.scalar, 12, o.word)
  | .andn o => some (.scalar, 13, o.word)
  | .shl o => some (.scalar, 14, o.word)
  | .shr o => some (.scalar, 15, o.word)
  | .sar o => some (.scalar, 16, o.word)
  | .rol o => some (.scalar, 17, o.word)
  | .min o => some (.scalar, 18, o.word)
  | .max o => some (.scalar, 19, o.word)
  | .minu o => some (.scalar, 20, o.word)
  | .maxu o => some (.scalar, 21, o.word)
  | .sel o => some (.scalar, 22, o.word)
  | .shadd o => some (.scalar, 23, o.word)
  | .clz o => some (.scalar, 32, o.word)
  | .ctz o => some (.scalar, 33, o.word)
  | .popc o => some (.scalar, 34, o.word)
  | .brev o => some (.scalar, 35, o.word)
  | .bswap o => some (.scalar, 36, o.word)
  | .addi o => some (.scalar, 48, o.word)
  | .muli o => some (.scalar, 49, o.word)
  | .andi o => some (.scalar, 50, o.word)
  | .ori o => some (.scalar, 51, o.word)
  | .xori o => some (.scalar, 52, o.word)
  | .shli o => some (.scalar, 53, o.word)
  | .shri o => some (.scalar, 54, o.word)
  | .sari o => some (.scalar, 55, o.word)
  | .widf o => some (.scalar, 56, o.word)
  | .cmpeq o => some (.scalar, 64, o.word)
  | .cmpne o => some (.scalar, 65, o.word)
  | .cmplt o => some (.scalar, 66, o.word)
  | .cmpltu o => some (.scalar, 67, o.word)
  | .cmple o => some (.scalar, 68, o.word)
  | .cmpleu o => some (.scalar, 69, o.word)
  | .cmpeqi o => some (.scalar, 70, o.word)
  | .cmpnei o => some (.scalar, 71, o.word)
  | .cmplti o => some (.scalar, 72, o.word)
  | .cmpgei o => some (.scalar, 73, o.word)
  | .pand o => some (.scalar, 80, o.word)
  | .por o => some (.scalar, 81, o.word)
  | .pxor o => some (.scalar, 82, o.word)
  | .pandn o => some (.scalar, 83, o.word)
  | .movi o => some (.scalar, 96, o.word)
  | .movk o => some (.scalar, 97, o.word)
  | .vadd o => some (.vector, 1, o.word)
  | .vsub o => some (.vector, 2, o.word)
  | .vmul o => some (.vector, 3, o.word)
  | .vmin o => some (.vector, 4, o.word)
  | .vmax o => some (.vector, 5, o.word)
  | .vadds o => some (.vector, 6, o.word)
  | .vsubs o => some (.vector, 7, o.word)
  | .vmulh o => some (.vector, 8, o.word)
  | .vdot4 o => some (.vector, 9, o.word)
  | .vabs o => some (.vector, 10, o.word)
  | .vneg o => some (.vector, 11, o.word)
  | .fmaFp32 o => some (.vector, 16, o.word)
  | .fmaBf16 o => some (.vector, 17, o.word)
  | .fmaFp16 o => some (.vector, 18, o.word)
  | .fmsFp32 o => some (.vector, 19, o.word)
  | .fmsBf16 o => some (.vector, 20, o.word)
  | .fmsFp16 o => some (.vector, 21, o.word)
  | .fnmaFp32 o => some (.vector, 22, o.word)
  | .fnmaBf16 o => some (.vector, 23, o.word)
  | .fnmaFp16 o => some (.vector, 24, o.word)
  | .vcmpeq o => some (.vector, 32, o.word)
  | .vcmpne o => some (.vector, 33, o.word)
  | .vcmplt o => some (.vector, 34, o.word)
  | .vcmple o => some (.vector, 35, o.word)
  | .kand o => some (.vector, 36, o.word)
  | .kor o => some (.vector, 37, o.word)
  | .kxor o => some (.vector, 38, o.word)
  | .kandn o => some (.vector, 39, o.word)
  | .vand o => some (.vector, 48, o.word)
  | .vor o => some (.vector, 49, o.word)
  | .vxor o => some (.vector, 50, o.word)
  | .vandn o => some (.vector, 51, o.word)
  | .vnot o => some (.vector, 52, o.word)
  | .vshl o => some (.vector, 64, o.word)
  | .vshr o => some (.vector, 65, o.word)
  | .vsar o => some (.vector, 66, o.word)
  | .vshls o => some (.vector, 67, o.word)
  | .vshrs o => some (.vector, 68, o.word)
  | .vsars o => some (.vector, 69, o.word)
  | .vcvt o => some (.vector, 80, o.word)
  | .vcvtw o => some (.vector, 81, o.word)
  | .vcvtn o => some (.vector, 82, o.word)
  | .vperm o => some (.vector, 96, o.word)
  | .vslideup o => some (.vector, 97, o.word)
  | .vslidedn o => some (.vector, 98, o.word)
  | .vbcast o => some (.vector, 99, o.word)
  | .vmov o => some (.vector, 100, o.word)
  | .vsel o => some (.vector, 101, o.word)
  | .vmvs o => some (.vector, 102, o.word)
  | .vsplati o => some (.vector, 103, o.word)
  | .vsplitVpart o => some (.vector, 104, o.word)
  | .vexp2 o => some (.vector, 112, o.word)
  | .vlog2 o => some (.vector, 113, o.word)
  | .vrecip o => some (.vector, 114, o.word)
  | .vrsqrt o => some (.vector, 115, o.word)
  | .vtanh o => some (.vector, 116, o.word)
  | .vsilu o => some (.vector, 117, o.word)
  | .vtag o => some (.vector, 128, o.word)
  | .qacc o => some (.reduction, 1, o.word)
  | .qadd o => some (.reduction, 2, o.word)
  | .qmax o => some (.reduction, 3, o.word)
  | .qmin o => some (.reduction, 5, o.word)
  | .qdrn o => some (.reduction, 4, o.word)
  | .ldl o => some (.memory, 1, o.word)
  | .stl o => some (.memory, 2, o.word)
  | .ldls o => some (.memory, 3, o.word)
  | .stls o => some (.memory, 4, o.word)
  | .cbpush o => some (.memory, 5, o.word)
  | .cbpop o => some (.memory, 6, o.word)
  | .lld o => some (.memory, 7, o.word)
  | .lst o => some (.memory, 8, o.word)
  | .lsgath o => some (.memory, 9, o.word)
  | .lsscat o => some (.memory, 10, o.word)
  | .gld o => some (.memory, 16, o.word)
  | .glds o => some (.memory, 17, o.word)
  | .gst o => some (.memory, 18, o.word)
  | .gsts o => some (.memory, 19, o.word)
  | .gldacq o => some (.memory, 20, o.word)
  | .gstrel o => some (.memory, 21, o.word)
  | .gldacqv o => some (.memory, 22, o.word)
  | .gstrelv o => some (.memory, 23, o.word)
  | .pref o => some (.memory, 24, o.word)
  | .ldlu o => some (.memory, 25, o.word)
  | .xput o => some (.memory, 32, o.word)
  | .aadd o => some (.memory, 48, o.word)
  | .amin o => some (.memory, 49, o.word)
  | .amax o => some (.memory, 50, o.word)
  | .aand o => some (.memory, 51, o.word)
  | .aor o => some (.memory, 52, o.word)
  | .axor o => some (.memory, 53, o.word)
  | .aswap o => some (.memory, 54, o.word)
  | .acas o => some (.memory, 55, o.word)
  | .fence o => some (.memory, 64, o.word)
  | .drain o => some (.memory, 65, o.word)
  | .twait o => some (.memory, 66, o.word)
  | .sev o => some (.memory, 67, o.word)
  | .wfe => some (.memory, 68, 0)
  | .bar o => some (.memory, 69, o.word)
  | .waitt o => some (.memory, 70, o.word)
  | .rdnow o => some (.memory, 71, o.word)
  | .rmap o => some (.memory, 72, o.word)
  | .runmap o => some (.memory, 73, o.word)
  | .rflush o => some (.memory, 74, o.word)
  | .lsta o => some (.engine, 1, o.word)
  | .lswap o => some (.engine, 2, o.word)
  | .lmm o => some (.engine, 3, o.word)
  | .lmms o => some (.engine, 4, o.word)
  | .lzero o => some (.engine, 5, o.word)
  | .lepi o => some (.engine, 6, o.word)
  | .tcfg o => some (.engine, 16, o.word)
  | .tcfgd o => some (.engine, 17, o.word)
  | .tgo o => some (.engine, 18, o.word)
  | .tstat o => some (.engine, 19, o.word)
  | .hcpy o => some (.engine, 32, o.word)
  | .hstr o => some (.engine, 33, o.word)
  | .htrn o => some (.engine, 34, o.word)
  | .hgath o => some (.engine, 35, o.word)
  | .hfill o => some (.engine, 36, o.word)
  | .hscat o => some (.engine, 37, o.word)
  | .kset o => some (.engine, 48, o.word)
  | .kget o => some (.engine, 49, o.word)
  | .spld o => some (.engine, 50, o.word)
  | .spswap o => some (.engine, 51, o.word)
  | .spev o => some (.engine, 52, o.word)
  | .spdx o => some (.engine, 53, o.word)
  | .spgr o => some (.engine, 54, o.word)
  | .spref o => some (.engine, 55, o.word)
  | .coll o => some (.engine, 64, o.word)
  | .cwait o => some (.engine, 65, o.word)
  | .ctest o => some (.engine, 66, o.word)
  | .cabort o => some (.engine, 67, o.word)
  | .br o => some (.branch, 1, o.word)
  | .bri o => some (.branch, 2, o.word)
  | .call o => some (.branch, 3, o.word)
  | .ret o => some (.branch, 4, o.word)
  | .banksw o => some (.branch, 5, o.word)
  | .loop o => some (.branch, 16, o.word)
  | .mloop o => some (.branch, 17, o.word)
  | .safe o => some (.branch, 32, o.word)
  | .tend => some (.branch, 33, 0)
  | .yield => some (.branch, 34, 0)
  | .trap o => some (.branch, 35, o.word)
  | .eret => some (.branch, 36, 0)
  | .mfs o => some (.branch, 37, o.word)
  | .mts o => some (.branch, 38, o.word)
  | .stqrd o => some (.branch, 39, o.word)
  | .ifence => some (.branch, 40, 0)
  | .dictchk o => some (.branch, 41, o.word)
  | .dictld o => some (.branch, 42, o.word)
  | .signal o => some (.branch, 43, o.word)
  | _ => none

/-- The 48 bits of a syllable, none for an event (R104). -/
def encodeSyllable (y : Syllable) : Option Syl48 :=
  match y.instr.code with
  | some (_, opc, ops) => some (BitVec.ofNat 48 (y.pred.toNat * 2 ^ 42 + bitOf y.sense * 2 ^ 41 + opc * 2 ^ 32 + ops))
  | none => none

/-- The word of an instruction under guard p0: 0 for an event, which has no word. -/
def encode (i : Instr) : Syl48 := (encodeSyllable { pred := 0, sense := false, instr := i }).getD 0

/-- The slot that first takes an instruction's class. -/
def Instr.slot (i : Instr) : Slot :=
  match i.code with
  | some (.scalar, _) => .s0
  | some (.vector, _) => .v0
  | some (.memory, _) => .m
  | some (.reduction, _) => .q
  | some (.engine, _) => .e
  | some (.branch, _) => .b
  | none => .s0

/-- A bundle of one syllable in its slot, NOPs elsewhere (R102, R105). -/
def encodeBundle (i : Instr) : Bundle384 := BitVec.ofNat 384 ((encode i).toNat * 2 ^ i.slot.lo)

/-- The instructions of a bundle that are not NOP. -/
def Bundle.instrs (b : Bundle) : List Instr := (b.syllables.map fun p => p.2.instr).filter (· != .nop)

/-- The instruction the decoder reads from one bundle given as a number: its one syllable, NOP when it holds none; none
where the bundle is illegal or holds several. -/
def decodeTableWord (_nbits w : Nat) : Option Instr :=
  match decodeBundle (BitVec.ofNat 384 w) with
  | .error _ => none
  | .ok b =>
    match b.instrs with
    | [] => some .nop
    | [i] => some i
    | _ => none

end Sys2Proof
end

