-- ==== Sys2Proof/Machine/Map.lean ====
section
/-! DEFINITION. Maps held as lists of pairs in rising key order, and memory as such a list of bytes in which no byte
equals what an unlisted address reads as. -/

namespace Sys2Proof

/-- The value listed at a key. -/
def FMap.find? {β : Type} : FMap β → Nat → Option β
  | [], _ => none
  | (a, b) :: t, k => if a = k then some b else FMap.find? t k

/-- The value listed at a key, or the map's default. -/
def FMap.get {β : Type} (m : FMap β) (k : Nat) (d : β) : β := (m.find? k).getD d

/-- List a value at a key, keeping the rising order. -/
def FMap.set {β : Type} : FMap β → Nat → β → FMap β
  | [], k, v => [(k, v)]
  | (a, b) :: t, k, v =>
    if k < a then (k, v) :: (a, b) :: t
    else if k = a then (k, v) :: t
    else (a, b) :: FMap.set t k v

/-- Unlist a key. -/
def FMap.erase {β : Type} : FMap β → Nat → FMap β
  | [], _ => []
  | (a, b) :: t, k => if a = k then FMap.erase t k else (a, b) :: FMap.erase t k

/-- Bytes listed at addresses in rising order, none of them 0: an unlisted address reads as 0 (log 3). -/
abbrev Mem := List Host.Cell

/-- The addresses strictly rise from a bound. -/
def Mem.risesFrom : Nat → Mem → Bool
  | _, [] => true
  | lo, (a, _) :: t => decide (lo ≤ a) && Mem.risesFrom (a + 1) t

/-- The canonical form: strictly rising addresses, and no listed byte equal to an unlisted one. -/
def Mem.wf (m : Mem) : Bool := Mem.risesFrom 0 m && m.all (fun c => c.2 != 0)

/-- The byte at an address. -/
def Mem.read : Mem → Nat → Byte
  | [], _ => 0
  | (a, b) :: t, k => if a = k then b else Mem.read t k

/-- Write one byte, keeping the canonical form: a 0 unlists the address. -/
def Mem.write : Mem → Nat → Byte → Mem
  | [], k, v => if v = 0 then [] else [(k, v)]
  | (a, b) :: t, k, v =>
    if k < a then (if v = 0 then (a, b) :: t else (k, v) :: (a, b) :: t)
    else if k = a then (if v = 0 then t else (k, v) :: t)
    else (a, b) :: Mem.write t k v

/-- The n bytes from an address as one little-endian number (R3). -/
def Mem.readNat (m : Mem) : Nat → Nat → Nat
  | _, 0 => 0
  | a, n + 1 => (Mem.read m a).toNat + 256 * Mem.readNat m (a + 1) n

/-- Write n bytes of a number, little-endian (R3). -/
def Mem.writeNat (m : Mem) : Nat → Nat → Nat → Mem
  | _, 0, _ => m
  | a, n + 1, v => Mem.writeNat (m.write a (BitVec.ofNat 8 v)) (a + 1) n (v / 256)

/-- Unlist every byte of a range: it reads as 0. -/
def Mem.clear (m : Mem) (a n : Nat) : Mem := m.filter fun c => decide (c.1 < a) || decide (a + n ≤ c.1)

/-- The n bytes at the addresses a 0 to a (n - 1) as one little-endian number. -/
def Mem.gather (m : Mem) (a : Nat → Nat) : Nat → Nat
  | 0 => 0
  | n + 1 => Mem.gather m a n + (m.read (a n)).toNat * 256 ^ n

/-- Write n bytes of a number at the addresses a 0 to a (n - 1), under a mask of bits. -/
def Mem.scatter (m : Mem) (a : Nat → Nat) (data mask : Nat) : Nat → Mem
  | 0 => m
  | n + 1 =>
    let k := BitVec.ofNat 8 (mask / 256 ^ n)
    let m := Mem.scatter m a data mask n
    if k = 0 then m else m.write (a n) ((m.read (a n) &&& ~~~k) ||| (BitVec.ofNat 8 (data / 256 ^ n) &&& k))

/-- Write those of n bytes whose mask bit is 1. -/
def Mem.writeMasked (m : Mem) : Nat → Nat → Nat → Nat → Mem
  | _, 0, _, _ => m
  | a, n + 1, v, k =>
    Mem.writeMasked (if k % 2 = 1 then m.write a (BitVec.ofNat 8 v) else m) (a + 1) n (v / 256) (k / 2)

end Sys2Proof
end

