-- ==== Sys2Proof/Machine/Float.lean ====
section
/-! DEFINITION. Number formats and their arithmetic (R141 to R160): values as exact dyadic numbers, rounding once. -/

namespace Sys2Proof

/-- A floating value: NaN, an infinity, or ± m × 2^e, with both zeros (R141). -/
inductive FP where
  | nan
  | inf (neg : Bool)
  | fin (neg : Bool) (m : Nat) (e : Int)
deriving DecidableEq, Repr

/-- The rounding modes of R143, by FMODE.RMODE's codes (R132). -/
inductive RMode where
  | rne | rz | down | up
deriving DecidableEq, Repr

/-- RMODE's two bits (R132). -/
def RMode.ofBits (b : BitVec 2) : RMode :=
  if b = 0 then .rne else if b = 1 then .rz else if b = 2 then .down else .up

/-- Significand bits of a floating format, hidden bit included (R141). -/
def fpPrec : Fmt → Nat
  | .fp32 => 24 | .bf16 => 8 | .fp16 => 11 | _ => 24

/-- Exponent bias (R141). -/
def fpBias : Fmt → Nat
  | .fp16 => 15 | _ => 127

/-- The exponent of the smallest subnormal (R141). -/
def fpEmin : Fmt → Int
  | .fp32 => -149 | .bf16 => -133 | .fp16 => -24 | _ => -149

/-- The biased exponent of infinities and NaNs (R141). -/
def fpSpecial (f : Fmt) : Nat := 2 * fpBias f + 1

/-- The sign bit's weight. -/
def fpSign (f : Fmt) : Nat := (fpSpecial f + 1) * 2 ^ (fpPrec f - 1)

/-- The canonical NaN (R145). -/
def fpNaN (f : Fmt) : Nat := fpSpecial f * 2 ^ (fpPrec f - 1) + 2 ^ (fpPrec f - 2)

/-- The infinity of a sign. -/
def fpInf (f : Fmt) (neg : Bool) : Nat := fpSpecial f * 2 ^ (fpPrec f - 1) + (if neg then fpSign f else 0)

/-- The largest finite value of a sign (R141). -/
def fpMax (f : Fmt) (neg : Bool) : Nat := fpSpecial f * 2 ^ (fpPrec f - 1) - 1 + (if neg then fpSign f else 0)

/-- The exact value of an encoding (R141); a NaN of any payload is one NaN (R145). -/
def fpDecode (f : Fmt) (b : Nat) : FP :=
  let neg := decide (b / fpSign f % 2 = 1)
  let ex := b / 2 ^ (fpPrec f - 1) % (fpSpecial f + 1)
  let fr := b % 2 ^ (fpPrec f - 1)
  if ex = fpSpecial f then (if fr = 0 then .inf neg else .nan)
  else if ex = 0 then .fin neg fr (fpEmin f)
  else .fin neg (2 ^ (fpPrec f - 1) + fr) (fpEmin f + (ex - 1 : Int))

/-- Whether a cut value steps away from zero (R143): q is what is kept, r of 2^s what is cut. -/
def roundsUp (mode : RMode) (neg : Bool) (q r s : Nat) : Bool :=
  match mode with
  | .rne => decide (2 ^ s < 2 * r) || (decide (2 * r = 2 ^ s) && decide (q % 2 = 1))
  | .rz => false
  | .down => neg && decide (r ≠ 0)
  | .up => !neg && decide (r ≠ 0)

/-- m × 2^e as q × 2^u with u at least lo and q of at most p bits before a carry: the kept part, the unit, rounded. -/
def roundMag (mode : RMode) (neg : Bool) (p : Nat) (lo : Int) (m : Nat) (e : Int) : Nat × Int :=
  let u := max (e + (Nat.log2 m : Int) - (p - 1 : Nat)) lo
  if u ≤ e then (m * 2 ^ (e - u).toNat, u)
  else
    let s := (u - e).toNat
    let q := m / 2 ^ s
    ((if roundsUp mode neg q (m % 2 ^ s) s then q + 1 else q), u)

/-- What an overflow becomes (R143). -/
def overflowTo (f : Fmt) (mode : RMode) (neg : Bool) : Nat :=
  match mode with
  | .rne => fpInf f neg
  | .rz => fpMax f neg
  | .down => if neg then fpInf f neg else fpMax f neg
  | .up => if neg then fpMax f neg else fpInf f neg

/-- Rounding of an exact value to a format: the encoding, and whether a finite value overflowed (R143, R144). -/
def fpRoundFlag (f : Fmt) (mode : RMode) (ftz : Bool) (x : FP) : Nat × Bool :=
  match x with
  | .nan => (fpNaN f, false)
  | .inf neg => (fpInf f neg, false)
  | .fin neg m e =>
    let sg := if neg then fpSign f else 0
    if m = 0 then (sg, false) else
      let (q, u) := roundMag mode neg (fpPrec f) (fpEmin f) m e
      let norm := 2 ^ (fpPrec f - 1)
      if q < norm then (if ftz then (sg, false) else (sg + q, false))
      else
        let b := ((u - fpEmin f).toNat) * norm + q
        if fpSpecial f * norm ≤ b then (overflowTo f mode neg, true) else (sg + b, false)

/-- Round of R9. -/
def fpRound (f : Fmt) (mode : RMode) (ftz : Bool) (x : FP) : Nat := (fpRoundFlag f mode ftz x).1

/-- RoundRNE of R9, as a value. -/
def rne (x : FP) : FP := fpDecode .fp32 (fpRound .fp32 .rne false x)

/-- The sign as a factor. -/
def FP.neg : FP → FP
  | .nan => .nan
  | .inf n => .inf (!n)
  | .fin n m e => .fin (!n) m e

/-- The magnitude. -/
def FP.abs : FP → FP
  | .nan => .nan
  | .inf _ => .inf false
  | .fin _ m e => .fin false m e

/-- Is it NaN. -/
def FP.isNaN : FP → Bool
  | .nan => true
  | _ => false

/-- Is it a zero of either sign. -/
def FP.isZero : FP → Bool
  | .fin _ 0 _ => true
  | _ => false

/-- The signed significand at exponent e0, for e0 at most its own. -/
def scaled (neg : Bool) (m : Nat) (e e0 : Int) : Int :=
  let v : Int := (m * 2 ^ (e - e0).toNat : Nat)
  if neg then -v else v

/-- Exact product; ∞ × 0 is NaN (R145). -/
def FP.mul : FP → FP → FP
  | .nan, _ => .nan
  | _, .nan => .nan
  | .inf a, .inf b => .inf (a != b)
  | .inf a, .fin b m _ => if m = 0 then .nan else .inf (a != b)
  | .fin a m _, .inf b => if m = 0 then .nan else .inf (a != b)
  | .fin a m e, .fin b n g => .fin (a != b) (m * n) (e + g)

/-- Exact sum; opposite infinities are NaN (R145), and an exact zero takes its sign under R143. -/
def FP.add (mode : RMode) : FP → FP → FP
  | .nan, _ => .nan
  | _, .nan => .nan
  | .inf a, .inf b => if a = b then .inf a else .nan
  | .inf a, .fin _ _ _ => .inf a
  | .fin _ _ _, .inf b => .inf b
  | .fin a m e, .fin b n g =>
    let e0 := min e g
    let v := scaled a m e e0 + scaled b n g e0
    if v = 0 then .fin (if a = b then a else mode == .down) 0 0
    else .fin (decide (v < 0)) v.natAbs e0

/-- a < b, −0 and +0 equal; false with a NaN. -/
def FP.lt : FP → FP → Bool
  | .nan, _ => false
  | _, .nan => false
  | .inf a, .inf b => a && !b
  | .inf a, .fin _ _ _ => a
  | .fin _ _ _, .inf b => !b
  | .fin a m e, .fin b n g => decide (scaled a m e (min e g) < scaled b n g (min e g))

/-- a = b, −0 and +0 equal; false with a NaN. -/
def FP.eq : FP → FP → Bool
  | .nan, _ => false
  | _, .nan => false
  | .inf a, .inf b => a == b
  | .inf _, .fin _ _ _ => false
  | .fin _ _ _, .inf _ => false
  | .fin a m e, .fin b n g => decide (scaled a m e (min e g) = scaled b n g (min e g))

/-- The sign bit. -/
def FP.isNeg : FP → Bool
  | .nan => false
  | .inf n => n
  | .fin n _ _ => n

/-- The smaller, −0 below +0; NaN with a NaN (R193). -/
def FP.min (a b : FP) : FP :=
  if a.isNaN || b.isNaN then .nan else if a.lt b then a else if b.lt a then b else if a.isNeg then a else b

/-- The larger, +0 above −0; NaN with a NaN (R193). -/
def FP.max (a b : FP) : FP :=
  if a.isNaN || b.isNaN then .nan else if a.lt b then b else if b.lt a then a else if a.isNeg then b else a

/-- An integer, exactly; 0 is +0. -/
def FP.ofInt (x : Int) : FP := .fin (decide (x < 0)) x.natAbs 0

/-- The integer m × 2^e is rounded to, in a mode (R152). -/
def roundToInt (mode : RMode) (neg : Bool) (m : Nat) (e : Int) : Int :=
  let q : Nat := if 0 ≤ e then m * 2 ^ e.toNat
    else
      let s := (-e).toNat
      let q := m / 2 ^ s
      if roundsUp mode neg q (m % 2 ^ s) s then q + 1 else q
  if neg then -(q : Int) else q

/-! The tapered formats (R146 to R149). -/

/-- Width of a tapered word. -/
def tapBits : Fmt → Nat
  | .t6 => 6 | _ => 8

/-- Length of the leading run of bits equal to v in the n bits of w, read from the top. -/
def leadRun (w : Nat) (v : Nat) : Nat → Nat
  | 0 => 0
  | n + 1 => if w / 2 ^ n % 2 = v then 1 + leadRun w v n else 0

/-- DecodeTapered of R146. -/
def tapDecode (n : Nat) (w0 : Nat) : FP :=
  let w := w0 % 2 ^ n
  if w = 0 then .fin false 0 0
  else if w = 2 ^ (n - 1) then .nan
  else
    let s := decide (2 ^ (n - 1) < w)
    let mag := if s then 2 ^ n - w else w
    let b := mag % 2 ^ (n - 1)
    let top := b / 2 ^ (n - 2) % 2
    let run := leadRun b top (n - 1)
    let k : Int := if top = 1 then (run : Int) - 1 else -(run : Int)
    let rest := n - 1 - run - 1
    let r := b % 2 ^ rest
    let e : Nat := if rest = 0 then 0 else r / 2 ^ (rest - 1)
    let fl := rest - 1
    let f := r % 2 ^ fl
    .fin s (2 ^ fl + f) (2 * k + e - fl)

/-- EncodeTapered of R149, and whether it clamped. -/
def tapEncode (n : Nat) (x : FP) : Nat × Bool :=
  match x with
  | .nan => (2 ^ (n - 1), false)
  | .inf _ => (2 ^ (n - 1), false)
  | .fin neg m e =>
    if m = 0 then (0, false) else
      let l := Nat.log2 m
      let ex : Int := e + l
      let top : Int := 2 * (n - 2 : Nat)
      let (w, c) :=
        if top ≤ ex then (2 ^ (n - 1) - 1, !(decide (ex = top) && decide (m = 2 ^ l)))
        else if ex < -top then (1, true)
        else
          let k := Int.fdiv ex 2
          let eb := (ex - 2 * k).toNat
          let reg : Nat × Nat := if 0 ≤ k then (2 * (2 ^ (k.toNat + 1) - 1), k.toNat + 2) else (1, (-k).toNat + 1)
          let v := (reg.1 * 2 + eb) * 2 ^ l + (m - 2 ^ l)
          let len := reg.2 + 1 + l
          if len ≤ n - 1 then (v * 2 ^ (n - 1 - len), false)
          else
            let s := len - (n - 1)
            let q := v / 2 ^ s
            ((if roundsUp .rne false q (v % 2 ^ s) s then q + 1 else q), false)
      ((if neg then (2 ^ n - w) % 2 ^ n else w), c)

/-! Block scales (R150). -/

/-- DecodeS12: a value, or one of the markers. -/
inductive S12 where
  | zero | nan | val (x : FP)
deriving DecidableEq, Repr

/-- DecodeS12 of R150. -/
def s12Decode (s : Nat) : S12 :=
  let e := s / 16 % 256
  if e = 0 then .zero else if e = 255 then .nan else .val (.fin false (16 + s % 16) (e - 127 - 4))

/-- FP32 to S12 (R152). -/
def s12Encode (mode : RMode) (x : FP) : Nat :=
  match x with
  | .nan => 0xFF0
  | .inf _ => 0xFF0
  | .fin _ m e =>
    if m = 0 then 0
    else if e + Nat.log2 m < -126 then 0
    else if (FP.fin false 31 123).lt (.fin false m e) then 0xFEF
    else
      let (q, u) := roundMag mode false 5 (-130) m e
      let (q, u) := if q = 32 then (16, u + 1) else (q, u)
      ((u + 4 + 127).toNat) * 16 + (q - 16)

/-! Integer formats (R151). -/

/-- Signed formats. -/
def Fmt.signed : Fmt → Bool
  | .int4 | .int8 | .int16 | .int32 => true
  | _ => false

/-- The exact integer of an element's bits. -/
def intDecode (f : Fmt) (b : Nat) : Int :=
  let v : Int := (b % 2 ^ f.bits : Nat)
  if f.signed && decide (2 ^ (f.bits - 1) ≤ b % 2 ^ f.bits) then v - 2 ^ f.bits else v

/-- Modulo 2^w, read in the format (R151). -/
def intWrap (f : Fmt) (x : Int) : Nat := (x % 2 ^ f.bits).toNat

/-- The range of a format (R151). -/
def intLo (f : Fmt) : Int := if f.signed then -(2 ^ (f.bits - 1)) else 0

/-- The range of a format (R151). -/
def intHi (f : Fmt) : Int := if f.signed then 2 ^ (f.bits - 1) - 1 else 2 ^ f.bits - 1

/-- Sat of R9, and whether it clamped (R192). -/
def intSat (f : Fmt) (x : Int) : Nat × Bool :=
  if x < intLo f then (intWrap f (intLo f), true)
  else if intHi f < x then (intWrap f (intHi f), true)
  else (intWrap f x, false)

/-! Elements of any numeric format. -/

/-- The exact value of an element (R141, R146, R151); NaR is NaN. -/
def eltDecode (f : Fmt) (b : Nat) : FP :=
  match f with
  | .fp32 | .bf16 | .fp16 => fpDecode f b
  | .t8 => tapDecode 8 b
  | .t6 => tapDecode 6 b
  | .int4 | .int8 | .uint8 | .int16 | .int32 => FP.ofInt (intDecode f b)
  | .s12 => match s12Decode b with
    | .zero => .fin false 0 0
    | .nan => .nan
    | .val x => x
  | .raw | .spline => .fin false 0 0

/-- What a conversion makes: the element, and whether it clamped a value (R192). -/
structure Conv where
  bits : Nat
  sat : Bool
deriving DecidableEq, Repr

/-- Is (f, g) a pair that R152 lists. -/
def cvtPair (f g : Fmt) : Bool :=
  let num (x : Fmt) : Bool := x.isF || x.isI || x == .t8 || x == .t6
  (num f && num g) || (f == .s12 && g == .fp32) || (f == .fp32 && g == .s12)

/-- The element conversion of R152 for (f, g). -/
def convert (f g : Fmt) (mode : RMode) (sat ftz : Bool) (b : Nat) : Conv :=
  let x := eltDecode f b
  match g with
  | .fp32 | .bf16 | .fp16 =>
    let r := fpRoundFlag g mode ftz x
    if r.2 && sat && f.isF then { bits := fpMax g x.isNeg, sat := true } else { bits := r.1, sat := false }
  | .t8 | .t6 =>
    if f = g then { bits := b % 2 ^ tapBits g, sat := false } else
    let r := tapEncode (tapBits g) x
    { bits := r.1, sat := r.2 }
  | .s12 => { bits := s12Encode mode x, sat := false }
  | .int4 | .int8 | .uint8 | .int16 | .int32 =>
    if f.isI then
      let v := intDecode f b
      if f = g then { bits := intWrap g v, sat := false }
      else if sat && g.bits ≤ f.bits then { bits := (intSat g v).1, sat := (intSat g v).2 } else { bits := intWrap g v, sat := false }
    else
      match x with
      | .nan => { bits := 0, sat := false }
      | .inf neg => { bits := intWrap g (if neg then intLo g else intHi g), sat := true }
      | .fin neg m e =>
        let r := intSat g (roundToInt mode neg m e)
        { bits := r.1, sat := r.2 }
  | .raw | .spline => { bits := b, sat := false }

/-! Special functions (R156 to R160). -/

/-- RoundRNE of the decimal p / 10^d. -/
def dec (neg : Bool) (p d : Nat) : FP :=
  let q := p * 2 ^ 200 / 10 ^ d
  rne (.fin neg (2 * q + (if p * 2 ^ 200 % 10 ^ d = 0 then 0 else 1)) (-201))

/-- FMA of R157: one rounding. -/
def fma32 (a b c : FP) : FP := rne (FP.add .rne (a.mul b) c)

/-- Mul of R157. -/
def mul32 (a b : FP) : FP := rne (a.mul b)

/-- Add of R157. -/
def add32 (a b : FP) : FP := rne (FP.add .rne a b)

/-- 1.0. -/
def fp1 : FP := .fin false 1 0

/-- 0. -/
def fp0 : FP := .fin false 0 0

/-- Split of R157 on a magnitude: m in [1, 2) with |x| = m × 2^e. -/
def split32 (m : Nat) (e : Int) : FP × Int := (.fin false m (-(Nat.log2 m : Int)), e + Nat.log2 m)

/-- Scale2 of R157. -/
def scale2 (y : FP) (n : Int) : FP :=
  match y with
  | .fin s m e => rne (.fin s m (e + n))
  | z => z

/-- Give a value a sign. -/
def FP.withSign (neg : Bool) (x : FP) : FP := if neg then x.abs.neg else x.abs

/-- RECIP of R158. -/
def recip32 (x : FP) : FP :=
  match x with
  | .nan => .nan
  | .inf s => .fin s 0 0
  | .fin s m e =>
    if m = 0 then .inf s else
      let (mm, ee) := split32 m e
      let y := fma32 mm (dec true 47058824 8) (dec false 14117647 7)
      let it (y : FP) : FP := fma32 y (fma32 mm.neg y fp1) y
      (scale2 (it (it (it y))) (-ee)).withSign s

/-- RSQRT of R158. -/
def rsqrt32 (x : FP) : FP :=
  match x with
  | .nan => .nan
  | .inf s => if s then .nan else fp0
  | .fin s m e =>
    if m = 0 then .inf s
    else if s then .nan
    else
      let (mm, ee) := split32 m e
      let (mm, ee) := if ee % 2 = 0 then (mm, ee) else (mm.mul (.fin false 2 0), ee - 1)
      let y := fma32 mm (dec true 16666667 8) (dec false 11666667 7)
      let it (y : FP) : FP := fma32 (mul32 (.fin false 1 (-1)) y) (fma32 (mul32 mm y).neg y fp1) y
      scale2 (it (it (it (it y)))) (-(ee / 2))

/-- Horner steps, highest power first (R157). -/
def horner (p f : FP) (cs : List FP) : FP := cs.foldl (fun p c => fma32 p f c) p

/-- EXP2 of R159. -/
def exp2_32 (x : FP) : FP :=
  match x with
  | .nan => .nan
  | x =>
    if !(x.lt (.fin false 128 0)) then .inf false
    else if x.lt (.fin true 150 0) then fp0
    else match x with
      | .fin s m e =>
        let n := roundToInt .rne s m e
        let f := FP.add .rne x (FP.ofInt (-n))
        let p := horner (dec false 15403530 11) f
          [dec false 13333558 10, dec false 96181291 10, dec false 55504109 9, dec false 24022651 8,
           dec false 69314718 8, fp1]
        scale2 p n
      | z => z

/-- LOG2 of R159. -/
def log2_32 (x : FP) : FP :=
  match x with
  | .nan => .nan
  | .inf s => if s then .nan else .inf false
  | .fin s m e =>
    if m = 0 then .inf true
    else if s then .nan
    else
      let (mm, ee) := split32 m e
      let (mm, ee) := if (dec false 14142135 7).lt mm then (mm.mul (.fin false 1 (-1)), ee + 1) else (mm, ee)
      let y := FP.add .rne mm fp1.neg
      let z := mul32 y (recip32 (add32 mm fp1))
      let w := mul32 z z
      let p := horner (dec false 32059890 8) w
        [dec false 41219859 8, dec false 57707802 8, dec false 96179669 8, dec false 28853901 7]
      add32 (FP.ofInt ee) (mul32 p z)

/-- TANH of R160. -/
def tanh32 (x : FP) : FP :=
  match x with
  | .nan => .nan
  | x =>
    if x.isZero then x else
      let a := x.abs
      if !(a.lt (.fin false 9 0)) then fp1.withSign x.isNeg
      else if a.lt (.fin false 1 (-2)) then
        let w := mul32 x x
        let p := horner (dec false 21869489 9) w [dec true 53968254 9, dec false 13333334 8, dec true 33333334 8]
        fma32 (mul32 p w) x x
      else
        let t := exp2_32 (mul32 a (dec false 28853901 7))
        let u := recip32 (add32 t fp1)
        (fma32 (.fin true 2 0) u fp1).withSign x.isNeg

/-- SILU of R160. -/
def silu32 (x : FP) : FP :=
  match x with
  | .nan => .nan
  | .inf s => if s then .fin true 0 0 else .inf false
  | x =>
    let t := exp2_32 (mul32 x.neg (dec false 14426950 7))
    mul32 x (recip32 (add32 fp1 t))

/-- DSILU of R340. -/
def dsilu32 (x : FP) : FP :=
  match x with
  | .nan => .nan
  | .inf s => if s then fp0 else fp1
  | x =>
    let t := exp2_32 (mul32 x.neg (dec false 14426950 7))
    let s := recip32 (add32 fp1 t)
    fma32 (mul32 x s) (add32 fp1 s.neg) s

end Sys2Proof
end

