-- ==== Sys2Proof/Machine/State.lean ====
section
/-! DEFINITION. The state of one package, as plain data, and the machine right after reset. -/

namespace Sys2Proof.Machine

/-- Why a step stops. -/
inductive Fault where
  /-- A register write or read through BAR 0 at an offset that no register map of the spec names (raised by the register
  rows). Safe: the spec describes no register there. -/
  | noSuchRegister
deriving DecidableEq, Repr

/-- Why an instruction has no meaning. -/
inductive Refusal where
  /-- The instruction is not modelled yet (raised by its arm of exec). Safe. -/
  | notModelled (mnemonic : String)
deriving DecidableEq, Repr

/-- A vector register: its 512 bytes and its tag (R127, R137). -/
structure VReg where
  bits : VBits
  tag : Fmt
deriving DecidableEq, Repr

/-- A partial-sum latch: 32 bits, and whether its tag is INT32 rather than FP32 (R211). -/
structure Latch where
  bits : BitVec 32
  int : Bool
deriving DecidableEq, Repr

/-- A token register: complete, pending on a command, or completed failed with the command's number and the address of its
bundle (R130, R305). -/
inductive Token where
  | complete
  | pending (cmd : Nat)
  | failed (cmd addr : Nat)
deriving DecidableEq, Repr

/-- A register by its physical number, as results land in it and hazards name it (R112, R129). -/
inductive Reg where
  | s (n : Nat) | p (n : Nat) | k (n : Nat) | v (n : Nat) | ps (n : Nat) | cbp (n : Nat) | tk (n : Nat)
  | loop (lvl field : Nat) | cr (n : Nat)
deriving DecidableEq, Repr

/-- A value on its way to a register (R191). -/
inductive Landing where
  | s (n : Nat) (x : W64)
  | k (n : Nat) (x : KBits)
  | v (n : Nat) (x : VReg)
  | ps (n : Nat) (x : Latch)
deriving DecidableEq, Repr

/-- A fixed-latency result in flight: what lands, the leaf clock it lands at, and whether it is a local load's (R191, R241,
R398). -/
structure Flight where
  id : Nat
  due : Nat
  load : Bool
  lands : List Landing
deriving DecidableEq, Repr

/-- A physical location: this package's HBM, host memory by DMA address, the pool aperture, or another package's HBM
(R391). -/
inductive Phys where
  | hbm (leaf off : Nat)
  | host (addr : Nat)
  | pool (addr : Nat)
  | remote (member off : Nat)
deriving DecidableEq, Repr

/-- What a global access is (R249 to R257). -/
inductive AccessKind where
  | load | acquire | atomic (op : BitVec 3) (wide : Bool) (x q : W64)
deriving DecidableEq, Repr

/-- Where a load's data goes (R239, R240): a vector register under a mask, a scalar, or nowhere, its task having been aborted (R398). -/
inductive LoadDest where
  | gone
  | vec (n : Nat) (fmt : Fmt) (mask : KBits)
  | scalar (n : Nat) (fmt : Fmt)
deriving DecidableEq, Repr

/-- A scoreboarded access in flight (R241): its program order among the strand's global accesses, its address, its byte
count, the virtual lines it reads with where they lie, its scope, and whether it drops them (R251). -/
structure LoadEntry where
  id : Nat
  kind : AccessKind
  dest : LoadDest
  va : Nat
  len : Nat
  lines : List (Nat × Phys)
  scope : Scope
  drops : Bool
deriving DecidableEq, Repr

/-- What a local access that a FENCE holds back is to do (R258): write bytes, or read them for a load's destination. -/
inductive HeldKind where
  | store (data : VBits)
  | load (dest : LoadDest)
deriving DecidableEq, Repr

/-- A local access that a FENCE holds back (R258): its place in program order, the address of each of its bytes, and the mask of bits it
reads or writes. -/
structure HeldAccess where
  id : Nat
  addrs : List Nat
  mask : VBits
  kind : HeldKind
deriving DecidableEq, Repr

/-- What a buffered store is (R224, R250, R253, R431). -/
inductive StoreKind where
  | weak
  | release (scope : Scope)
  | writeBack (region line : Nat)
  | signal
deriving DecidableEq, Repr

/-- Where a store stands: in the buffer; parked on a busy page (R396);
or asking ownership of its pool line (R273). -/
inductive StoreStage where
  | buffered | parked | owning (line : Nat)
deriving DecidableEq, Repr

/-- A store buffer entry: program order, address, bytes, and a mask of the bits it has still to write (R240, R250). -/
structure StoreEntry where
  id : Nat
  kind : StoreKind
  va : Nat
  len : Nat
  data : VBits
  mask : VBits
  stage : StoreStage
  lines : List (Nat × Phys)
deriving DecidableEq, Repr

/-- A part of a store on its way to another member (R287): its transaction, the store's address, the part's, its bytes and the store's
kind. -/
structure SentStore where
  txn : Nat
  va : Nat
  part : Nat
  len : Nat
  kind : StoreKind
deriving DecidableEq, Repr

/-- A FENCE, acquire or release action still ordering accesses: its place in program order and its scope (R258). -/
structure FenceEntry where
  id : Nat
  scope : Scope
deriving DecidableEq, Repr

/-- The trailing wait of WFE, BAR or WAITT, and whether its bundle held a SAFE (R243). -/
inductive Trail where
  | wfe | bar (scope : Scope) (number : Nat) | waitt (target : W64)
deriving DecidableEq, Repr

/-- The state of a hardware loop level (R177 to R183): its registers, the pending copies of LS and LE, the level's ACT
bit, and NSTG while an MLOOP owns it. -/
structure Loop where
  lc : BitVec 32
  ls : BitVec 32
  le : BitVec 32
  lsPend : Option (BitVec 32)
  lePend : Option (BitVec 32)
  act : Bool
  nstg : Option Nat
deriving DecidableEq, Repr

/-- The pending branch of the last two bundles: delay bundles still to issue, the target when taken, and whether the
branch is a BANKSW (R95, R96). -/
structure Pending where
  left : Nat
  target : Option Nat
  bsw : Bool
deriving DecidableEq, Repr

/-- The trap state registers (R410). -/
structure TrapRegs where
  cause : BitVec 8
  slot : BitVec 3
  fetch : Bool
  abort : Bool
  pc : BitVec 32
  addr : W64
  ndelay : BitVec 2
  taken : Bool
  bsw : Bool
  bank : Bool
  tgt : BitVec 32
  syl : BitVec 48
  tscr : W64
deriving DecidableEq, Repr

/-- A trap taken and waiting for exposed results to land before its entry (R408). -/
structure TrapReq where
  cause : BitVec 8
  slot : Slot
  fetch : Bool
  addr : Option W64
  syl : Syl48
  pc : Nat
  pend : Option Pending
deriving DecidableEq, Repr

/-- A bundle decoded ahead: its address, the bank it was decoded in, its bits, the units it spans, whether the run goes on after
it, and the fetch cause held with it (R93, R94, R99). -/
structure Fetched where
  addr : Nat
  inRun : Bool
  bank : Bool
  raw : Bundle384
  len : Nat
  runs : Bool
  cause : Option (BitVec 8)
  causeAddr : W64
deriving DecidableEq, Repr

/-- Why a strand is parked or its bundle waits on a walk (R396, R401). -/
inductive WalkState where
  | walking (va : Nat) (write : Bool)
  | parked (va : Nat) (write : Bool)
  | failed (cause : BitVec 8) (va : Nat)
deriving DecidableEq, Repr

/-- A report held for the strand's next DRAIN, release, BAR or TEND (R241, R250, R275): cause and address, and the
destination left unwritten, whose next reader or writer reports it. -/
structure Report where
  cause : BitVec 8
  addr : W64
  dest : Option Reg
deriving DecidableEq, Repr

/-- A task: its work identifier (R27). -/
structure Task where
  work : W64
deriving DecidableEq, Repr

/-- How a strand stands towards a switch (R67, R184, R417). -/
inductive StopState where
  | none | pending | stopped (live : Nat) | captured
deriving DecidableEq, Repr

/-- One strand (R127, R423). Registers not listed hold their launch values. sent holds the remote stores that no
acknowledgement has completed (R287, R431). lateHeld holds the
writes to LC that wait for their level's end test (R180). gangBar is a BAR at gang scope that has asked to arrive, with the answer once it
has come (R263). stale holds what units of the instruction store written since the
strand's last IFENCE held before, by 64-byte unit, and view what its fetch sees in place of them (R97). -/
structure Strand where
  sregs : FMap W64
  pregs : BitVec 64
  kregs : FMap KBits
  vregs : FMap VReg
  cbs : FMap W64
  tks : FMap Token
  latches : FMap Latch
  loop0 : Loop
  loop1 : Loop
  late : List (Bool × BitVec 32)
  lateHeld : List (Bool × BitVec 32)
  rmode : BitVec 2
  ftz : Bool
  ledit : Bool
  rvb : BitVec 6
  rpb : BitVec 5
  workid : W64
  bank : Bool
  trap : TrapRegs
  safeCount : BitVec 24
  safeOver : Bool
  super : Bool
  trapReq : Option TrapReq
  pc : Nat
  inRun : Bool
  pend : Option Pending
  ibuf : List Fetched
  stale : List (Nat × BitVec 512)
  view : FMap (BitVec 512)
  latch : Bool
  trail : Option Trail
  trailSafe : Option Nat
  gangBar : Option (Option BarAnswer)
  flights : List Flight
  flightSeq : Nat
  loads : List LoadEntry
  stores : List StoreEntry
  sent : List SentStore
  fences : List FenceEntry
  waits : List HeldAccess
  memSeq : Nat
  reports : List Report
  walk : Option WalkState
  xputsOut : Nat
  tasks : List Task
  running : Option Task
  last : Nat
  issued : List Nat
  failed : List (Nat × Nat)
  stop : StopState
  hold : Option Nat
  holdStarted : Option Nat
  retiring : Bool
  abortWait : Option (Option (Nat × Bool × Nat))
  refetch : Nat
  next : Option (Nat × Bool)
  fillAt : Option Nat
deriving DecidableEq, Repr

/-- A loop level at its launch value (R127). -/
def Loop.reset : Loop :=
  { lc := 0, ls := 0, le := 0, lsPend := none, lePend := none, act := false, nstg := none }

/-- The trap state registers at reset (R410). -/
def TrapRegs.reset : TrapRegs :=
  { cause := 0, slot := 0, fetch := false, abort := false, pc := 0, addr := 0, ndelay := 0, taken := false, bsw := false,
    bank := false, tgt := 0, syl := 0, tscr := 0 }

/-- A strand at its launch values (R127). -/
def Strand.reset : Strand :=
  { sregs := [], pregs := 1, kregs := [], vregs := [], cbs := [], tks := [], latches := [],
    loop0 := .reset, loop1 := .reset, late := [], lateHeld := [], rmode := 0, ftz := false, ledit := false, rvb := 0, rpb := 0,
    workid := 0, bank := false, trap := .reset, safeCount := 0, safeOver := false, super := false, trapReq := none,
    pc := 0, inRun := false, pend := none, ibuf := [], stale := [], view := [], latch := false, trail := none,
    trailSafe := none, gangBar := none, flights := [], flightSeq := 0, loads := [], stores := [], sent := [], fences := [], waits := [],
    memSeq := 0, reports := [], walk := none, xputsOut := 0, tasks := [], running := none, last := 0, issued := [], failed := [],
    stop := .none, hold := none, holdStarted := none, retiring := false, abortWait := none, refetch := 0, next := none, fillAt := none }

/-- A party that translates (R396): a strand's bundle, a store buffer entry, fetch, a region's fill, an engine command, a push at its destination, a load or atomic at the owner's, a requeue pool entry, a collective context, or the command processor for a packet. -/
inductive Party where
  | bundle (who : Nat) | store (who id : Nat) | fetch (who : Nat) | region (core region : Nat) | cmd (queue id : Nat)
  | push (core id : Nat) | load (who id : Nat) | requeue (id : Nat) | coll (ctx : Nat) | packet (pid : Nat)
deriving DecidableEq, Repr

/-- A region map entry's state (R220). -/
inductive RegionState where
  | fresh | held | saved
deriving DecidableEq, Repr

/-- The owner of a region (R77): key ID, gang number and member index; a dead owner's bytes are zeroed at the next
touch. -/
structure Owner where
  key : BitVec 8
  gang : Nat
  member : Nat
  dead : Bool
deriving DecidableEq, Repr

/-- A region map entry with its state (R219, R220). -/
structure Region where
  vbase : W64
  rattr : W64
  owner : Option Owner
  state : RegionState
  filling : Option Party
  fillParked : Bool
  dirty : BitVec 256
  since : Nat
deriving DecidableEq, Repr

/-- A region at a gang's first launch (R219, R220). -/
def Region.reset : Region :=
  { vbase := 0, rattr := 0x100, owner := none, state := .fresh, filling := none, fillParked := false, dirty := 0, since := 0 }

/-- An open episode of a barrier (R263): N of its first arrival and the strands that have arrived. -/
structure Episode where
  n : Nat
  arrived : List Nat
deriving DecidableEq, Repr

/-- A plane's tag (R296): its element format, SCALED and KEEP. -/
structure PlaneTag where
  fmt : Fmt
  scaled : Bool
  keep : Nat
deriving DecidableEq, Repr

/-- A stationary plane with its side array and tag: elements at 0, scales at 24,576, indices at 40,960 (R296). -/
structure Plane where
  bytes : Mem
  tag : PlaneTag
deriving DecidableEq, Repr

/-- An accumulator tile: element (r, j) at key 256 r + j, 0 where unlisted, and whether its tag is INT32 (R301). -/
structure Tile where
  elts : FMap (BitVec 32)
  int : Bool
deriving DecidableEq, Repr

/-- An L1 line: its 64 bytes, a dirty bit for each, the bytes present, the virtual lines it was reached by, the last first (R232, R285,
R395). -/
structure L1Line where
  data : BitVec 512
  valid : BitVec 64
  dirty : BitVec 64
  key : BitVec 8
  vlines : List Nat
deriving DecidableEq, Repr

/-- How far a command has come (R310, R313). -/
inductive CmdStage where
  | queued | running | parked (va : Nat) (write : Bool) | failing (fcause : BitVec 8) | finishing
deriving DecidableEq, Repr

/-- An engine command with its copied block (R313, R314): the strand that issued it, the token it produces, the
commands it waits for and whether one of them failed, its bundle's address, the operand its syllable named, the knots it
copied (R342). Its recorded step (R310) is step, and inside a nest row and act (R310: step counts the steps finished, row
the rows or units of the body or action, act the action), tile the current tile of a nest; table what it reads once when it begins
(R303, R328); notes the kinds of record it has appended (R333); low one more than the lowest plane row with an input off
its grid, 0 for none (R354); landAt the clock at which the last row of its body lands in the tile (R302); unit the aligned 64
bytes of local store that a Hawk command read last, with their number (R282). -/
structure Cmd where
  id : Nat
  who : Nat
  instr : Instr
  tp : Nat
  deps : List Nat
  depFailed : Bool
  addr : Nat
  base : W64
  block : BitVec 1024
  knots : FMap (BitVec 128)
  stage : CmdStage
  step : Nat
  row : Nat
  act : Nat
  tile : Bool
  table : Mem
  notes : Nat
  low : Nat
  landAt : Nat
  unit : Option (Nat × Nat)
  seq : Nat
deriving DecidableEq, Repr

/-- The Trowel status word (R308). -/
structure TrowelStat where
  go : Bool
  park : Bool
  fail : Bool
  fcause : BitVec 8
  row : BitVec 8
  step : BitVec 32
deriving DecidableEq, Repr

/-- An XPUT between cores: the issuing strand, the direction it travels, its bytes and offset, and the clock it arrives
(R255, R482). -/
structure Push where
  id : Nat
  who : Nat
  dir : Dir
  off : Nat
  data : VBits
  due : Nat
  waiting : Bool
  seq : Nat
deriving DecidableEq, Repr

/-- A record of the replay buffer (R418): what lands, after how many clocks, and whether it is a local load's; a push; unsent
stores. -/
structure Replay where
  who : Nat
  after : Nat
  load : Bool
  lands : List Landing
  push : Option Push
  stores : List StoreEntry
deriving DecidableEq, Repr

/-- One core (R135, R422). The arbiter's counters (R80) are waits, the issuing strand's bundles in a row through which a
strand has been ready, and stoppedAt, the clock it last stopped issuing; half is the strand whose split bundle has issued its first group, and the clock of that group (R65), vbusy the clock at which each vector unit frees (R191), arrayAt the clock from which the array takes its next row (R302). -/
structure Core where
  acc0 : Tile
  acc1 : Tile
  planeA : Plane
  planeS : Plane
  coefA : Mem
  coefS : Mem
  knots : FMap (BitVec 128)
  oog : FMap (BitVec 128)
  trowelA : Mem
  trowelS : Mem
  tstat : TrowelStat
  statq : List W64
  statLost : W64
  statCount : Nat
  regions : FMap Region
  local_ : Mem
  istore : Mem
  icache : FMap (BitVec 512)
  barriers : FMap Episode
  issuing : Nat
  waits : FMap Nat
  stoppedAt : FMap Nat
  yielded : Bool
  half : Option (Nat × Nat)
  vbusy : FMap Nat
  arrayAt : Nat
  replay : List Replay
  pushes : List Push
  pushSeq : Nat
  l1 : FMap L1Line
  engmap : W64
deriving DecidableEq, Repr

/-- A plane at a gang's first launch (R296). -/
def Plane.reset : Plane := { bytes := [], tag := { fmt := .raw, scaled := false, keep := 8 } }

/-- A core at a gang's first launch. -/
def Core.reset : Core :=
  { acc0 := { elts := [], int := false }, acc1 := { elts := [], int := false }, planeA := .reset, planeS := .reset,
    coefA := [], coefS := [], knots := [], oog := [], trowelA := [], trowelS := [],
    tstat := { go := false, park := false, fail := false, fcause := 0, row := 0, step := 0 },
    statq := [], statLost := 0, statCount := 0, regions := [], local_ := [], istore := [], icache := [], barriers := [],
    issuing := 0, waits := [], stoppedAt := [], yielded := false, half := none, vbusy := [], arrayAt := 0, replay := [], pushes := [], pushSeq := 0, l1 := [],
    engmap := 0xE400FF }

/-- A translation cached by a leaf (R394): the function, the page's base and size, the entry and its line. -/
structure TlbEntry where
  vf : Nat
  base : Nat
  size : Nat
  rd : Bool
  wr : Bool
  ex : Bool
  discard : Bool
  phys : Phys
deriving DecidableEq, Repr

/-- A walk in flight, or a party parked until its line is written (R393, R401): the party, its number, the access, and
the line a monitor watches, none where no monitor was free. -/
structure Walk where
  id : Nat
  party : Party
  vf : Nat
  va : Nat
  write : Bool
  read : Bool
  exec : Bool
  parked : Bool
  line : Option Phys
  since : W64
deriving DecidableEq, Repr

/-- A requeue pool entry (R398, R399): the task, the strand it ran on, and whether it waits for a page, with the page's
address, the access and the line watched. -/
structure Requeue where
  id : Nat
  task : Task
  who : Nat
  waiting : Bool
  va : Nat
  write : Bool
  key : Nat
deriving DecidableEq, Repr

/-- A request to another leaf that has not been answered (R361): which party asked, for which virtual line, of which place where it goes
to no member (R73, R77), and when it was sent. -/
structure Remote where
  txn : Nat
  party : Party
  vline : Nat
  place : Nat
  pkt : Packet
  sentAt : Nat
  resent : Bool
deriving DecidableEq, Repr

/-- A packet of the package's router whose acknowledgement has not come (R361, R375). -/
structure RouterAsk where
  txn : Nat
  place : Nat
  pkt : Packet
  sentAt : Nat
  resent : Bool
deriving DecidableEq, Repr

/-- The members' states of a switch (R67). -/
inductive Phase where
  | out | resuming | run | preparing | prepared | saving | faulted
deriving DecidableEq, Repr

/-- The leader's state (R70, R75): waiting for READY, counting, committing, or neither. -/
inductive LeaderPhase where
  | idle | starting | counting | committing
deriving DecidableEq, Repr

/-- A COUNT reply (R67). -/
structure CountReply where
  member : Nat
  prepared : Bool
  sent : W64
  recv : W64
deriving DecidableEq, Repr

/-- The leader's record of a gang's exchange or vote (R70, R75): where the members stand, the routers that count, NOW at the
start of the vote, the last round sent and the replies to it, the members whose READY and DONE are in. -/
structure Leader where
  gang : Nat
  phase : LeaderPhase
  size : Nat
  places : List Nat
  routers : List Nat
  start : W64
  round : Nat
  readys : List Nat
  replies : List CountReply
  dones : List Nat
deriving DecidableEq, Repr

/-- The placement of a collective's tree (R373): its block, and the nodes that lie at routers, by range and package; at a
router also where the members stand, its count of packets, and whether an abort has dropped it (R382). -/
structure Tree where
  gang : Nat
  block : BitVec 1024
  routers : List (Nat × Nat × Nat)
  places : List Nat
  sent : Nat
  recv : Nat
  dropped : Bool
deriving DecidableEq, Repr

/-- The nodes of a tree that lie at one location under one top node, for one chunk (R372, R375): the contributor bitmap, by
rank, the values held, by range, of which none are held once the top node's value has gone onward, and whether an addition in order
of arrival has made a NaN of values that are none (R379). -/
structure Node where
  gang : Nat
  seq : W64
  chunk : Nat
  lo : Nat
  hi : Nat
  bitmap : Nat
  parts : List (Nat × Nat × List (BitVec 32))
  made : Bool
deriving DecidableEq, Repr

/-- A collective at this member (R367 to R382): its block and the strand's command, how far it has come, the pieces of
chunks that have arrived and the chunks in place, the chunks whose send extent is still to be read, its combining nodes,
its count of packets, and an abort in progress: the tokens it completes, when it began, who has acknowledged it and the
counts that have come. -/
structure Coll where
  cmd : Cmd
  started : Bool
  placed : Bool
  pieces : List (Nat × Nat)
  inPlace : List Nat
  sendsLeft : List Nat
  nodes : List Node
  sent : Nat
  recv : Nat
  done : Bool
  fail : Bool
  aborted : Bool
  ccause : BitVec 8
  abortAt : Option W64
  abortTp : List (Nat × Nat × Nat)
  abortAcks : List Nat
  counts : List (Nat × Nat × Nat)
deriving DecidableEq, Repr

/-- A CWAIT not yet complete: its token's command number, the COLL it watches, strand and count (R380). -/
structure CWaitEntry where
  id : Nat
  coll : Nat
  who : Nat
  tp : Nat
  n : Nat
  addr : Nat
deriving DecidableEq, Repr

/-- A collective context (R378): its COLLs in order, the most recent last, and the CWAITs that are not complete. -/
structure CollCtx where
  colls : List Coll
  waits : List CWaitEntry
deriving DecidableEq, Repr

/-- A member on a leaf (R52, R421): its gang record's fields, its areas, its launch, its dispatcher and pool, its
barriers at cluster, leaf and gang scope, its collective contexts, the placements it holds, the SEQs of aborted collectives
that await release with the counts of those it has dropped, the members whose MDONE is in, the routers that combine for the gang as far as
its leader knows, its dustsheet, the packets held for it, and where the members stand. -/
structure Member where
  gang : Nat
  member : Nat
  vf : Nat
  cls : Nat
  size : Nat
  key : BitVec 8
  sent : W64
  recv : W64
  dustBase : Nat
  dustLimit : Nat
  saveBase : Nat
  launchBase : Nat
  image : Nat
  header : BitVec 1024
  args : List (BitVec 192)
  bhl : List (BitVec 32)
  live : FMap (BitVec 512)
  cfg3 : BitVec 128
  supPages : List Phys
  running : Option Nat
  launched : Bool
  nextWork : Nat
  workLeft : Bool
  pool : List Requeue
  aborts : FMap Nat
  unread : List (Nat × Nat × Nat)
  barriers : FMap Episode
  colls : FMap CollCtx
  trees : List Tree
  unreleased : List W64
  dropped : List (W64 × Nat × Nat)
  complete : Bool
  mdones : List Nat
  txnSeq : Nat
  routers : List Nat
  dust : List Packet
  dustUsed : Nat
  held : List Packet
  placement : List Nat
deriving DecidableEq, Repr

/-- A member context saved to its area (R420): the member record with its strands and cores; owed is the cause of a fault
that awaits its next start exchange, 0 for none (R405). -/
structure Saved where
  member : Member
  leaf : Nat
  strands : List (Nat × Strand)
  cores : List (Nat × Core)
  queues : List (Nat × List Cmd)
  remotes : List Remote
  answers : List (Nat × Packet)
  faulted : Bool
  captured : Bool
  savedAt : W64
  cmdSeq : Nat
  owed : BitVec 8
deriving DecidableEq, Repr

/-- A record of a configuration difference (R47): its unit, offset and CRC, and its bytes. -/
structure DiffRec where
  unit : Nat
  off : Nat
  ucrc : Nat
  data : List Byte
deriving DecidableEq, Repr

/-- What a LAUNCH has read of its image and buffers (R24 to R32, R47): the image's base, the header it runs under, its
argument buffer and handle records, the live masks, the code stream and dictionaries as bytes, the launch values of
circular buffers, the supervisor section, the fetch selection it starts with, and a dependent launch's predecessor and difference. -/
structure LaunchData where
  image : Nat
  pred : Option Nat
  header : BitVec 1024
  cfg3 : BitVec 128
  argBytes : List Byte
  args : List (BitVec 192)
  bhl : List (BitVec 32)
  live : FMap (BitVec 512)
  code : Mem
  dicts : FMap Mem
  cbt : FMap W64
  sup : Mem
  diff : List DiffRec
deriving DecidableEq, Repr

/-- Where a consumed packet stands; one that fails before it starts is refused (R41). -/
inductive PktStage where
  | waiting | started | writing | done | failed (cause : BitVec 8) | refused (cause : BitVec 8)
deriving DecidableEq, Repr

/-- A consumed queue packet (R40, R44): its slot's 64 bytes, the packets it waits for, its handles with their modes and
ranges, the gang it is bound to, its ring index, a started COPY's or CKPT's progress with its pages still to copy, what a
LAUNCH has read, a COPY's control block and index table, the places whose answer it awaits, and whether one of them found a new
configuration bad (R46, R49). -/
structure Pkt where
  pid : Nat
  vf : Nat
  queue : Nat
  index : Nat
  bytes : BitVec 512
  waits : List Nat
  handles : List (BitVec 32 × Nat × Nat × Nat)
  gang : Nat
  stage : PktStage
  at_ : W64
  progress : Nat
  pages : List (Nat × Nat)
  launch : Option LaunchData
  block : BitVec 1024
  table : Mem
  owed : List Nat
  bad : Bool
deriving DecidableEq, Repr

/-- An entry of the buffer-handle table (R44). -/
structure Handle where
  writer : Option Nat
  readers : List Nat
deriving DecidableEq, Repr

/-- A stencil's timing registers (R54, R55). -/
structure Stencil where
  frame0 : W64
  cfg : W64
  slot : W64
deriving DecidableEq, Repr

/-- The registers of one leaf's error counters (R455). -/
structure ErrLeaf where
  ce : BitVec 16
  hbmtr : BitVec 16
  misdel : BitVec 16
  keymis : BitVec 15
  last : Bool
deriving DecidableEq, Repr

/-- One leaf with its command processor (R13, R18); leaf 2 stands for the package's router, as a party of the fabric. got holds lines that other leaves have answered with, by the party
that asked and the virtual line; areas what other packages have answered of their members' areas for a head packet, by packet and
place (R32, R73); sealCount counts the packets that it and the router have sealed, for their nonces (R363). -/
structure Leaf where
  member : Option Member
  phase : Phase
  leaders : List Leader
  shadow : Stencil
  active : Stencil
  arm : Bool
  inForce : Bool
  sterr : Bool
  shadowCells : FMap (BitVec 32)
  cells : FMap (BitVec 32)
  slotNow : Nat
  slotStart : W64
  boundary : W64
  refTime : W64
  clk : Nat
  clkAcc : Nat
  clocked : Bool
  freezeLeft : Nat
  edge : List Packet
  tlb : List TlbEntry
  walks : List Walk
  walkSeq : Nat
  asked : List (Nat × Nat)
  pkts : List Pkt
  pktSeq : Nat
  handles : FMap Handle
  rrVf : Nat
  deficits : FMap Nat
  lastLaunch : FMap Nat
  sealCount : W64
  seqIn : FMap Nat
  seqOut : FMap Nat
  early : List Packet
  remotes : List Remote
  got : List (Party × Nat × BitVec 512)
  answers : List (Nat × Packet)
  cmdSeq : Nat
  frozen : List (Nat × Nat)
  retpg : FMap (BitVec 28)
  err : ErrLeaf
  pwrctl : W64
  pwrPend : Option W64
  training : Bool
  actfc : W64
  areas : List (Nat × Nat × Option (Bool × Bool))
deriving DecidableEq, Repr

/-- A host queue's registers (R33 to R35): halted, its cause and index, and the doorbell writes that
cover its pending packets, by order of arrival, with the tail each gave. -/
structure Queue where
  base : W64
  en : Bool
  logsz : BitVec 5
  prio : BitVec 3
  proc : BitVec 4
  tail : BitVec 32
  head : BitVec 32
  halt : Bool
  dberr : Bool
  cause : BitVec 8
  index : BitVec 32
  bells : List (Nat × Nat)
deriving DecidableEq, Repr

/-- A ring the package writes for the host: page requests (R400) or gang fault reports (R403). -/
structure Ring where
  base : W64
  en : Bool
  logsz : BitVec 5
  tail : BitVec 32
  head : BitVec 32
  held : List (List Byte)
deriving DecidableEq, Repr

/-- A virtual function's registers. -/
structure Vf where
  queues : FMap Queue
  weights : FMap (BitVec 8)
  ptroot : W64
  tlbBusy : Bool
  tlbSize : BitVec 3
  tlbPage : Nat
  prq : Ring
  gfr : Ring
  bufs : FMap W64
  meters : FMap W64
  reports : Nat
  prevHash : BitVec 384
deriving DecidableEq, Repr

/-- A pool region's registers and state (R269): 0 OFF, 1 ONLINE, 2 RETRY, 3 LOST. -/
structure PoolRegion where
  base : W64
  en : Bool
  port : BitVec 2
  key : BitVec 8
  size : BitVec 18
  state : BitVec 2
  cfgerr : Bool
  trans : Bool
  tcount : BitVec 16
  dump : W64
  retryAt : W64
deriving DecidableEq, Repr

/-- Line states of the pool line cache (R272), with orphans (R275). -/
inductive PoolState where
  | shared | exclusive | modified | orphan
deriving DecidableEq, Repr

/-- A line of the pool line cache (R271, R272), which State lists by key ID and line: its data, its key ID, the strand whose load or
PREF filled it, and whether an atomic in progress holds it. -/
structure PoolLine where
  state : PoolState
  key : BitVec 8
  data : BitVec 512
  filler : Option Nat
  busy : Bool
deriving DecidableEq, Repr

/-- A key slot of the router (R366): its gang, key, and an INSTALL or REVOKE waiting for combining state to go. -/
structure KeySlot where
  gang : BitVec 16
  enrolled : Bool
  key : BitVec 256
  revoke : Bool
  next : Option (BitVec 256)
deriving DecidableEq, Repr

/-- A Keuri port: up, retraining, down or without a peer (R454, R455). -/
inductive LinkState where
  | up | retraining | down | noPeer
deriving DecidableEq, Repr

/-- A retraining of a port (R454, R455): whether a write to its DOWN bit asked for it, and NOW when it began. -/
structure LinkTry where
  again : Bool
  since : W64
deriving DecidableEq, Repr

/-- A packet that waits for a port: the port, the package it goes by, its destination (R357, R454). -/
structure PortPacket where
  port : Nat
  via : Nat
  pkg : Nat
  leaf : Nat
  pkt : Packet
deriving DecidableEq, Repr

/-- Where an SPDM requester's sequence stands (R365). -/
inductive SpdmPhase where
  | idle | version | capabilities | algorithms | digests | certificate | measured | keyed | session
deriving DecidableEq, Repr

/-- What this package's router keeps for a gang whose traffic it combines (R66, R71): its counts, and whether it has
emitted its partials. -/
structure RouterGang where
  sent : W64
  recv : W64
  emitted : Bool
deriving DecidableEq, Repr

/-- The events that the package itself brings about, as its agenda holds them; each is the instruction of its name. The last lines are Plumb lane messages and
steps of a launch that the table has no row for. -/
inductive Ev where
  | bundleFetch (who : Nat) | trapEntry (who : Nat) | resultLand (who id : Nat) | loadDataReturn (who id : Nat) (reply : LoadReply)
  | storePerform (who id : Nat) | localPerform (who id : Nat) | xputLand (core id : Nat) | eventLatchSet (who : Nat) | waittExpiry (who : Nat)
  | safeovr (who : Nat) | dictchkHoldEnd (who : Nat) | dictldDone (who : Nat) | taskDispatch (leaf : Nat)
  | taskStart (who : Nat) | taskRetire (who : Nat) | regionFillComplete (core region : Nat)
  | fetchLineFill (core : Nat) (line : W64) | commandStart (queue : Nat) | commandComplete (queue : Nat)
  | monitorWake (leaf line : Nat) | rewalkTimer (leaf party : Nat) | walkComplete (leaf party : Nat)
  | launch (leaf vf q : Nat) | copy (leaf vf q : Nat) | waitsig (leaf vf q : Nat) | signalPacket (leaf vf q : Nat)
  | ckpt (leaf vf q : Nat) | meter (leaf vf q : Nat) | resize (leaf vf q : Nat) | packetStart (leaf pid : Nat)
  | waitsigPoll (leaf pid : Nat) | waitto (leaf pid : Nat) | copyComplete (leaf pid : Nat)
  | completionSignalRetry (leaf pid : Nat) | resizeApply (leaf pid : Nat) | actfcUpdate (leaf : Nat)
  | stencilApply (leaf : Nat) | slotBegin (leaf : Nat) | restoreComplete (leaf : Nat) | ready (leaf gang member : Nat)
  | go (leaf gang : Nat) | startto (leaf : Nat) | prepareStart (leaf : Nat) | memberPrepared (leaf : Nat)
  | prepdlCapture (leaf : Nat) | voteRound (leaf : Nat) | countreq (leaf gang round : Nat)
  | count (leaf gang member round : Nat) (prepared : Bool) (sent recv : W64) | commit (leaf gang : Nat) | contextSaved (leaf : Nat)
  | done (leaf gang member : Nat) | abort (leaf : Nat) (lead : Bool) (head : FaultHead) | votedlExpiry (leaf : Nat)
  | memberComplete (leaf : Nat) | mdone (leaf gang member : Nat) | fabricPacketArrival (leaf : Nat) (p : Packet)
  | remoteRequest (leaf : Nat) (p : Packet) | remoteResend (leaf txn : Nat) | collStart (leaf ctx : Nat)
  | placementRequest (leaf gang member : Nat) (block : BitVec 1024) | placement (leaf gang : Nat) (block : BitVec 1024) (routers : List (Nat × Nat × Nat)) | contribution (leaf : Nat) (p : Packet)
  | collAck (leaf ctx txn : Nat) | abortNotice (leaf gang member : Nat) (seq : W64) | cabortCountRound (leaf ctx : Nat)
  | releaseNotice (leaf gang : Nat) (seq : W64) | ownershipGrant (line : Nat) | poolRetryExpiry (region : Nat)
  | tlbinvDone (vf : Nat) | freezeEnd (leaf : Nat) | ckptStart (leaf pid : Nat) | ckptPageDrain (leaf pid page : Nat)
  | ckptComplete (leaf pid : Nat) | pwrctlApply (leaf : Nat) | keySlotClear (slot : Nat) | syncInterval | thwarn
  | pdelayReqInterval (port : Nat) | readyTimeout | restart | mpHeartbeat
  | exchange (leaf gang : Nat) (ref : W64) | startLaunch (leaf gang pid : Nat) (x : LaunchData)
  | cleanRanges (leaf gang pid : Nat) (ranges : List (Nat × Nat)) (drop : Bool) | placeDone (leaf pid place : Nat) (ok : Bool)
  | cfgCheck (leaf gang pid : Nat) (diff : List DiffRec) | launchGo (leaf pid : Nat) | launchOver (leaf gang : Nat)
  | areaCheck (leaf gang head place : Nat) | areaAnswer (leaf head place : Nat) (mapped allotted : Bool)
  | routersUsed (leaf gang : Nat) (routers : List Nat)
  | contextCall (gang member place : Nat) | contextHere (leaf : Nat) (c : Saved)
  | abortAck (leaf gang member : Nat) (seq : W64) | collCountReq (leaf gang member : Nat) (seq : W64)
  | collCount (leaf gang member : Nat) (seq : W64) (sent recv : Nat)
  | resizeMember (leaf gang pid : Nat) (recs : List (Nat × Nat × W64 × W64)) | freezePages (leaf gang pid vf : Nat) (pages : List Nat)
  | packetAck (leaf pid : Nat) | thawPage (leaf vf page : Nat)
  | authenticate | bringUp (leaf : Nat) | mpReloaded | linkLate (port : Nat) | l1Evict (core line : Nat)
deriving DecidableEq, Repr

/-- What the outside does to the package: one of its event instructions, a Plumb lane message from another package, or the
host's write of an aligned 8-byte unit of its memory (R36). -/
inductive Arrival where
  | act (i : Instr)
  | message (e : Ev)
  | hostWrite (unit : Nat) (data : W64)
deriving DecidableEq, Repr

/-- What the package sends to the outside: an MSI-X vector of a function, a register's value to a host read, a Plumb
lane message, a packet on a link with the package it goes by (0x3FF for none, R357), a PTP message or an SPDM response. -/
inductive Out where
  | msix (fn vector : Nat)
  | readData (fn offset : Nat) (value : W64)
  | plumb (place : Nat) (message : Ev)
  | packet (port via : Nat) (dstPkg dstLeaf : Nat) (p : Packet)
  | ptp (kind port : Nat) (stamp : W64)
  | spdm (kind : Nat) (body : List Byte)
  | pool (kind addr : Nat) (line : BitVec 512)
deriving DecidableEq, Repr

/-- The package: both leaves, the Scrim die, its memories, and the model's own fields (log 1): cur the strand and slot
an instruction is executed for, turn the core whose bundle comes next, agenda the package's own events that may come
about, inbox what the outside does to it, portWait the packets that wait for a port, poolBad the aperture pages with an uncorrectable line, spares the spare cores that the last boot left unbound (R22), pool what the pool devices hold, enciphered, and poolClear what the package's own writes there hold in clear, by line, with their key ID (R270), slotWas what aligned 8-byte units of pending queue slots held before the host wrote them and slotView what the command processors
see in place of them (R36), timers the events due at a leaf clock, out what has been sent, freeCount the free values used so far. -/
structure State where
  cur : Nat
  slot : Slot
  strands : FMap Strand
  cores : FMap Core
  leaves : FMap Leaf
  vfs : FMap Vf
  queues : FMap (List Cmd)
  hbm : Mem
  hbmKeys : FMap (BitVec 8)
  host : Mem
  slotWas : List (Nat × W64)
  slotView : FMap W64
  pool : Mem
  poolClear : FMap (BitVec 8 × BitVec 512)
  contexts : FMap Saved
  gangs : FMap (BitVec 128)
  gangsWritten : FMap Nat
  faultedGangs : FMap Nat
  allot : FMap W64
  routes : FMap (BitVec 512)
  kbshare : FMap (BitVec 6)
  plcshare : FMap (BitVec 12)
  rkslots : FMap KeySlot
  poolRegions : FMap PoolRegion
  poolLines : FMap PoolLine
  poolBad : List Nat
  trees : List Tree
  nodes : List Node
  routerGangs : FMap RouterGang
  routerAsks : List RouterAsk
  routerTxn : Nat
  links : FMap LinkState
  linkTry : FMap LinkTry
  portWait : List PortPacket
  pkg : Nat
  leafOk : BitVec 2
  spares : FMap (BitVec 3)
  minimal : Bool
  starts : BitVec 2
  isReady : Bool
  bootCause : BitVec 8
  fwver : BitVec 16
  flashen : Bool
  flash : Mem
  powered : Bool
  starting : Bool
  startAt : W64
  mpDown : Bool
  mpNext : W64
  watts : BitVec 16
  tj : BitVec 8
  thwarnBit : Bool
  linkerr : BitVec 16
  linktr : BitVec 16
  mphb : BitVec 16
  hbmwin : W64
  ptcfg : W64
  lock : Bool
  unlocked : Bool
  offset : BitVec 32
  goodSyncs : Nat
  syncAt : W64
  syncNext : W64
  pdelayT1 : FMap W64
  pdelayT2 : FMap W64
  pdelayT4 : FMap W64
  linkDelay : FMap W64
  slew : Int
  spdm : SpdmPhase
  now : W64
  nowFrac : Nat
  clk : Nat
  turn : Nat
  agenda : List Ev
  inbox : List Arrival
  timers : List (Nat × Nat × Ev)
  out : List Out
  freeCount : Nat
deriving DecidableEq, Repr

/-- A stencil register set at reset (R55): NSLOT 1, LEAD 40, PREPDL 10, VOTEDL 200. -/
def Stencil.reset : Stencil := { frame0 := 0, cfg := 0x00C8_000A_0028_0001, slot := 0 }

/-- Error counters at reset (R455). -/
def ErrLeaf.reset : ErrLeaf := { ce := 0, hbmtr := 0, misdel := 0, keymis := 0, last := false }

/-- A leaf at reset: no member, no stencil in force, PWRCTL RUN with CLK 90 (R452), ACTFC.HORIZON 8 (R51). No function was served
last, which R43 leaves without a first round: rrVf 0 makes function 0 the last of it (DESIGN CHOICE; unsafe: hardware could begin with
another function). -/
def Leaf.reset : Leaf :=
  { member := none, phase := .out, leaders := [], shadow := .reset, active := .reset, arm := false, inForce := false,
    sterr := false, shadowCells := [], cells := [], slotNow := 0, slotStart := 0, boundary := 0, refTime := 0, clk := 0, clkAcc := 0, clocked := true,
    freezeLeft := 0, edge := [], tlb := [], walks := [], walkSeq := 0, asked := [], pkts := [], pktSeq := 1, handles := [],
    rrVf := 0, deficits := [], lastLaunch := [], sealCount := 0, seqIn := [], seqOut := [], early := [], remotes := [], got := [], answers := [], cmdSeq := 1, frozen := [], retpg := [], err := .reset,
    pwrctl := 90 * 256, pwrPend := none, training := false, actfc := 8 * 256, areas := [] }

/-- A queue at reset (R34, R35). -/
def Queue.reset : Queue :=
  { base := 0, en := false, logsz := 4, prio := 0, proc := 0, tail := 0, head := 0, halt := false, dberr := false,
    cause := 0, index := 0, bells := [] }

/-- A page-request ring at reset (R400). -/
def Ring.reset (lg : BitVec 5) : Ring := { base := 0, en := false, logsz := lg, tail := 0, head := 0, held := [] }

/-- A virtual function at reset (R387, R395, R400, R403, R442); GFRCFG.LOGSZ follows PRQCFG field for field, reset 4,
stored as 6 (R403). -/
def Vf.reset : Vf :=
  { queues := [], weights := [], ptroot := 0, tlbBusy := false, tlbSize := 0, tlbPage := 0, prq := .reset 4,
    gfr := .reset 6, bufs := [], meters := [], reports := 0, prevHash := 0 }

/-- A pool region at reset (R269). -/
def PoolRegion.reset : PoolRegion :=
  { base := 0, en := false, port := 0, key := 0, size := 0, state := 0, cfgerr := false, trans := false, tcount := 0,
    dump := 0, retryAt := 0 }

/-- A key slot at reset (R366). -/
def KeySlot.reset : KeySlot := { gang := 0, enrolled := false, key := 0, revoke := false, next := none }

/-- The package after reset: every register at the Reset value of its map (R22: after boot has bound cores, both leaves
offered), nothing listed in any memory. -/
def State.reset : State :=
  { cur := 0, slot := .s0, strands := [], cores := [], leaves := [], vfs := [], queues := [], hbm := [], hbmKeys := [],
    host := [], slotWas := [], slotView := [], pool := [], poolClear := [], contexts := [], gangs := [], gangsWritten := [], faultedGangs := [], allot := [], routes := [],
    kbshare := [], plcshare := [], rkslots := [], poolRegions := [], poolLines := [], trees := [], nodes := [], routerGangs := [], routerAsks := [], routerTxn := 0, links := [],
    linkTry := [], portWait := [], poolBad := [], powered := true, starting := true, mpNext := 1024000000, watts := 0, pkg := 0, leafOk := 3, spares := [], minimal := false, starts := 0, isReady := false, bootCause := 0, fwver := 0,
    flashen := false, flash := [], startAt := 0, mpDown := false, tj := 0, thwarnBit := false, linkerr := 0, linktr := 0,
    mphb := 0, hbmwin := 0, ptcfg := 0xF900, lock := false, unlocked := false, offset := 0, goodSyncs := 0, syncAt := 0, syncNext := 0,
    pdelayT1 := [], pdelayT2 := [], pdelayT4 := [], linkDelay := [], slew := 0, spdm := .idle, now := 0, nowFrac := 0, clk := 0, turn := 0,
    agenda := [.authenticate], inbox := [], timers := [], out := [], freeCount := 0 }

end Sys2Proof.Machine
end

