-- ==== Sys2Proof/Machine/Ops.lean ====
section
/-! DEFINITION. The named operations on the state: its parts by number, a strand's registers, statistics records, the
agenda, and what a plan for a syllable answers. -/

namespace Sys2Proof.Machine

/-! Numbers of strands, cores and leaves: strand 256 l + 4 c + n, core 64 l + c (R1, R13). -/

/-- The core of a strand. -/
def coreOf (who : Nat) : Nat := who / 4

/-- The leaf of a strand. -/
def leafOf (who : Nat) : Nat := who / 256

/-- The leaf of a core. -/
def leafOfCore (core : Nat) : Nat := core / 64

/-- A strand. -/
def State.strand (s : State) (who : Nat) : Strand := s.strands.get who .reset

/-- Replace a strand. -/
def State.setStrand (s : State) (who : Nat) (x : Strand) : State := { s with strands := s.strands.set who x }

/-- A core. -/
def State.core (s : State) (c : Nat) : Core := s.cores.get c .reset

/-- Replace a core. -/
def State.setCore (s : State) (c : Nat) (x : Core) : State := { s with cores := s.cores.set c x }

/-- A leaf. -/
def State.leaf (s : State) (l : Nat) : Leaf := s.leaves.get l .reset

/-- Replace a leaf. -/
def State.setLeaf (s : State) (l : Nat) (x : Leaf) : State := { s with leaves := s.leaves.set l x }

/-- A virtual function. -/
def State.vf (s : State) (v : Nat) : Vf := s.vfs.get v .reset

/-- Replace a virtual function. -/
def State.setVf (s : State) (v : Nat) (x : Vf) : State := { s with vfs := s.vfs.set v x }

/-- The commands of an engine queue, first first. -/
def State.cmds (s : State) (q : Nat) : List Cmd := s.queues.get q []

/-- Replace an engine queue. -/
def State.setCmds (s : State) (q : Nat) (l : List Cmd) : State := { s with queues := s.queues.set q l }

/-- Change a strand. -/
def State.onStrand (s : State) (who : Nat) (f : Strand → Strand) : State := s.setStrand who (f (s.strand who))

/-- Change a core. -/
def State.onCore (s : State) (c : Nat) (f : Core → Core) : State := s.setCore c (f (s.core c))

/-- Change a leaf. -/
def State.onLeaf (s : State) (l : Nat) (f : Leaf → Leaf) : State := s.setLeaf l (f (s.leaf l))

/-- Change a virtual function. -/
def State.onVf (s : State) (v : Nat) (f : Vf → Vf) : State := s.setVf v (f (s.vf v))

/-- The strand an instruction is executed for. -/
def State.me (s : State) : Strand := s.strand s.cur

/-- Change the strand an instruction is executed for. -/
def State.onMe (s : State) (f : Strand → Strand) : State := s.onStrand s.cur f

/-- Change the core an instruction is executed on. -/
def State.onMyCore (s : State) (f : Core → Core) : State := s.onCore (coreOf s.cur) f

/-- The member on a strand's leaf. -/
def State.memberOf (s : State) (who : Nat) : Option Member := (s.leaf (leafOf who)).member

/-- Send something to the outside. -/
def State.emit (s : State) (o : Out) : State := { s with out := s.out ++ [o] }

/-- Let an event come about. -/
def State.post (s : State) (i : Ev) : State := { s with agenda := s.agenda ++ [i] }

/-- An event has come about. -/
def State.unpost (s : State) (i : Ev) : State := { s with agenda := s.agenda.erase i }

/-- Let an event come about at a leaf's clock, n clocks from now. -/
def State.after (s : State) (leaf n : Nat) (i : Ev) : State :=
  { s with timers := s.timers ++ [(leaf, (s.leaf leaf).clk + n, i)] }

/-- The clock of the strand cur's leaf. -/
def State.clkHere (s : State) : Nat := (s.leaf (leafOf s.cur)).clk

/-- Is the slot in the second issue group of a split bundle (R65). -/
def secondGroup : Slot → Bool
  | .s1 | .v1 => true
  | _ => false

/-- The clock in which the syllable at the slot issues: of a split bundle, the clock of its group (R65). -/
def State.issueClk (s : State) : Nat :=
  match (s.core (coreOf s.cur)).half with
  | some (w, c) => if w = s.cur ∧ secondGroup s.slot = false then c else s.clkHere
  | none => s.clkHere

/-- Put results in flight, to land together n clocks after issue (R191); those of slot M are a local load's. -/
def State.fly (s : State) (n : Nat) (l : List Landing) : State :=
  let clk := s.issueClk
  let load := s.slot == .m
  s.onMe fun t => { t with flights := t.flights ++ [{ id := t.flightSeq, due := clk + n, load := load, lands := l }],
                           flightSeq := t.flightSeq + 1 }

/-- The next free value's number. -/
def State.fresh (s : State) : Nat × State := (s.freeCount, { s with freeCount := s.freeCount + 1 })

/-- A choice that the spec leaves open among the elements of a list (log 4). -/
def State.choose {α : Type} (s : State) (l : List α) : Option α × State :=
  let (n, s) := s.fresh
  (l[Config.freeChoice n % l.length]?, s)

/-- A free 64-bit value: one that the spec does not state (log 5). -/
def State.freeWord (s : State) : W64 × State :=
  let n := s.freeCount
  (Config.freeByte n ++ Config.freeByte (n + 1) ++ Config.freeByte (n + 2) ++ Config.freeByte (n + 3) ++
   Config.freeByte (n + 4) ++ Config.freeByte (n + 5) ++ Config.freeByte (n + 6) ++ Config.freeByte (n + 7),
   { s with freeCount := n + 8 })

/-- One bit of CRC-32C, least significant first. -/
def crcBit (c : BitVec 32) : BitVec 32 := if c.getLsbD 0 then (c >>> 1) ^^^ 0x82F63B78 else c >>> 1

/-- One byte of CRC-32C. -/
def crcByte (c : BitVec 32) (b : Byte) : BitVec 32 :=
  let d := c ^^^ b.zeroExtend 32
  crcBit (crcBit (crcBit (crcBit (crcBit (crcBit (crcBit (crcBit d)))))))

/-- The register of CRC-32C after n bytes of a memory from i; it is matched as a number, so that evaluation settles each byte
before the next. -/
def crcFrom (m : Nat → Byte) : Nat → Nat → BitVec 32 → BitVec 32
  | 0, _, c => c
  | n + 1, i, c =>
    match (crcByte c (m i)).toNat with
    | 0 => crcFrom m n (i + 1) 0
    | k + 1 => crcFrom m n (i + 1) (BitVec.ofNat 32 (k + 1))

/-- CRC-32C of n bytes of a memory (R25). -/
def crc32c (m : Nat → Byte) (n : Nat) : BitVec 32 := ~~~(crcFrom m n 0 (BitVec.allOnes 32))

/-! A strand's registers (R107, R127, R129). -/

/-- The physical number of a vector register (R129). -/
def Strand.physV (t : Strand) (n : Nat) : Nat := if n < 128 then n else 128 + (n - 128 + t.rvb.toNat) % 64

/-- The physical number of a predicate (R129). -/
def Strand.physP (t : Strand) (n : Nat) : Nat := if n < 32 then n else 32 + (n - 32 + t.rpb.toNat) % 32

/-- A scalar register; s0 reads 0 (R107). -/
def Strand.rdS (t : Strand) (n : BitVec 6) : W64 := if n = 0 then 0 else t.sregs.get n.toNat 0

/-- Write a scalar register; a write to s0 is discarded (R107). -/
def Strand.wrS (t : Strand) (n : BitVec 6) (x : W64) : Strand :=
  if n = 0 then t else { t with sregs := t.sregs.set n.toNat x }

/-- A predicate; p0 reads true (R107). -/
def Strand.rdP (t : Strand) (n : BitVec 6) : Bool := if n = 0 then true else t.pregs.getLsbD (t.physP n.toNat)

/-- Set one bit. -/
def setBit {w : Nat} (x : BitVec w) (i : Nat) (b : Bool) : BitVec w :=
  if b then x ||| BitVec.ofNat w (2 ^ i) else x &&& ~~~(BitVec.ofNat w (2 ^ i))

/-- Write a predicate; a write to p0 is discarded (R107). -/
def Strand.wrP (t : Strand) (n : BitVec 6) (b : Bool) : Strand :=
  if n = 0 then t else { t with pregs := setBit t.pregs (t.physP n.toNat) b }

/-- A mask register; k0 reads all ones (R107). -/
def Strand.rdK (t : Strand) (n : BitVec 4) : KBits := if n = 0 then BitVec.allOnes 512 else t.kregs.get n.toNat 0

/-- A vector register by its architectural number; tag RAW and 0 at launch (R127). -/
def Strand.rdV (t : Strand) (n : Nat) : VReg := t.vregs.get (t.physV n) { bits := 0, tag := .raw }

/-- A circular-buffer descriptor (R134). -/
def Strand.rdCb (t : Strand) (n : Nat) : W64 := t.cbs.get n 0

/-- A token; tk0 is always complete (R107). -/
def Strand.rdTk (t : Strand) (n : Nat) : Token := if n = 0 then .complete else t.tks.get n .complete

/-- A partial-sum latch, 0 tagged FP32 at launch (R211). -/
def Strand.rdPs (t : Strand) (n : Nat) : Latch := t.latches.get n { bits := 0, int := false }

/-- Land one value in its register (R191); a write to s0 or k0 is discarded (R107). -/
def Strand.land (t : Strand) (l : Landing) : Strand :=
  match l with
  | .s n x => if n = 0 then t else { t with sregs := t.sregs.set n x }
  | .k n x => if n = 0 then t else { t with kregs := t.kregs.set n x }
  | .v n x => { t with vregs := t.vregs.set n x }
  | .ps n x => { t with latches := t.latches.set n x }

/-- The register a landing writes. -/
def Landing.reg : Landing → Reg
  | .s n _ => .s n
  | .k n _ => .k n
  | .v n _ => .v n
  | .ps n _ => .ps n

/-- A loop level. -/
def Strand.loop (t : Strand) (lvl : Bool) : Loop := if lvl then t.loop1 else t.loop0

/-- Change a loop level. -/
def Strand.onLoop (t : Strand) (lvl : Bool) (f : Loop → Loop) : Strand :=
  if lvl then { t with loop1 := f t.loop1 } else { t with loop0 := f t.loop0 }

/-! Trap causes (R409). -/

def ILLCODE : BitVec 8 := 0x01
def FETCHBND : BitVec 8 := 0x02
def FETCHXL : BitVec 8 := 0x03
def DELAYBR : BitVec 8 := 0x04
def ILLINST : BitVec 8 := 0x05
def WRDUP : BitVec 8 := 0x06
def PRIV : BitVec 8 := 0x07
def FMTTAG : BitVec 8 := 0x08
def BOUNDS : BitVec 8 := 0x09
def ALIGN : BitVec 8 := 0x0A
def LOOPBR : BitVec 8 := 0x0B
def MEMXL : BitVec 8 := 0x0C
def POOLLOST : BitVec 8 := 0x0D
def WSFAULT : BitVec 8 := 0x0E
def ENGFAULT : BitVec 8 := 0x0F
def SWTRAP : BitVec 8 := 0x20

/-- The number TRAPCAUSE.SLOT holds (R410). -/
def slotCode : Slot → BitVec 3
  | .s0 => 0 | .s1 => 1 | .v0 => 2 | .v1 => 3 | .m => 4 | .q => 5 | .e => 6 | .b => 7

/-- What a syllable's checks on the state before its bundle answer: its writes, to be made when the whole bundle commits
(R8); a precise trap with TRAPADDR where the cause has one (R409); the
trap of a held report (R250, R305); a stall, with what the stalled syllable has started (a
fill, a walk, a park); the abort and requeue of the task (R398); or, for an engine command, checks that are made on the
state with the bundle's earlier slots written (R289, R314). -/
inductive Plan where
  | go (f : State → State)
  | late (f : State → Plan)
  | trap (cause : BitVec 8) (addr : Option W64)
  | report (r : Report)
  | stall (s : State)
  | abort (s : State)

/-- Check a condition, or trap. -/
def Plan.need (c : Bool) (cause : BitVec 8) (p : Plan) : Plan := if c then p else .trap cause none

/-- Check a condition, or trap with an address. -/
def Plan.needAt (c : Bool) (cause : BitVec 8) (addr : W64) (p : Plan) : Plan :=
  if c then p else .trap cause (some addr)

/-- A plan that only writes the issuing strand's registers. -/
def Plan.reg (f : Strand → Strand) : Plan := .go fun s => s.onMe f

/-! Statistics records (R446 to R448). -/

/-- A record's 64 bits (R447). -/
def statRecord (kind strand detail pc seq : Nat) : W64 :=
  BitVec.ofNat 64 (kind % 16 + strand % 4 * 2 ^ 4 + detail % 256 * 2 ^ 8 + pc % 2 ^ 32 * 2 ^ 16 + seq % 2 ^ 16 * 2 ^ 48)

/-- The LOST record once one more record is dropped: DETAIL counts the drops, and SEQ is the count at the last (R447, R448;
log 83). -/
def lostRecord (was : W64) (seq : Nat) : W64 := statRecord 7 0 (min ((was.extractLsb' 8 8).toNat + 1) 255) 0 seq

/-- Append a record; while 31 are held it is dropped, and the 32nd entry is LOST (R448). -/
def Core.record (c : Core) (kind strand detail pc : Nat) : Core :=
  let seq := c.statCount + 1
  if c.statq.length < 31 then
    { c with statq := c.statq ++ [statRecord kind strand detail pc seq], statCount := seq }
  else { c with statLost := lostRecord c.statLost seq, statCount := seq }

/-- Append records of the issuing bundle, stamped with its address (R192): NANGEN 1, SAT 2. -/
def State.recordMe (s : State) (kind : Nat) (yes : Bool) : State :=
  if yes then s.onMyCore fun c => c.record kind (s.cur % 4) 0 s.me.pc else s

/-- Read and advance the head (R432, R448): the LOST record is read after those before it. -/
def Core.takeRecord (c : Core) : W64 × Core :=
  match c.statq with
  | r :: t => (r, { c with statq := t })
  | [] =>
    (c.statLost, { c with statLost := 0 })

/-! Meters and counters (R236, R237, R442, R443). -/

/-- Add to a 64-bit counter that saturates (R442). -/
def Vf.meter (v : Vf) (n k : Nat) : Vf :=
  { v with meters := v.meters.set n (BitVec.ofNat 64 (min ((v.meters.get n 0).toNat + k) (2 ^ 64 - 1))) }

/-- Count on the meters of the function whose member holds a leaf (R443). -/
def State.meter (s : State) (leaf n k : Nat) : State :=
  match (s.leaf leaf).member with
  | none => s
  | some m => s.onVf m.vf fun v => v.meter n k

/-- The buffer number of an address: the first handle slot whose range holds it, 256 for OTHER (R236). -/
def Member.bufNo (m : Member) (va : Nat) : Nat :=
  let rec go : List (BitVec 192) → List (BitVec 32) → Nat
    | [], _ => 256
    | a :: t, l =>
      let b := (a.extractLsb' 64 64).toNat
      let n := (a.extractLsb' 128 64).toNat
      if b ≤ va ∧ va < b + n then ((l.headD 0).extractLsb' 8 8).toNat else go t l.tail
  go m.args m.bhl

/-- Count bytes moved under a buffer number; the counter pair wraps (R237). -/
def State.countBytes (s : State) (leaf va n : Nat) : State :=
  match (s.leaf leaf).member with
  | none => s
  | some m => s.onVf m.vf fun v =>
      let k := 2 * m.bufNo va
      { v with bufs := v.bufs.set k (v.bufs.get k 0 + BitVec.ofNat 64 n) }

/-- Charge a stall clock to a buffer number (R237). -/
def State.countStall (s : State) (leaf va : Nat) : State :=
  match (s.leaf leaf).member with
  | none => s
  | some m => s.onVf m.vf fun v =>
      let k := 2 * m.bufNo va + 1
      { v with bufs := v.bufs.set k (v.bufs.get k 0 + 1) }

/-- Add 1 to a counter that stays at its maximum (R455). -/
def satInc {w : Nat} (x : BitVec w) : BitVec w := if x = BitVec.allOnes w then x else x + 1

/-! Leaves that may serve (R13, R451, R453, R454). -/

/-- STATE of a leaf's PWRCTL: 0 RUN, 1 IDLE, 2 OFF (R452). -/
def State.pwrState (s : State) (leaf : Nat) : Nat := ((s.leaf leaf).pwrctl.extractLsb' 0 2).toNat

/-- Is a leaf offered to the host (R13, R451). -/
def State.offered (s : State) (leaf : Nat) : Bool := !s.minimal && s.leafOk.getLsbD leaf

/-- May a member's start exchange end on a leaf: it is offered, in RUN, trained, and has no lasting fault (R453, R454). -/
def State.leafUp (s : State) (leaf : Nat) : Bool := s.offered leaf && s.pwrState leaf == 0 && !(s.leaf leaf).training && !(s.leaf leaf).err.last

/-! Where members stand (R52). A place is twice a package's number plus the leaf. -/

/-- The leaf of this package that holds a member of a gang. -/
def State.leafHolding (s : State) (gang member : Nat) : Option Nat :=
  [0, 1].find? fun l => match (s.leaf l).member with
    | some m => m.gang == gang && m.member == member
    | none => false

/-- The place of a member of the gang on a leaf; a number from 2048 on names a package's router. -/
def State.placeOf (s : State) (leaf dst : Nat) : Nat :=
  if 2048 ≤ dst then 2 * (dst - 2048) else
  match (s.leaf leaf).member with
  | none => 2 * s.pkg + leaf
  | some m =>
    match s.leafHolding m.gang dst with
    | some l => 2 * s.pkg + l
    | none => m.placement.getD dst (2 * s.pkg + leaf)

/-- The places of every member of the gang on a leaf. -/
def State.placesOf (s : State) (leaf : Nat) : List Nat :=
  match (s.leaf leaf).member with
  | none => []
  | some m => (List.range m.size).map (s.placeOf leaf)

/-- A Plumb lane message to a place (R70): one to this package comes about here. -/
def State.tell (s : State) (place : Nat) (m : Nat → Ev) : State :=
  if place / 2 = s.pkg then s.post (m (place % 2)) else s.emit (.plumb place (m (place % 2)))

/-! Header fields of a launch (R25). -/

/-- n bytes at an offset of a little-endian image. -/
def bytesAt {w : Nat} (b : BitVec w) (off n : Nat) : Nat := b.toNat / 2 ^ (8 * off) % 2 ^ (8 * n)

/-- GANGSIZE. -/
def Member.gangSize (m : Member) : Nat := bytesAt m.header 0x04 2

/-- FLAGS bits BANK, SUPER, XIP. -/
def Member.flag (m : Member) (i : Nat) : Bool := bytesAt m.header 0x07 1 / 2 ^ i % 2 == 1

/-- NLIVE. -/
def Member.nlive (m : Member) : Nat := bytesAt m.header 0x56 2

/-- SAFEMAX: SAFEBOUND, 20,000 when it is 0 (R131). -/
def Member.safeMax (m : Member) : Nat :=
  let b := bytesAt m.header 0x0C 4
  if b = 0 then Config.defaultSafeMax else b

/-- SUPLEN. -/
def Member.supLen (m : Member) : Nat := bytesAt m.header 0x60 4

/-- CODEBASE (R87). -/
def Member.codeBase (m : Member) : Nat := if m.flag 2 then m.image + bytesAt m.header 0x40 4 else 0

/-- CODELIM (R87). -/
def Member.codeLim (m : Member) : Nat := if m.flag 2 then bytesAt m.header 0x44 4 / 2 else 8192

/-- Width of field descriptor n (R27). -/
def Member.fieldWidth (m : Member) (n : Nat) : Nat := bytesAt m.header (0x10 + 8 * n) 1

/-- BIND of field descriptor n (R27). -/
def Member.fieldBind (m : Member) (n : Nat) : Nat := bytesAt m.header (0x11 + 8 * n) 1

/-- COUNT of field descriptor n (R27). -/
def Member.fieldCount (m : Member) (n : Nat) : Nat := bytesAt m.header (0x14 + 8 * n) 4

/-- NFIELDS. -/
def Member.nfields (m : Member) : Nat := bytesAt m.header 0x09 1

/-- The lowest bit of field n (R27). -/
def Member.fieldLo (m : Member) (n : Nat) : Nat := (List.range n).foldl (fun a i => a + m.fieldWidth i) 0

end Sys2Proof.Machine
end

