-- ==== Sys2Proof/Machine/Operands.lean ====
section
/-! DEFINITION. Operand forms: the elements of a vector register, masks, tags, pairs and quads (R128, R137 to R140,
R188), and the immediates of the scalar forms (R161). -/

namespace Sys2Proof.Machine

/-- SExt of a field (R161). -/
def sext {w : Nat} (x : BitVec w) : W64 := x.signExtend 64

/-- ZExt of a field (R161). -/
def zext {w : Nat} (x : BitVec w) : W64 := x.zeroExtend 64

/-- Element i of w bits of a register's contents. -/
def eltOf (w : Nat) (v : VBits) (i : Nat) : Nat := v.toNat / 2 ^ (w * i) % 2 ^ w

/-- Element i of a register in a format (R137, R188). -/
def VReg.elt (f : Fmt) (v : VReg) (i : Nat) : Nat := eltOf f.bits v.bits i

/-- Elements h 0 to h (n - 1) of w bits each, laid out from bit 0. -/
def pack (w : Nat) (h : Nat → Nat) : Nat → Nat
  | 0 => 0
  | n + 1 => pack w h n + h n % 2 ^ w * 2 ^ (w * n)

/-- A register's contents from its elements in a format. -/
def packV (f : Fmt) (h : Nat → Nat) : VBits := BitVec.ofNat 4096 (pack f.bits h f.count)

/-- Element i is active under a mask: the bit of its lowest byte lane (R128). -/
def active (k : KBits) (f : Fmt) (i : Nat) : Bool := k.getLsbD (f.halfBytes * i / 2)

/-- New elements where active, the old ones elsewhere (R128). -/
def blend (f : Fmt) (k : KBits) (old : VBits) (h : Nat → Nat) : VBits :=
  packV f fun i => if active k f i then h i else eltOf f.bits old i

/-- A destination's tag check (R139): under a mask other than k0 its present tag is the one the write sets. -/
def destTagOk (t : Strand) (k : BitVec 4) (vd : Nat) (tag : Fmt) : Bool := k == 0 || (t.rdV vd).tag == tag

/-- A source's tag equals the format (R138). -/
def tagIs (t : Strand) (v : Nat) (f : Fmt) : Bool := (t.rdV v).tag == f

/-- A source of a logic, shift, move, permute, slide or select form: any tag under RAW (R138). -/
def tagOrRaw (t : Strand) (v : Nat) (f : Fmt) : Bool := f == .raw || (t.rdV v).tag == f

/-- The tag such a form sets: VA's tag under RAW, else the format (R138). -/
def resultTag (t : Strand) (va : Nat) (f : Fmt) : Fmt := if f = .raw then (t.rdV va).tag else f

/-- Element i of format f as a register of a tag holds it: bits [7:6] of a T6 byte and bits [15:12] of an S12 element are zero
as written (R137), whatever a bitwise form makes there (log 77). -/
def cleanElt (tag f : Fmt) (i x : Nat) : Nat :=
  match tag with
  | .t6 => x % 64
  | .s12 => if f.bits = 16 then x % 4096 else if i % 2 = 1 then x % 16 else x
  | _ => x

/-- Every register of a group carries a tag. -/
def groupTag (t : Strand) (base n : Nat) (f : Fmt) : Bool := (List.range n).all fun i => tagIs t (base + i) f

/-- Element i of a pair or quad in a format: register base + (i mod n), lane ⌊i / n⌋ (R140). -/
def groupElt (t : Strand) (base n : Nat) (f : Fmt) (i : Nat) : Nat := (t.rdV (base + i % n)).elt f (i / n)

/-- The landings of a result spread over n registers (R140). -/
def groupLand (t : Strand) (base n : Nat) (f : Fmt) (h : Nat → Nat) : List Landing :=
  (List.range n).map fun r => .v (t.physV (base + r)) { bits := packV f fun l => h (l * n + r), tag := f }

/-- One register's landing. -/
def landV (t : Strand) (vd : Nat) (bits : VBits) (tag : Fmt) : List Landing := [.v (t.physV vd) { bits := bits, tag := tag }]

/-- The rounding mode an RM field names (R108, R143). -/
def rmMode (t : Strand) : Rm → RMode
  | .fmode => .ofBits t.rmode
  | .rne => .rne
  | .rz => .rz
  | .rd => .down
  | .ru => .up

/-- INT16 index i of an index operand (R204). -/
def indexElt (t : Strand) (vb : Nat) (f : Fmt) (i : Nat) : Nat := groupElt t vb (idxRegs f) .int16 i

end Sys2Proof.Machine
end

