-- ==== Sys2Proof/Machine/ControlRegs.lean ====
section
/-! DEFINITION. What a control register reads as (R131 to R134, R410). -/

namespace Sys2Proof.Machine

/-- A bit of a register at its place. -/
def bitAt (b : Bool) (i : Nat) : W64 := if b then BitVec.ofNat 64 (2 ^ i) else 0

/-- HWID (R133). -/
def State.hwid (s : State) (who : Nat) : W64 :=
  BitVec.ofNat 64 (who % 4 + coreOf who % 64 * 2 ^ 2 + leafOf who * 2 ^ 8 + s.pkg * 2 ^ 9)

/-- TRAPCAUSE (R410). -/
def TrapRegs.causeReg (r : TrapRegs) : W64 :=
  r.cause.zeroExtend 64 ||| (r.slot.zeroExtend 64 <<< 8) ||| bitAt r.fetch 11 ||| bitAt r.abort 12

/-- TRAPPEND (R410). -/
def TrapRegs.pendReg (r : TrapRegs) : W64 :=
  r.ndelay.zeroExtend 64 ||| bitAt r.taken 2 ||| bitAt r.bsw 3 ||| bitAt r.bank 4

/-- A field of the member on a strand's leaf. -/
def State.ofMember (s : State) (who : Nat) (f : Member → Nat) : W64 := BitVec.ofNat 64 (((s.memberOf who).map f).getD 0)

/-- The registers a launch fixes (R29, R32, R87, R131). -/
def State.launchReg (s : State) (who : Nat) : Nat → W64
  | 0x02 => s.ofMember who Member.member
  | 0x03 => s.ofMember who Member.launchBase
  | 0x08 => bitAt (s.strand who).bank 0 ||| bitAt (s.ofMember who (fun m => if m.flag 2 then 1 else 0) == 1) 1
  | 0x09 => s.ofMember who Member.codeBase
  | 0x0A => BitVec.ofNat 64 (((s.memberOf who).map Member.codeLim).getD 8192)
  | 0x0B => s.ofMember who Member.safeMax &&& 0xFFFFFF
  | 0x20 => s.ofMember who fun m => m.key.toNat
  | _ => 0

/-- The trap state registers (R410). -/
def Strand.trapReg (t : Strand) : Nat → W64
  | 0x10 => t.trap.causeReg
  | 0x11 => t.trap.pc.zeroExtend 64
  | 0x12 => t.trap.addr
  | 0x13 => t.trap.pendReg
  | 0x14 => t.trap.tgt.zeroExtend 64
  | 0x15 => t.trap.syl.zeroExtend 64
  | 0x16 => t.trap.tscr
  | 0x17 => t.safeCount.zeroExtend 64 ||| bitAt t.safeOver 24
  | _ => 0

/-- The loop registers (R131). -/
def Strand.loopReg (t : Strand) : Nat → W64
  | 0x30 => t.loop0.lc.zeroExtend 64
  | 0x31 => t.loop0.ls.zeroExtend 64
  | 0x32 => t.loop0.le.zeroExtend 64
  | 0x33 => t.loop1.lc.zeroExtend 64
  | 0x34 => t.loop1.ls.zeroExtend 64
  | 0x35 => t.loop1.le.zeroExtend 64
  | _ => 0

/-- A control register's value (R131, R132, R133). -/
def State.readCr (s : State) (who : Nat) (n : Nat) : W64 :=
  let t := s.strand who
  if n = 0x00 then t.rmode.zeroExtend 64 ||| bitAt t.ftz 2
  else if n = 0x01 then t.workid
  else if n = 0x04 then t.rvb.zeroExtend 64
  else if n = 0x05 then t.rpb.zeroExtend 64
  else if n = 0x06 then bitAt t.ledit 0 ||| bitAt t.loop0.act 1 ||| bitAt t.loop1.act 2
  else if n = 0x07 then s.hwid who
  else if 0x40 ≤ n then t.rdCb (n - 0x40)
  else if 0x30 ≤ n then t.loopReg n
  else if 0x10 ≤ n ∧ n < 0x18 then t.trapReg n
  else s.launchReg who n

end Sys2Proof.Machine
end

