-- ==== Sys2Proof/Machine/Hazard.lean ====
section
/-! DEFINITION. The registers a syllable reads and writes, by physical number: what stalls issue (R191, R241) and what
two syllables of one bundle may not both write (R112). Writes to s0, p0, k0 and tk0 do not count. -/

namespace Sys2Proof.Machine

/-- A scalar source. -/
def rS (n : BitVec 6) : List Reg := if n = 0 then [] else [.s n.toNat]

/-- A scalar destination. -/
def wS (n : BitVec 6) : List Reg := if n = 0 then [] else [.s n.toNat]

/-- A predicate destination. -/
def wP (t : Strand) (n : BitVec 6) : List Reg := if n = 0 then [] else [.p (t.physP n.toNat)]

/-- A mask source. -/
def rK (n : BitVec 4) : List Reg := if n = 0 then [] else [.k n.toNat]

/-- A mask destination. -/
def wK (n : BitVec 4) : List Reg := if n = 0 then [] else [.k n.toNat]

/-- A vector source. -/
def rV (t : Strand) (n : BitVec 8) : List Reg := [.v (t.physV n.toNat)]

/-- A group of vector sources. -/
def rVs (t : Strand) (n : BitVec 8) (k : Nat) : List Reg := (List.range k).map fun i => .v (t.physV (n.toNat + i))

/-- A vector destination. -/
def wV (t : Strand) (n : BitVec 8) : List Reg := [.v (t.physV n.toNat)]

/-- A group of vector destinations. -/
def wVs (t : Strand) (n : BitVec 8) (k : Nat) : List Reg := rVs t n k

/-- A destination whose inactive elements are kept is read (R128). -/
def kept (t : Strand) (k : BitVec 4) (n : BitVec 8) : List Reg := if k = 0 then [] else rV t n

/-- A produced token. -/
def wTk (n : BitVec 5) : List Reg := if n = 0 then [] else [.tk n.toNat]

/-- Width ratio of a widening or narrowing conversion (R203). -/
def ratioOf (f g : Fmt) : Nat :=
  if f.halfBytes ≤ g.halfBytes then g.halfBytes / f.halfBytes else f.halfBytes / g.halfBytes

/-- The loop registers a LOOP or MLOOP writes: LC only with trips (R177, R182). -/
def loopRegs (t : Strand) (lvl : Bool) (sc : BitVec 6) : List Reg :=
  let l := if lvl then 1 else 0
  [.loop l 1, .loop l 2] ++ (if (t.rdS sc) = 0 then [] else [.loop l 0])

/-- The stage predicates and rotation bases an MLOOP with trips sets (R182). -/
def stageRegs (t : Strand) (sc : BitVec 6) : List Reg :=
  if (t.rdS sc) = 0 then [] else [.cr 4, .cr 5] ++ (List.range 32).map fun i => .p (32 + i)

/-- The register an MTS writes (R131). -/
def crRegs (cr : BitVec 8) : List Reg :=
  let n := cr.toNat
  if 0x30 ≤ n ∧ n < 0x36 then [.loop ((n - 0x30) / 3) ((n - 0x30) % 3)]
  else if 0x40 ≤ n ∧ n < 0x60 then [.cbp (n - 0x40)]
  else [.cr n]

/-- The registers a syllable reads that a result in flight may be on its way to (R191, R241). -/
def readRegs (t : Strand) : Instr → List Reg
  | .add o | .sub o | .mul o | .mulh o | .mulhu o | .div o | .divu o | .rem o | .remu o | .andS o => rS o.a ++ rS o.b
  | .orS o | .xorS o | .andn o | .shl o | .shr o | .sar o | .rol o | .min o | .max o | .minu o => rS o.a ++ rS o.b
  | .maxu o | .cmpeq o | .cmpne o | .cmplt o | .cmpltu o | .cmple o | .cmpleu o => rS o.a ++ rS o.b
  | .sel o | .shadd o => rS o.a ++ rS o.b
  | .clz o | .ctz o | .popc o | .brev o | .bswap o => rS o.a
  | .addi o | .muli o | .andi o | .ori o | .xori o | .shli o | .shri o | .sari o | .cmpeqi o | .cmpnei o => rS o.a
  | .cmplti o | .cmpgei o => rS o.a
  | .movk o => rS o.d
  | .vadd o | .vsub o | .vmul o | .vmin o | .vmax o | .vadds o | .vsubs o | .vmulh o | .vand o | .vor o => rV t o.va ++ rV t o.vb ++ rK o.k ++ kept t o.k o.vd
  | .vxor o | .vandn o | .vshl o | .vshr o | .vsar o => rV t o.va ++ rV t o.vb ++ rK o.k ++ kept t o.k o.vd
  | .vsel o => rV t o.va ++ rV t o.vb ++ rK o.k
  | .vdot4 o => rV t o.va ++ rV t o.vb ++ rK o.k ++ rV t o.vd
  | .vperm o => rV t o.va ++ rVs t o.vb (idxRegs o.fmt) ++ rK o.k ++ kept t o.k o.vd
  | .vabs o | .vneg o | .vnot o | .vmov o | .vexp2 o | .vlog2 o | .vrecip o | .vrsqrt o | .vtanh o | .vsilu o => rV t o.va ++ rK o.k ++ kept t o.k o.vd
  | .vtag o => rV t o.va
  | .fmaFp32 o | .fmaBf16 o | .fmaFp16 o | .fmsFp32 o | .fmsBf16 o | .fmsFp16 o | .fnmaFp32 o | .fnmaBf16 o | .fnmaFp16 o => rV t o.va ++ rV t o.vb ++ rV t o.vc
  | .vshls o | .vshrs o | .vsars o | .vslidedn o => rV t o.va ++ rS o.sb ++ rK o.k ++ kept t o.k o.vd
  | .vslideup o => rV t o.va ++ rS o.sb ++ rK o.k ++ rV t o.vd
  | .lsgath o => rVs t o.va (idxRegs o.fmt) ++ rS o.sb ++ rK o.k ++ kept t o.k o.vd
  | .lsscat o => rVs t o.va (idxRegs o.fmt) ++ rS o.sb ++ rK o.k ++ rV t o.vd
  | .vbcast o => rS o.sb ++ rK o.k ++ kept t o.k o.vd
  | .vcvt o => rV t o.va ++ rK o.k ++ kept t o.k o.vd
  | .vcvtw o => rV t o.va
  | .vcvtn o => rVs t o.va (ratioOf (t.rdV o.va.toNat).tag o.fmt)
  | .vcmpeq o | .vcmpne o | .vcmplt o | .vcmple o => rV t o.va ++ rV t o.vb ++ rK o.k ++ rK o.kd
  | .kand o | .kor o | .kxor o | .kandn o => rK o.ka ++ rK o.kb
  | .vmvs o => rV t o.va ++ rS o.sb ++ rK o.k
  | .vsplitVpart o => rK o.k
  | .qacc o | .qadd o | .qmax o | .qmin o => rV t o.va ++ rK o.k
  | .ldl o => rK o.k ++ kept t o.k o.reg
  | .stl o => rK o.k ++ rV t o.reg
  | .stls o => rS (o.reg.setWidth 6)
  | .lld o | .gld o | .ldlu o | .gldacqv o => rS o.sa ++ rK o.k ++ kept t o.k o.reg
  | .lst o | .gst o | .gstrelv o => rS o.sa ++ rK o.k ++ rV t o.reg
  | .glds o | .gldacq o | .pref o => rS o.sa
  | .gsts o | .gstrel o => rS o.sa ++ rS (o.reg.setWidth 6)
  | .xput o => rV t o.va ++ rS o.sa
  | .aadd o | .amin o | .amax o | .aand o | .aor o | .axor o | .aswap o => rS o.a ++ rS o.b
  | .acas o => rS o.a ++ rS o.b ++ rS o.c
  | .sev o | .bar o | .waitt o => rS o.s
  | .rmap o => rS o.a ++ rS o.b ++ rS o.c
  | .runmap o | .rflush o => rS o.a
  | .lsta o | .lmm o | .lmms o | .lepi o | .tcfg o | .tcfgd o | .hcpy o | .hstr o | .htrn o | .hgath o => rS o.sa
  | .hfill o | .hscat o | .kset o | .kget o | .spld o | .spev o | .spdx o | .spgr o | .spref o | .coll o => rS o.sa
  | .cwait o => rS o.sa
  | .bri o | .ret o => rS o.sl
  | .loop o | .mloop o => rS o.sc
  | .mts o => rS o.sa
  | .dictchk o => rS o.sa
  | .dictld o => rS o.sa
  | .signal o => rS o.sd ++ rS o.sa
  | _ => []

/-- The registers a syllable writes (R112). -/
def writeRegs (t : Strand) : Instr → List Reg
  | .add o | .sub o | .mul o | .mulh o | .mulhu o | .div o | .divu o | .rem o | .remu o | .andS o => wS o.d
  | .orS o | .xorS o | .andn o | .shl o | .shr o | .sar o | .rol o | .min o | .max o | .minu o => wS o.d
  | .maxu o => wS o.d
  | .cmpeq o | .cmpne o | .cmplt o | .cmpltu o | .cmple o | .cmpleu o | .pand o | .por o | .pxor o | .pandn o => wP t o.d
  | .sel o | .shadd o => wS o.d
  | .clz o | .ctz o | .popc o | .brev o | .bswap o => wS o.d
  | .addi o | .muli o | .andi o | .ori o | .xori o | .shli o | .shri o | .sari o => wS o.d
  | .cmpeqi o | .cmpnei o | .cmplti o | .cmpgei o => wP t o.d
  | .widf o | .movi o | .movk o => wS o.d
  | .vadd o | .vsub o | .vmul o | .vmin o | .vmax o | .vadds o | .vsubs o | .vmulh o | .vand o | .vor o => wV t o.vd
  | .vxor o | .vandn o | .vshl o | .vshr o | .vsar o | .vdot4 o | .vperm o | .vsel o => wV t o.vd
  | .vabs o | .vneg o | .vnot o | .vmov o | .vexp2 o | .vlog2 o | .vrecip o | .vrsqrt o | .vtanh o | .vsilu o => wV t o.vd
  | .vtag o => wV t o.vd
  | .fmaFp32 o | .fmaBf16 o | .fmaFp16 o | .fmsFp32 o | .fmsBf16 o | .fmsFp16 o | .fnmaFp32 o | .fnmaBf16 o | .fnmaFp16 o => wV t o.vd
  | .vshls o | .vshrs o | .vsars o | .vslidedn o | .vslideup o => wV t o.vd
  | .lsgath o => wV t o.vd
  | .vbcast o | .vsplati o => wV t o.vd
  | .vcvt o | .vcvtn o => wV t o.vd
  | .vcvtw o => wVs t o.vd (ratioOf (t.rdV o.va.toNat).tag o.fmt)
  | .vcmpeq o | .vcmpne o | .vcmplt o | .vcmple o | .kand o | .kor o | .kxor o | .kandn o => wK o.kd
  | .vmvs o => wS o.sd
  | .vsplitVpart o => wVs t o.vd (idxRegs o.fmt) ++ wS o.sd
  | .qacc o | .qadd o | .qmax o | .qmin o => [.ps o.ps.toNat]
  | .qdrn o => .ps o.ps.toNat :: wS o.sd
  | .ldl o | .lld o | .gld o | .gldacqv o | .ldlu o => wV t o.reg
  | .ldls o | .glds o | .gldacq o => wS (o.reg.setWidth 6)
  | .cbpush o | .cbpop o => [.cbp o.cb.toNat]
  | .aadd o | .amin o | .amax o | .aand o | .aor o | .axor o | .aswap o | .acas o => wS o.d
  | .rdnow o => wS o.s
  | .lsta o | .lmm o | .lmms o | .lepi o | .tcfg o | .tcfgd o | .hcpy o | .hstr o | .htrn o | .hgath o => wTk o.tp
  | .hfill o | .hscat o | .kset o | .kget o | .spld o | .spev o | .spdx o | .spgr o | .spref o | .coll o => wTk o.tp
  | .cwait o | .lswap o | .lzero o | .tgo o | .spswap o | .cabort o => wTk o.tp
  | .tstat o | .ctest o => wS o.sa
  | .call o => wS o.sl
  | .loop o => loopRegs t o.lvl o.sc
  | .mloop o => loopRegs t o.lvl o.sc ++ stageRegs t o.sc
  | .mfs o => wS o.sd
  | .mts o => crRegs o.cr
  | .stqrd o => wS o.sd
  | .dictchk o => wP t o.pd
  | _ => []

/-- A syllable of the branch map that R119 marks as a branch syllable. -/
def isBranch : Instr → Bool
  | .br _ | .bri _ | .call _ | .ret _ | .banksw _ | .eret => true
  | _ => false

/-- Do two lists share a register. -/
def shares (a b : List Reg) : Bool := a.any b.contains

/-- Is a register where a load's data goes (R241). -/
def LoadDest.holds (r : Reg) : LoadDest → Bool
  | .vec n _ _ => r == .v n
  | .scalar n _ => r == .s n
  | .gone => false

/-- Is a register the destination of a result in flight, of a scoreboarded load, or of a local load that a FENCE holds back (R191, R241,
R258). Latches are applied in
issue order and stall nothing (R215). -/
def Strand.busyReg (t : Strand) (r : Reg) : Bool :=
  (t.flights.any fun f => f.lands.any fun l => l.reg == r && (match r with | .ps _ => false | _ => true)) ||
  (t.loads.any fun l => l.dest.holds r) ||
  t.waits.any fun e => match e.kind with
    | .load d => d.holds r
    | .store _ => false

end Sys2Proof.Machine
end

