-- ==== Sys2Proof/Machine/Translate.lean ====
section
/-! DEFINITION. Memories by physical location, page tables and walks (R234, R387 to R396). -/

namespace Sys2Proof.Machine

/-- Bytes of one leaf's HBM. -/
def hbmSize : Nat := 2 ^ 38

/-- The key of a leaf's HBM byte in State.hbm. -/
def hbmAddr (leaf off : Nat) : Nat := leaf * hbmSize + off

/-- The number of the 64-byte line of a leaf's HBM byte. -/
def hbmLine (leaf off : Nat) : Nat := hbmAddr leaf off / 64

/-- A 64-byte line as one number. -/
def Phys.lineKey : Phys → Nat
  | .hbm l o => 4 * hbmLine l o
  | .host a => 4 * (a / 64) + 1
  | .pool a => 4 * (a / 64) + 2
  | .remote m o => 4 * (m * 2 ^ 40 + o / 64) + 3

/-- Does a leaf watch a line (R399, R401): a parked party's monitor, an outstanding page request or a
requeued task's monitor. -/
def Leaf.watches (l : Leaf) (key : Nat) : Bool :=
  l.walks.any (fun w => w.parked && (match w.line with
    | some p => p.lineKey == key
    | none => false)) || (l.asked.any fun a => a.2 == key) ||
  (l.member.any fun m => m.pool.any fun e => e.waiting && e.key == key)

/-- A write to a watched line wakes what waits on it (R399, R401). -/
def State.wakeLines (s : State) (keys : List Nat) : State :=
  keys.foldl (fun s k => [0, 1].foldl (fun s l =>
    if (s.leaf l).watches k && !s.agenda.contains (.monitorWake l k) then s.post (.monitorWake l k) else s) s) s

/-- May a reader see an HBM line: it was never written, or its writer's key ID is one the reader may see (R234). -/
def State.keyOk (s : State) (leaf off : Nat) (see : BitVec 8 → Bool) : Bool :=
  match s.hbmKeys.find? (hbmLine leaf off) with
  | none => true
  | some k => see k

/-- n bytes of a leaf's HBM; a line under another key ID reads as zero bytes (R234). -/
def State.hbmRead (s : State) (leaf off n : Nat) (see : BitVec 8 → Bool) : Nat :=
  match n with
  | 0 => 0
  | n + 1 =>
    (if s.keyOk leaf off see then (s.hbm.read (hbmAddr leaf off)).toNat else 0) + 256 * s.hbmRead leaf (off + 1) n see

/-- Write the masked bytes to a leaf's HBM, each line taking the writer's key ID (R234). A write under another key ID
than the line's leaves that line's other bytes as zero. -/
def State.hbmWrite (s : State) (leaf off n data mask : Nat) (key : BitVec 8) : State :=
  let lines := (List.range n).filterMap fun i =>
    if mask / 2 ^ i % 2 = 1 then some (hbmLine leaf (off + i)) else none
  let clear (s : State) (l : Nat) : State :=
    if s.hbmKeys.find? l = some key then s
    else { s with hbm := (if (s.hbmKeys.find? l).isSome then s.hbm.clear (64 * l) 64 else s.hbm),
                  hbmKeys := s.hbmKeys.set l key }
  let s := lines.foldl clear s
  { s with hbm := s.hbm.writeMasked (hbmAddr leaf off) n data mask }.wakeLines (lines.eraseDups.map fun l => 4 * l)

/-- Count one key-mismatch read of a leaf, saturating (R234, R455). -/
def State.keyMiss (s : State) (leaf : Nat) : State :=
  s.onLeaf leaf fun l => { l with err := { l.err with keymis := satInc l.err.keymis } }

/-- Count the lines among n bytes of a leaf's HBM that a read under another key ID meets (R234). -/
def State.keyMisses (s : State) (leaf off n : Nat) (see : BitVec 8 → Bool) : State :=
  (List.range ((off + n + 63) / 64 - off / 64)).foldl (fun s i => if s.keyOk leaf (64 * (off / 64 + i)) see then s else s.keyMiss leaf) s

/-- Is a 1 GiB unit of a leaf's HBM allotted to a function (R391). -/
def State.allotted (s : State) (vf leaf off : Nat) : Bool :=
  let u := off / 2 ^ 30
  ((s.allot.get (vf * 8 + leaf * 4 + u / 64) 0).getLsbD (u % 64))

/-- Does a range lie wholly in units of a leaf's HBM allotted to a function (R391). -/
def State.allAllotted (s : State) (vf leaf off n : Nat) : Bool :=
  decide (off + n ≤ hbmSize) && (List.range ((off + n + 2 ^ 30 - 1) / 2 ^ 30 - off / 2 ^ 30)).all fun i => s.allotted vf leaf ((off / 2 ^ 30 + i) * 2 ^ 30)

/-- Is a 4 KiB page of a leaf's HBM retired (R406). -/
def Leaf.retired (l : Leaf) (off : Nat) : Bool := l.retpg.any fun p => p.2.toNat == off / 4096

/-- Is a 4 KiB page of a leaf's HBM retired (R406). -/
def State.retired (s : State) (leaf off : Nat) : Bool := (s.leaf leaf).retired off

/-- A page table entry's fields (R389). -/
structure Pte where
  raw : W64
deriving DecidableEq, Repr

/-- Bit i of an entry. -/
def Pte.bit (e : Pte) (i : Nat) : Bool := e.raw.getLsbD i

/-- PA: bits 51:12, as an address. -/
def Pte.pa (e : Pte) : Nat := (e.raw.extractLsb' 12 40).toNat * 4096

/-- MEMB. -/
def Pte.memb (e : Pte) : Nat := (e.raw.extractLsb' 52 11).toNat

/-- Malformed entries (R389; log 74). -/
def Pte.malformed (e : Pte) (level : Nat) : Bool :=
  e.bit 10 || e.bit 11 || e.bit 63 ||
  (e.bit 1 && level == 3) || (!e.bit 1 && level == 0) || (e.bit 5 && (level == 2 || !e.bit 1)) ||
  (!e.bit 1 && (e.raw.extractLsb' 2 8) != 0)

/-- What an access needs (R392). -/
structure Need where
  rd : Bool
  wr : Bool
  ex : Bool
deriving DecidableEq, Repr

def needRd : Need := { rd := true, wr := false, ex := false }
def needWr : Need := { rd := false, wr := true, ex := false }
def needRw : Need := { rd := true, wr := true, ex := false }
def needEx : Need := { rd := false, wr := false, ex := true }

/-- How a walk ends (R396): with the translation; or with the line of the entry that is not resident or busy; a page
of a lost pool region, which raises POOLLOST (R268); or INVALID. -/
inductive WalkEnd where
  | mapped (e : TlbEntry)
  | nonres (line : Phys)
  | busy (line : Phys)
  | lost
  | invalid
deriving DecidableEq, Repr

/-- The pool region of an aperture address, enabled and not OFF (R268, R269). -/
def State.poolRegionOf (s : State) (a : Nat) : Option PoolRegion :=
  (s.poolRegions.map Prod.snd).find? fun r =>
    r.en && decide (r.base.toNat ≤ a) && decide (a < r.base.toNat + r.size.toNat * 2 ^ 30)

/-- A pool line of a key ID in the line cache: each key ID has lines of its own (R271). -/
def poolSlot (key : BitVec 8) (line : Nat) : Nat := 256 * line + key.toNat

/-- A line of a pool device as a key ID deciphers it (R270). -/
def State.poolPlain (s : State) (key : BitVec 8) (line : Nat) : BitVec 512 :=
  let raw := Config.poolPlain key (64 * line) (BitVec.ofNat 512 (s.pool.readNat (64 * line) 64))
  match s.poolClear.find? line with
  | some (k, x) => if k = key then x else raw
  | none => raw

/-- The data of a pool line for a key ID: the line cache's, else the device's (R270, R271). -/
def State.poolData (s : State) (key : BitVec 8) (line : Nat) : BitVec 512 :=
  match s.poolLines.find? (poolSlot key line) with
  | some l => l.data
  | none => s.poolPlain key line

/-- An atomic in progress holds its line, or holds it no longer (R271, R272). -/
def State.poolHold (s : State) (key : BitVec 8) (line : Nat) (held : Bool) : State :=
  match s.poolLines.find? (poolSlot key line) with
  | some l => { s with poolLines := s.poolLines.set (poolSlot key line) { l with busy := held } }
  | none => s

/-- An access that goes, performed or not, holds no pool line (R271, R272). -/
def State.poolLoose (s : State) (key : BitVec 8) (e : LoadEntry) : State :=
  match e.kind, e.lines with
  | .atomic _ _ _ _, (_, .pool a) :: _ => s.poolHold key (a / 64) false
  | _, _ => s

/-- Where an entry's page lies for a leaf and a member's key (R268, R391). -/
def State.place (s : State) (leaf vf : Nat) (key : BitVec 8) (e : Pte) : Option Phys ⊕ Unit :=
  let pa := e.pa
  if e.bit 9 then .inl (some (.remote e.memb pa))
  else if pa < hbmSize then
    (if s.allotted vf leaf pa then .inl (some (.hbm leaf pa)) else .inl none)
  else if 0x400000000000 ≤ pa ∧ pa < 0x800000000000 then .inl (some (.host (pa - 0x400000000000)))
  else if 0x800000000000 ≤ pa ∧ pa < 0x1000000000000 then
    match s.poolRegionOf pa with
    | none => .inl none
    | some r =>
      if r.key != key || (s.plcshare.get key.toNat 0) == 0 then .inl none
      else if r.state = 3 then .inr ()
      else if r.state = 1 ∨ r.state = 2 then .inl (some (.pool pa)) else .inl none
  else .inl none

/-- Do all bytes of a page lie in the space that its first byte lies in, HBM in allotted units (R391; log 75). -/
def State.pageFits (s : State) (vf : Nat) (p : Phys) (size : Nat) : Bool :=
  match p with
  | .hbm leaf off => s.allAllotted vf leaf off size
  | .host a => decide (a + size ≤ 0x400000000000)
  | .pool a => decide (a + size ≤ 0x1000000000000)
  | .remote _ _ => true

/-- Where the 8 bytes of a table entry lie, in the space PTROOT selects (R387, R391). -/
def State.tableAt (s : State) (vf : Nat) (a : Nat) : Option Phys :=
  let root := (s.vf vf).ptroot
  if root.getLsbD 1 then some (.host a)
  else
    let leaf := if root.getLsbD 2 then 1 else 0
    if a < hbmSize && s.allotted vf leaf a && !s.retired leaf a then some (.hbm leaf a) else none

/-- A table entry; walkers read HBM under key ID 0 (R235). -/
def State.readPte (s : State) (p : Phys) : Pte :=
  match p with
  | .hbm leaf off => { raw := BitVec.ofNat 64 (s.hbmRead leaf off 8 (· == 0)) }
  | .host a => { raw := BitVec.ofNat 64 (s.host.readNat a 8) }
  | _ => { raw := 0 }

/-- Does an entry lie in an HBM line of another key ID, which the walker reads as zeros and counts (R234, R235). -/
def State.pteMiss (s : State) (p : Phys) : Bool :=
  match p with
  | .hbm leaf off => !s.keyOk leaf off (· == 0)
  | _ => false

/-- Index of a virtual address at a level (R388). -/
def vaIndex (va level : Nat) : Nat := va / 2 ^ (12 + 9 * level) % 512

/-- Bytes of the part of a page that one entry at a level maps (R388). -/
def pageSize (level : Nat) : Nat := 2 ^ (12 + 9 * level)

/-- The number of a group's 16 entries is a multiple of 16 (R389, R390). -/
def groupOf (i : Nat) : Nat := i / 16 * 16

/-- The entry at an index of a table. -/
def State.entryAt (s : State) (vf table i : Nat) : Option (Phys × Pte) := (s.tableAt vf (table + 8 * i)).map fun p => (p, s.readPte p)

/-- Is an entry one of a page of 16 times the size (R389). -/
def Pte.cont (e : Pte) : Bool := e.bit 0 && e.bit 1 && e.bit 5

/-- The entry that decides for an address, and whether it maps the page of a CONT group: where the 16 entries of a group disagree,
any of them (R390; log 4). -/
def State.entryFor (s : State) (vf table level va : Nat) : Option (Phys × Pte × Bool) :=
  let i := vaIndex va level
  match s.entryAt vf table i with
  | none => none
  | some (p, e) =>
    if 2 ≤ level || (e.bit 0 && !e.bit 1) then some (p, e, false) else
    let g := (List.range 16).filterMap fun j => s.entryAt vf table (groupOf i + j)
    if !(g.any fun x => x.2.cont) then some (p, e, false)
    else if g.all fun x => x.2 == e then some (p, e, true)
    else match g[Config.contEntry s.clk (table + 8 * i) % 16]? with
      | some (q, x) => some (q, x, true)
      | none => none

/-- A walk from a table at a level (R388 to R396). -/
def State.walkFrom (s : State) (leaf vf : Nat) (key : BitVec 8) (need : Need) (va : Nat) : Nat → Nat → WalkEnd
  | level, table =>
    match s.entryFor vf table level va with
    | none => .invalid
    | some (p, e, cont) =>
      if !e.bit 0 then (if e.bit 7 then .busy p else if e.bit 8 then .nonres p else .invalid)
      else if e.malformed level then .invalid
      else if e.bit 1 then
        if (need.rd && !e.bit 2) || (need.wr && !e.bit 3) || (need.ex && !e.bit 4) then .invalid
        else match s.place leaf vf key e with
          | .inr () => .lost
          | .inl none => .invalid
          | .inl (some ph) =>
            let size := if cont then 16 * pageSize level else pageSize level
            if !s.pageFits vf ph size then .invalid else
            .mapped { vf := vf, base := va / size * size, size := size, rd := e.bit 2, wr := e.bit 3, ex := e.bit 4,
                      discard := e.bit 6, phys := ph }
      else match level with
        | 0 => .invalid
        | l + 1 => s.walkFrom leaf vf key need va l e.pa

/-- The entries of a walk that lie in HBM lines of another key ID. -/
def State.walkMisses (s : State) (vf va : Nat) : Nat → Nat → Nat
  | level, table =>
    (match s.tableAt vf (table + 8 * vaIndex va level) with
     | some p => (s.pteMiss p).toNat
     | none => 0) +
    match s.entryFor vf table level va with
    | some (_, e, _) =>
      if !e.bit 0 || e.malformed level || e.bit 1 then 0
      else match level with
        | 0 => 0
        | l + 1 => s.walkMisses vf va l e.pa
    | none => 0

/-- A walk that read lines of another key ID counts each on the leaf that holds the tables (R234, R455). -/
def State.countWalk (s : State) (vf va : Nat) : State :=
  let root := (s.vf vf).ptroot
  let n := if !root.getLsbD 0 || decide (2 ^ 48 ≤ va) then 0 else s.walkMisses vf va 3 ((root.extractLsb' 12 40).toNat * 4096)
  (List.range n).foldl (fun s _ => s.keyMiss (if root.getLsbD 2 then 1 else 0)) s

/-- A location plus an offset. -/
def Phys.plus : Phys → Nat → Phys
  | .hbm l o, n => .hbm l (o + n)
  | .host a, n => .host (a + n)
  | .pool a, n => .pool (a + n)
  | .remote m o, n => .remote m (o + n)

/-- Where an address lies under a translation. -/
def TlbEntry.at (e : TlbEntry) (va : Nat) : Phys := e.phys.plus (va - e.base)

/-- Does a location of a leaf lie in a retired page: an access there faults, through any translation (R405, R406). -/
def Leaf.bad (l : Leaf) : Phys → Bool
  | .hbm _ off => l.retired off
  | _ => false

/-- A walk (R387, R388, R406). -/
def State.walk (s : State) (leaf vf : Nat) (key : BitVec 8) (need : Need) (va : Nat) : WalkEnd :=
  let root := (s.vf vf).ptroot
  if !root.getLsbD 0 || decide (2 ^ 48 ≤ va) then .invalid
  else match s.walkFrom leaf vf key need va 3 ((root.extractLsb' 12 40).toNat * 4096) with
    | .mapped e => if (s.leaf leaf).bad (e.at va) then .invalid else .mapped e
    | x => x

/-- The cached translation of an address with the permissions an access needs (R392, R394). -/
def Leaf.lookup (l : Leaf) (vf : Nat) (need : Need) (va : Nat) : Option TlbEntry :=
  l.tlb.find? fun e => e.vf == vf && decide (e.base ≤ va) && decide (va < e.base + e.size) &&
    (!need.rd || e.rd) && (!need.wr || e.wr) && (!need.ex || e.ex) && !l.bad (e.at va)

/-- A translation made now: the cached one, else a walk's (R393, R394). -/
def State.translate (s : State) (leaf vf : Nat) (key : BitVec 8) (need : Need) (va : Nat) : WalkEnd :=
  match (s.leaf leaf).lookup vf need va with
  | some e => .mapped e
  | none => s.walk leaf vf key need va

/-- The key ID and function of the member on a leaf. -/
def State.keyVf (s : State) (leaf : Nat) : BitVec 8 × Nat :=
  match (s.leaf leaf).member with
  | some m => (m.key, m.vf)
  | none => (0, 0)

/-- A translation for the member on a leaf. -/
def State.xlate (s : State) (leaf : Nat) (need : Need) (va : Nat) : WalkEnd :=
  s.translate leaf (s.keyVf leaf).2 (s.keyVf leaf).1 need va

end Sys2Proof.Machine
end

