-- ==== Sys2Proof/Machine/Fetch.lean ====
section
/-! DEFINITION. Fetch: code units from the active bank, from translated memory through the instruction cache, or from
the supervisor stream; dictionary entries; the bundle at an address (R82 to R101, R407). -/

namespace Sys2Proof.Machine

/-- Code units of the stream a strand fetches from (R87, R90, R407). -/
def State.streamLimit (s : State) (who : Nat) : Nat :=
  let t := s.strand who
  match s.memberOf who with
  | none => 8192
  | some m => if t.super then m.supLen / 2 else m.codeLim

/-- Does the strand fetch from translated memory (R86, R91). -/
def State.xip (s : State) (who : Nat) : Bool :=
  match s.memberOf who with
  | none => false
  | some m => m.flag 2 && !(s.strand who).super

/-- Bytes of one line at a location, for a reader with a key ID; a pool line as the line cache holds it. A supervisor section's copy
lies in no other package (R32). -/
def State.physRead (s : State) (key : BitVec 8) (p : Phys) (n : Nat) : Nat :=
  match p with
  | .hbm leaf off => s.hbmRead leaf off n (· == key)
  | .host a => s.host.readNat a n
  | .pool a => (s.poolData key (a / 64)).toNat / 2 ^ (8 * (a % 64)) % 2 ^ (8 * n)
  | .remote _ _ => 0

/-- Bytes of the instruction store as a strand's fetch sees them: a unit written since its last IFENCE may hold its old content
(R97). -/
def State.storeRead (s : State) (who a n : Nat) : Nat :=
  let m := (s.core (coreOf who)).istore
  match (s.strand who).view with
  | [] => m.readNat a n
  | v => (List.range n).foldl (fun x j =>
      let b := match v.find? ((a + j) / 64) with
        | some old => old.toNat / 2 ^ (8 * ((a + j) % 64)) % 256
        | none => m.readNat (a + j) 1
      x + b * 2 ^ (8 * j)) 0

/-- A code unit's 16 bits (R84, R91, R407). -/
def State.codeUnit (s : State) (who : Nat) (n : Nat) : CodeUnit :=
  let t := s.strand who
  let c := s.core (coreOf who)
  match s.memberOf who with
  | some m =>
    if t.super then BitVec.ofNat 16 (s.physRead m.key ((m.supPages.getD (n / 2048) (.hbm (leafOf who) 0)).plus (2 * n % 4096)) 2)
    else if m.flag 2 then
      let va := m.codeBase + 2 * n
      BitVec.ofNat 16 ((c.icache.get (va / 64) 0).toNat / 2 ^ (8 * (va % 64)))
    else BitVec.ofNat 16 (s.storeRead who ((if t.bank then 65536 else 0) + 2 * n) 2)
  | none => BitVec.ofNat 16 (s.storeRead who ((if t.bank then 65536 else 0) + 2 * n) 2)

/-- Dictionary entry i of the active bank (R84). -/
def State.dictEntry (s : State) (who i : Nat) : Bundle384 :=
  BitVec.ofNat 384 (s.storeRead who ((if (s.strand who).bank then 65536 else 0) + 0x4000 + 48 * i) 48)

/-- The fetch lines that hold code units a to b - 1, by virtual line number. -/
def unitLines (base a b : Nat) : List Nat :=
  let lo := (base + 2 * a) / 64
  let hi := (base + 2 * b - 1) / 64
  (List.range (hi + 1 - lo)).map (lo + ·)

/-- What fetch answers: a bundle, with the cause held with it if it has one, or a line it must wait for (R91). -/
inductive FetchResult where
  | bundle (f : Fetched)
  | miss (line : Nat)
deriving DecidableEq, Repr

/-- A line of the bundle that is not in the instruction cache (R91, R92). -/
def State.lineOut (s : State) (who a b : Nat) : Option Nat :=
  if !s.xip who then none else
    match s.memberOf who with
    | none => none
    | some m => (unitLines m.codeBase a b).find? fun l => ((s.core (coreOf who)).icache.find? l).isNone

/-- A bundle with a fetch cause (R101). -/
def badBundle (pc : Nat) (inRun bank : Bool) (cause : BitVec 8) (addr : W64) : Fetched :=
  { addr := pc, inRun := inRun, bank := bank, raw := 0, len := 1, runs := false, cause := some cause, causeAddr := addr }

/-- Has a code unit a virtual address: CODEBASE + 2n lies in the address space (R91). -/
def State.unitPlaced (s : State) (who n : Nat) : Bool :=
  match s.memberOf who with
  | some m => decide (m.codeBase + 2 * n + 2 ≤ 2 ^ 64)
  | none => false

/-- The bundle at an address, decoded from its first code unit (R82 to R92). A line of translated memory that holds a unit at or
past CODELIM is translated too, so that FETCHXL comes before FETCHBND (R92, R101), where the unit has an address at all
(log 79). -/
def State.fetchAt (s : State) (who pc : Nat) (inRun : Bool) : FetchResult :=
  let lim := s.streamLimit who
  let bank := (s.strand who).bank
  let badFetch (cause : BitVec 8) : FetchResult := .bundle (badBundle pc inRun bank cause 0)
  let u (i : Nat) : CodeUnit := if pc + i < lim ∨ s.xip who then s.codeUnit who (pc + i) else 0
  let out (a b : Nat) (k : FetchResult) : FetchResult :=
    match s.lineOut who a b with
    | none => k
    | some l => .miss l
  if lim ≤ pc ∧ !(s.xip who && s.unitPlaced who pc) then badFetch FETCHBND else
  out pc (pc + 1) <|
  let esc := !inRun && (u 0).toNat == 0xFFFF
  out pc (pc + (if esc then 2 else 1)) <|
  let span := unitSpan inRun (u 0) (u 1)
  out pc (pc + span) <|
  if lim < pc + span then badFetch FETCHBND else
  match readUnits inRun (s.strand who).super ((List.range span).map u) with
  | .illegal => badFetch ILLCODE
  | .dict i => .bundle { addr := pc, inRun := inRun, bank := bank, raw := s.dictEntry who i, len := 1, runs := false, cause := none, causeAddr := 0 }
  | .literal b len stop =>
    .bundle { addr := pc, inRun := inRun, bank := bank, raw := b, len := len, runs := !stop, cause := none, causeAddr := 0 }

/-- The bundle at an address: one decoded ahead, else as fetched now (R94, R97). -/
def State.bundleAt (s : State) (who pc : Nat) (inRun : Bool) : FetchResult :=
  match (s.strand who).ibuf.find? fun f => f.addr == pc && f.inRun == inRun && f.bank == (s.strand who).bank with
  | some f => .bundle f
  | none => s.fetchAt who pc inRun

/-- Where the strand's next bundle stands: as fetched, or one unit where it cannot be. -/
def State.located (s : State) (who : Nat) : Fetched :=
  let t := s.strand who
  match s.bundleAt who t.pc t.inRun with
  | .bundle f => f
  | .miss _ => { addr := t.pc, inRun := t.inRun, bank := t.bank, raw := 0, len := 1, runs := false, cause := none, causeAddr := 0 }

/-- Ask for a fetch line (R91). -/
def State.askLine (s : State) (core line : Nat) : State :=
  let i : Ev := .fetchLineFill core (BitVec.ofNat 64 line)
  let parked := (s.leaf (leafOfCore core)).walks.any fun w => w.party == .fetch (4 * core) && w.parked && w.va / 64 == line
  if parked || s.agenda.contains i then s else s.post i

/-- Where a path of the stream first meets a fetch line that is not in the instruction cache: the bundle's address, whether it
stands in a run, and the line. The fuel is the bundles left to pass. -/
def State.firstMiss (s : State) (who : Nat) : Nat → Nat → Bool → Option (Nat × Bool × Nat)
  | 0, _, _ => none
  | n + 1, pc, inRun =>
    match s.bundleAt who pc inRun with
    | .miss l => some (pc, inRun, l)
    | .bundle f => if f.cause.isSome then none else s.firstMiss who n (pc + f.len) f.runs

/-- Writes of Hawk or DICTLD to bytes of a core's instruction store: what the units of those bytes held stays to be fetched by each
strand of the core until its next IFENCE (R97, R429). -/
def State.staleUnits (s : State) (core a n : Nat) : State :=
  let m := (s.core core).istore
  let old := (List.range ((a % 64 + n + 63) / 64)).map fun i => (a / 64 + i, BitVec.ofNat 512 (m.readNat (64 * (a / 64 + i)) 64))
  (List.range 4).foldl (fun s i => s.onStrand (4 * core + i) fun t =>
    { t with stale := t.stale ++ old.filter fun e => !t.stale.contains e }) s

/-- Which of the old contents a strand's fetch sees in place of the new: any (R97). -/
def State.chooseView (s : State) (who : Nat) : State :=
  if (s.strand who).stale.isEmpty then s else
  let (n, s) := s.fresh
  let k := Config.freeChoice n
  s.onStrand who fun t =>
    { t with view := (List.range t.stale.length).foldl (fun v i =>
        match t.stale[i]? with
        | some e => if k / 2 ^ i % 2 = 1 then v.set e.1 e.2 else v
        | none => v) [] }

/-- What stands somewhere down the stream, or a fetch line that must come first. -/
inductive Ahead where
  | at (pc : Nat) (inRun : Bool)
  | miss (line : Nat)
deriving DecidableEq, Repr

/-- The successor of the end bundle of a body: the first bundle from an address that holds code unit le ends there; a
bundle that cannot be decoded is where issue goes on, so that its cause is raised there (R177). The fuel is the units
left to pass. -/
def State.afterBody (s : State) (who le : Nat) : Nat → Nat → Bool → Ahead
  | 0, pc, inRun => .at pc inRun
  | n + 1, pc, inRun =>
    match s.bundleAt who pc inRun with
    | .miss l => .miss l
    | .bundle f =>
      if f.cause.isSome then .at pc inRun
      else if pc ≤ le ∧ le < pc + f.len then .at (pc + f.len) f.runs
      else s.afterBody who le n (pc + f.len) f.runs

/-- The address after two more bundles in successor order: a call's link (R176); none where one of them cannot be decoded. -/
def State.linkAt (s : State) (who : Nat) (f : Fetched) : Option Nat ⊕ Nat :=
  match s.bundleAt who (f.addr + f.len) f.runs with
  | .miss l => .inr l
  | .bundle g =>
    if g.cause.isSome then .inl none else
    match s.bundleAt who (g.addr + g.len) g.runs with
    | .miss l => .inr l
    | .bundle h => .inl (if h.cause.isSome then none else some (h.addr + h.len))

end Sys2Proof.Machine
end

