-- ==== Sys2Proof/Machine/L1.lean ====
section
/-! DEFINITION. The L1 domains: lines with a dirty bit for each byte, write-back, Clean and Drop (R232, R233, R285). -/

namespace Sys2Proof.Machine

/-- Does a cluster fuse its L1s (R25, R232). -/
def State.fused (s : State) (core : Nat) : Bool :=
  match (s.leaf (leafOfCore core)).member with
  | none => false
  | some m => bytesAt m.header 0x08 1 / 2 ^ (core % 64 / 8) % 2 == 1

/-- The core whose L1 holds a line for a core: its own, or the one of its cluster that a[8:6] names (R232). -/
def State.l1Home (s : State) (core va : Nat) : Nat :=
  if s.fused core then core / 8 * 8 + va / 64 % 8 else core

/-- The cores of a core's L1 domain (R279). -/
def State.domain (s : State) (core : Nat) : List Nat :=
  if s.fused core then (List.range 8).map (core / 8 * 8 + ·) else [core]

/-- The dirty bytes of a line as a mask. -/
def L1Line.isDirty (l : L1Line) : Bool := l.dirty != 0

/-- Write a line's dirty bytes to HBM, under the key ID of the member that stored them (R234, R285). -/
def State.cleanLine (s : State) (core line : Nat) : State :=
  match (s.core core).l1.find? line with
  | none => s
  | some l =>
    if !l.isDirty then s else
      let leaf := leafOfCore core
      let s := s.hbmWrite leaf (64 * line) 64 l.data.toNat l.dirty.toNat l.key
      let s := s.meter leaf 7 64
      s.onCore core fun c => { c with l1 := c.l1.set line { l with dirty := 0 } }

/-- Invalidate a line, whatever it holds. -/
def State.dropLine (s : State) (core line : Nat) : State :=
  s.onCore core fun c => { c with l1 := c.l1.erase line }

/-- Clean of one L1: every dirty byte is written back (R285). -/
def State.cleanL1 (s : State) (core : Nat) : State :=
  (s.core core).l1.foldl (fun s p => s.cleanLine core p.1) s

/-- Invalidate every line of one L1. -/
def State.emptyL1 (s : State) (core : Nat) : State := s.onCore core fun c => { c with l1 := [] }

/-- Clean of a core's L1 domain (R285). -/
def State.clean (s : State) (core : Nat) : State := (s.domain core).foldl State.cleanL1 s

/-- Drop of a core's L1 domain: every line is invalidated after Clean (R285). -/
def State.dropAll (s : State) (core : Nat) : State := (s.domain core).foldl State.emptyL1 (s.clean core)

/-- Clean and Drop of every L1 of a leaf (R78). -/
def State.flushLeaf (s : State) (leaf : Nat) : State :=
  let cores := (List.range 64).map (leaf * 64 + ·)
  cores.foldl State.emptyL1 (cores.foldl State.cleanL1 s)

/-- Spread a byte mask over bits. -/
def maskBits (n mask : Nat) : Nat := pack 8 (fun i => if mask / 2 ^ i % 2 = 1 then 255 else 0) n

/-- Take n bytes at an offset of a line from new data under a byte mask. -/
def mergeLine (old : BitVec 512) (off n data mask : Nat) : BitVec 512 :=
  let m := BitVec.ofNat 512 (maskBits n mask * 2 ^ (8 * off))
  (old &&& ~~~m) ||| (BitVec.ofNat 512 (data * 2 ^ (8 * off)) &&& m)

/-- Lines of a core's L1, or of its part of a fused one (R14, R232). -/
def l1Lines : Nat := 1024

/-- Room for a line in a core's L1: a full one writes back and gives up a line of its own choice (R14, R285; log 4). -/
def State.l1Room (s : State) (core line : Nat) : State :=
  let l1 := (s.core core).l1
  if (l1.find? line).isSome || decide (l1.length < l1Lines) then s else
  match s.choose (l1.map Prod.fst) with
  | (some k, u) => (u.cleanLine core k).dropLine core k
  | (none, u) => u

/-- The virtual lines of an L1 line that is now reached by one more. -/
def L1Line.via (l : L1Line) (vline : Nat) : List Nat := vline :: l.vlines.erase vline

/-- An L1 line that holds nothing yet. -/
def L1Line.empty (key : BitVec 8) : L1Line := { data := 0, valid := 0, dirty := 0, key := key, vlines := [] }

/-- A weak store's bytes reach the L1 domain, which takes the line without fetching it (R285). -/
def State.l1Store (s : State) (core va off n data mask : Nat) (key : BitVec 8) : State :=
  let h := s.l1Home core va
  let line := off / 64
  let s := s.l1Room h line
  let old := (s.core h).l1.get line (.empty key)
  let bits := BitVec.ofNat 64 (mask % 2 ^ n * 2 ^ (off % 64))
  let new : L1Line := { data := mergeLine old.data (off % 64) n data mask, valid := old.valid ||| bits,
                        dirty := old.dirty ||| bits, key := key, vlines := old.via (va / 64) }
  s.onCore h fun c => { c with l1 := c.l1.set line new }

/-- Fill a line's missing bytes from HBM as the member's key ID reads them (R232, R234); a line under another key ID
reads as zeros and counts as a key mismatch. -/
def State.l1Fill (s : State) (core va off : Nat) (key : BitVec 8) : State :=
  let h := s.l1Home core va
  let leaf := leafOfCore core
  let line := off / 64
  let s := s.l1Room h line
  let old := (s.core h).l1.get line (.empty key)
  let put (s : State) (l : L1Line) : State := s.onCore h fun c => { c with l1 := c.l1.set line { l with vlines := l.via (va / 64) } }
  if old.valid == BitVec.allOnes 64 then (if old.vlines.contains (va / 64) then s else put s old) else
    let mem := s.hbmRead leaf (64 * line) 64 (· == key)
    let s := if s.keyOk leaf (64 * line) (· == key) then s else s.keyMiss leaf
    let s := s.meter leaf 6 64
    let data := mergeLine old.data 0 64 mem (~~~old.valid).toNat
    put s { old with data := data, valid := BitVec.allOnes 64 }

/-- The 64 bytes of a line in a core's L1 domain. -/
def State.l1Data (s : State) (core va off : Nat) : BitVec 512 :=
  ((s.core (s.l1Home core va)).l1.get (off / 64) (.empty 0)).data

/-- Does the point of a scope for the leaf's HBM lie beyond the core's L1 domain (R279, R286). -/
def State.beyondL1 (s : State) (core : Nat) (x : Scope) : Bool :=
  match x with
  | .strand | .core => false
  | .cluster => !s.fused core
  | _ => true

end Sys2Proof.Machine
end

