-- ==== Sys2Proof/Machine/Image.lean ====
section
/-! DEFINITION. The bytes of a member context image, as they stand in the member's context area (R420 to R423). -/

namespace Sys2Proof.Machine

/-- Bytes of an image (R420). -/
def imageSize : Nat := 135266304

/-- Where a member's context area begins in the HBM of its leaf: a multiple of 64 that leaves room for an image (R420; log 14). -/
def contextBase (gang member : Nat) : Nat := 64 * (Config.contextArea gang member % ((hbmSize - imageSize) / 64))

/-! Pieces of an image: bytes with their offsets. Bytes that no piece names are zero. -/

/-- A number of n bytes at an offset, little-endian (R3). -/
def numCells (off n v : Nat) : Mem := (List.range n).map fun i => (off + i, BitVec.ofNat 8 (v / 256 ^ i))

/-- The first n bytes of a memory at an offset. -/
def memCells (off n : Nat) (m : Mem) : Mem := m.filterMap fun c => if c.1 < n then some (off + c.1, c.2) else none

/-- Entries of n bytes one after another at an offset. -/
def mapCells (off n : Nat) (l : List (Nat × Nat)) : Mem := l.flatMap fun p => numCells (off + n * p.1) n p.2

/-- A part whose inner layout the rules do not give (log 45). -/
def openCells (c : Saved) (off n : Nat) : Mem :=
  (List.range n).map fun i => (off + i, Config.contextByte c.member.gang c.member.member c.savedAt (off + i))

/-- The head of the member area (R421). -/
def Saved.headCells (c : Saved) : Mem :=
  let m := c.member
  numCells 0x00 2 1 ++ numCells 0x02 2 ((if c.faulted then 1 else 0) + if c.captured then 2 else 0) ++ numCells 0x04 2 m.gang ++
  numCells 0x06 2 m.member ++ numCells 0x08 1 m.key.toNat ++ numCells 0x10 8 m.sent.toNat ++ numCells 0x18 8 m.recv.toNat ++
  numCells 0x20 8 m.dustBase ++ numCells 0x28 8 m.dustLimit ++ numCells 0x30 8 m.saveBase ++ numCells 0x38 8 c.savedAt.toNat ++
  numCells 0x40 8 m.launchBase

/-- The member area (R421). -/
def Saved.memberCells (c : Saved) : Mem :=
  c.headCells ++ numCells 0x1000 128 c.member.header.toNat ++ openCells c 0x1080 (0x1000 - 0x80) ++
  mapCells 0x2000 64 (c.member.live.map fun p => (p.1, p.2.toNat)) ++
  openCells c (0x2000 + 64 * c.member.nlive) (64 * (4096 - c.member.nlive)) ++ openCells c 0x42000 0x2A000

/-- A tile's element (r, j) stands at byte 4 (256 r + j) (R301). -/
def tileCells (off : Nat) (x : Tile) : Mem := mapCells off 4 (x.elts.map fun p => (p.1, p.2.toNat))

/-- What a core block holds beside its strand blocks (R422). -/
def Core.imageCells (c : Saved) (base : Nat) (k : Core) : Mem :=
  tileCells (base + 0x080000) k.acc0 ++ tileCells (base + 0x0A0000) k.acc1 ++
  memCells (base + 0x0C0000) 53248 k.planeA.bytes ++ memCells (base + 0x0CD000) 53248 k.planeS.bytes ++
  memCells (base + 0x0DA000) 163840 k.coefA ++ memCells (base + 0x102000) 163840 k.coefS ++
  memCells (base + 0x12A000) 131072 k.istore ++ mapCells (base + 0x14A000) 16 (k.knots.map fun p => (p.1, p.2.toNat)) ++
  mapCells (base + 0x14A400) 16 (k.oog.map fun p => (p.1, p.2.toNat)) ++ memCells (base + 0x14A600) 256 k.trowelA ++
  memCells (base + 0x14A700) 256 k.trowelS ++ openCells c (base + 0x14A800) 0x6800

/-- A strand block (R423); cr reads the strand's control registers. -/
def Strand.imageCells (c : Saved) (base : Nat) (cr : Nat → W64) (t : Strand) : Mem :=
  mapCells base 512 (t.vregs.map fun p => (p.1, p.2.bits.toNat)) ++
  mapCells (base + 0x18000) 64 ((List.range 16).map fun n => (n, (t.rdK (BitVec.ofNat 4 n)).toNat)) ++
  mapCells (base + 0x18400) 8 ((List.range 64).map fun n => (n, (t.rdS (BitVec.ofNat 6 n)).toNat)) ++
  numCells (base + 0x18600) 8 t.pregs.toNat ++ openCells c (base + 0x18608) 56 ++
  numCells (base + 0x18640) 96 (t.vregs.foldl (fun n p => n + p.2.tag.code * 16 ^ p.1) 0) ++ openCells c (base + 0x186A0) 32 ++
  mapCells (base + 0x186C0) 8 ((List.range 32).map fun n => (n, (t.rdCb n).toNat)) ++ openCells c (base + 0x187C0) 0x180 ++
  mapCells (base + 0x18940) 8 ((List.range 48).map fun n => (n, (cr n).toNat)) ++ openCells c (base + 0x18AC0) 1344

/-- The image of a context of a leaf, whose control registers are still to be read there (R420). -/
def State.imageCells (s : State) (leaf : Nat) (c : Saved) : Mem :=
  c.memberCells ++ (List.range 64).flatMap fun n =>
    let base := 0x100000 + 0x200000 * n
    (List.range 4).flatMap (fun i =>
      let w := 4 * n + i
      Strand.imageCells c (base + 0x20000 * i) (s.readCr (256 * leaf + w)) (FMap.get c.strands w .reset)) ++
    Core.imageCells c base (FMap.get c.cores n .reset)

/-! Writing it. -/

/-- The keys of the lines a leaf watches (R399, R401). -/
def Leaf.watched (l : Leaf) : List Nat :=
  l.walks.filterMap (fun w => if w.parked then w.line.map Phys.lineKey else none) ++ l.asked.map Prod.snd ++
  (match l.member with
  | some m => m.pool.filterMap fun e => if e.waiting then some e.key else none
  | none => [])

/-- n bytes at an offset of a leaf's HBM, both multiples of 64, become the listed cells, the others zero; their lines take a key
ID, and what watches one of them wakes (R234, R235, R401). -/
def State.putCells (s : State) (leaf off n : Nat) (key : BitVec 8) (cells : Mem) : State :=
  let a := hbmAddr leaf off
  let lo := a / 64
  let hi := (a + n) / 64
  let keys := s.hbmKeys.filter (fun p => decide (p.1 < lo)) ++ (List.range (hi - lo)).map (fun i => (lo + i, key)) ++
    s.hbmKeys.filter fun p => decide (hi ≤ p.1)
  let s := { s with hbm := cells.foldl (fun m (c : Host.Cell) => Mem.write m (a + c.1) c.2) (s.hbm.clear a n), hbmKeys := keys }
  s.wakeLines (([0, 1].flatMap fun l => (s.leaf l).watched).filter fun k => k % 4 == 0 && decide (lo ≤ k / 4) && decide (k / 4 < hi))

/-- A member's context image is written to its context area under the member's key ID (R235, R420). -/
def State.writeImage (s : State) (leaf : Nat) (c : Saved) : State :=
  s.putCells leaf (contextBase c.member.gang c.member.member) imageSize c.member.key (s.imageCells leaf c)

/-- The head of a context image is written anew (R402, R421). -/
def State.writeHead (s : State) (leaf : Nat) (c : Saved) : State :=
  s.putCells leaf (contextBase c.member.gang c.member.member) 256 c.member.key c.headCells

end Sys2Proof.Machine
end

