-- ==== Sys2Proof/Machine/Faults.lean ====
section
/-! DEFINITION. Saving a member context, gang faults, task abort and requeue, taking a trap and returning from one
(R67, R185, R398 to R403, R408 to R412, R420). -/

namespace Sys2Proof.Machine

/-! MSI-X vectors, by the model's numbers (log 9). -/

def vecQueueError : Nat := 0
def vecKernelSignal : Nat := 1
def vecPageRequest : Nat := 2
def vecGangFault : Nat := 3
def vecTime : Nat := 0
def vecPower : Nat := 1
def vecError : Nat := 2

/-- Fire a vector of a virtual function; 0 is the physical function. -/
def State.fireVf (s : State) (vf vector : Nat) : State := s.emit (.msix (vf + 1) vector)

/-- Fire a vector of the physical function. -/
def State.firePf (s : State) (vector : Nat) : State := s.emit (.msix 0 vector)

/-- The strands of a leaf. -/
def leafStrands (leaf : Nat) : List Nat := (List.range 256).map (leaf * 256 + ·)

/-- The cores of a leaf. -/
def leafCores (leaf : Nat) : List Nat := (List.range 64).map (leaf * 64 + ·)

/-- The engine queues of a leaf: Lath and Trowel queue of core c at c, Hawk engine e of cluster k of leaf l at
128 + 32 l + 4 k + e (R313). -/
def leafQueues (leaf : Nat) : List Nat := leafCores leaf ++ (List.range 32).map (128 + 32 * leaf + ·)

/-- What a stop at a SAFE keeps of a strand's s, p, k and v registers (R185, R414). -/
def Strand.masked (t : Strand) (live : BitVec 512) : Strand :=
  { t with
    sregs := t.sregs.filter fun p => live.getLsbD (192 + p.1)
    pregs := (List.range 64).foldl (fun b n => if n = 0 ∨ live.getLsbD (256 + n) then b else setBit b (t.physP n) false) t.pregs
    kregs := t.kregs.filter fun p => live.getLsbD (320 + p.1)
    vregs := t.vregs.filter fun p => (List.range 192).any fun n => live.getLsbD n && t.physV n == p.1 }

/-! Clock numbers of a saved strand or core count from the clock of its save (R417, R419). -/

/-- A strand's clock numbers, moved. -/
def Strand.clocks (t : Strand) (f : Nat → Nat) : Strand :=
  { t with flights := t.flights.map fun x => { x with due := f x.due } }

/-- A core's clock numbers, moved; age moves the clocks at which strands last stopped issuing. -/
def Core.clocks (c : Core) (f age : Nat → Nat) : Core :=
  { c with half := none, arrayAt := f c.arrayAt, vbusy := c.vbusy.map fun (p : Nat × Nat) => (p.1, f p.2),
           stoppedAt := c.stoppedAt.map fun (p : Nat × Nat) => (p.1, age p.2),
           pushes := c.pushes.map fun x => { x with due := f x.due } }

/-- A strand as its context holds it: what a stop's live mask leaves, and no bundle decoded ahead or held by a DICTCHK or
DICTLD (R185, R417). -/
def Strand.saved (t : Strand) (m : Member) (clk : Nat) : Strand :=
  let t := match t.stop with
    | .stopped n => t.masked (m.live.get n 0)
    | _ => t
  { t.clocks (· - clk) with stop := .none, stores := t.stores.map (fun e => { e with stage := .buffered, lines := [] }), ibuf := [], hold := none, holdStarted := none,
                            walk := match t.walk with
                              | some (.failed c va) => some (.failed c va)
                              | _ => none }

/-- A core as its context holds it (R422): its instruction cache, L1 and local store contents are not in it (R77). -/
def Core.saved (c : Core) (clk : Nat) : Core :=
  { c.clocks (· - clk) (clk - ·) with local_ := [], l1 := [], icache := [] }

/-- The number of a queue in a context: Lath and Trowel queues by core, then Hawk queues. -/
def contextQueue (q : Nat) : Nat := if q < 128 then q % 64 else 64 + (q - 128) % 32

/-- The queue of a leaf with a number in a context. -/
def queueOfContext (leaf n : Nat) : Nat := if n < 64 then 64 * leaf + n else 128 + 32 * leaf + (n - 64)

/-- A command as its context holds it: a parked one goes on from its step (R304, R310). -/
def Cmd.halted (c : Cmd) : Cmd :=
  match c.stage with
  | .parked _ _ =>
    let nest : Bool := match c.instr with
      | .tgo _ => true
      | _ => false
    { c with stage := if nest || c.act != 0 then .running else .queued }
  | _ => c

/-- The member record with its strands, cores and queues, as a commit or a gang fault saves them (R420 to R423); local
store contents are not in it (R77). -/
def State.contextOf (s : State) (leaf : Nat) (m : Member) (faulted : Bool) : Saved :=
  let clk := (s.leaf leaf).clk
  { member := m, leaf := 2 * s.pkg + leaf,
    strands := (s.strands.filter fun p => leafOf p.1 == leaf).map fun (p : Nat × Strand) => (p.1 % 256, p.2.saved m clk)
    cores := (s.cores.filter fun p => leafOfCore p.1 == leaf).map fun (p : Nat × Core) => (p.1 % 64, p.2.saved clk)
    queues := (leafQueues leaf).filterMap fun q =>
      if (s.cmds q).isEmpty then none else some (contextQueue q, (s.cmds q).map Cmd.halted)
    remotes := (s.leaf leaf).remotes, answers := (s.leaf leaf).answers,
    faulted := faulted, captured := (leafStrands leaf).any fun w => (s.strand w).stop == .captured, savedAt := s.now, cmdSeq := (s.leaf leaf).cmdSeq, owed := 0 }

/-- The number of a member context's area. -/
def contextKey (gang member : Nat) : Nat := gang * 2048 + member

/-- A context is kept, and its image stands in its area (R420). -/
def State.keepContext (s : State) (leaf : Nat) (c : Saved) : State :=
  let s := s.writeImage leaf c
  { s with contexts := s.contexts.set (contextKey c.member.gang c.member.member) c }

/-- A context that is kept already is marked, and the head of its image with it (R402, R421). -/
def State.markContext (s : State) (leaf k : Nat) (c : Saved) : State :=
  let s := s.writeHead leaf c
  { s with contexts := s.contexts.set k c }

/-- A region entry whose member has gone: the owner's name stays beside the bytes, dead after a fault (R77). -/
def Region.left (r : Region) (m : Option Member) (dead : Bool) : Region :=
  let mark (o : Owner) : Owner :=
    { o with dead := o.dead || (dead && (m.any fun m => m.gang == o.gang && m.member == o.member)) }
  { Region.reset with owner := r.owner.map mark, dirty := r.dirty }

/-- A core whose member has gone: its local store and the owner tags stay (R77). -/
def Core.left (c : Core) (m : Option Member) (dead : Bool) : Core :=
  let regions := c.regions.map fun (r : Nat × Region) => (r.1, r.2.left m dead)
  { Core.reset with local_ := c.local_, engmap := c.engmap, regions := regions }

/-- Is an event one of a leaf's own member: it goes when the member does. -/
def Ev.ofMember (leaf : Nat) : Ev → Bool
  | .bundleFetch w | .trapEntry w | .resultLand w _ | .loadDataReturn w _ _ | .storePerform w _ | .localPerform w _ | .eventLatchSet w => leafOf w == leaf
  | .waittExpiry w | .safeovr w | .dictchkHoldEnd w | .dictldDone w | .taskStart w | .taskRetire w => leafOf w == leaf
  | .fetchLineFill c _ | .xputLand c _ | .regionFillComplete c _ => leafOfCore c == leaf
  | .commandStart q | .commandComplete q => (if q < 128 then q / 64 else (q - 128) / 32) == leaf
  | .taskDispatch l | .rewalkTimer l _ | .walkComplete l _ | .memberPrepared l | .prepdlCapture l | .prepareStart l => l == leaf
  | .memberComplete l | .remoteResend l _ | .collStart l _ | .collAck l _ _ | .cabortCountRound l _ => l == leaf
  | .restoreComplete l | .startto l => l == leaf
  | _ => false

/-- A leaf whose member has gone: strands and engine state cleared, local store and its owner tags kept (R77, R78). -/
def State.vacate (s : State) (leaf : Nat) (dead : Bool) : State :=
  let m := (s.leaf leaf).member
  let s := s.strands.foldl (fun s p => if leafOf p.1 == leaf then p.2.loads.foldl (fun s e => s.poolLoose (s.keyVf leaf).1 e) s else s) s
  let cores := s.cores.map fun (p : Nat × Core) => if leafOfCore p.1 == leaf then (p.1, p.2.left m dead) else p
  let s := { s with strands := s.strands.filter (fun p => leafOf p.1 != leaf), cores := cores,
                    queues := s.queues.filter (fun p => !(leafQueues leaf).contains p.1),
                    agenda := s.agenda.filter (fun e => !e.ofMember leaf), timers := s.timers.filter (fun e => !e.2.2.ofMember leaf) }
  s.onLeaf leaf fun l => { l with member := none, phase := .out, tlb := [], walks := [], remotes := [], got := [], answers := [] }

/-! Rings (R400, R403). -/

/-- Units of a ring that hold nothing unread: it is full one unit before its head. -/
def Ring.free (r : Ring) : Nat :=
  let n := 2 ^ r.logsz.toNat
  n - 1 - (r.tail.toNat + n - r.head.toNat) % n

/-- Write a record at a ring's tail. unit is the bytes one index counts. -/
def Ring.write (r : Ring) (host : Mem) (unit : Nat) (rec : List Byte) : Ring × Mem :=
  let n := 2 ^ r.logsz.toNat
  let units := (rec.length + unit - 1) / unit
  let at_ (i : Nat) : Nat := r.base.toNat + (r.tail.toNat * unit + i) % (n * unit)
  ({ r with tail := BitVec.ofNat 32 ((r.tail.toNat + units) % n) },
   (rec.foldl (fun (a : Mem × Nat) b => (a.1.write (at_ a.2) b, a.2 + 1)) (host, 0)).1)

/-- Write the records a ring holds back, oldest first, as far as it has room; fit cuts a record down to the free units, or
refuses it. The answer says whether TAIL has advanced. The fuel is the number of records. -/
def Ring.flush (unit : Nat) (fit : List Byte → Nat → Option (List Byte)) : Nat → Ring → Mem → Bool → Ring × Mem × Bool
  | 0, r, h, adv => (r, h, adv)
  | n + 1, r, h, adv =>
    match r.held with
    | [] => (r, h, adv)
    | rec :: t =>
      if !r.en then (r, h, adv) else
      match fit rec r.free with
      | none => (r, h, adv)
      | some x =>
        let (r, h) := r.write h unit x
        Ring.flush unit fit n { r with held := t } h true

/-- A record in a ring, if the ring has room; else it is held. -/
def Ring.put (r : Ring) (host : Mem) (unit : Nat) (fit : List Byte → Nat → Option (List Byte)) (rec : List Byte) : Ring × Mem × Bool :=
  let held := r.held ++ [rec]
  Ring.flush unit fit held.length { r with held := held } host false

/-- n little-endian bytes of a number. -/
def leBytes : Nat → Nat → List Byte
  | 0, _ => []
  | n + 1, v => BitVec.ofNat 8 v :: leBytes n (v / 256)

/-- The number that n bytes from an offset of a list are. -/
def leNat (l : List Byte) (off n : Nat) : Nat := ((l.drop off).take n).foldr (fun b a => b.toNat + 256 * a) 0

/-- A record of fixed length needs one unit (R400). -/
def fitOne (rec : List Byte) (room : Nat) : Option (List Byte) := if room = 0 then none else some rec

/-- A gang fault report waits for room for its head; the entries that do not fit then are left out, and TRUNC is set
(R403). -/
def fitReport (rec : List Byte) (room : Nat) : Option (List Byte) :=
  if room = 0 then none else
  let e := 16 + 8 * leNat rec 0x2C 4
  let n := leNat rec 0x28 4
  let k := min n ((room - 1) * 64 / e)
  let flags : Byte := if k < n then 1 else 0
  some (rec.take 0x0B ++ [flags] ++ (rec.drop 0x0C).take 0x1C ++ leBytes 4 k ++ (rec.drop 0x2C).take 20 ++ (rec.drop 64).take (k * e))

/-! Gang faults (R72, R402, R403). -/

/-- What a gang fault says beyond the gang. -/
structure FaultInfo where
  cause : BitVec 8
  tcause : BitVec 8
  who : Option Nat
  core : Option Nat
  pc : Nat
  addr : W64
  work : W64
deriving DecidableEq, Repr

/-- The head of the report of a fault of the member on a leaf (R403). -/
def State.headOf (s : State) (leaf : Nat) (m : Member) (i : FaultInfo) : FaultHead :=
  { gang := m.gang, member := m.member, cause := i.cause, tcause := i.tcause, pkg := s.pkg, leaf := leaf,
    core := (match i.core with
      | some c => c % 64
      | none => 255),
    strand := (match i.who with
      | some w => w % 4
      | none => 255),
    pc := i.pc, addr := i.addr, now := s.now, work := i.work }

/-- A report's 64 bytes of head (R403). -/
def reportHead (h : FaultHead) (nbm bmw : Nat) : List Byte :=
  leBytes 2 h.gang ++ leBytes 2 h.member ++ leBytes 1 h.cause.toNat ++ leBytes 1 h.tcause.toNat ++ leBytes 2 h.pkg ++
  leBytes 1 h.leaf ++ leBytes 1 h.core ++ leBytes 1 h.strand ++ leBytes 1 0 ++ leBytes 4 h.pc ++ leBytes 8 h.addr.toNat ++
  leBytes 8 h.now.toNat ++ leBytes 8 h.work.toNat ++ leBytes 4 nbm ++ leBytes 4 bmw ++ leBytes 16 0

/-- Words of a bitmap over the ranks of a node's block: ⌈GCOUNT / 64⌉ (R403). -/
def bitmapWords (block : BitVec 1024) : Nat := (bytesAt block 0x0A 2 + 63) / 64

/-- Write a gang fault report and fire its vector when the tail advances (R403). -/
def State.putReport (s : State) (vf : Nat) (rec : List Byte) : State :=
  let (r, h, adv) := (s.vf vf).gfr.put s.host 64 fitReport rec
  let s := { s.onVf vf (fun v => { v with gfr := r }) with host := h }
  if adv then s.fireVf vf vecGangFault else s

/-- Halt a queue on a packet (R41, R402): CAUSE and INDEX, and the queue-error vector. -/
def State.haltQueue (s : State) (vf q : Nat) (cause : BitVec 8) (index : Nat) : State :=
  (s.onVf vf fun v => { v with queues := v.queues.set q { v.queues.get q .reset with halt := true, cause := cause, index := BitVec.ofNat 32 index } }).fireVf vf vecQueueError

/-- Every strand and engine of a member stops (R67). -/
def State.stopMember (s : State) (leaf : Nat) : State := s.onLeaf leaf fun l => { l with phase := .faulted }

/-- A local fault (R67, R402): the member stops and tells its leader, which decides the gang's report. -/
def State.gangFault (s : State) (leaf : Nat) (i : FaultInfo) : State :=
  match (s.leaf leaf).member with
  | none => s
  | some m =>
    if (s.leaf leaf).phase = .faulted then s else
    (s.stopMember leaf).tell (s.placeOf leaf 0) fun l => .abort l true (s.headOf leaf m i)

/-- What a strand's fault reports of it. -/
def State.strandFault (s : State) (who : Nat) (cause tcause : BitVec 8) (pc : Nat) (addr : W64) : FaultInfo :=
  { cause := cause, tcause := tcause, who := some who, core := some (coreOf who), pc := pc, addr := addr, work := (s.strand who).workid }

/-- A fault that no strand's bundle caused. -/
def plainFault (cause : BitVec 8) : FaultInfo := { cause := cause, tcause := 0, who := none, core := none, pc := 0, addr := 0, work := 0 }

/-- The gang faults with TRAP and the code of a trap that reaches no handler (R411). -/
def State.trapFault (s : State) (who : Nat) (r : TrapReq) : State :=
  s.gangFault (leafOf who) (s.strandFault who 0x01 r.cause r.pc (r.addr.getD 0))

/-! Task abort and requeue (R398). -/

/-- Requeue pool entries (R398). -/
def poolSize : Nat := 256

/-- Is a store one of the buffer's that an abort discards (R398): a release or a SIGNAL that has committed performs. -/
def StoreKind.discarded : StoreKind → Bool
  | .weak | .writeBack _ _ => true
  | .release _ | .signal => false

/-- An atomic of an aborted task goes on and writes no register; other loads go (R398). -/
def LoadEntry.orphaned (e : LoadEntry) : Option LoadEntry :=
  match e.kind with
  | .atomic _ _ _ _ => some { e with dest := .gone }
  | .load | .acquire => none

/-- The accesses of a task that is aborted (R292, R398): its buffered stores and the local accesses that wait for a FENCE are discarded,
and no load in flight writes, of local store or beyond. -/
def Strand.dropAccesses (t : Strand) : Strand :=
  { t with stores := t.stores.filter (fun e => !e.kind.discarded), loads := t.loads.filterMap LoadEntry.orphaned,
           flights := t.flights.filter (fun f => !f.load), fences := [], waits := [], reports := [] }

/-- A strand whose task has been aborted (R398). -/
def Strand.unwind (t : Strand) : Strand :=
  { t.dropAccesses with
           running := none, pend := none, trail := none, gangBar := none, super := false, trapReq := none, walk := none, hold := none, holdStarted := none,
           retiring := false, abortWait := none, inRun := false, ibuf := [], failed := [] }

/-- Abort a strand's task: its buffered stores are discarded and its loads never write; the task enters the pool,
waiting on a page line when it arose from NONRES; the strand takes its next task (R398, R399). A full pool stalls the
strand; ABORTLIM faults the gang at the eighth counted abort. -/
def State.abortTask (s : State) (who : Nat) (wait : Option (Nat × Bool × Nat)) : State :=
  let leaf := leafOf who
  let t := s.strand who
  match (s.leaf leaf).member, t.running with
  | some m, some task =>
    if poolSize ≤ m.pool.length then s.onStrand who fun t => { t.dropAccesses with abortWait := some wait, walk := none, hold := none } else
    let n := m.aborts.get task.work.toNat 0 + (if wait.isNone then 1 else 0)
    if 8 ≤ n then s.gangFault leaf (s.strandFault who 0x02 0 t.pc 0) else
    let e : Requeue := { id := (s.leaf leaf).walkSeq, task := task, who := who, waiting := wait.isSome, va := (wait.getD (0, false, 0)).1,
                         write := (wait.getD (0, false, 0)).2.1, key := (wait.getD (0, false, 0)).2.2 }
    let s := s.onLeaf leaf fun l =>
      { l with
        walkSeq := l.walkSeq + 1
        member := l.member.map fun m => { m with pool := m.pool ++ [e], aborts := m.aborts.set task.work.toNat n } }
    let s := s.onStrand who Strand.unwind
    s.post (.taskStart who)
  | _, _ => s

/-! Traps (R408 to R412). -/

/-- The trap state registers at entry (R408, R410): ABORT reads 1 for WSFAULT and ENGFAULT. -/
def Strand.trapState (t : Strand) (r : TrapReq) : TrapRegs :=
  { cause := r.cause, slot := slotCode r.slot, fetch := r.fetch,
    abort := decide (r.cause = WSFAULT) || decide (r.cause = ENGFAULT),
    pc := BitVec.ofNat 32 r.pc, addr := r.addr.getD t.trap.addr,
    ndelay := (match r.pend with | some p => BitVec.ofNat 2 (p.left - 1) | none => 0),
    taken := (match r.pend with | some p => p.target.isSome | none => false),
    bsw := (match r.pend with | some p => p.bsw | none => false), bank := t.bank,
    tgt := (match r.pend with | some p => BitVec.ofNat 32 (p.target.getD 0) | none => 0),
    syl := r.syl, tscr := t.trap.tscr }

/-- Enter the handler: the trap state is saved, supervisor state begins, and the pc is 0 in the supervisor stream
(R407, R408). -/
def Strand.enter (t : Strand) (r : TrapReq) : Strand :=
  { t with trap := t.trapState r, super := true, walk := none, gangBar := none, pc := 0, inRun := false, pend := none, trapReq := none, ibuf := [],
           next := none }

/-- TakeTrap once exposed results have landed (R408, R411): the handler where the image has one and the strand is not in
supervisor state; else abort and requeue for WSFAULT and ENGFAULT, and a gang fault with cause TRAP for the rest. -/
def State.enterTrap (s : State) (who : Nat) (r : TrapReq) : State :=
  let t := s.strand who
  match s.memberOf who with
  | none => s.setStrand who (t.enter r)
  | some m =>
    if t.super then s.trapFault who r
    else if m.flag 1 then s.setStrand who (t.enter r)
    else if r.cause = WSFAULT ∨ r.cause = ENGFAULT then s.abortTask who none
    else s.trapFault who r

/-- Have the strand's exposed results landed (R184, R408). -/
def Strand.quiet (t : Strand) : Bool := t.flights.isEmpty && t.xputsOut == 0

/-- Enter a trap that is waiting, at once where the strand's exposed results have landed; else TRAP_ENTRY enters it
when they have (R408). -/
def State.settle (s : State) (who : Nat) : State :=
  let t := s.strand who
  match t.trapReq with
  | none => s
  | some r => if t.quiet then s.enterTrap who r else s.post (.trapEntry who)

/-- Take a precise trap at the strand's bundle (R408): no slot of it commits (R8). -/
def State.takeTrap (s : State) (who : Nat) (cause : BitVec 8) (slot : Slot) (fetch : Bool) (addr : Option W64) (syl : Syl48) : State :=
  let t := s.strand who
  (s.setStrand who { t with walk := none, trapReq := some { cause := cause, slot := slot, fetch := fetch, addr := addr, syl := syl, pc := t.pc, pend := t.pend } }).settle who

/-- Return from the handler (R412): supervisor state ends, the bank is restored, and TRAPPC's bundle issues, then the
delay bundles still to issue and the pending target. -/
def Strand.leave (t : Strand) : Strand :=
  let r := t.trap
  { t with super := false, bank := r.bank, next := some (r.pc.toNat, false), ibuf := [],
           pend := if r.taken = true ∨ r.ndelay ≠ 0 then
             some { left := r.ndelay.toNat + 1, target := (if r.taken then some r.tgt.toNat else none), bsw := r.bsw } else none }

end Sys2Proof.Machine
end

