-- ==== Sys2Proof/Machine/Send.lean ====
section
/-! DEFINITION. Packets leaving a leaf, requests to other leaves and what they bring back (R66, R356 to R362). -/

namespace Sys2Proof.Machine

/-- Route word i of a route entry (R357). -/
def routeWord (e : BitVec 512) (i : Nat) : BitVec 32 := e.extractLsb' (32 * i) 32

/-- ACTIVE of a route entry (R357). -/
def routeActive (e : BitVec 512) : Nat := (e.extractLsb' 288 4).toNat

/-- Is a route word VALID. -/
def routeValid (w : BitVec 32) : Bool := w.getLsbD 5

/-- PORT of a route word. -/
def routePort (w : BitVec 32) : Nat := (w.extractLsb' 0 5).toNat

/-- VIA of a route word. -/
def routeVia (w : BitVec 32) : Nat := (w.extractLsb' 16 10).toNat

/-- A route entry at reset: no word VALID, each VIA 0x3FF (R357). -/
def routeReset : BitVec 512 := BitVec.ofNat 512 ((List.range 9).foldl (fun x i => x + 0x3FF0000 * 2 ^ (32 * i)) 0)

/-- The route entry of a destination package (R357). -/
def State.route (s : State) (pkg : Nat) : BitVec 512 := s.routes.get pkg routeReset

/-- The next valid route in ascending order after one, wrapping around (R361). -/
def nextRoute (e : BitVec 512) (r : Nat) : Nat :=
  (((List.range 9).map fun i => (r + 1 + i) % 9).find? fun i => routeValid (routeWord e i)).getD r

/-- The state of a Keuri port. -/
def State.link (s : State) (port : Nat) : LinkState := s.links.get port .up

/-- A packet leaves by a port; while the port's link is not up it waits (R454). -/
def State.byPort (s : State) (x : PortPacket) : State :=
  if s.link x.port = .up then s.emit (.packet x.port x.via x.pkg x.leaf x.pkt) else { s with portWait := s.portWait ++ [x] }

/-- Is a packet one of a collective's, that its nodes exchange (R363). -/
def ofCollective : PacketBody → Bool
  | .contribution _ _ _ _ _ _ _ | .partials _ _ _ _ | .deliver _ _ _ _ _ _ => true
  | _ => false

/-- The key a packet of a gang and key ID is sealed under (R363): a collective's packets, which routers must open and make, under the
gang's reduction key (log 71). -/
def sealKeyOf (gang : Nat) (key : BitVec 8) (body : PacketBody) : SealKey := if ofCollective body then .reduction gang else .member key

/-- Does a packet's tag check under the key that its opener holds (R363). -/
def opens (p : Packet) : Bool := p.tagOk && p.under == sealKeyOf p.gang p.key p.body

/-- A packet is sealed as it leaves (R363): the counter of its source leaf goes into its nonce, and never comes again. -/
def State.sealed (s : State) (p : Packet) : State × Packet :=
  (s.onLeaf p.srcLeaf fun l => { l with sealCount := l.sealCount + 1 }, { p with nonce := (s.leaf p.srcLeaf).sealCount })

/-- Send a packet on its way by a route of the destination's entry: a packet to this package's other leaf arrives there;
one whose route is not VALID is not sent and is counted as a link error (R357). The answer says whether it was sent. -/
def State.depart (s : State) (dst : Nat) (route : Option Nat) (p : Packet) : State × Bool :=
  let (u, p) := s.sealed p
  if dst / 2 = s.pkg then (u.post (.fabricPacketArrival (if 2048 ≤ p.dstMember then 2 else dst % 2) p), true)
  else
    let e := s.route (dst / 2)
    let w := routeWord e (route.getD (routeActive e))
    if routeValid w then (u.byPort { port := routePort w, via := routeVia w, pkg := dst / 2, leaf := dst % 2, pkt := p }, true)
    else ({ s with linkerr := satInc s.linkerr }, false)

/-- Change the member on a leaf. -/
def Leaf.onMember (l : Leaf) (f : Member → Member) : Leaf := { l with member := l.member.map f }

/-- Change the member on a leaf. -/
def State.onMember (s : State) (leaf : Nat) (f : Member → Member) : State := s.onLeaf leaf fun l => l.onMember f

/-- A collective of a member by its SEQ. -/
def Member.collOf (m : Member) (seq : W64) : Option (Nat × Coll) :=
  m.colls.findSome? fun p => (p.2.colls.find? fun c => bytesAt c.cmd.block 0x38 8 == seq.toNat).map fun c => (p.1, c)

/-- Change the collectives of a context. -/
def Member.onColls (m : Member) (ctx : Nat) (f : Coll → Coll) : Member :=
  { m with colls := m.colls.map fun (p : Nat × CollCtx) => if p.1 = ctx then (p.1, { p.2 with colls := p.2.colls.map f }) else p }

/-- The SEQ a packet's collective has. -/
def seqOf : PacketBody → Option W64
  | .contribution _ q _ _ _ _ _ => some q
  | .partials _ q _ _ => some q
  | .deliver _ q _ _ _ _ => some q
  | _ => none

/-- Packets that carry n payload flits, at most 63 each (R359, R360). -/
def pktsOf (n : Nat) : Nat := max 1 ((n + 62) / 63)

/-- Payload flits of n bytes. -/
def flitsOf (n : Nat) : Nat := (n + 63) / 64

/-- The packets of a message that a Packet stands for: flits counts one header and every payload flit, and a packet of the fabric
carries at most 63 of those (R359). -/
def packetCount (p : Packet) : Nat := pktsOf (p.flits - 1)

/-- Bytes of a message on the fabric, its packets' header flits included (R359, R443). -/
def wireBytes (p : Packet) : Nat := 64 * (p.flits - 1 + packetCount p)

/-- A member has injected a packet (R66, R382, R443). -/
def State.countSent (s : State) (leaf : Nat) (p : Packet) : State :=
  let n := packetCount p
  let up (c : Coll) : Coll := if some (BitVec.ofNat 64 (bytesAt c.cmd.block 0x38 8)) = seqOf p.body then { c with sent := c.sent + n } else c
  (s.onMember leaf fun m =>
    { m with sent := m.sent + BitVec.ofNat 64 n,
             colls := m.colls.map fun (q : Nat × CollCtx) => (q.1, { q.2 with colls := q.2.colls.map up }) }).meter leaf 9 (wireBytes p)

/-- Where a leaf counts a gang's packets to a destination or from a source: by a leaf's place, or a router, and the gang (R358;
log 71). -/
def seqKeyOf (place gang : Nat) : Nat := place * 65536 + gang

/-- Where a leaf counts its member's packets to another member or a router (R358). -/
def State.seqKey (s : State) (leaf dst : Nat) : Nat :=
  seqKeyOf (if 2048 ≤ dst then 4096 + dst else s.placeOf leaf dst) (((s.leaf leaf).member.map Member.gang).getD 0)

/-- A packet of the member on a leaf to another member, with the sequence number of its destination (R358). -/
def State.packetTo (s : State) (leaf : Nat) (m : Member) (dst flits : Nat) (body : PacketBody) : Packet :=
  { gang := m.gang, key := m.key, srcPkg := s.pkg, srcLeaf := leaf, srcMember := m.member, dstMember := dst,
    seq := (s.leaf leaf).seqOut.get (s.seqKey leaf dst) 0, flits := flits, nonce := 0, under := sealKeyOf m.gang m.key body, tagOk := true, body := body }

/-- The sequence numbers of a message have been used, one for each of its packets. -/
def State.useSeq (s : State) (leaf key : Nat) (p : Packet) : State :=
  s.onLeaf leaf fun l => { l with seqOut := l.seqOut.set key (p.seq + packetCount p) }

/-- Inject a packet of the member on a leaf to another member (R358, R360). flits counts the header. -/
def State.inject (s : State) (leaf dst flits : Nat) (body : PacketBody) : State :=
  match (s.leaf leaf).member with
  | none => s
  | some m =>
    let place := s.placeOf leaf dst
    let p := s.packetTo leaf m dst flits body
    let (s, ok) := s.depart place none p
    if ok then (s.useSeq leaf (s.seqKey leaf dst) p).countSent leaf p else s

/-- Ask another member for something and remember the request (R361). The body is made with the transaction's number; a
request that no VALID route takes now keeps its place in the sequence for its resend. -/
def State.ask (s : State) (leaf dst flits : Nat) (party : Party) (vline : Nat) (body : Nat → PacketBody) : State :=
  match (s.leaf leaf).member with
  | none => s
  | some m =>
    let place := s.placeOf leaf dst
    let p := s.packetTo leaf m dst flits (body m.txnSeq)
    let r : Remote := { txn := m.txnSeq, party := party, vline := vline, place := place, pkt := p, sentAt := s.now.toNat, resent := false }
    let s := (s.onMember leaf fun m => { m with txnSeq := m.txnSeq + 1 }).onLeaf leaf fun l => { l with remotes := l.remotes ++ [r] }
    let (s, ok) := (s.useSeq leaf (s.seqKey leaf dst) p).depart place none p
    (if ok then s.countSent leaf p else s).post (.remoteResend leaf r.txn)

/-- Ask for one virtual line of a party unless it has been asked for or has come (R360). -/
def State.askForLine (s : State) (leaf : Nat) (party : Party) (vline member off len : Nat) : State :=
  let l := s.leaf leaf
  if l.got.any (fun g => g.1 == party && g.2.1 == vline) || l.remotes.any (fun r => r.party == party && r.vline == vline) then s
  else s.ask leaf member 1 party vline fun n => .read n off len

/-- Ask a place's HBM for 64 bytes outside any gang, as fills from a save area on another package do (R73, R77). -/
def State.askPlace (s : State) (leaf place : Nat) (party : Party) (vline off : Nat) : State :=
  match (s.leaf leaf).member with
  | none => s
  | some m =>
    let l := s.leaf leaf
    if l.got.any (fun g => g.1 == party && g.2.1 == vline) || l.remotes.any (fun r => r.party == party && r.vline == vline) then s else
    let p : Packet := { gang := 0, key := m.key, srcPkg := s.pkg, srcLeaf := leaf, srcMember := 0, dstMember := 0, seq := 0, flits := 1, nonce := 0, under := .member m.key, tagOk := true,
                        body := .read m.txnSeq off 64 }
    let r : Remote := { txn := m.txnSeq, party := party, vline := vline, place := place, pkt := p, sentAt := s.now.toNat, resent := false }
    let s := (s.onMember leaf fun m => { m with txnSeq := m.txnSeq + 1 }).onLeaf leaf fun l => { l with remotes := l.remotes ++ [r] }
    (s.depart place none p).1.post (.remoteResend leaf r.txn)

/-- A line that has come for a party. -/
def Leaf.gotLine (l : Leaf) (party : Party) (vline : Nat) : Option (BitVec 512) :=
  (l.got.find? fun g => g.1 == party && g.2.1 == vline).map fun g => g.2.2

/-- A party has used the lines that came for it. -/
def State.forget (s : State) (leaf : Nat) (party : Party) : State :=
  s.onLeaf leaf fun l => { l with got := l.got.filter fun g => g.1 != party }

end Sys2Proof.Machine
end

