-- ==== Sys2Proof/Machine/Issue.lean ====
section
/-! DEFINITION. Issue of a bundle: what decides whether it commits, traps or stalls, and what its commit advances
(R8, R95, R110 to R113, R177 to R183). -/

namespace Sys2Proof.Machine

/-- One syllable of the bundle being issued: its slot, whether its guard holds, whether it
does not decode, its bits as fetched, and its plan. -/
structure Work where
  slot : Slot
  guard : Bool
  bad : Bool
  syl : Syl48
  instr : Instr
  plan : State → Plan

/-- How an issue ends: the writes of its syllables in slot order, or the trap, stall or abort that keeps it from
committing. held is the report whose trap takes the place of issuing (R241). -/
inductive Verdict where
  | commit (fs : List (State → State))
  | trap (slot : Slot) (fetch : Bool) (cause : BitVec 8) (addr : Option W64) (syl : Syl48) (held : Option Report)
  | stall (s : State)
  | abort (s : State)

/-- The checks on a syllable's own bits (R110, R120), with the loop end of R177 that needs the bundle's length. -/
def Work.legal (w : Work) (f : Fetched) : Bool :=
  !w.bad && w.instr.wf && match w.instr with
    | .loop o => decide (f.len ≤ o.len.toNat)
    | .mloop o => decide (f.len ≤ o.len.toNat)
    | _ => true

/-- Is the bundle the end bundle of an active level (R177, R407). -/
def Strand.atEnd (t : Strand) (f : Fetched) (lvl : Bool) : Bool :=
  !t.super && (t.loop lvl).act && decide (f.addr ≤ (t.loop lvl).le.toNat) && decide ((t.loop lvl).le.toNat < f.addr + f.len)

/-- LC as a write to an active level leaves it (R180). -/
def Strand.setLc (t : Strand) (p : Bool × BitVec 32) : Strand := t.onLoop p.1 fun l => { l with lc := p.2 }

/-- A write to LC by the last bundle issued was early unless this bundle is its level's end bundle (R180). -/
def Strand.early (t : Strand) (f : Fetched) : Strand :=
  let u := (t.late.filter fun p => !t.atEnd f p.1).foldl Strand.setLc t
  { u with late := t.late.filter fun p => t.atEnd f p.1 }

/-- LOOPBR: an end bundle that holds a branch syllable or is a delay bundle (R179). -/
def Strand.loopBranch (t : Strand) (f : Fetched) (ws : List Work) : Bool :=
  (t.atEnd f false || t.atEnd f true) && (t.pend.isSome || ws.any fun w => isBranch w.instr)

/-- The first syllable that shares a written register with a later one (R112). -/
def firstDup (t : Strand) : List Work → Option Work
  | [] => none
  | w :: ws =>
    if ws.any fun v => shares (writeRegs t w.instr) (writeRegs t v.instr) then some w else firstDup t ws

/-- The vector unit that serves a slot (R64). -/
def Core.unitOf (c : Core) (sl : Slot) : Nat :=
  if sl = .v0 then (if c.engmap.getLsbD 2 then 0 else 1) else (if c.engmap.getLsbD 3 then 1 else 0)

/-- A syllable that reads or writes the destination of a result in flight, whose vector unit is occupied (R191, R241), or
a memory syllable behind an acquire, none of whose later accesses performs before it (R253). V0 of a split bundle whose first
group has issued has its unit (R65). -/
def Work.waits (w : Work) (s : State) : Bool :=
  let t := s.me
  let c := s.core (coreOf s.cur)
  (w.slot == .m && t.loads.any fun e => e.kind == .acquire) ||
  (readRegs t w.instr).any t.busyReg || (writeRegs t w.instr).any t.busyReg ||
  ((w.slot == .v0 && c.half.isNone || w.slot == .v1) && decide (s.clkHere < c.vbusy.get (c.unitOf w.slot) 0))

/-- Does a bundle need two instances of a unit of which one survives (R65). -/
def Core.splits (c : Core) (ws : List Work) : Bool :=
  let has (sl : Slot) : Bool := ws.any fun w => w.slot == sl
  (has .s0 && has .s1 && !(c.engmap.getLsbD 0 && c.engmap.getLsbD 1)) ||
  (has .v0 && has .v1 && !(c.engmap.getLsbD 2 && c.engmap.getLsbD 3))

/-- The held report that the first reader or writer of its destination traps with (R241). -/
def Work.report (w : Work) (t : Strand) : Option Report :=
  t.reports.find? fun r => match r.dest with
    | some d => (readRegs t w.instr).contains d || (writeRegs t w.instr).contains d
    | none => false

/-- The plans in slot order, each made on the state before the bundle (R8); the first that does not commit decides
(R113). -/
def gather (s : State) : List Work → List (State → State) → Verdict
  | [], fs => .commit fs
  | w :: ws, fs =>
    match w.report s.me with
    | some r => .trap w.slot false r.cause (some r.addr) w.syl (some r)
    | none =>
      match w.plan { s with slot := w.slot } with
      | .go g => gather s ws (fs ++ [fun (v : State) => g { v with slot := w.slot }])
      | .late k =>
        match k (fs.foldl (fun s g => g s) { s with slot := w.slot }) with
        | .go g => gather s ws (fs ++ [fun (v : State) => g { v with slot := w.slot }])
        | .trap c a => .trap w.slot false c a w.syl none
        | _ => .stall s
      | .trap c a => .trap w.slot false c a w.syl none
      | .report r => .trap w.slot false r.cause (some r.addr) w.syl (some r)
      | .stall s' => .stall s'
      | .abort s' => .abort s'

/-- Does a syllable read or write the destination of a load in flight. -/
def Work.wants (w : Work) (t : Strand) (e : LoadEntry) : Bool :=
  let meets (d : Reg) : Bool := (readRegs t w.instr).contains d || (writeRegs t w.instr).contains d
  match e.dest with
  | .vec n _ _ => meets (.v n)
  | .scalar n _ => meets (.s n)
  | .gone => false

/-- A stall on the result of a scoreboarded load is charged to the load's buffer number (R237). -/
def State.chargeLoad (s : State) (run : List Work) : State :=
  match s.me.loads.find? fun e => run.any fun w => w.wants s.me e with
  | some e => s.countStall (leafOf s.cur) e.va
  | none => s

/-- What becomes of the bundle f with syllables ws at the strand cur (R101, R113): which registers a conversion writes hangs on its
source's tag (R203), so WRDUP is judged once no result that the bundle reads is in flight. -/
def State.verdict (s : State) (f : Fetched) (ws : List Work) : Verdict :=
  let t := s.me
  let run := ws.filter Work.guard
  if t.pend.isSome && ws.any (fun w => isBranch w.instr) then .trap .s0 true DELAYBR none 0 none else
  match ws.find? fun w => !w.legal f with
  | some w => .trap w.slot false ILLINST none w.syl none
  | none =>
    if t.loopBranch f ws then .trap .b false LOOPBR none (rawSyllable f.raw .b) none else
    if run.any (fun w => w.waits s) then .stall (s.chargeLoad run) else
    match firstDup t run with
    | some w => .trap w.slot false WRDUP none w.syl none
    | none => gather s run []

/-- The end step of an MLOOP trip: rotation, and the renamed p63 (R183). -/
def Strand.rotate (t : Strand) (cont : Bool) (lc nstg : Nat) : Strand :=
  let u := { t with rvb := t.rvb + 1, rpb := t.rpb + 1 }
  { u with pregs := setBit u.pregs (u.physP 63) (cont && decide (nstg < lc)) }

/-- The end test of a level, and whether its loop goes on (R178, R180, R183). -/
def Strand.endTest (t : Strand) (lvl : Bool) : Strand × Bool :=
  let l := t.loop lvl
  let cont := decide (1 < l.lc.toNat)
  let t := t.onLoop lvl fun l => { l with lc := if cont then l.lc - 1 else 0, act := cont }
  let t := { ((t.lateHeld ++ t.late).filter fun p => p.1 == lvl).foldl Strand.setLc t with
    late := t.late.filter (fun p => p.1 != lvl), lateHeld := t.lateHeld.filter fun p => p.1 != lvl }
  match l.nstg with
  | some n => (t.rotate cont (t.loop lvl).lc.toNat n, cont)
  | none => (t, cont)

/-- Issue goes to an address. -/
def Strand.goto (t : Strand) (pc : Nat) (inRun : Bool) : Strand := { t with pc := pc, inRun := inRun }

/-- Of the bundles decoded ahead, those on the path from an address; the fuel is how many there are. -/
def pathOf (ib : List Fetched) : Nat → Nat → Bool → List Fetched
  | 0, _, _ => []
  | n + 1, pc, r =>
    match ib.find? fun f => f.addr == pc && f.inRun == r with
    | none => []
    | some f => f :: pathOf ib n (f.addr + f.len) f.runs

/-- The bundles decoded ahead in a bank on the path from an address. -/
def Strand.path (t : Strand) (bank : Bool) (pc : Nat) (r : Bool) : List Fetched :=
  pathOf (t.ibuf.filter fun f => f.bank == bank) t.ibuf.length pc r

/-- Issue goes to a target, decoded by R82; bundles decoded ahead on other paths are discarded (R83, R94). -/
def Strand.jump (t : Strand) (pc : Nat) : Strand := { t with pc := pc, inRun := false, ibuf := t.path t.bank pc false }

/-- A write to LC that its level's test has not yet taken, though its bundle or the next was the end bundle, waits for that test
(R180). -/
def Strand.holdLate (t : Strand) (f : Fetched) : Strand :=
  { t with lateHeld := t.lateHeld ++ t.late.filter (fun p => t.atEnd f p.1), late := t.late.filter fun p => !t.atEnd f p.1 }

/-- The end tests of an end bundle, level 1 first (R178). -/
def Strand.endTests (t : Strand) (f : Fetched) : Strand :=
  let lvl0 (t : Strand) : Strand :=
    if t.atEnd f false then
      let (u, cont) := t.endTest false
      if cont then u.jump u.loop0.ls.toNat else u
    else t
  if t.atEnd f true then
    let (u, cont) := t.endTest true
    if cont then (u.holdLate f).jump u.loop1.ls.toNat else lvl0 u
  else lvl0 t

/-- One of the two delay bundles has issued: the other comes next, or the target of a taken branch (R95, R99). -/
def Strand.delayed (t : Strand) (p : Pending) : Strand :=
  if 1 < p.left then { t with pend := some { p with left := p.left - 1 } }
  else match p.target with
    | none => { t with pend := none, ibuf := t.path t.bank t.pc t.inRun }
    | some a => if p.bsw then { t with bank := !t.bank, pend := none }.jump a else { t.jump a with pend := none }

/-- What a bundle's commit advances: t0 is the strand before it, t after its syllables' writes (R83, R95, R178, R186). -/
def Strand.advance (t0 t : Strand) (f : Fetched) (branch : Bool) : Strand :=
  if t.retiring then t else
  let t := { t with ibuf := t.ibuf.filter fun g => g.addr != f.addr || g.inRun != f.inRun }
  let t := match t.next with
    | some (pc, r) => { t.goto pc r with next := none }
    | none => t.goto (f.addr + f.len) f.runs
  let t := match t0.pend with
    | some p => t.delayed p
    | none =>
      if branch then { t with pend := some (t.pend.getD { left := 2, target := none, bsw := false }) }
      else if t0.super then t else t.endTests f
  match t.trapReq with
  | some r => { t with trapReq := some { r with pc := t.pc, pend := t.pend } }
  | none => t

/-- Does the bundle hold a branch syllable with delay bundles (R95, R412). -/
def hasDelay (ws : List Work) : Bool := ws.any fun w => isBranch w.instr && w.instr != .eret

/-- A held report has been reported. -/
def Strand.reported (t : Strand) (held : Option Report) : Strand :=
  match held with
  | some r => { t with reports := t.reports.erase r }
  | none => t

/-- A failed completion has been read (R437). -/
def State.readOff (s : State) (who cmd : Nat) : State :=
  s.onMember (leafOf who) fun m => { m with unread := m.unread.filter fun u => !(u.1 == who && u.2.1 == cmd) }

/-- A TWAIT or TEND that traps on a failed completion has read it (R437). -/
def State.readFailure (s : State) (ws : List Work) (slot : Slot) (cause : BitVec 8) : State :=
  if cause ≠ ENGFAULT then s else
  match ws.find? fun w => w.slot == slot with
  | some w =>
    match w.instr with
    | .twait o =>
      match s.me.rdTk o.tk.toNat with
      | .failed c _ => s.readOff s.cur c
      | _ => s
    | .tend =>
      match s.me.failed with
      | (c, _) :: r => (s.readOff s.cur c).onMe fun t => { t with failed := r }
      | [] => s
    | _ => s
  | none => s

/-- Clocks that a syllable keeps its vector unit (R191). -/
def occupancy : Instr → Nat
  | .vexp2 _ | .vlog2 _ | .vrecip _ | .vrsqrt _ | .vtanh _ | .vsilu _ => 8
  | _ => 1

/-- The first group of a split bundle issues (R65): V0's unit is occupied, and the core belongs to the strand until the second
group has issued, one clock on or once V1's unit is free. -/
def State.firstGroup (s : State) (ws : List Work) : State :=
  let clk := s.clkHere
  s.onMyCore fun c =>
    { c with half := some (s.cur, clk)
             vbusy := match ws.find? fun w => w.slot == .v0 && w.guard with
               | some w => c.vbusy.set (c.unitOf .v0) (clk + occupancy w.instr)
               | none => c.vbusy }

/-- A bundle that was split is over (R65). -/
def State.whole (s : State) (ws : List Work) : State :=
  if (s.core (coreOf s.cur)).splits ws then s.onMyCore fun c => { c with half := none } else s

/-- Carry a verdict out at the strand cur. The writes of a split bundle commit with its second group (R65). -/
def State.carry (s : State) (f : Fetched) (ws : List Work) : Verdict → State
  | .commit fs =>
    if (s.core (coreOf s.cur)).splits ws && (s.core (coreOf s.cur)).half.isNone then s.firstGroup ws else
    let u := (fs.foldl (fun s g => g s) s).whole ws
    (u.onMe fun t => { s.me.advance t f (hasDelay ws) with last := f.addr }).settle s.cur
  | .trap slot fetch cause addr syl held =>
    (((s.whole ws).readFailure ws slot cause).onMe fun t => t.reported held).takeTrap s.cur cause slot fetch addr syl
  | .stall u => u
  | .abort u => u.whole ws

/-- The state a bundle is judged on: writes to LC of the last bundle are settled (R180). -/
def State.ripe (s : State) (f : Fetched) : State := s.onMe fun t => t.early f

/-- Issue the bundle f with syllables ws at the strand cur. -/
def State.issue (s : State) (f : Fetched) (ws : List Work) : State :=
  let s := s.ripe f
  s.carry f ws (s.verdict f ws)

/-- Issue of a bundle that holds one syllable, with its guard true, at the strand cur and in the slot slot. -/
def alone (i : Instr) (p : State → Plan) (s : State) : Host.Outcome State Fault Refusal :=
  let f := s.located s.cur
  .next (s.issue f [{ slot := s.slot, guard := true, bad := false, syl := rawSyllable f.raw s.slot, instr := i, plan := p }])

end Sys2Proof.Machine
end

