-- ==== Sys2Proof/Machine/PoolCache.lean ====
section
/-! DEFINITION. The pool line cache: shares, fills, eviction and ownership (R268 to R275). -/

namespace Sys2Proof.Machine

/-- May a member's access reach a pool address: it may; it waits for the port (R275); it raises POOLLOST; or MEMXL
(R268, R271). -/
inductive PoolGate where
  | ok | retry | lost | invalid
deriving DecidableEq, Repr

/-- Lines that a key ID holds. -/
def State.poolHeld (s : State) (key : BitVec 8) : List (Nat × PoolLine) := s.poolLines.filter fun p => p.2.key == key

/-- Lines that a key ID may hold (R271). -/
def State.poolShare (s : State) (key : BitVec 8) : Nat := (s.plcshare.get key.toNat 0).toNat * 256

/-- The gate of a pool address for a key ID (R268, R271, R275); a fill waits while atomics in progress hold every line that could make
room for it. -/
def State.poolGate (s : State) (key : BitVec 8) (a : Nat) : PoolGate :=
  match s.poolRegionOf a with
  | none => .invalid
  | some r =>
    let held := s.poolHeld key
    if r.key != key || s.poolShare key == 0 then .invalid
    else if r.state = 3 then .lost
    else if r.state = 0 || s.poolBad.contains (a / 4096) then .invalid
    else if s.poolShare key ≤ held.length ∧ held.all (fun p => p.2.state == .orphan) then .invalid
    else if r.state = 2 then .retry
    else if s.poolShare key ≤ held.length ∧ held.all (fun p => p.2.state == .orphan || p.2.busy) ∧
        (s.poolLines.find? (poolSlot key (a / 64))).isNone then .retry
    else .ok

/-- One pool line read or written at the device counts for the function of its key ID (R443). -/
def State.meterPool (s : State) (key : BitVec 8) : State :=
  let here := [0, 1].findSome? fun l => match (s.leaf l).member with
    | some m => if m.key = key then some m.vf else none
    | none => none
  let fn := here.orElse fun _ => s.gangs.findSome? fun p => if bytesAt p.2 4 1 = key.toNat ∧ p.2 ≠ 0 then some (bytesAt p.2 0 1) else none
  match fn with
  | some v => s.onVf v fun x => x.meter 8 64
  | none => s

/-- Write a line to its device, enciphered under a key ID (R270). -/
def State.poolWrite (s : State) (key : BitVec 8) (line : Nat) (data : BitVec 512) : State :=
  { s with pool := s.pool.writeNat (64 * line) 64 (Config.poolCipher key (64 * line) data).toNat, poolClear := s.poolClear.set line (key, data) }

/-- Evict a line, writing it back when it is M (R272); pool bytes are metered at the device (R443). -/
def State.poolEvict (s : State) (slot : Nat) : State :=
  match s.poolLines.find? slot with
  | none => s
  | some l =>
    let s := if l.state = .modified then (s.poolWrite l.key (slot / 256) l.data).meterPool l.key else s
    { s with poolLines := s.poolLines.erase slot }

/-- Evict lines of a key ID until it holds fewer than its share; orphans stay, and a line held by an atomic stays (R271). -/
def State.poolRoom (s : State) (key : BitVec 8) : Nat → State
  | 0 => s
  | n + 1 =>
    let held := s.poolHeld key
    if held.length < s.poolShare key then s else
      match held.find? fun p => p.2.state != .orphan && !p.2.busy with
      | none => s
      | some p => (s.poolEvict p.1).poolRoom key n

/-- A line held for a key ID in a state, filled from the device when it is not (R271, R272). A share that has been lowered leaves
its lines in place until they are evicted, so that another key ID's raised share may fill while the lines of all key IDs pass
32 MiB: what the cache does then no rule says, and the model holds them all (DESIGN CHOICE; unsafe: hardware could hold a fill
back). -/
def State.poolFill (s : State) (key : BitVec 8) (line : Nat) (st : PoolState) (filler : Option Nat) : State :=
  let k := poolSlot key line
  match s.poolLines.find? k with
  | some l =>
    if l.state = .shared ∧ st = .exclusive then
      { s with poolLines := s.poolLines.set k { l with state := .exclusive, filler := none } }
    else s
  | none =>
    let s := s.poolRoom key (s.poolHeld key).length
    let l : PoolLine := { state := st, key := key, data := s.poolPlain key line, filler := filler, busy := false }
    ({ s with poolLines := s.poolLines.set k l }).meterPool key

/-- Is a line owned for a key ID: E or M (R272). -/
def State.poolOwned (s : State) (key : BitVec 8) (line : Nat) : Bool :=
  match s.poolLines.find? (poolSlot key line) with
  | some l => l.state == .exclusive || l.state == .modified
  | none => false

/-- Write an owned line, which makes it M (R272). -/
def State.poolPut (s : State) (key : BitVec 8) (line : Nat) (data : BitVec 512) : State :=
  let k := poolSlot key line
  match s.poolLines.find? k with
  | some l => { s with poolLines := s.poolLines.set k { l with state := .modified, data := data } }
  | none => s

/-- An acquire at pool scope invalidates the S lines that the strand's own loads and PREFs filled (R273). -/
def State.poolAcquire (s : State) (who : Nat) : State :=
  { s with poolLines := s.poolLines.filter fun p => !(p.2.state == .shared && p.2.filler == some who) }

/-- Ask the device for a line's ownership (R273). -/
def State.askOwnership (s : State) (line : Nat) : State :=
  if s.agenda.contains (.ownershipGrant line) then s else s.post (.ownershipGrant line)

end Sys2Proof.Machine
end

