-- ==== Sys2Proof/Machine/Memory.lean ====
section
/-! DEFINITION. Local store regions and their first touch, and global accesses: how bytes lie in a register, how an
access is translated, and how reads and writes reach each kind of memory (R218 to R226, R239 to R254, R285 to R289). -/

namespace Sys2Proof.Machine

/-! Bits of memory and of registers (R137, R148, R239). -/

/-- v with the bits of d where m is 1. -/
def mergeNat (v d m : Nat) : Nat := (v ^^^ (v &&& m)) ||| (d &&& m)

/-- Bytes a vector form moves in memory (R239). -/
def memBytes (f : Fmt) : Nat := if f = .t6 then 384 else 512

/-- A vector register's bits as they lie in memory: T6 is packed (R148). -/
def toMem (f : Fmt) (v : VBits) : Nat := if f = .t6 then pack 6 (fun i => eltOf 8 v i % 64) 512 else v.toNat

/-- A vector register's bits from memory. -/
def fromMem (f : Fmt) (x : Nat) : Nat := if f = .t6 then pack 8 (fun i => x / 2 ^ (6 * i) % 64) 512 else x

/-- The bits in memory of the active elements (R240). -/
def memMask (f : Fmt) (k : KBits) : Nat :=
  let w := if f = .t6 then 6 else f.bits
  pack w (fun i => if active k f i then 2 ^ w - 1 else 0) f.count

/-- Is any bit of byte j in a mask. -/
def byteIn (mask j : Nat) : Bool := mask / 2 ^ (8 * j) % 256 != 0

/-- The registers' contents after a vector load: active elements from memory, the others kept (R240). -/
def loaded (f : Fmt) (k : KBits) (old : VBits) (x : Nat) : VReg :=
  let y := fromMem f x
  { bits := blend f k old fun i => cleanElt f f i (y / 2 ^ (f.bits * i) % 2 ^ f.bits), tag := f }

/-- A scalar load's extension (R239). -/
def scalarExt (f : Fmt) (x : Nat) : W64 :=
  if f.signed then wrap64 (intDecode f x) else BitVec.ofNat 64 (x % 2 ^ (8 * scalarBytes f))

/-! Regions (R218 to R226). -/

/-- The name a member gives the regions it holds (R77). -/
def Member.owner (m : Member) : Owner := { key := m.key, gang := m.gang, member := m.member, dead := false }

/-- LEN of an entry, in bytes of the backed part (R219). -/
def Region.backed (r : Region) : Nat := 64 * (r.rattr.toNat % 512)

/-- BACK (R219). -/
def Region.back (r : Region) : Bool := r.rattr.getLsbD 9

/-- WB (R219). -/
def Region.wb (r : Region) : Bool := r.rattr.getLsbD 10

/-- An invalid RATTR for a VBASE (R219). -/
def rattrOk (vbase rattr : W64) : Bool :=
  let n := rattr.toNat % 512
  n != 0 && decide (n ≤ 256) && rattr.toNat / 2 ^ 11 == 0 &&
  ((!rattr.getLsbD 9 && !rattr.getLsbD 10) || vbase.toNat % 64 == 0)

/-- A region of a core. -/
def State.region (s : State) (core n : Nat) : Region := (s.core core).regions.get n .reset

/-- Replace a region entry. -/
def State.setRegion (s : State) (core n : Nat) (r : Region) : State := s.onCore core fun c => { c with regions := c.regions.set n r }

/-- Zero a region's bytes. -/
def State.zeroRegion (s : State) (core n : Nat) : State := s.onCore core fun c => { c with local_ := c.local_.clear (16384 * n) 16384 }

/-- A package HBM address: leaf, offset and package (R73). -/
def hbmParts (a : Nat) : Nat × Nat × Nat := (a / 2 ^ 38 % 2, a % 2 ^ 38, a / 2 ^ 39 % 1024)

/-- Write bytes at a package HBM address; on another package they go over Keuri, 512 bytes to a packet (R73, R77). -/
def State.hbmPut (s : State) (leaf a n data : Nat) (key : BitVec 8) : State :=
  let (l, off, pkg) := hbmParts a
  if pkg = s.pkg then s.hbmWrite l off n data (2 ^ n - 1) key
  else (List.range ((n + 511) / 512)).foldl (fun s i =>
    let k := min 512 (n - 512 * i)
    let p : Packet := { gang := 0, key := key, srcPkg := s.pkg, srcLeaf := leaf, srcMember := 0, dstMember := 0, seq := 0, flits := 1 + flitsOf k, nonce := 0, under := .member key, tagOk := true,
                        body := .store 0 (off + 512 * i) k (BitVec.ofNat 8192 (data / 2 ^ (4096 * i) % 2 ^ 4096)) (BitVec.ofNat 8192 (2 ^ (8 * k) - 1)) }
    (s.depart (2 * pkg + l) none p).1) s

/-- The save area slot of a core and region (R77). -/
def saveSlot (base core region : Nat) : Nat := base + 16384 * (64 * (core % 64) + region)

/-- Write a region to its live owner's save area; the owner's entry, which its context keeps with its dirty bits, becomes SAVED
(R77, R220). -/
def State.spill (s : State) (core n : Nat) (o : Owner) : State :=
  let k := contextKey o.gang o.member
  match s.contexts.find? k with
  | none => s
  | some c =>
    let s := s.onVf c.member.vf fun v => v.meter 7 16384
    let s := s.hbmPut (leafOfCore core) (saveSlot c.member.saveBase core n) 16384 ((s.core core).local_.readNat (16384 * n) 16384) o.key
    let upd (p : Nat × Core) : Nat × Core :=
      if p.1 = core % 64 then
        (p.1, { p.2 with regions := p.2.regions.set n { p.2.regions.get n .reset with state := .saved } })
      else p
    { s with contexts := s.contexts.set k { c with cores := c.cores.map upd } }

/-- Do two owners have one name (R77). -/
def Owner.same (a b : Owner) : Bool := a.key == b.key && a.gang == b.gang && a.member == b.member

/-- The owner rule of R77 for a touch by the member on the core's leaf: another live owner's region is spilled, a dead
owner's is zeroed, and the region takes the toucher's tag. -/
def State.ownRegion (s : State) (core n : Nat) : State :=
  match (s.leaf (leafOfCore core)).member with
  | none => s
  | some m =>
    let r := s.region core n
    let mine : Region := { r with owner := some m.owner, state := (if r.state = .held then .fresh else r.state), dirty := if r.state = .saved then r.dirty else 0 }
    match r.owner with
    | none => s.setRegion core n { r with owner := some m.owner }
    | some o =>
      if o.same m.owner && !o.dead then s
      else if o.dead then (s.zeroRegion core n).setRegion core n mine
      else (s.spill core n o).setRegion core n mine

/-- Are lines of a region's old mapping still on their way to memory: a touch waits for them (R226). -/
def State.backing (s : State) (core n : Nat) : Bool :=
  (List.range 4).any fun i =>
    let t := s.strand (4 * core + i)
    let mine : StoreKind → Bool := fun k => match k with
      | .writeBack m _ => m == n
      | _ => false
    (t.stores.any fun e => mine e.kind) || t.sent.any fun e => mine e.kind

/-- A clock that a strand's bundle waits on a region's fill: its safe-point counter stands (R69), and the fill of a mapping is charged
with the stall, that of a save slot, which has no number, is not (R237). -/
def State.fillStall (s : State) (core : Nat) (r : Region) (party : Party) : State :=
  match party with
  | .bundle w =>
    let s := s.onStrand w fun t => { t with fillAt := some (s.leaf (leafOfCore core)).clk }
    if r.state = .saved then s else s.countStall (leafOfCore core) r.vbase.toNat
  | _ => s

/-- A touch of a region by a party (R221): the state, and whether the region is held. An unbacked FRESH
region is zero-filled at once; any other fill ends with REGION_FILL_COMPLETE. -/
def State.touch (s : State) (core n : Nat) (party : Party) : State × Bool :=
  let s := s.ownRegion core n
  let r := s.region core n
  if r.state = .held then (s, true)
  else if s.backing core n then (s, false)
  else if r.filling.isSome then (s.fillStall core r party, false)
  else if r.state = .fresh ∧ r.back = false then
    ((s.zeroRegion core n).setRegion core n { r with state := .held, dirty := 0 }, true)
  else
    let s := s.fillStall core r party
    ((s.setRegion core n { r with filling := some party, since := (s.leaf (leafOfCore core)).clk }).post (.regionFillComplete core n), false)

/-- Touch regions in turn until one is not held. -/
def State.touchAll (s : State) (core : Nat) (party : Party) : List Nat → State × Bool
  | [] => (s, true)
  | n :: t =>
    let (s, ok) := s.touch core n party
    if ok then s.touchAll core party t else (s, false)

/-- The regions of the bytes a 0 to a (z - 1) that are in a mask, each once. -/
def regionsOf (a : Nat → Nat) (z mask : Nat) : List Nat :=
  ((List.range z).filterMap fun j => if byteIn mask j then some (a j / 16384) else none).eraseDups

/-- Set the dirty bits of the lines that a local store writes (R224). -/
def State.dirtyLines (s : State) (core : Nat) (lines : List Nat) : State :=
  lines.foldl (fun s l => let r := s.region core (l / 256)
                          s.setRegion core (l / 256) { r with dirty := setBit r.dirty (l % 256) true }) s

/-- Write bytes of a core's local store, under a mask of bits (R224, R284). -/
def State.localPut (s : State) (core : Nat) (a : Nat → Nat) (z data mask : Nat) : State :=
  let lines := ((List.range z).filterMap fun j => if byteIn mask j then some (a j / 64) else none).eraseDups
  (s.onCore core fun c => { c with local_ := c.local_.scatter a data mask z }).dirtyLines core lines

/-- A strand's local access: it stalls while a region it touches is not held (R221); a fill that failed traps (R223). -/
def touchPlan (s : State) (regions : List Nat) (k : State → Plan) : Plan :=
  match s.me.walk with
  | some (.failed c va) => .trap c (some (BitVec.ofNat 64 va))
  | _ =>
    match s.touchAll (coreOf s.cur) (.bundle s.cur) regions with
    | (u, true) =>
      match k u with
      | .go f => .go fun s => f (s.touchAll (coreOf s.cur) (.bundle s.cur) regions).1
      | p => p
    | (u, false) => .stall u

/-- What a load writes of the bytes it read (R239, R240). -/
def LoadDest.lands (t : Strand) : LoadDest → Nat → List Landing
  | .vec n f m, x => [.v n (loaded f m (t.vregs.get n { bits := 0, tag := .raw }).bits x)]
  | .scalar n f, x => if n = 0 then [] else [.s n (scalarExt f x)]
  | .gone, _ => []

/-- Does a strand have local accesses wait for a FENCE: later ones keep behind them (R258, R284). -/
def Strand.holdsBack (t : Strand) : Bool := !t.fences.isEmpty || !t.waits.isEmpty

/-- A local access that its bundle commits and a FENCE holds back: it performs once it may, without stalling issue (R258). -/
def State.holdAccess (s : State) (a : Nat → Nat) (z mask : Nat) (kind : HeldKind) : State :=
  let e : HeldAccess := { id := s.me.memSeq, addrs := (List.range z).map a, mask := BitVec.ofNat 4096 mask, kind := kind }
  (s.onMe fun t => { t with waits := t.waits ++ [e], memSeq := t.memSeq + 1 }).post (.localPerform s.cur e.id)

/-- A local load: bytes read at issue, delivered 4 clocks later (R241, R284); behind a FENCE it waits (R258). -/
def localLoad (s : State) (a : Nat → Nat) (z mask : Nat) (dest : LoadDest) : Plan :=
  touchPlan s (regionsOf a z mask) fun u =>
    if s.me.holdsBack then .go fun s => s.holdAccess a z mask (.load dest) else
    let x := (u.core (coreOf s.cur)).local_.gather a z
    .go fun v => v.fly 4 (dest.lands s.me x)

/-- A local store, performed at commit (R241); behind a FENCE it waits (R258). -/
def localStore (s : State) (a : Nat → Nat) (z data mask : Nat) : Plan :=
  touchPlan s (regionsOf a z mask) fun _ =>
    if s.me.holdsBack then .go fun s => s.holdAccess a z mask (.store (BitVec.ofNat 4096 data))
    else .go fun s => s.localPut (coreOf s.cur) a z data mask

/-- Does a strand of a core have local accesses that wait for a FENCE (R258). -/
def State.heldLocal (s : State) (core : Nat) : Bool := (List.range 4).any fun i => !(s.strand (4 * core + i)).waits.isEmpty

/-! Translation of an access. -/

/-- Does a miss join a walk in flight: it reads the same entries (R393). -/
def Walk.joins (w v : Walk) : Bool := !w.parked && !v.parked && w.vf == v.vf && w.va / 4096 == v.va / 4096

/-- The walks in flight of a leaf, those that joined one counted with it (R393). -/
def Leaf.walksOut (l : Leaf) : Nat := ((l.walks.filter fun w => !w.parked).map fun w => (w.vf, w.va / 4096)).eraseDups.length

/-- Start a walk for a party, or join one in flight, unless one of its own is in flight or 1,024 are (R393). -/
def State.startWalk (s : State) (leaf : Nat) (party : Party) (need : Need) (va : Nat) : State :=
  let l := s.leaf leaf
  let w : Walk := { id := l.walkSeq, party := party, vf := (s.keyVf leaf).2, va := va, write := need.wr, read := need.rd, exec := need.ex,
                    parked := false, line := none, since := s.now }
  if l.walks.any (fun v => v.party == party) || (!l.walks.any w.joins && decide (1024 ≤ l.walksOut)) then s else
  (s.onLeaf leaf fun l => { l with walkSeq := l.walkSeq + 1, walks := l.walks ++ [w] }).post (.walkComplete leaf l.walkSeq)

/-- The virtual lines that n bytes from an address lie in, where a mask of bits has any. -/
def linesOf (va n mask : Nat) : List Nat :=
  ((List.range n).filterMap fun j => if byteIn mask j then some ((va + j) / 64) else none).eraseDups

/-- Where virtual lines lie by the translations a leaf holds; the address of the first that has none. -/
def State.placeLines (s : State) (leaf : Nat) (need : Need) : List Nat → (List (Nat × Phys)) ⊕ Nat
  | [] => .inl []
  | l :: t =>
    match (s.leaf leaf).lookup (s.keyVf leaf).2 need (64 * l) with
    | none => .inr (64 * l)
    | some e =>
      match s.placeLines leaf need t with
      | .inl r => .inl ((l, e.at (64 * l)) :: r)
      | .inr va => .inr va

/-- The gate of a location: the pool's for pool addresses, shut for a retired page (R405, R406), else open. -/
def State.gate (s : State) (leaf : Nat) : Phys → PoolGate
  | .pool a => s.poolGate (s.keyVf leaf).1 a
  | p => if (s.leaf leaf).bad p then .invalid else .ok

/-- Is a virtual line's page frozen for a function by a checkpoint (R440). -/
def State.frozenFor (s : State) (leaf vf vline : Nat) : Bool := (s.leaf leaf).frozen.any fun p => p.1 == vf && p.2 == vline / 64

/-- Is a virtual line's page frozen for the member on a leaf. -/
def State.isFrozen (s : State) (leaf vline : Nat) : Bool := s.frozenFor leaf (s.keyVf leaf).2 vline

/-- A strand's precise translation of the lines of an access (R249, R253, R256): a miss stalls until its walk ends; a
walk that ended INVALID or on a lost region traps, with the address of the first byte that meets it; a pool region in RETRY or a frozen page parks the bundle (R275, R440). -/
def xlated (s : State) (need : Need) (first : Nat) (lines : List Nat) (k : List (Nat × Phys) → Plan) : Plan :=
  let leaf := leafOf s.cur
  match s.me.walk with
  | some (.failed c va) => .trap c (some (BitVec.ofNat 64 va))
  | some (.walking _ _) => .stall s
  | some (.parked _ _) => .stall s
  | none =>
    match s.placeLines leaf need lines with
    | .inr l =>
      let va := max first l
      .stall ((s.startWalk leaf (.bundle s.cur) need va).onMe fun t => { t with walk := some (.walking va need.wr) })
    | .inl ps =>
      match ps.find? fun p => s.gate leaf p.2 != .ok with
      | none => if need.wr && lines.any (s.isFrozen leaf) then .stall s else k ps
      | some p =>
        let va : W64 := BitVec.ofNat 64 (max first (64 * p.1))
        match s.gate leaf p.2 with
        | .lost => .trap POOLLOST (some va)
        | .retry => .stall s
        | _ => .trap MEMXL (some va)

/-! Reads and writes of one line. -/

/-- Are a party's reads loads of its strand: not those of fetch, an engine or the command processor (R222, R273). -/
def Party.loads : Party → Bool
  | .bundle _ | .load _ _ | .region _ _ => true
  | .store _ _ | .fetch _ | .cmd _ _ | .push _ _ | .requeue _ | .coll _ | .packet _ => false

/-- The line of a strand's weak access as it stands: the leaf's HBM through L1, host memory, the pool through its line
cache, a remote line as the owner answered (R249, R271, R287). -/
def State.weakLine (s : State) (who vline : Nat) (p : Phys) (party : Party) : State × BitVec 512 :=
  let key := (s.keyVf (leafOf who)).1
  match p with
  | .hbm _ off =>
    let s := s.l1Fill (coreOf who) (64 * vline) off key
    (s, s.l1Data (coreOf who) (64 * vline) off)
  | .host a => (s, BitVec.ofNat 512 (s.host.readNat a 64))
  | .pool a =>
    let s := s.poolFill key (a / 64) .shared (if party.loads then some who else none)
    (s, s.poolData key (a / 64))
  | .remote _ _ => (s, ((s.leaf (leafOf who)).gotLine party vline).getD 0)

/-- Write back and drop a line of a core's L1 domain. -/
def State.flushLine (s : State) (core va off : Nat) : State :=
  let h := s.l1Home core va
  (s.cleanLine h (off / 64)).dropLine h (off / 64)

/-- A line of the leaf's HBM as it stands there, past L1; a line under another key ID reads as zeros (R234, R289). -/
def State.hbmLineAt (s : State) (leaf off : Nat) (key : BitVec 8) : State × BitVec 512 :=
  let s := if s.keyOk leaf off (· == key) then s else s.keyMiss leaf
  (s.meter leaf 6 64, BitVec.ofNat 512 (s.hbmRead leaf off 64 (· == key)))

/-- The line of an access that reads at its scope's point beyond L1 (R253, R286, R289). -/
def State.pointLine (s : State) (who vline : Nat) (p : Phys) (party : Party) : State × BitVec 512 :=
  match p with
  | .hbm leaf off => (s.flushLine (coreOf who) (64 * vline) off).hbmLineAt leaf off (s.keyVf leaf).1
  | _ => s.weakLine who vline p party

/-- A mask of bits as a mask of the n bytes it writes in full or in part. -/
def byteMask (n mask : Nat) : Nat := pack 1 (fun j => if byteIn mask j then 1 else 0) n

/-- Write bits of one HBM line through L1; bytes written in part take their other bits from the line (R240, R285). -/
def State.weakPut (s : State) (who va off n data mask : Nat) : State :=
  let core := coreOf who
  let key := (s.keyVf (leafOf who)).1
  let h := s.l1Home core va
  let partly := (List.range n).any fun j => byteIn mask j && mask / 2 ^ (8 * j) % 256 != 255
  let s := if partly then s.l1Fill core va off key else s
  let old := ((s.core h).l1.get (off / 64) (.empty key)).data.toNat / 2 ^ (8 * (off % 64))
  s.l1Store core va off n (mergeNat old data mask) (byteMask n mask) key

/-- Write bits of a leaf's HBM under a key ID, past L1. -/
def State.hbmBits (s : State) (leaf off n data mask : Nat) (key : BitVec 8) : State :=
  let old := s.hbmRead leaf off n (· == key)
  s.hbmWrite leaf off n (mergeNat old data mask) (byteMask n mask) key

/-- Write bits of host memory. -/
def State.hostBits (s : State) (a n data mask : Nat) : State :=
  { s with host := s.host.scatter (a + ·) data mask n }.wakeLines [(Phys.host a).lineKey]

/-- Write bits of an owned pool line. -/
def State.poolBits (s : State) (key : BitVec 8) (a n data mask : Nat) : State :=
  let sh := 8 * (a % 64)
  s.poolPut key (a / 64) (BitVec.ofNat 512 (mergeNat (s.poolData key (a / 64)).toNat (data * 2 ^ sh) (mask % 2 ^ (8 * n) * 2 ^ sh)))

/-! Loads in flight (R241, R249). -/

/-- Do n bytes from a and m bytes from b overlap. -/
def overlaps (a n b m : Nat) : Bool := decide (a < b + m) && decide (b < a + n)

/-- Does an access lie wholly in other members' memory. -/
def LoadEntry.remote (e : LoadEntry) : Bool := e.lines.all fun p => match p.2 with
  | .remote _ _ => true
  | _ => false

/-- Does a buffered store go to another member's memory (R254), as its translation now stands. -/
def State.storeRemote (s : State) (who : Nat) (e : StoreEntry) : Bool :=
  match s.xlate (leafOf who) needWr e.va with
  | .mapped x => match x.at e.va with
    | .remote _ _ => true
    | _ => false
  | _ => false

/-- Put an access in flight: remote lines are asked for, the rest return when LOAD_DATA_RETURN comes about. -/
def State.issueLoad (s : State) (kind : AccessKind) (dest : LoadDest) (va len : Nat) (lines : List (Nat × Phys)) (scope : Scope)
    (drops : Bool) (flits : Nat) (body : Nat → Nat → PacketBody) : State :=
  let t := s.me
  let e : LoadEntry := { id := t.memSeq, kind := kind, dest := dest, va := va, len := len, lines := lines, scope := scope, drops := drops }
  let s := s.onMe fun t => { t with memSeq := t.memSeq + 1, loads := t.loads ++ [e] }
  let s := lines.foldl (fun s p => match p.2 with
    | .remote m off => s.ask (leafOf s.cur) m flits (.load s.cur e.id) p.1 (body off)
    | _ => s) s
  s.post (.loadDataReturn s.cur e.id .data)

/-- The bytes of a load from its lines, before the strand's own stores are laid over them: n bytes at an address. -/
def spliceLines (va n : Nat) (lines : List (Nat × BitVec 512)) : Nat :=
  let base := va / 64
  (lines.foldl (fun x p => x + p.2.toNat * 2 ^ (512 * (p.1 - base))) 0) / 2 ^ (8 * (va % 64)) % 2 ^ (8 * n)

/-- The bytes of a SAVED region's slot, or what asks for them (R77, R220). -/
def State.slotRead (s : State) (core n : Nat) (m : Member) : State × Option Nat :=
  let leaf := leafOfCore core
  let (l, off, pkg) := hbmParts (saveSlot m.saveBase core n)
  if pkg = s.pkg then ((s.keyMisses l off 16384 (· == m.key)).meter leaf 6 16384, some (s.hbmRead l off 16384 (· == m.key)))
  else
    let party := Party.region core n
    let got := (List.range 256).filterMap fun i => ((s.leaf leaf).gotLine party i).map fun x => (i, x)
    if got.length = 256 then (s, some (spliceLines 0 16384 got))
    else ((List.range 256).foldl (fun s i => s.askPlace leaf (2 * pkg + l) party i (off + 64 * i)) s, none)

/-- Lay a strand's earlier buffered stores over bytes it loads (R249). -/
def forwarded (t : Strand) (before va n x : Nat) : Nat :=
  (t.stores.filter fun e => decide (e.id < before) && overlaps e.va e.len va n).foldl (fun x e =>
    let up (y : Nat) : Nat := if va ≤ e.va then y * 2 ^ (8 * (e.va - va)) else y / 2 ^ (8 * (va - e.va))
    mergeNat x (up e.data.toNat) (up e.mask.toNat)) x % 2 ^ (8 * n)

/-! The store buffer (R250). -/

/-- Entries that hold places in the buffer: write-backs of regions do not. -/
def Strand.buffered (t : Strand) : Nat := (t.stores.filter fun e => match e.kind with
  | .writeBack _ _ => false
  | _ => true).length

/-- Enter a store in the buffer, a release with the places of its lines (R253). -/
def State.enterStore (s : State) (who : Nat) (kind : StoreKind) (lines : List (Nat × Phys)) (va len data mask : Nat) : State :=
  let t := s.strand who
  let e : StoreEntry := { id := t.memSeq, kind := kind, va := va, len := len, data := BitVec.ofNat 4096 data, mask := BitVec.ofNat 4096 mask,
                          stage := .buffered, lines := lines }
  (s.setStrand who { t with memSeq := t.memSeq + 1, stores := t.stores ++ [e] }).post (.storePerform who e.id)

/-! Ordering (R253, R258, R260). -/

/-- Has every access of a strand before one performed, remote memory aside (R254, R258). -/
def State.earlierDone (s : State) (who before : Nat) : Bool :=
  let t := s.strand who
  !(t.loads.any fun e => decide (e.id < before) && !e.remote) &&
  !(t.stores.any fun e => decide (e.id < before) && !s.storeRemote who e)

/-- FENCEs whose earlier accesses have performed pass, with Clean and Drop between where the scope's point lies beyond
L1 (R258, R286). The fuel is the number of FENCEs. -/
def State.passFences (s : State) (who : Nat) : Nat → State
  | 0 => s
  | n + 1 =>
    match (s.strand who).fences with
    | [] => s
    | f :: t =>
      if s.earlierDone who f.id && !((s.strand who).waits.any fun e => decide (e.id < f.id)) then
        let s := s.onStrand who fun u => { u with fences := t }
        (if s.beyondL1 (coreOf who) f.scope then s.dropAll (coreOf who) else s).passFences who n
      else s

/-- Let FENCEs pass that may. -/
def State.fencesOf (s : State) (who : Nat) : State := s.passFences who (s.strand who).fences.length

/-- The scopes that reach other members (R260). -/
def wideScope : Scope → Bool
  | .gang | .pool | .system => true
  | _ => false

/-- Has every earlier global access of a strand completed at a scope (R260). -/
def State.drained (s : State) (who : Nat) (x : Scope) : Bool :=
  let t := s.strand who
  if wideScope x then t.loads.isEmpty && t.stores.isEmpty && t.sent.isEmpty
  else s.earlierDone who t.memSeq

/-- What a DRAIN, release or BAR waits for, and the held fault it reports (R241, R250, R253, R260). -/
def ordered (s : State) (done : Bool) (k : Plan) : Plan :=
  if !done then .stall s
  else match s.me.reports with
    | r :: _ => .report r
    | [] => k

/-- Clean the L1 domain of the strand cur where a scope's point lies beyond it (R286). -/
def State.cleanFor (s : State) (x : Scope) : State :=
  if s.beyondL1 (coreOf s.cur) x then s.clean (coreOf s.cur) else s

/-! Reads and writes that are made in one step by fills, engines and the command processor. -/

/-- What a read or write of global bytes meets (R396). -/
inductive Reach where
  | done (s : State) (x : Nat)
  | nonres (va : Nat) (line : Phys)
  | busy (va : Nat) (line : Phys)
  | invalid (va : Nat)
  | lost (va : Nat)
  | retry (va : Nat)
  | remote (s : State)

/-- Where one virtual line lies, by the cached translation or a walk made now. -/
def State.reachLine (s : State) (leaf : Nat) (need : Need) (vline : Nat) : Phys ⊕ Reach :=
  let va := 64 * vline
  match s.xlate leaf need va with
  | .nonres l => .inr (.nonres va l)
  | .busy l => .inr (.busy va l)
  | .lost => .inr (.lost va)
  | .invalid => .inr (.invalid va)
  | .mapped e =>
    let p := e.at va
    match s.gate leaf p with
    | .ok => if need.wr && s.isFrozen leaf vline then .inr (.retry va) else .inl p
    | .retry => .inr (.retry va)
    | .lost => .inr (.lost va)
    | .invalid => .inr (.invalid va)

/-- Where virtual lines lie, or the first thing that stands against the access. -/
def State.reachLines (s : State) (leaf : Nat) (need : Need) : List Nat → List (Nat × Phys) ⊕ Reach
  | [] => .inl []
  | l :: t =>
    match s.reachLine leaf need l with
    | .inr r => .inr r
    | .inl p =>
      match s.reachLines leaf need t with
      | .inr r => .inr r
      | .inl ps => .inl ((l, p) :: ps)

/-- The line of an access that passes L1 by (R289): an engine's, which sees neither buffered stores nor dirty L1 bytes. -/
def State.homeLine (s : State) (who vline : Nat) (p : Phys) (party : Party) : State × BitVec 512 :=
  match p with
  | .hbm leaf off => s.hbmLineAt leaf off (s.keyVf leaf).1
  | _ => s.weakLine who vline p party

/-- Read placed lines, asking for remote ones that have not come: weakly, as loads of a strand, or past L1. -/
def State.readLines (s : State) (who : Nat) (party : Party) (weak : Bool) :
    List (Nat × Phys) → State × List (Nat × BitVec 512) × Bool
  | [] => (s, [], true)
  | (l, p) :: t =>
    let leaf := leafOf who
    let have_ : Bool := match p with
      | .remote _ _ => ((s.leaf leaf).gotLine party l).isSome
      | _ => true
    if have_ then
      let (s, x) := if weak then s.weakLine who l p party else s.homeLine who l p party
      let (s, r, ok) := s.readLines who party weak t
      (s, (l, x) :: r, ok)
    else
      let s := match p with
        | .remote m off => s.askForLine leaf party l m off 64
        | _ => s
      let (s, r, _) := s.readLines who party weak t
      (s, r, false)

/-- Read n bytes for a party acting for a strand (R222, R289). -/
def State.readFor (s : State) (who : Nat) (party : Party) (weak : Bool) (va n : Nat) : Reach :=
  match s.reachLines (leafOf who) needRd ((List.range ((va + n + 63) / 64 - va / 64)).map (va / 64 + ·)) with
  | .inr r => r
  | .inl ps =>
    let (u, ls, ok) := s.readLines who party weak ps
    if ok then .done u (spliceLines va n ls) else .remote u

/-- Write bits of one placed line past L1: an engine's write, after the issuing core's L1 line has been written back and
dropped (R288). Remote bytes leave as a packet that awaits its acknowledgement. -/
def State.putLine (s : State) (who : Nat) (party : Party) (vline : Nat) (p : Phys) (data mask : Nat) : State :=
  let leaf := leafOf who
  let key := (s.keyVf leaf).1
  match p with
  | .hbm l off => ((s.flushLine (coreOf who) (64 * vline) off).hbmBits l off 64 data mask key).meter leaf 7 64
  | .host a => s.hostBits a 64 data mask
  | .pool a => (s.poolFill key (a / 64) .exclusive none).poolBits key a 64 data mask
  | .remote m off => s.ask leaf m 2 party vline fun n => .store n off 64 (BitVec.ofNat 8192 data) (BitVec.ofNat 8192 mask)

/-- The first line, the member and the offset of lines that follow one another in one other member's memory, at most sixteen: an
engine's row or unit, which leaves as one packet (R360). -/
def joined (party : Party) (ps : List (Nat × Phys)) : Option (Nat × Nat × Nat) :=
  match party, ps with
  | .cmd _ _, (v, .remote m off) :: _ =>
    if ps.length ≤ 16 ∧ (ps.zipIdx.all fun (x : (Nat × Phys) × Nat) => x.1 == (v + x.2, Phys.remote m (off + 64 * x.2))) then some (v, m, off) else none
  | _, _ => none

/-- Write n bytes for a party acting for a strand, under a mask of bits. -/
def State.writeFor (s : State) (who : Nat) (party : Party) (va n data mask : Nat) : Reach :=
  let lines := linesOf va n mask
  match s.reachLines (leafOf who) needWr lines with
  | .inr r => r
  | .inl ps =>
    let up (x l : Nat) : Nat := x * 2 ^ (8 * (va % 64)) / 2 ^ (512 * (l - va / 64))
    match joined party ps with
    | some (v, m, off) =>
      .done (s.ask (leafOf who) m (1 + ps.length) party v fun t => .store t off (64 * ps.length) (BitVec.ofNat 8192 (up data v)) (BitVec.ofNat 8192 (up mask v))) 0
    | none => .done (ps.foldl (fun s p => s.putLine who party p.1 p.2 (up data p.1 % 2 ^ 512) (up mask p.1 % 2 ^ 512)) s) 0

end Sys2Proof.Machine
end

