-- ==== Sys2Proof/Machine/Queues.lean ====
section
/-! DEFINITION. Engine queues, operand locators and the circular buffers that commands name (R230, R237, R313, R315,
R327). -/

namespace Sys2Proof.Machine

/-! Queues (R313). -/

/-- The queue of logical Hawk engine e of a core's cluster. -/
def hawkQueue (core e : Nat) : Nat := 128 + 4 * (core / 8) + e

/-- Is a queue a Hawk engine's. -/
def isHawk (q : Nat) : Bool := decide (128 ≤ q)

/-- The leaf of a queue. -/
def queueLeaf (q : Nat) : Nat := if q < 128 then q / 64 else (q - 128) / 32

/-- The queues that hold a core's commands. -/
def coreQueues (core : Nat) : List Nat := core :: (List.range 4).map (hawkQueue core)

/-- The commands of a core's queues. -/
def State.cmdsNear (s : State) (core : Nat) : List Cmd := (coreQueues core).flatMap s.cmds

/-- A command of a queue by its number. -/
def State.findCmd (s : State) (q id : Nat) : Option Cmd := (s.cmds q).find? fun c => c.id == id

/-- Has a command done its accesses. -/
def Cmd.over (c : Cmd) : Bool :=
  match c.stage with
  | .finishing | .failing _ => true
  | _ => false

/-! Locators and circular buffers. -/

/-- An operand locator (R315). -/
structure Loc where
  addr : Nat
  kind : Nat
  cbn : Nat
deriving DecidableEq, Repr

/-- The locator at an offset of a block. -/
def locAt (b : BitVec 1024) (off : Nat) : Loc := { addr := bytesAt b off 8, kind := bytesAt b (off + 8) 1, cbn := bytesAt b (off + 9) 1 }

/-- The circular buffer a locator names. -/
def Loc.cb (l : Loc) (out : Bool) : List (Nat × Bool) := if l.kind = 1 then [(l.cbn, out)] else []

/-- The opcode bits of a Hawk form (R327). -/
def hawkForm : Instr → Nat
  | .hcpy _ => 0x20 | .hstr _ => 0x21 | .htrn _ => 0x22 | .hgath _ => 0x23 | .hfill _ => 0x24 | .hscat _ => 0x25
  | _ => 0

/-- The circular buffers a command names, and whether it fills them. -/
def Cmd.cbs (c : Cmd) : List (Nat × Bool) :=
  match c.instr with
  | .lsta _ | .lmm _ | .lmms _ | .spld _ | .spev _ => (locAt c.block 0).cb false
  | .lepi _ => (locAt c.block 0).cb true
  | .spdx _ => (locAt c.block 0).cb false ++ (locAt c.block 16).cb false ++ (locAt c.block 32).cb true
  | .spgr _ => (locAt c.block 0).cb false ++ (locAt c.block 16).cb false
  | .hcpy _ | .hstr _ | .htrn _ | .hgath _ | .hfill _ | .hscat _ =>
    (if bytesAt c.block 16 1 = 1 then [(bytesAt c.block 18 1, false)] else []) ++
    (if bytesAt c.block 17 1 = 1 then [(bytesAt c.block 19 1, true)] else [])
  | _ => []

/-! Stall counters (R237). -/

/-- Charge a stall clock to a Hawk command's source: the number of its virtual source, OTHER for any other. -/
def State.chargeHawk (s : State) (c : Cmd) : State :=
  let va := if hawkForm c.instr ≠ 0x24 ∧ bytesAt c.block 16 1 = 2 then bytesAt c.block 0 8 else 2 ^ 64
  s.countStall (leafOf c.who) va

/-- The Hawk commands of a core's cluster. -/
def State.hawkCmds (s : State) (core : Nat) : List Cmd := (List.range 4).flatMap fun e => s.cmds (hawkQueue core e)

/-- A stall of the strand cur on slots that a Hawk command is to fill or drain is charged (R237). -/
def State.chargeCb (s : State) (cb : Nat) (out : Bool) : State :=
  match (s.hawkCmds (coreOf s.cur)).find? fun c => c.who == s.cur && !c.over && c.cbs.contains (cb, out) with
  | some c => s.chargeHawk c
  | none => s

/-- A stall of the strand cur on a command's token is charged where a Hawk engine runs it (R237). -/
def State.chargeToken (s : State) (id : Nat) : State :=
  match (s.hawkCmds (coreOf s.cur)).find? fun c => c.id == id with
  | some c => s.chargeHawk c
  | none => s

end Sys2Proof.Machine
end

