-- ==== Sys2Proof/Machine/Flags.lean ====
section
/-! DEFINITION. What takes the place of flags: the compares that write predicates and masks (R169, R197), and when a
syllable appends a NANGEN or a SAT record (R192). The Chedon keeps no flags (R142, R161). -/

namespace Sys2Proof.Machine

/-- The four elementwise relations (R197). -/
inductive Rel where
  | eq | ne | lt | le
deriving DecidableEq, Repr

/-- A relation of two integers. -/
def Rel.int : Rel → Int → Int → Bool
  | .eq, a, b => decide (a = b)
  | .ne, a, b => decide (a ≠ b)
  | .lt, a, b => decide (a < b)
  | .le, a, b => decide (a ≤ b)

/-- A relation of two floating values: a NaN makes eq, lt and le false and ne true (R197). -/
def Rel.fp : Rel → FP → FP → Bool
  | .eq, a, b => a.eq b
  | .ne, a, b => !(a.eq b)
  | .lt, a, b => a.lt b
  | .le, a, b => a.lt b || a.eq b

/-- A relation of two elements in a format (R197). -/
def Rel.elt (r : Rel) (f : Fmt) (a b : Nat) : Bool :=
  if f.isF then r.fp (fpDecode f a) (fpDecode f b) else r.int (intDecode f a) (intDecode f b)

/-- An elementwise floating result: its bits, and whether it is a NaN made from operands none of which is NaN (R192). -/
structure Elt where
  bits : Nat
  nangen : Bool
  sat : Bool
deriving DecidableEq, Repr

/-- A floating result rounded under FMODE (R190). -/
def fpElt (t : Strand) (f : Fmt) (srcNaN : Bool) (x : FP) : Elt :=
  { bits := fpRound f (.ofBits t.rmode) t.ftz x, nangen := x.isNaN && !srcNaN, sat := false }

/-- An element that neither generates a NaN nor clamps. -/
def plainElt (b : Nat) : Elt := { bits := b, nangen := false, sat := false }

/-- Does any active element of n generate a NaN. -/
def anyNan (f : Fmt) (k : KBits) (h : Nat → Elt) : Bool :=
  (List.range f.count).any fun i => active k f i && (h i).nangen

/-- Does any active element of n clamp. -/
def anySat (f : Fmt) (k : KBits) (h : Nat → Elt) : Bool :=
  (List.range f.count).any fun i => active k f i && (h i).sat

/-- Active elements, for the VECOP meter (R443). -/
def activeCount (f : Fmt) (k : KBits) : Nat := ((List.range f.count).filter (active k f)).length

end Sys2Proof.Machine
end

