-- ==== Sys2Proof/Machine/Vector.lean ====
section
/-! DEFINITION. The vector map: arithmetic, compares, logic, shifts, conversions, permutes, partition and special
functions (R188 to R210). -/

namespace Sys2Proof.Machine

/-- A vector syllable's commit: its results are in flight, its records are appended and its elements are metered (R191,
R192, R443). -/
def vecDone (lat : Nat) (lands : List Landing) (n : Nat) (nan sat : Bool) : Plan :=
  .go fun s => (((s.fly lat lands).recordMe 1 nan).recordMe 2 sat).meter (leafOf s.cur) 5 n

/-- Write the active elements of VD in format f under K, tagging it tag, after the tag checks of the sources (R138,
R139). -/
def vecWrite (t : Strand) (lat : Nat) (f tag : Fmt) (k : BitVec 4) (vd : BitVec 8) (src : Bool) (h : Nat → Elt) : Plan :=
  let m := t.rdK k
  .need (src && destTagOk t k vd.toNat tag) FMTTAG <|
  vecDone lat (landV t vd.toNat (blend f m (t.rdV vd.toNat).bits fun i => (h i).bits) tag) (activeCount f m)
    (anyNan f m h) (anySat f m h)

/-- Write every element of VD (R188). -/
def vecAll (t : Strand) (lat : Nat) (f tag : Fmt) (vd : BitVec 8) (src : Bool) (h : Nat → Elt) : Plan :=
  .need src FMTTAG <|
  vecDone lat (landV t vd.toNat (packV f fun i => (h i).bits) tag) f.count
    (anyNan f (BitVec.allOnes 512) h) (anySat f (BitVec.allOnes 512) h)

/-- Element i of a vector register. -/
def Strand.ve (t : Strand) (f : Fmt) (v : BitVec 8) (i : Nat) : Nat := (t.rdV v.toNat).elt f i

/-- The latency of an arithmetic form: 4 on floating formats, else 2 (R191). -/
def arithLat (f : Fmt) : Nat := if f.isF then 4 else 2

/-- A two-source arithmetic form (R193): its exact integer result and its exact floating result. -/
def vecArith (t : Strand) (gi : Int → Int → Int) (gf : FP → FP → FP) (f : Fmt) (a b : Nat) : Elt :=
  if f.isF then
    let x := fpDecode f a
    let y := fpDecode f b
    fpElt t f (x.isNaN || y.isNaN) (gf x y)
  else plainElt (intWrap f (gi (intDecode f a) (intDecode f b)))

/-- Format VVV of the arithmetic forms. -/
def vecVvv (lat : Nat) (g : Strand → Fmt → Nat → Nat → Elt) (o : Vvv) (s : State) : Plan :=
  let t := s.me
  vecWrite t lat o.fmt o.fmt o.k o.vd (tagIs t o.va.toNat o.fmt && tagIs t o.vb.toNat o.fmt)
    fun i => g t o.fmt (t.ve o.fmt o.va i) (t.ve o.fmt o.vb i)

/-- VADD (R193). -/
def planVadd (o : Vvv) (s : State) : Plan :=
  vecVvv (arithLat o.fmt) (fun t => vecArith t (· + ·) (FP.add (.ofBits t.rmode))) o s

/-- VADD issued alone. -/
def execVadd (o : Vvv) (s : State) : Host.Outcome State Fault Refusal :=
  alone (.vadd o) (planVadd o) s

/-- VSUB (R193). -/
def planVsub (o : Vvv) (s : State) : Plan :=
  vecVvv (arithLat o.fmt) (fun t => vecArith t (· - ·) fun a b => FP.add (.ofBits t.rmode) a b.neg) o s

/-- VSUB issued alone. -/
def execVsub (o : Vvv) (s : State) : Host.Outcome State Fault Refusal :=
  alone (.vsub o) (planVsub o) s

/-- VMUL (R193). -/
def planVmul (o : Vvv) (s : State) : Plan := vecVvv (arithLat o.fmt) (fun t => vecArith t (· * ·) FP.mul) o s

/-- VMUL issued alone. -/
def execVmul (o : Vvv) (s : State) : Host.Outcome State Fault Refusal :=
  alone (.vmul o) (planVmul o) s

/-- VMIN (R193). -/
def planVmin (o : Vvv) (s : State) : Plan :=
  vecVvv (arithLat o.fmt) (fun t => vecArith t (fun a b => if b < a then b else a) FP.min) o s

/-- VMIN issued alone. -/
def execVmin (o : Vvv) (s : State) : Host.Outcome State Fault Refusal :=
  alone (.vmin o) (planVmin o) s

/-- VMAX (R193). -/
def planVmax (o : Vvv) (s : State) : Plan :=
  vecVvv (arithLat o.fmt) (fun t => vecArith t (fun a b => if a < b then b else a) FP.max) o s

/-- VMAX issued alone. -/
def execVmax (o : Vvv) (s : State) : Host.Outcome State Fault Refusal :=
  alone (.vmax o) (planVmax o) s

/-- A saturating integer form (R193). -/
def vecSat (g : Int → Int → Int) (f : Fmt) (a b : Nat) : Elt :=
  let r := intSat f (g (intDecode f a) (intDecode f b))
  { bits := r.1, nangen := false, sat := r.2 }

/-- VADDS (R193). -/
def planVadds (o : Vvv) (s : State) : Plan := vecVvv 2 (fun _ => vecSat (· + ·)) o s

/-- VADDS issued alone. -/
def execVadds (o : Vvv) (s : State) : Host.Outcome State Fault Refusal :=
  alone (.vadds o) (planVadds o) s

/-- VSUBS (R193). -/
def planVsubs (o : Vvv) (s : State) : Plan := vecVvv 2 (fun _ => vecSat (· - ·)) o s

/-- VSUBS issued alone. -/
def execVsubs (o : Vvv) (s : State) : Host.Outcome State Fault Refusal :=
  alone (.vsubs o) (planVsubs o) s

/-- VMULH (R193). -/
def planVmulh (o : Vvv) (s : State) : Plan :=
  vecVvv 4 (fun _ f a b => plainElt (intWrap f (intDecode f a * intDecode f b / 2 ^ f.bits))) o s

/-- VMULH issued alone. -/
def execVmulh (o : Vvv) (s : State) : Host.Outcome State Fault Refusal :=
  alone (.vmulh o) (planVmulh o) s

/-- VDOT4 (R194). -/
def planVdot4 (o : Vvv) (s : State) : Plan :=
  let t := s.me
  let dot (j : Nat) : Int := (List.range 4).foldl (fun x m =>
    x + intDecode o.fmt (t.ve o.fmt o.va (4 * j + m)) * intDecode o.fmt (t.ve o.fmt o.vb (4 * j + m))) 0
  vecWrite t 4 .int32 .int32 o.k o.vd
    (tagIs t o.va.toNat o.fmt && tagIs t o.vb.toNat o.fmt && tagIs t o.vd.toNat .int32)
    fun j => plainElt (intWrap .int32 (intDecode .int32 (t.ve .int32 o.vd j) + dot j))

/-- VDOT4 issued alone. -/
def execVdot4 (o : Vvv) (s : State) : Host.Outcome State Fault Refusal :=
  alone (.vdot4 o) (planVdot4 o) s

/-- Format VVV with one source. -/
def vecVv (lat : Nat) (g : Strand → Fmt → Nat → Elt) (o : Vv) (s : State) : Plan :=
  let t := s.me
  vecWrite t lat o.fmt o.fmt o.k o.vd (tagIs t o.va.toNat o.fmt) fun i => g t o.fmt (t.ve o.fmt o.va i)

/-- A one-source arithmetic form (R195). -/
def vecSign (t : Strand) (gi : Int → Int) (gf : FP → FP) (f : Fmt) (a : Nat) : Elt :=
  if f.isF then
    let x := fpDecode f a
    fpElt t f x.isNaN (gf x)
  else plainElt (intWrap f (gi (intDecode f a)))

/-- VABS (R195). -/
def planVabs (o : Vv) (s : State) : Plan := vecVv (arithLat o.fmt) (fun t => vecSign t (fun a => a.natAbs) FP.abs) o s

/-- VABS issued alone. -/
def execVabs (o : Vv) (s : State) : Host.Outcome State Fault Refusal :=
  alone (.vabs o) (planVabs o) s

/-- VNEG (R195). -/
def planVneg (o : Vv) (s : State) : Plan := vecVv (arithLat o.fmt) (fun t => vecSign t (fun a => -a) FP.neg) o s

/-- VNEG issued alone. -/
def execVneg (o : Vv) (s : State) : Host.Outcome State Fault Refusal :=
  alone (.vneg o) (planVneg o) s

/-- A fused multiply-add form of a format: pn negates the product, cn the addend (R196). -/
def vecFma (f : Fmt) (pn cn : Bool) (o : Vvvv) (s : State) : Plan :=
  let t := s.me
  vecAll t 4 f f o.vd (tagIs t o.va.toNat f && tagIs t o.vb.toNat f && tagIs t o.vc.toNat f) fun i =>
    let a := fpDecode f (t.ve f o.va i)
    let b := fpDecode f (t.ve f o.vb i)
    let c := fpDecode f (t.ve f o.vc i)
    let p := a.mul b
    fpElt t f (a.isNaN || b.isNaN || c.isNaN)
      (FP.add (.ofBits t.rmode) (if pn then p.neg else p) (if cn then c.neg else c))

/-- FMA.FP32 (R196). -/
def planFmaFp32 (o : Vvvv) (s : State) : Plan := vecFma .fp32 false false o s

/-- FMA_FP32 issued alone. -/
def execFmaFp32 (o : Vvvv) (s : State) : Host.Outcome State Fault Refusal :=
  alone (.fmaFp32 o) (planFmaFp32 o) s

/-- FMA.BF16 (R196). -/
def planFmaBf16 (o : Vvvv) (s : State) : Plan := vecFma .bf16 false false o s

/-- FMA_BF16 issued alone. -/
def execFmaBf16 (o : Vvvv) (s : State) : Host.Outcome State Fault Refusal :=
  alone (.fmaBf16 o) (planFmaBf16 o) s

/-- FMA.FP16 (R196). -/
def planFmaFp16 (o : Vvvv) (s : State) : Plan := vecFma .fp16 false false o s

/-- FMA_FP16 issued alone. -/
def execFmaFp16 (o : Vvvv) (s : State) : Host.Outcome State Fault Refusal :=
  alone (.fmaFp16 o) (planFmaFp16 o) s

/-- FMS.FP32 (R196). -/
def planFmsFp32 (o : Vvvv) (s : State) : Plan := vecFma .fp32 false true o s

/-- FMS_FP32 issued alone. -/
def execFmsFp32 (o : Vvvv) (s : State) : Host.Outcome State Fault Refusal :=
  alone (.fmsFp32 o) (planFmsFp32 o) s

/-- FMS.BF16 (R196). -/
def planFmsBf16 (o : Vvvv) (s : State) : Plan := vecFma .bf16 false true o s

/-- FMS_BF16 issued alone. -/
def execFmsBf16 (o : Vvvv) (s : State) : Host.Outcome State Fault Refusal :=
  alone (.fmsBf16 o) (planFmsBf16 o) s

/-- FMS.FP16 (R196). -/
def planFmsFp16 (o : Vvvv) (s : State) : Plan := vecFma .fp16 false true o s

/-- FMS_FP16 issued alone. -/
def execFmsFp16 (o : Vvvv) (s : State) : Host.Outcome State Fault Refusal :=
  alone (.fmsFp16 o) (planFmsFp16 o) s

/-- FNMA.FP32 (R196). -/
def planFnmaFp32 (o : Vvvv) (s : State) : Plan := vecFma .fp32 true false o s

/-- FNMA_FP32 issued alone. -/
def execFnmaFp32 (o : Vvvv) (s : State) : Host.Outcome State Fault Refusal :=
  alone (.fnmaFp32 o) (planFnmaFp32 o) s

/-- FNMA.BF16 (R196). -/
def planFnmaBf16 (o : Vvvv) (s : State) : Plan := vecFma .bf16 true false o s

/-- FNMA_BF16 issued alone. -/
def execFnmaBf16 (o : Vvvv) (s : State) : Host.Outcome State Fault Refusal :=
  alone (.fnmaBf16 o) (planFnmaBf16 o) s

/-- FNMA.FP16 (R196). -/
def planFnmaFp16 (o : Vvvv) (s : State) : Plan := vecFma .fp16 true false o s

/-- FNMA_FP16 issued alone. -/
def execFnmaFp16 (o : Vvvv) (s : State) : Host.Outcome State Fault Refusal :=
  alone (.fnmaFp16 o) (planFnmaFp16 o) s

/-- KD after a compare: all bits of an active element take its result, the others keep their values (R197). -/
def maskResult (f : Fmt) (k old : KBits) (h : Nat → Bool) : KBits :=
  let w := f.halfBytes / 2
  BitVec.ofNat 512 (pack w (fun i => if active k f i then (if h i then 2 ^ w - 1 else 0) else old.toNat / 2 ^ (w * i)) f.count)

/-- A mask result's landing; a write to k0 is discarded (R107). -/
def landK (kd : BitVec 4) (x : KBits) : List Landing := if kd = 0 then [] else [.k kd.toNat x]

/-- A compare (R197). -/
def vecCompare (r : Rel) (o : Kvv) (s : State) : Plan :=
  let t := s.me
  .need (tagIs t o.va.toNat o.fmt && tagIs t o.vb.toNat o.fmt) FMTTAG <|
  vecDone (arithLat o.fmt)
    (landK o.kd (maskResult o.fmt (t.rdK o.k) (t.rdK o.kd) fun i => r.elt o.fmt (t.ve o.fmt o.va i) (t.ve o.fmt o.vb i)))
    (activeCount o.fmt (t.rdK o.k)) false false

/-- VCMPEQ (R197). -/
def planVcmpeq (o : Kvv) (s : State) : Plan := vecCompare .eq o s

/-- VCMPEQ issued alone. -/
def execVcmpeq (o : Kvv) (s : State) : Host.Outcome State Fault Refusal :=
  alone (.vcmpeq o) (planVcmpeq o) s

/-- VCMPNE (R197). -/
def planVcmpne (o : Kvv) (s : State) : Plan := vecCompare .ne o s

/-- VCMPNE issued alone. -/
def execVcmpne (o : Kvv) (s : State) : Host.Outcome State Fault Refusal :=
  alone (.vcmpne o) (planVcmpne o) s

/-- VCMPLT (R197). -/
def planVcmplt (o : Kvv) (s : State) : Plan := vecCompare .lt o s

/-- VCMPLT issued alone. -/
def execVcmplt (o : Kvv) (s : State) : Host.Outcome State Fault Refusal :=
  alone (.vcmplt o) (planVcmplt o) s

/-- VCMPLE (R197). -/
def planVcmple (o : Kvv) (s : State) : Plan := vecCompare .le o s

/-- VCMPLE issued alone. -/
def execVcmple (o : Kvv) (s : State) : Host.Outcome State Fault Refusal :=
  alone (.vcmple o) (planVcmple o) s

/-- A mask form (R198). -/
def maskLogic (g : KBits → KBits → KBits) (o : Kkk) (s : State) : Plan :=
  vecDone 1 (landK o.kd (g (s.me.rdK o.ka) (s.me.rdK o.kb))) 0 false false

/-- KAND (R198). -/
def planKand (o : Kkk) (s : State) : Plan := maskLogic (· &&& ·) o s

/-- KAND issued alone. -/
def execKand (o : Kkk) (s : State) : Host.Outcome State Fault Refusal :=
  alone (.kand o) (planKand o) s

/-- KOR (R198). -/
def planKor (o : Kkk) (s : State) : Plan := maskLogic (· ||| ·) o s

/-- KOR issued alone. -/
def execKor (o : Kkk) (s : State) : Host.Outcome State Fault Refusal :=
  alone (.kor o) (planKor o) s

/-- KXOR (R198). -/
def planKxor (o : Kkk) (s : State) : Plan := maskLogic (· ^^^ ·) o s

/-- KXOR issued alone. -/
def execKxor (o : Kkk) (s : State) : Host.Outcome State Fault Refusal :=
  alone (.kxor o) (planKxor o) s

/-- KANDN (R198). -/
def planKandn (o : Kkk) (s : State) : Plan := maskLogic (fun a b => a &&& ~~~b) o s

/-- KANDN issued alone. -/
def execKandn (o : Kkk) (s : State) : Host.Outcome State Fault Refusal :=
  alone (.kandn o) (planKandn o) s

/-- A bitwise form of two sources (R199). -/
def vecLogic (g : Nat → Nat → Nat) (o : Vvv) (s : State) : Plan :=
  let t := s.me
  let tag := resultTag t o.va.toNat o.fmt
  vecWrite t 1 o.fmt tag o.k o.vd (tagOrRaw t o.va.toNat o.fmt && tagOrRaw t o.vb.toNat o.fmt)
    fun i => plainElt (cleanElt tag o.fmt i (g (t.ve o.fmt o.va i) (t.ve o.fmt o.vb i)))

/-- The complement of an element's bits. -/
def notElt (f : Fmt) (a : Nat) : Nat := 2 ^ f.bits - 1 - a

/-- VAND (R199). -/
def planVand (o : Vvv) (s : State) : Plan := vecLogic (· &&& ·) o s

/-- VAND issued alone. -/
def execVand (o : Vvv) (s : State) : Host.Outcome State Fault Refusal :=
  alone (.vand o) (planVand o) s

/-- VOR (R199). -/
def planVor (o : Vvv) (s : State) : Plan := vecLogic (· ||| ·) o s

/-- VOR issued alone. -/
def execVor (o : Vvv) (s : State) : Host.Outcome State Fault Refusal :=
  alone (.vor o) (planVor o) s

/-- VXOR (R199). -/
def planVxor (o : Vvv) (s : State) : Plan := vecLogic (· ^^^ ·) o s

/-- VXOR issued alone. -/
def execVxor (o : Vvv) (s : State) : Host.Outcome State Fault Refusal :=
  alone (.vxor o) (planVxor o) s

/-- VANDN (R199). -/
def planVandn (o : Vvv) (s : State) : Plan := vecLogic (fun a b => a &&& notElt o.fmt b) o s

/-- VANDN issued alone. -/
def execVandn (o : Vvv) (s : State) : Host.Outcome State Fault Refusal :=
  alone (.vandn o) (planVandn o) s

/-- A form that moves the bits of one source (R199, R207). -/
def vecMove (g : Nat → Nat) (o : Vv) (s : State) : Plan :=
  let t := s.me
  let tag := resultTag t o.va.toNat o.fmt
  vecWrite t 1 o.fmt tag o.k o.vd (tagOrRaw t o.va.toNat o.fmt) fun i => plainElt (cleanElt tag o.fmt i (g (t.ve o.fmt o.va i)))

/-- VNOT (R199). -/
def planVnot (o : Vv) (s : State) : Plan := vecMove (notElt o.fmt) o s

/-- VNOT issued alone. -/
def execVnot (o : Vv) (s : State) : Host.Outcome State Fault Refusal :=
  alone (.vnot o) (planVnot o) s

/-- A left shift of an element by c (R200). -/
def shlElt (f : Fmt) (a c : Nat) : Elt := plainElt (a * 2 ^ (c % f.bits) % 2 ^ f.bits)

/-- A logical right shift (R200). -/
def shrElt (f : Fmt) (a c : Nat) : Elt := plainElt (a / 2 ^ (c % f.bits))

/-- An arithmetic right shift (R200). -/
def sarElt (f : Fmt) (a c : Nat) : Elt := plainElt (intWrap f (intDecode f a / 2 ^ (c % f.bits)))

/-- VSHL (R200). -/
def planVshl (o : Vvv) (s : State) : Plan := vecVvv 2 (fun _ => shlElt) o s

/-- VSHL issued alone. -/
def execVshl (o : Vvv) (s : State) : Host.Outcome State Fault Refusal :=
  alone (.vshl o) (planVshl o) s

/-- VSHR (R200). -/
def planVshr (o : Vvv) (s : State) : Plan := vecVvv 2 (fun _ => shrElt) o s

/-- VSHR issued alone. -/
def execVshr (o : Vvv) (s : State) : Host.Outcome State Fault Refusal :=
  alone (.vshr o) (planVshr o) s

/-- VSAR (R200). -/
def planVsar (o : Vvv) (s : State) : Plan := vecVvv 2 (fun _ => sarElt) o s

/-- VSAR issued alone. -/
def execVsar (o : Vvv) (s : State) : Host.Outcome State Fault Refusal :=
  alone (.vsar o) (planVsar o) s

/-- A shift by a scalar (R200). -/
def vecShiftS (g : Fmt → Nat → Nat → Elt) (o : Vvs) (s : State) : Plan :=
  let t := s.me
  vecWrite t 2 o.fmt o.fmt o.k o.vd (tagIs t o.va.toNat o.fmt)
    fun i => g o.fmt (t.ve o.fmt o.va i) (t.rdS o.sb).toNat

/-- VSHLS (R200). -/
def planVshls (o : Vvs) (s : State) : Plan := vecShiftS shlElt o s

/-- VSHLS issued alone. -/
def execVshls (o : Vvs) (s : State) : Host.Outcome State Fault Refusal :=
  alone (.vshls o) (planVshls o) s

/-- VSHRS (R200). -/
def planVshrs (o : Vvs) (s : State) : Plan := vecShiftS shrElt o s

/-- VSHRS issued alone. -/
def execVshrs (o : Vvs) (s : State) : Host.Outcome State Fault Refusal :=
  alone (.vshrs o) (planVshrs o) s

/-- VSARS (R200). -/
def planVsars (o : Vvs) (s : State) : Plan := vecShiftS sarElt o s

/-- VSARS issued alone. -/
def execVsars (o : Vvs) (s : State) : Host.Outcome State Fault Refusal :=
  alone (.vsars o) (planVsars o) s

/-- The element conversion of a VCV syllable from a source format (R152, R201). No conversion appends NANGEN (R192); that an
infinite FP32 element which becomes S12's NAN marker appends none either is the model's reading (log 26). -/
def cvtElt (t : Strand) (o : Vcv) (f : Fmt) (b : Nat) : Elt :=
  let c := convert f o.fmt (rmMode t o.rm) o.sat t.ftz b
  { bits := c.bits, nangen := false, sat := c.sat }

/-- VCVT (R201, R202). -/
def planVcvt (o : Vcv) (s : State) : Plan :=
  let t := s.me
  let f := (t.rdV o.va.toNat).tag
  vecWrite t 3 o.fmt o.fmt o.k o.vd (cvtPair f o.fmt && f.halfBytes == o.fmt.halfBytes)
    fun i => cvtElt t o f (t.ve f o.va i)

/-- VCVT issued alone. -/
def execVcvt (o : Vcv) (s : State) : Host.Outcome State Fault Refusal :=
  alone (.vcvt o) (planVcvt o) s

/-- A width ratio the widening and narrowing forms take (R203). -/
def ratioOk (wide narrow : Fmt) : Bool :=
  wide.halfBytes == 2 * narrow.halfBytes || wide.halfBytes == 4 * narrow.halfBytes

/-- VCVTW (R201, R203). -/
def planVcvtw (o : Vcv) (s : State) : Plan :=
  let t := s.me
  let f := (t.rdV o.va.toNat).tag
  let h (i : Nat) : Elt := cvtElt t o f (t.ve f o.va i)
  .need (cvtPair f o.fmt && ratioOk o.fmt f) FMTTAG <|
  vecDone 3 (groupLand t o.vd.toNat (ratioOf f o.fmt) o.fmt fun i => (h i).bits) f.count false
    (anySat f (BitVec.allOnes 512) h)

/-- VCVTW issued alone. -/
def execVcvtw (o : Vcv) (s : State) : Host.Outcome State Fault Refusal :=
  alone (.vcvtw o) (planVcvtw o) s

/-- VCVTN (R201, R203). -/
def planVcvtn (o : Vcv) (s : State) : Plan :=
  let t := s.me
  let f := (t.rdV o.va.toNat).tag
  let r := ratioOf f o.fmt
  vecAll t 3 o.fmt o.fmt o.vd (cvtPair f o.fmt && ratioOk f o.fmt && groupTag t o.va.toNat r f)
    fun i => cvtElt t o f (groupElt t o.va.toNat r f i)

/-- VCVTN issued alone. -/
def execVcvtn (o : Vcv) (s : State) : Host.Outcome State Fault Refusal :=
  alone (.vcvtn o) (planVcvtn o) s

/-- VPERM (R204). -/
def planVperm (o : Vvv) (s : State) : Plan :=
  let t := s.me
  let tag := resultTag t o.va.toNat o.fmt
  vecWrite t 3 o.fmt tag o.k o.vd
    (tagOrRaw t o.va.toNat o.fmt && groupTag t o.vb.toNat (idxRegs o.fmt) .int16)
    fun i => plainElt (cleanElt tag o.fmt i (t.ve o.fmt o.va (indexElt t o.vb.toNat o.fmt i % o.fmt.count)))

/-- VPERM issued alone. -/
def execVperm (o : Vvv) (s : State) : Host.Outcome State Fault Refusal :=
  alone (.vperm o) (planVperm o) s

/-- VSLIDEUP (R205): VD is a source, whose tag is FMT unless FMT is RAW; under RAW VD may carry any tag, whatever K is, and takes
VA's, kept elements included. -/
def planVslideup (o : Vvs) (s : State) : Plan :=
  let t := s.me
  let n := (t.rdS o.sb).toNat
  let m := t.rdK o.k
  let tag := resultTag t o.va.toNat o.fmt
  .need (tagOrRaw t o.va.toNat o.fmt && tagOrRaw t o.vd.toNat o.fmt) FMTTAG <|
  vecDone 3 (landV t o.vd.toNat (blend o.fmt m (t.rdV o.vd.toNat).bits fun i => cleanElt tag o.fmt i
    (if n ≤ i then t.ve o.fmt o.va (i - n) else t.ve o.fmt o.vd i)) tag) (activeCount o.fmt m) false false

/-- VSLIDEUP issued alone. -/
def execVslideup (o : Vvs) (s : State) : Host.Outcome State Fault Refusal :=
  alone (.vslideup o) (planVslideup o) s

/-- VSLIDEDN (R205). -/
def planVslidedn (o : Vvs) (s : State) : Plan :=
  let t := s.me
  let n := (t.rdS o.sb).toNat
  let tag := resultTag t o.va.toNat o.fmt
  vecWrite t 3 o.fmt tag o.k o.vd (tagOrRaw t o.va.toNat o.fmt)
    fun i => plainElt (cleanElt tag o.fmt i (if i + n < o.fmt.count then t.ve o.fmt o.va (i + n) else 0))

/-- VSLIDEDN issued alone. -/
def execVslidedn (o : Vvs) (s : State) : Host.Outcome State Fault Refusal :=
  alone (.vslidedn o) (planVslidedn o) s

/-- Bits of an element that carry its value: 12 in S12, 6 in T6 (R137). -/
def valueBits : Fmt → Nat
  | .s12 => 12
  | .t6 => 6
  | f => f.bits

/-- VBCAST (R206). -/
def planVbcast (o : Vbc) (s : State) : Plan :=
  let t := s.me
  vecWrite t 1 o.fmt o.fmt o.k o.vd true fun _ => plainElt ((t.rdS o.sb).toNat % 2 ^ valueBits o.fmt)

/-- VBCAST issued alone. -/
def execVbcast (o : Vbc) (s : State) : Host.Outcome State Fault Refusal :=
  alone (.vbcast o) (planVbcast o) s

/-- VMOV (R207). -/
def planVmov (o : Vv) (s : State) : Plan := vecMove id o s

/-- VMOV issued alone. -/
def execVmov (o : Vv) (s : State) : Host.Outcome State Fault Refusal :=
  alone (.vmov o) (planVmov o) s

/-- VSEL (R207): K selects. -/
def planVsel (o : Vvv) (s : State) : Plan :=
  let t := s.me
  let tag := resultTag t o.va.toNat o.fmt
  vecAll t 1 o.fmt tag o.vd (tagOrRaw t o.va.toNat o.fmt && tagOrRaw t o.vb.toNat o.fmt)
    fun i => plainElt (cleanElt tag o.fmt i (if active (t.rdK o.k) o.fmt i then t.ve o.fmt o.va i else t.ve o.fmt o.vb i))

/-- VSEL issued alone. -/
def execVsel (o : Vvv) (s : State) : Host.Outcome State Fault Refusal :=
  alone (.vsel o) (planVsel o) s

/-- An element as VMVS extends it: signed integer formats by sign, the rest by zero (R207). -/
def extendElt (f : Fmt) (b : Nat) : W64 :=
  if f.signed then wrap64 (intDecode f b) else BitVec.ofNat 64 (b % 2 ^ valueBits f)

/-- A scalar result's landing; a write to s0 is discarded (R107). -/
def landS (sd : BitVec 6) (x : W64) : List Landing := if sd = 0 then [] else [.s sd.toNat x]

/-- VMVS (R207). -/
def planVmvs (o : Vsx) (s : State) : Plan :=
  let t := s.me
  let j := (t.rdS o.sb).toNat % o.fmt.count
  .need (tagOrRaw t o.va.toNat o.fmt) FMTTAG <|
  vecDone 3 (landS o.sd (if active (t.rdK o.k) o.fmt j then extendElt o.fmt (t.ve o.fmt o.va j) else 0))
    (activeCount o.fmt (t.rdK o.k)) false false

/-- VMVS issued alone. -/
def execVmvs (o : Vsx) (s : State) : Host.Outcome State Fault Refusal :=
  alone (.vmvs o) (planVmvs o) s

/-- The element of VSPLATI (R206). -/
def splatElt (f : Fmt) (imm : BitVec 16) : Nat :=
  match f with
  | .fp32 => imm.toNat * 2 ^ 16
  | .int32 => (imm.signExtend 32).toNat
  | _ => imm.toNat

/-- VSPLATI (R206). -/
def planVsplati (o : Vi) (s : State) : Plan :=
  vecAll s.me 1 o.fmt o.fmt o.vd true fun _ => plainElt (splatElt o.fmt o.imm)

/-- VSPLATI issued alone. -/
def execVsplati (o : Vi) (s : State) : Host.Outcome State Fault Refusal :=
  alone (.vsplati o) (planVsplati o) s

/-- The elements whose mask bit is 1, then those whose bit is 0, each in ascending order (R209). -/
def partList (f : Fmt) (k : KBits) : List Nat :=
  (List.range f.count).filter (active k f) ++ (List.range f.count).filter fun i => !active k f i

/-- VPART (R209). -/
def planVsplitVpart (o : Vp) (s : State) : Plan :=
  let t := s.me
  let k := t.rdK o.k
  let l := partList o.fmt k
  vecDone 3 (groupLand t o.vd.toNat (idxRegs o.fmt) .int16 (fun j => l.getD j 0) ++
    landS o.sd (BitVec.ofNat 64 (activeCount o.fmt k))) o.fmt.count false false

/-- VSPLIT_VPART issued alone. -/
def execVsplitVpart (o : Vp) (s : State) : Host.Outcome State Fault Refusal :=
  alone (.vsplitVpart o) (planVsplitVpart o) s

/-- A special function: FP32 steps, one rounding to the format, FTZ on the result (R156, R210). -/
def vecSpecial (g : FP → FP) (o : Vv) (s : State) : Plan :=
  let t := s.me
  let sl := s.slot
  let h (i : Nat) : Elt :=
    let x := fpDecode o.fmt (t.ve o.fmt o.va i)
    let y := g x
    { bits := fpRound o.fmt .rne t.ftz y, nangen := y.isNaN && !x.isNaN, sat := false }
  match vecWrite t 32 o.fmt o.fmt o.k o.vd (tagIs t o.va.toNat o.fmt) h with
  | .go f => .go fun s =>
      let clk := s.issueClk
      (f s).onMyCore fun c => { c with vbusy := c.vbusy.set (c.unitOf sl) (clk + 8) }
  | p => p

/-- VEXP2 (R159, R210). -/
def planVexp2 (o : Vv) (s : State) : Plan := vecSpecial exp2_32 o s

/-- VEXP2 issued alone. -/
def execVexp2 (o : Vv) (s : State) : Host.Outcome State Fault Refusal :=
  alone (.vexp2 o) (planVexp2 o) s

/-- VLOG2 (R159, R210). -/
def planVlog2 (o : Vv) (s : State) : Plan := vecSpecial log2_32 o s

/-- VLOG2 issued alone. -/
def execVlog2 (o : Vv) (s : State) : Host.Outcome State Fault Refusal :=
  alone (.vlog2 o) (planVlog2 o) s

/-- VRECIP (R158, R210). -/
def planVrecip (o : Vv) (s : State) : Plan := vecSpecial recip32 o s

/-- VRECIP issued alone. -/
def execVrecip (o : Vv) (s : State) : Host.Outcome State Fault Refusal :=
  alone (.vrecip o) (planVrecip o) s

/-- VRSQRT (R158, R210). -/
def planVrsqrt (o : Vv) (s : State) : Plan := vecSpecial rsqrt32 o s

/-- VRSQRT issued alone. -/
def execVrsqrt (o : Vv) (s : State) : Host.Outcome State Fault Refusal :=
  alone (.vrsqrt o) (planVrsqrt o) s

/-- VTANH (R160, R210). -/
def planVtanh (o : Vv) (s : State) : Plan := vecSpecial tanh32 o s

/-- VTANH issued alone. -/
def execVtanh (o : Vv) (s : State) : Host.Outcome State Fault Refusal :=
  alone (.vtanh o) (planVtanh o) s

/-- VSILU (R160, R210). -/
def planVsilu (o : Vv) (s : State) : Plan := vecSpecial silu32 o s

/-- VSILU issued alone. -/
def execVsilu (o : Vv) (s : State) : Host.Outcome State Fault Refusal :=
  alone (.vsilu o) (planVsilu o) s

/-- VTAG (R208). -/
def planVtag (o : Vt) (s : State) : Plan :=
  let t := s.me
  vecDone 1 (landV t o.vd.toNat (t.rdV o.va.toNat).bits o.fmt) o.fmt.count false false

/-- VTAG issued alone. -/
def execVtag (o : Vt) (s : State) : Host.Outcome State Fault Refusal :=
  alone (.vtag o) (planVtag o) s

end Sys2Proof.Machine
end

