-- ==== Sys2Proof/Machine/LocalMem.lean ====
section
/-! DEFINITION. The memory map's local half: circular buffers, local store by address, gather and scatter, and pushes to
a neighbour core (R229, R239 to R247, R255). -/

namespace Sys2Proof.Machine

/-! Descriptor fields (R134). -/

def cbBase (d : W64) : Nat := (d.extractLsb' 0 14).toNat
def cbSlotSz (d : W64) : Nat := (d.extractLsb' 14 9).toNat
def cbNslot (d : W64) : Nat := (d.extractLsb' 23 9).toNat
def cbProd (d : W64) : Nat := (d.extractLsb' 32 8).toNat
def cbCons (d : W64) : Nat := (d.extractLsb' 40 8).toNat
def cbFilled (d : W64) : Nat := (d.extractLsb' 48 9).toNat

/-- A descriptor with new PROD, CONS and FILLED. -/
def cbMove (d : W64) (prod cons filled : Nat) : W64 :=
  BitVec.ofNat 64 (d.toNat % 2 ^ 32 + prod % 2 ^ 8 * 2 ^ 32 + cons % 2 ^ 8 * 2 ^ 40 + filled % 2 ^ 9 * 2 ^ 48)

/-- Produce n slots (R229). -/
def cbProduce (d : W64) (n : Nat) : W64 := cbMove d ((cbProd d + n) % cbNslot d) (cbCons d) (cbFilled d + n)

/-- Consume n slots (R229). -/
def cbConsume (d : W64) (n : Nat) : W64 := cbMove d (cbProd d) ((cbCons d + n) % cbNslot d) (cbFilled d - n)

/-- CBByte of R244. -/
def cbByte (d : W64) (first p : Nat) : Nat :=
  let sb := 64 * cbSlotSz d
  64 * cbBase d + (first + p / sb) % cbNslot d * sb + p % sb

/-- The checks and the wait of a circular-buffer access of z bytes (R244), then the access at CBByte. -/
def cbAccess (o : Cbm) (s : State) (load : Bool) (z : Nat) (k : (Nat → Nat) → Plan) : Plan :=
  let d := s.me.rdCb o.cb.toNat
  let n := o.nm1.toNat + 1
  let off := 64 * o.off.toNat
  .need (cbNslot d != 0 && decide (n ≤ cbNslot d) && decide (off + z ≤ n * 64 * cbSlotSz d)) BOUNDS <|
  if load then
    if n ≤ cbFilled d then k fun j => cbByte d (cbCons d) (off + j) else .stall (s.chargeCb o.cb.toNat true)
  else if n ≤ cbNslot d - cbFilled d then k fun j => cbByte d (cbProd d) (off + j) else .stall (s.chargeCb o.cb.toNat false)

/-- LDL (R244). -/
def planLdl (o : Cbm) (s : State) : Plan :=
  let t := s.me
  let m := t.rdK o.k
  .need (destTagOk t o.k o.reg.toNat o.fmt) FMTTAG <|
  cbAccess o s true (memBytes o.fmt) fun a =>
    localLoad s a (memBytes o.fmt) (memMask o.fmt m) (.vec (t.physV o.reg.toNat) o.fmt m)

/-- LDL issued alone. -/
def execLdl (o : Cbm) (s : State) : Host.Outcome State Fault Refusal :=
  alone (.ldl o) (planLdl o) s

/-- STL (R244). -/
def planStl (o : Cbm) (s : State) : Plan :=
  let t := s.me
  .need (tagOrRaw t o.reg.toNat o.fmt) FMTTAG <|
  cbAccess o s false (memBytes o.fmt) fun a =>
    localStore s a (memBytes o.fmt) (toMem o.fmt (t.rdV o.reg.toNat).bits) (memMask o.fmt (t.rdK o.k))

/-- STL issued alone. -/
def execStl (o : Cbm) (s : State) : Host.Outcome State Fault Refusal :=
  alone (.stl o) (planStl o) s

/-- LDLS (R244). -/
def planLdls (o : Cbm) (s : State) : Plan :=
  let z := scalarBytes o.fmt
  cbAccess o s true z fun a => localLoad s a z (2 ^ (8 * z) - 1) (.scalar (o.reg.setWidth 6 : BitVec 6).toNat o.fmt)

/-- LDLS issued alone. -/
def execLdls (o : Cbm) (s : State) : Host.Outcome State Fault Refusal :=
  alone (.ldls o) (planLdls o) s

/-- STLS (R244). -/
def planStls (o : Cbm) (s : State) : Plan :=
  let z := scalarBytes o.fmt
  cbAccess o s false z fun a => localStore s a z (s.me.rdS (o.reg.setWidth 6)).toNat (2 ^ (8 * z) - 1)

/-- STLS issued alone. -/
def execStls (o : Cbm) (s : State) : Host.Outcome State Fault Refusal :=
  alone (.stls o) (planStls o) s

/-- CBPUSH (R245). -/
def planCbpush (o : Cbn) (s : State) : Plan :=
  let d := s.me.rdCb o.cb.toNat
  let n := o.nm1.toNat + 1
  .need (cbNslot d != 0 && decide (n ≤ cbNslot d)) BOUNDS <|
  if n ≤ cbNslot d - cbFilled d then
    .reg fun t => { t with cbs := t.cbs.set o.cb.toNat (cbProduce (t.rdCb o.cb.toNat) n) }
  else .stall (s.chargeCb o.cb.toNat false)

/-- CBPUSH issued alone. -/
def execCbpush (o : Cbn) (s : State) : Host.Outcome State Fault Refusal :=
  alone (.cbpush o) (planCbpush o) s

/-- CBPOP (R245). -/
def planCbpop (o : Cbn) (s : State) : Plan :=
  let d := s.me.rdCb o.cb.toNat
  let n := o.nm1.toNat + 1
  .need (cbNslot d != 0 && decide (n ≤ cbNslot d)) BOUNDS <|
  if n ≤ cbFilled d then
    .reg fun t => { t with cbs := t.cbs.set o.cb.toNat (cbConsume (t.rdCb o.cb.toNat) n) }
  else .stall (s.chargeCb o.cb.toNat true)

/-- CBPOP issued alone. -/
def execCbpop (o : Cbn) (s : State) : Host.Outcome State Fault Refusal :=
  alone (.cbpop o) (planCbpop o) s

/-- The address of a format-GM syllable: SA plus u times the signed displacement, modulo 2^64 (R246, R248). -/
def gmAddr (s : State) (sa : BitVec 6) (u : Int) (disp : BitVec 7) : Nat := (s.me.rdS sa + wrap64 (u * disp.toInt)).toNat

/-- The offset of LLD and LST, exact: it may lie below 0 or above the local store (R246). -/
def llAddr (s : State) (o : Gm) : Int := ((s.me.rdS o.sa).toNat : Int) + 64 * o.disp.toInt

/-- The checks of LLD and LST: ALIGN, then BOUNDS (R246). -/
def llCheck (s : State) (o : Gm) (k : Nat → Plan) : Plan :=
  let a := llAddr s o
  .needAt (a % 64 == 0) ALIGN (wrap64 a) <|
  .need (decide (0 ≤ a) && decide (a + memBytes o.fmt ≤ 0x100000)) BOUNDS <| k a.toNat

/-- LLD (R246). -/
def planLld (o : Gm) (s : State) : Plan :=
  let t := s.me
  let m := t.rdK o.k
  .need (destTagOk t o.k o.reg.toNat o.fmt) FMTTAG <|
  llCheck s o fun a => localLoad s (a + ·) (memBytes o.fmt) (memMask o.fmt m)
    (.vec (t.physV o.reg.toNat) o.fmt m)

/-- LLD issued alone. -/
def execLld (o : Gm) (s : State) : Host.Outcome State Fault Refusal :=
  alone (.lld o) (planLld o) s

/-- LST (R246). -/
def planLst (o : Gm) (s : State) : Plan :=
  let t := s.me
  .need (tagOrRaw t o.reg.toNat o.fmt) FMTTAG <|
  llCheck s o fun a =>
    localStore s (a + ·) (memBytes o.fmt) (toMem o.fmt (t.rdV o.reg.toNat).bits) (memMask o.fmt (t.rdK o.k))

/-- LST issued alone. -/
def execLst (o : Gm) (s : State) : Host.Outcome State Fault Refusal :=
  alone (.lst o) (planLst o) s

/-- The element address of LSGATH and LSSCAT (R247). -/
def lsElt (s : State) (o : Vvs) (i : Nat) : Nat := (s.me.rdS o.sb).toNat + indexElt s.me o.va.toNat o.fmt i * (o.fmt.halfBytes / 2)

/-- The checks of LSGATH and LSSCAT: index tags, then every active element's bound (R247). -/
def lsCheck (s : State) (o : Vvs) (src : Bool) (k : Plan) : Plan :=
  let m := s.me.rdK o.k
  .need (src && groupTag s.me o.va.toNat (idxRegs o.fmt) .int16) FMTTAG <|
  .need ((List.range o.fmt.count).all fun i => !active m o.fmt i || decide (lsElt s o i + o.fmt.halfBytes / 2 ≤ 0x100000)) BOUNDS k

/-- The address of byte j of the elements laid one after another. -/
def lsByte (s : State) (o : Vvs) (j : Nat) : Nat := lsElt s o (j / (o.fmt.halfBytes / 2)) + j % (o.fmt.halfBytes / 2)

/-- LSGATH (R247). -/
def planLsgath (o : Vvs) (s : State) : Plan :=
  let t := s.me
  let m := t.rdK o.k
  lsCheck s o (destTagOk t o.k o.vd.toNat o.fmt) <|
  localLoad s (lsByte s o) 512 (memMask o.fmt m) (.vec (t.physV o.vd.toNat) o.fmt m)

/-- LSGATH issued alone. -/
def execLsgath (o : Vvs) (s : State) : Host.Outcome State Fault Refusal :=
  alone (.lsgath o) (planLsgath o) s

/-- LSSCAT (R247): of overlapping elements the higher index stays. -/
def planLsscat (o : Vvs) (s : State) : Plan :=
  let t := s.me
  lsCheck s o (tagOrRaw t o.vd.toNat o.fmt) <|
  localStore s (lsByte s o) 512 (t.rdV o.vd.toNat).bits.toNat (memMask o.fmt (t.rdK o.k))

/-- LSSCAT issued alone. -/
def execLsscat (o : Vvs) (s : State) : Host.Outcome State Fault Refusal :=
  alone (.lsscat o) (planLsscat o) s

/-- The neighbour core in a direction (R255). -/
def neighbour (core : Nat) : Dir → Option Nat
  | .north => if core % 64 < 8 then none else some (core - 8)
  | .south => if 56 ≤ core % 64 then none else some (core + 8)
  | .east => if core % 8 = 7 then none else some (core + 1)
  | .west => if core % 8 = 0 then none else some (core - 1)

/-- XPUT (R255): the bytes leave for the neighbour and land 6 clocks later. -/
def planXput (o : Xp) (s : State) : Plan :=
  let t := s.me
  let a := (t.rdS o.sa).toNat
  let bits := (t.rdV o.va.toNat).bits
  match neighbour (coreOf s.cur) o.dir with
  | none => .trap BOUNDS none
  | some c =>
    .needAt (a % 64 == 0) ALIGN (t.rdS o.sa) <|
    .need (decide (a + 512 ≤ 0x100000)) BOUNDS <|
    .go fun s =>
      let p : Push := { id := (s.core c).pushSeq, who := s.cur, dir := o.dir, off := a, data := bits, due := s.clkHere + 6, waiting := false, seq := s.me.memSeq }
      (s.onCore c fun x => { x with pushSeq := x.pushSeq + 1, pushes := x.pushes ++ [p] }).onMe fun t => { t with xputsOut := t.xputsOut + 1 }

/-- XPUT issued alone. -/
def execXput (o : Xp) (s : State) : Host.Outcome State Fault Refusal :=
  alone (.xput o) (planXput o) s

end Sys2Proof.Machine
end

