-- ==== Sys2Proof/Machine/Park.lean ====
section
/-! DEFINITION. Parking on a page table line, monitors and page requests (R400, R401). -/

namespace Sys2Proof.Machine

/-- A parked party that found no free monitor, by its walk's number (R401). -/
def Leaf.waiter (l : Leaf) (id : Nat) : Option Walk := l.walks.find? fun w => w.id == id && w.parked && w.line.isNone

/-- Has a microsecond of pod time passed since a party parked (R5, R401). -/
def Walk.late (w : Walk) (now : W64) : Bool := decide (w.since.toNat + Config.nowPerMicrosecond ≤ now.toNat)

/-- A page request's record (R400). -/
def pageRecord (va : Nat) (write : Bool) (gang member leaf : Nat) : List Byte :=
  leBytes 8 (va / 4096 * 4096 + (if write then 1 else 0)) ++ leBytes 2 gang ++ leBytes 2 member ++ leBytes 1 leaf ++ leBytes 3 0

/-- Ask the host for a page, unless it has been asked for with no write to its line since (R400). -/
def State.requestPage (s : State) (leaf va : Nat) (write : Bool) (line : Phys) : State :=
  match (s.leaf leaf).member with
  | none => s
  | some m =>
    let key := (va / 4096, line.lineKey)
    if (s.leaf leaf).asked.contains key then s else
    let s := s.onLeaf leaf fun l => { l with asked := l.asked ++ [key] }
    let (r, h, adv) := (s.vf m.vf).prq.put s.host 16 fitOne (pageRecord va write m.gang m.member leaf)
    let s := { s.onVf m.vf (fun v => { v with prq := r }) with host := h }
    if adv then s.fireVf m.vf vecPageRequest else s

/-- Monitors of a leaf (R401). -/
def monitors : Nat := 256

/-- Park a party on the line of an entry that is busy or not resident; without a free monitor it walks again every
microsecond (R401). -/
def State.parkOn (s : State) (leaf : Nat) (party : Party) (need : Need) (va : Nat) (line : Phys) : State :=
  let l := s.leaf leaf
  let ws := l.walks.filter fun w => w.party != party
  let free := decide ((ws.filter fun w => w.line.isSome).length < monitors)
  let w : Walk := { id := l.walkSeq, party := party, vf := (s.keyVf leaf).2, va := va, write := need.wr, read := need.rd, exec := need.ex,
                    parked := true, line := if free then some line else none, since := s.now }
  let s := s.onLeaf leaf fun l => { l with walks := ws ++ [w], walkSeq := l.walkSeq + 1 }
  if free then s else s.post (.rewalkTimer leaf w.id)

/-- A party no longer waits on a walk. -/
def State.endWalk (s : State) (leaf : Nat) (party : Party) : State :=
  s.onLeaf leaf fun l => { l with walks := l.walks.filter fun w => w.party != party }

end Sys2Proof.Machine
end

