-- ==== Sys2Proof/Machine/Engine.lean ====
section
/-! DEFINITION. What every engine command shares: queues, the issue of a command, its block and locators, how it reads and
writes its operands, and its completion (R229, R230, R288 to R290, R304, R305, R312 to R316, R332, R333). -/

namespace Sys2Proof.Machine

/-- Replace a command in its queue. -/
def State.setCmd (s : State) (q : Nat) (c : Cmd) : State := s.setCmds q ((s.cmds q).map fun d => if d.id = c.id then c else d)

/-- Post an event unless it is on the agenda. -/
def State.postOnce (s : State) (i : Ev) : State := if s.agenda.contains i then s else s.post i

/-! Blocks and locators (R314, R315). -/

/-- Bytes of a slot of a descriptor. -/
def slotBytes (d : W64) : Nat := 64 * cbSlotSz d

/-- The size of local store. -/
def localSize : Nat := 0x100000

/-- The checks on a locator that covers n bytes, with what its slot size must meet (R315). -/
def locCheck (t : Strand) (b : BitVec 1024) (off n : Nat) (slots : Nat → Bool) (p : Plan) : Plan :=
  let l := locAt b off
  let d := t.rdCb l.cbn
  .need (decide (l.kind < 3) && bytesAt b (off + 10) 6 == 0 &&
    (if l.kind = 1 then l.addr == 0 && decide (l.cbn < 32) && cbNslot d != 0 && slots (slotBytes d) else l.cbn == 0)) BOUNDS <|
  .needAt (l.kind == 1 || l.addr % 64 == 0) ALIGN (BitVec.ofNat 64 l.addr) <|
  .need (l.kind != 0 || decide (l.addr + n ≤ localSize)) BOUNDS p

/-! What commands reach (R134, R226, R230). -/

/-- Does a strand's command in progress name a circular buffer (R134). -/
def State.cbNamed (s : State) (who cb : Nat) : Bool :=
  (s.cmdsNear (coreOf who)).any fun c => c.who == who && c.cbs.any fun p => p.1 == cb

/-- May a command take its turn at one side of a buffer: earlier commands take their slots first (R230). -/
def State.cbTurn (s : State) (c : Cmd) (cb : Nat) (out : Bool) : Bool :=
  !(s.cmdsNear (coreOf c.who)).any fun d => d.who == c.who && decide (d.id < c.id) && !d.over && d.cbs.contains (cb, out)

/-- A command that waits on a count stalls those queued behind it (R230). -/
def State.cbBlocked (s : State) (c : Cmd) : Bool :=
  c.cbs.any fun p =>
    let d := (s.strand c.who).rdCb p.1
    !s.cbTurn c p.1 p.2 || (if p.2 then cbFilled d == cbNslot d else cbFilled d == 0)

/-! Operands (R229, R230, R288, R289, R304, R316). -/

/-- What a step of a command meets: it is made; it waits (for a slot, a fill or remote data); it is held, parked, by a pool
region in RETRY or a frozen page, and tries again (R316, R440); it parks; or it fails with an FCAUSE (R308). -/
inductive Got where
  | ok (s : State) (x : Nat)
  | wait (s : State)
  | hold (s : State)
  | park (s : State) (va : Nat) (need : Need) (line : Phys) (nonres : Bool)
  | fail (s : State) (cause : BitVec 8)

/-- FCAUSE codes (R308). -/
def fTABLE : BitVec 8 := 1
def fXL : BitVec 8 := 2
def fTOKEN : BitVec 8 := 3
def fTAG : BitVec 8 := 4
def fREMOTE : BitVec 8 := 5

/-- Go on after a step. -/
def Got.andThen (g : Got) (k : State → Nat → Got) : Got :=
  match g with
  | .ok s x => k s x
  | g => g

/-- What an engine access met, as a step (R316, R396). -/
def State.reached (s : State) (need : Need) : Reach → Got
  | .done u x => .ok u x
  | .nonres va l => .park s va need l true
  | .busy va l => .park s va need l false
  | .invalid _ => .fail s fXL
  | .lost _ => .fail s fXL
  | .retry _ => .hold s
  | .remote u => .wait u

/-- The party of a command. -/
def Cmd.party (q : Nat) (c : Cmd) : Party := .cmd q c.id

/-- The regions that n local bytes from an offset lie in. -/
def regionSpan (a n : Nat) : List Nat := (List.range ((a + n + 16383) / 16384 - a / 16384)).map (a / 16384 + ·)

/-- Read local store for a command, touching what it reads (R221). -/
def State.nearRead (s : State) (q : Nat) (c : Cmd) (a n : Nat) : Got :=
  match s.touchAll (coreOf c.who) (c.party q) (regionSpan a n) with
  | (u, true) => .ok u ((u.core (coreOf c.who)).local_.readNat a n)
  | (u, false) => .wait u

/-- Write local store for a command, touching what it writes. -/
def State.nearWrite (s : State) (q : Nat) (c : Cmd) (a n x : Nat) : Got :=
  match s.touchAll (coreOf c.who) (c.party q) (regionSpan a n) with
  | (u, true) => .ok (u.localPut (coreOf c.who) (a + ·) n x (2 ^ (8 * n) - 1)) 0
  | (u, false) => .wait u

/-- The local offset of position pos in a buffer's slot that is next to drain or to fill (R229). -/
def cbAt (d : W64) (out : Bool) (pos : Nat) : Nat :=
  64 * cbBase d + (if out then cbProd d else cbCons d) * slotBytes d + pos % slotBytes d

/-- Read n bytes at a position of an operand. -/
def State.peek (s : State) (q : Nat) (c : Cmd) (l : Loc) (pos n : Nat) : Got :=
  if l.kind = 0 then (if l.addr + pos + n ≤ localSize then s.nearRead q c (l.addr + pos) n else .fail s fXL)
  else if l.kind = 1 then
    let d := (s.strand c.who).rdCb l.cbn
    if s.cbTurn c l.cbn false && cbFilled d != 0 then s.nearRead q c (cbAt d false pos) n else .wait s
  else s.reached needRd (s.readFor c.who (c.party q) false (l.addr + pos) n)

/-- Write n bytes at a position of an operand. -/
def State.put (s : State) (q : Nat) (c : Cmd) (l : Loc) (pos n x : Nat) : Got :=
  if l.kind = 0 then (if l.addr + pos + n ≤ localSize then s.nearWrite q c (l.addr + pos) n x else .fail s fXL)
  else if l.kind = 1 then
    let d := (s.strand c.who).rdCb l.cbn
    if s.cbTurn c l.cbn true && cbFilled d != cbNslot d then s.nearWrite q c (cbAt d true pos) n x else .wait s
  else if l.kind = 3 then
    .ok ((s.staleUnits (coreOf c.who) (l.addr + pos) n).onCore (coreOf c.who) fun k => { k with istore := k.istore.writeNat (l.addr + pos) n x }) 0
  else s.reached needWr (s.writeFor c.who (c.party q) (l.addr + pos) n x (2 ^ (8 * n) - 1))

/-- The bytes at a position have been read: global bytes are counted, and a slot is popped once its last byte, or the
command's, has been read (R230, R236, R320). -/
def State.took (s : State) (c : Cmd) (l : Loc) (pos n : Nat) (last : Bool) : State :=
  if l.kind = 2 then s.countBytes (leafOf c.who) (l.addr + pos) n
  else if l.kind = 1 ∧ (last = true ∨ (pos + n) % slotBytes ((s.strand c.who).rdCb l.cbn) = 0) then
    s.onStrand c.who fun t => { t with cbs := t.cbs.set l.cbn (cbConsume (t.rdCb l.cbn) 1) }
  else s

/-- The bytes at a position have been written: a slot is pushed once full, or with the command's last byte (R230, R322). -/
def State.gave (s : State) (c : Cmd) (l : Loc) (pos n : Nat) (last : Bool) : State :=
  if l.kind = 2 then s.countBytes (leafOf c.who) (l.addr + pos) n
  else if l.kind = 1 ∧ (last = true ∨ (pos + n) % slotBytes ((s.strand c.who).rdCb l.cbn) = 0) then
    s.onStrand c.who fun t => { t with cbs := t.cbs.set l.cbn (cbProduce (t.rdCb l.cbn) 1) }
  else s

/-- A command has made a step: the lines that came for it are dropped and it moves on, or has made its last. -/
def State.stepped (s : State) (q : Nat) (c : Cmd) (last : Bool) : Got :=
  let s := s.forget (leafOf c.who) (c.party q)
  let c := match s.findCmd q c.id with
    | some d => { d with step := c.step + 1 }
    | none => c
  if last then .ok ((s.setCmd q { c with stage := .finishing }).post (.commandComplete q)) 1 else .ok (s.setCmd q c) 0

/-- The array takes a row of a command in this clock; the last row of a body lands in the tile 10 clocks on (R302). -/
def State.arrayRow (s : State) (q : Nat) (c : Cmd) (last : Bool) : State :=
  let clk := (s.leaf (leafOf c.who)).clk
  let s := s.onCore (coreOf c.who) fun k => { k with arrayAt := clk + 1 }
  match s.findCmd q c.id with
  | some d => if last then s.setCmd q { d with landAt := clk + 10 } else s
  | none => s

/-- Append a record for a command, at most one of each kind (R333, R354). -/
def State.note (s : State) (q id kind detail : Nat) (yes : Bool) : State :=
  match s.findCmd q id with
  | none => s
  | some c =>
    if !yes || c.notes.testBit kind then s else
    (s.onCore (coreOf c.who) fun k => k.record kind (c.who % 4) detail c.addr).setCmd q { c with notes := c.notes + 2 ^ kind }

/-! Issue (R313, R314). -/

/-- The commands whose completion a command waits for, and whether one of its tokens stands failed (R288, R313). -/
def Strand.depsOf (t : Strand) (o : Et) : List Nat × Bool :=
  [o.ta, o.tb, o.tc].foldl (fun p n => match t.rdTk n.toNat with
    | .pending c => (p.1 ++ [c], p.2)
    | .failed _ _ => (p.1, true)
    | .complete => p) ([], false)

/-- A command as it enters its queue. -/
def newCmd (id who : Nat) (i : Instr) (t : Strand) (o : Et) (base : W64) (block : BitVec 1024) (knots : FMap (BitVec 128)) : Cmd :=
  { id := id, who := who, instr := i, tp := o.tp.toNat, deps := (t.depsOf o).1, depFailed := (t.depsOf o).2, addr := t.pc,
    base := base, block := block, knots := knots, stage := .queued, step := 0, row := 0, act := 0, tile := false, table := [], notes := 0, low := 0, landAt := 0, unit := none, seq := t.memSeq }

/-- A command of the strand cur issues: its token becomes pending and it enters its queue (R130, R313). -/
def State.enqueue (s : State) (q : Nat) (i : Instr) (o : Et) (base : W64) (block : BitVec 1024) (knots : FMap (BitVec 128)) : State :=
  let leaf := leafOf s.cur
  let id := (s.leaf leaf).cmdSeq
  let c := newCmd id s.cur i s.me o base block knots
  let s := s.onLeaf leaf fun l => { l with cmdSeq := id + 1 }
  let s := s.onMe fun t => { t with issued := t.issued ++ [id], tks := (if o.tp = 0 then t.tks else t.tks.set o.tp.toNat (.pending id)) }
  (s.setCmds q (s.cmds q ++ [c])).postOnce (.commandStart q)

/-- Is a token pending. -/
def Token.isPending : Token → Bool
  | .pending _ => true
  | _ => false

/-- Entries of an engine queue (R313). -/
def queueSize : Nat := 16

/-- The stalls of a command's issue: its produced token, then its queue (R313). -/
def engineIssue (s : State) (q : Nat) (o : Et) (p : Plan) : Plan :=
  if (s.me.rdTk o.tp.toNat).isPending then .stall s
  else if queueSize ≤ (s.cmds q).length then .stall s else p

/-- A block of n bytes at SA: aligned, below the end of local store, touched, and read with the stores of its bundle and of the bundles before it
applied (R289, R314): it stalls while one of them waits for a FENCE. -/
def withBlock (s : State) (o : Et) (n : Nat) (k : State → Nat → Plan) : Plan :=
  let a := (s.me.rdS o.sa).toNat
  .needAt (a % 64 == 0) ALIGN (s.me.rdS o.sa) <|
  .need (decide (a + n ≤ localSize)) BOUNDS <|
  match s.me.walk with
  | some (.failed c va) => .trap c (some (BitVec.ofNat 64 va))
  | _ =>
    let core := coreOf s.cur
    let party := Party.bundle s.cur
    if s.heldLocal core then .stall s else
    match s.touchAll core party (regionSpan a n) with
    | (u, false) => .stall u
    | (_, true) => .late fun v =>
      if v.heldLocal core then .stall v else
      let v := (v.touchAll core party (regionSpan a n)).1
      match k v ((v.core core).local_.readNat a n) with
      | .go f => .go fun s => f (s.touchAll core party (regionSpan a n)).1
      | p => p

/-- A command whose block has passed its checks enters its queue. -/
def enter (q : Nat) (i : Instr) (o : Et) (base : W64) (block : BitVec 1024) (knots : FMap (BitVec 128)) : Plan :=
  .go fun s => s.enqueue q i o base block knots

/-! Completion (R288, R305, R437). -/

/-- A completed command no longer holds back those of its strand that consume its token; a failed one makes them fail. -/
def Cmd.resolve (c : Cmd) (who id : Nat) (failed : Bool) : Cmd :=
  if c.who = who ∧ c.deps.contains id then { c with deps := c.deps.filter (· != id), depFailed := c.depFailed || failed } else c

/-- A collective's or wait's command is resolved like any other. -/
def CollCtx.resolve (x : CollCtx) (who id : Nat) (failed : Bool) : CollCtx :=
  { x with colls := x.colls.map fun k => { k with cmd := k.cmd.resolve who id failed } }

/-- A command's token completes, or completes failed; its failure is recorded until it is read (R130, R305, R437). -/
def State.endToken (s : State) (who id tp addr : Nat) (failed : Bool) : State :=
  let core := coreOf who
  let s := (coreQueues core).foldl (fun s q => s.setCmds q ((s.cmds q).map fun d => d.resolve who id failed)) s
  let s := s.onLeaf (leafOf who) fun l =>
    { l with member := l.member.map fun m =>
        { m with colls := m.colls.map (fun (p : Nat × CollCtx) => (p.1, p.2.resolve who id failed)),
                 unread := if failed then m.unread ++ [(who, id, addr)] else m.unread } }
  s.onStrand who fun t =>
    { t with tks := (if tp ≠ 0 ∧ t.rdTk tp = .pending id then t.tks.set tp (if failed then .failed id addr else .complete) else t.tks),
             failed := (if failed && t.issued.contains id then t.failed ++ [(id, addr)] else t.failed),
             issued := t.issued.filter (· != id) }

/-- The Trowel status word after a Lath, Trowel or spline command has failed (R305, R308). -/
def TrowelStat.failed (t : TrowelStat) (cause : BitVec 8) : TrowelStat := { t with fail := true, fcause := cause }

/-- Append the out-of-grid record of a command's inputs (R354). -/
def State.noteLow (s : State) (q id : Nat) : State :=
  match s.findCmd q id with
  | none => s
  | some c => s.note q id 3 (c.low - 1) (c.low != 0)

/-- A command leaves its queue (R288, R305): its token completes; a failure is recorded (R333). -/
def State.completeCmd (s : State) (q : Nat) (c : Cmd) (cause : Option (BitVec 8)) : State :=
  let s := s.noteLow q c.id
  let s := match cause with
    | none => s
    | some f =>
      let s := s.note q c.id 5 (if isHawk q then 0 else f.toNat) true
      if isHawk q then s else s.onCore (coreOf c.who) fun k => { k with tstat := k.tstat.failed f }
  let s := s.setCmds q ((s.cmds q).filter fun d => d.id != c.id)
  ((s.forget (leafOf c.who) (c.party q)).endWalk (leafOf c.who) (c.party q)).endToken c.who c.id c.tp c.addr cause.isSome

/-- Is an engine of a leaf at work: a member runs there and the leaf is not frozen (R67, R424). -/
def State.enginesRun (s : State) (leaf : Nat) : Bool :=
  let l := s.leaf leaf
  l.member.isSome && (l.phase == .run || l.phase == .preparing) && l.freezeLeft == 0

end Sys2Proof.Machine
end

