-- ==== Sys2Proof/Machine/Lath.lean ====
section
/-! DEFINITION. The Lath: stationary planes, dense and compressed products, accumulator tiles and the epilogue (R153 to
R155, R295 to R305, R312, R317 to R322). -/

namespace Sys2Proof.Machine

/-! Formats of the array (R15, R296, R299). -/

/-- Bits of a packed element. -/
def latticeBits (f : Fmt) : Nat := if f = .t6 then 6 else f.bits

/-- The dense K of a format: elements in 96 bytes (R15). -/
def denseK (f : Fmt) : Nat := 768 / latticeBits f

/-- Element i of packed bits. -/
def packedElt (f : Fmt) (x i : Nat) : Nat := x / 2 ^ (latticeBits f * i) % 2 ^ latticeBits f

/-- Is a product's result INT32 (R301): unscaled INT8. -/
def intResult (f : Fmt) (scaled : Bool) : Bool := f == .int8 && !scaled

/-- What a product needs to know of its rows (R298). -/
structure Shape where
  fmt : Fmt
  scaled : Bool
  keep : Nat
deriving DecidableEq, Repr

/-- Logical depth (R299). -/
def Shape.depth (p : Shape) : Nat := denseK p.fmt * 8 / p.keep

/-- Element bytes of a row (R298). -/
def Shape.rowElts (p : Shape) : Nat := 96 * 8 / p.keep

/-- Element and scale bytes of a row. -/
def Shape.rowBytes (p : Shape) : Nat := p.rowElts + (if p.scaled then 2 * (p.depth / 32) else 0)

/-- Pitch (R298). -/
def Shape.pitch (p : Shape) : Nat := 64 * ((p.rowBytes + 63) / 64)

/-- Bytes of a plane image (R318). -/
def Shape.image (p : Shape) : Nat := 24576 + (if p.scaled then 16384 else 0) + (if p.keep < 8 then 12288 else 0)

/-- The product's shape as a plane's tag. -/
def Shape.tag (p : Shape) : PlaneTag := { fmt := p.fmt, scaled := p.scaled, keep := p.keep }

/-! One element of a product (R153, R154, R300). -/

/-- The logical position of physical element p of column j (R300). -/
def Plane.position (w : Plane) (keep j p : Nat) : Nat :=
  if keep = 8 then p
  else 8 * (p / keep) + (w.bytes.readNat (40960 + 48 * j + 3 * p / 8) 2) / 2 ^ (3 * p % 8) % 8

/-- Physical element p of column j. -/
def Plane.elt (w : Plane) (f : Fmt) (j p : Nat) : Nat := packedElt f (w.bytes.readNat (96 * j) 96) p

/-- The S12 scale b of column j. -/
def Plane.scale (w : Plane) (j b : Nat) : S12 := s12Decode (w.bytes.readNat (24576 + 64 * j + 2 * b) 2 % 4096)

/-- A term of a sum, and whether it is a NaN that no operand brought (R333). -/
structure Term where
  val : FP
  made : Bool
deriving DecidableEq, Repr

/-- The exact sum of products of elements a and b over positions (R153, R154), and whether an element is NaR (R333): a zero sum is
+0. -/
def exactSum (f : Fmt) (l : List (Nat × Nat)) : FP × Bool :=
  l.foldl (fun (acc : FP × Bool) p =>
    let x := eltDecode f p.1
    let y := eltDecode f p.2
    (FP.add .rne acc.1 (x.mul y), acc.2 || (!f.isF && (x.isNaN || y.isNaN)))) (fp0, false)

/-- A block's term under two scales (R153). -/
def scaledTerm (S : FP × Bool) (g h : S12) : Term :=
  match g, h with
  | .nan, _ => { val := .nan, made := false }
  | _, .nan => { val := .nan, made := false }
  | .zero, _ => if S.1.isNaN then { val := .nan, made := !S.2 } else { val := fp0, made := false }
  | _, .zero => if S.1.isNaN then { val := .nan, made := !S.2 } else { val := fp0, made := false }
  | .val a, .val b => { val := rne ((S.1.mul a).mul b), made := S.1.isNaN && !S.2 }

/-- The products of one block of a column: physical elements from lo to lo + n - 1 with the row's elements. -/
def blockPairs (w : Plane) (p : Shape) (row j lo n : Nat) : List (Nat × Nat) :=
  (List.range n).map fun i => (packedElt p.fmt row (w.position p.keep j (lo + i)), w.elt p.fmt j (lo + i))

/-- The terms of column j, in ascending order (R153, R154). -/
def columnTerms (w : Plane) (p : Shape) (row j : Nat) : List Term :=
  let k := denseK p.fmt
  if p.scaled then
    (List.range (p.depth / 32)).map fun b =>
      let S := exactSum p.fmt (blockPairs w p row j (4 * p.keep * b) (4 * p.keep))
      scaledTerm S (s12Decode (row / 2 ^ (8 * p.rowElts + 16 * b) % 4096)) (w.scale j b)
  else
    let n := 2 * p.keep
    (List.range ((k + n - 1) / n)).map fun b =>
      let S := exactSum p.fmt (blockPairs w p row j (n * b) (min n (k - n * b)))
      { val := rne S.1, made := S.1.isNaN && !S.2 }

/-- Element (r, j) of a tile (R301). -/
def Tile.elt (t : Tile) (r j : Nat) : BitVec 32 := t.elts.get (256 * r + j) 0

/-- Replace an element of a tile. -/
def Tile.setElt (t : Tile) (r j : Nat) (x : BitVec 32) : Tile := { t with elts := t.elts.set (256 * r + j) x }

/-- Column j of a product's row added into a tile (R153, R154): the element, and whether a term is a NaN it made. -/
def addColumn (w : Plane) (p : Shape) (row j : Nat) (old : BitVec 32) : BitVec 32 × Bool :=
  if intResult p.fmt p.scaled then
    let sum := (blockPairs w p row j 0 (denseK p.fmt)).foldl (fun (a : Int) x => a + intDecode p.fmt x.1 * intDecode p.fmt x.2) 0
    (BitVec.ofInt 32 (old.toInt + sum), false)
  else
    let ts := columnTerms w p row j
    let x := ts.foldl (fun a t => rne (FP.add .rne a t.val)) (fpDecode .fp32 old.toNat)
    (BitVec.ofNat 32 (fpRound .fp32 .rne false x), ts.any Term.made)

/-- A stream row added into tile row r (R295). -/
def addRow (w : Plane) (p : Shape) (row r : Nat) (t : Tile) : Tile × Bool :=
  (List.range 256).foldl (fun (a : Tile × Bool) j =>
    let e := addColumn w p row j (t.elt r j)
    (a.1.setElt r j e.1, a.2 || e.2)) (t, false)

/-- A tile of a core. -/
def Core.tile (c : Core) (n : Bool) : Tile := if n then c.acc1 else c.acc0

/-- Change a tile of a core. -/
def Core.onTile (c : Core) (n : Bool) (f : Tile → Tile) : Core :=
  if n then { c with acc1 := f c.acc1 } else { c with acc0 := f c.acc0 }

/-- The multiply-add meter of a format (R442). -/
def macMeter (f : Fmt) : Nat := match f with
  | .t6 => 0
  | .t8 | .int8 => 1
  | .bf16 | .fp16 => 2
  | _ => 3

/-- Row r of a product, once it has been read (R295, R302, R333, R443). -/
def State.productRow (s : State) (q : Nat) (c : Cmd) (p : Shape) (tile : Bool) (r row : Nat) : State :=
  let core := coreOf c.who
  let k := s.core core
  let x := addRow k.planeA p row r (k.tile tile)
  ((s.onCore core fun k => k.onTile tile fun _ => x.1).meter (leafOf c.who) (macMeter p.fmt) (256 * denseK p.fmt)).note q c.id 1 0 x.2

/-! Plane images (R296, R318). -/

/-- Where unit u of an image lies in a plane and its side array. -/
def Shape.unitAt (p : Shape) (u : Nat) : Nat :=
  if 64 * u < 24576 ∨ (p.scaled = true ∧ 64 * u < 40960) then 64 * u
  else 40960 + (64 * u - (if p.scaled then 40960 else 24576))

/-- Write a 64-byte unit of an image to the shadow plane. -/
def State.planeUnit (s : State) (core : Nat) (p : Shape) (u x : Nat) : State :=
  s.onCore core fun k => { k with planeS := { k.planeS with bytes := k.planeS.bytes.writeNat (p.unitAt u) 64 x } }

/-- Exchange the planes (R297, R319). -/
def Core.swapPlanes (c : Core) : Core := { c with planeA := c.planeS, planeS := c.planeA }

/-- Set the shadow plane's tag (R296). -/
def Core.tagShadow (c : Core) (p : PlaneTag) : Core := { c with planeS := { c.planeS with tag := p } }

/-- Zero a tile, and tag it (R321). -/
def Core.zeroTile (c : Core) (n : Bool) (int : Bool) : Core := c.onTile n fun _ => { elts := [], int := int }

/-! The epilogue (R303, R322). -/

/-- The function of stage 4. -/
def epiFn (n : Nat) (x : FP) : FP :=
  match n with
  | 1 => if x.isNaN then .nan else if x.isNeg || x.isZero then fp0 else x
  | 2 => exp2_32 x
  | 3 => log2_32 x
  | 4 => recip32 x
  | 5 => rsqrt32 x
  | 6 => tanh32 x
  | 7 => silu32 x
  | _ => x

/-- The output format and saturation of OUT. -/
def epiOut (mode : Nat) : Fmt × Bool :=
  match mode % 4 with
  | 0 => (.fp32, false)
  | 1 => (.bf16, false)
  | 2 => (.bf16, true)
  | _ => (.t8, true)

/-- Row bytes of an output (R322). -/
def epiRow (mode : Nat) : Nat := 256 * (epiOut mode).1.halfBytes / 2

/-- Does an epilogue use the vector block (R322). -/
def epiAff (mode : Nat) : Bool := mode.testBit 2

/-- What a stage makes of a value, and whether it makes a NaN of it. -/
def stage (f : FP → FP) (x : FP × Bool) : FP × Bool := (f x.1, x.2 || ((f x.1).isNaN && !x.1.isNaN))

/-- Element j of an output row (R303): its bits, a NaN made, and a value clamped. -/
def epiElt (mode : Nat) (table : Mem) (int : Bool) (e : BitVec 32) (j : Nat) : Elt :=
  let vecAt (o : Nat) : FP := fpDecode .fp32 (table.readNat (o + 4 * j) 4)
  let y : FP × Bool := (if int then rne (FP.ofInt e.toInt) else fpDecode .fp32 e.toNat, false)
  let y := if epiAff mode then stage (fun y => rne (FP.add .rne y (vecAt 1024))) (stage (fun y => rne (y.mul (vecAt 0))) y) else y
  let y := stage (epiFn (mode / 8 % 8)) y
  let out := convert .fp32 (epiOut mode).1 .rne (epiOut mode).2 false (fpRound .fp32 .rne false y.1)
  { bits := out.bits, nangen := y.2, sat := out.sat }

/-- An output row of a tile (R303). -/
def epiBits (mode : Nat) (table : Mem) (t : Tile) (r : Nat) : Nat × Bool × Bool :=
  let es := (List.range 256).map fun j => epiElt mode table t.int (t.elt r j) j
  let w := (epiOut mode).1.bits
  (pack w (fun j => (es.getD j (plainElt 0)).bits) 256, es.any Elt.nangen, es.any Elt.sat && decide (2 ≤ mode % 4))

/-! Commands (R312, R317 to R322). -/

/-- The tags that the commands still queued leave, in issue order, as (active plane, shadow plane, tile 0 INT32, tile 1
INT32); unknown while a nest is queued, whose own steps change them (R301, R307). -/
def State.issueTags (s : State) (core : Nat) : Option (PlaneTag × PlaneTag × Bool × Bool) :=
  let k := s.core core
  let go (a : Option (PlaneTag × PlaneTag × Bool × Bool)) (c : Cmd) : Option (PlaneTag × PlaneTag × Bool × Bool) :=
    if c.over then a else
    match a, c.instr with
    | none, _ => none
    | _, .tgo _ => none
    | some (x, _, i, j), .lsta o =>
      some (x, { fmt := o.fmt?.getD .raw, scaled := o.scaled, keep := bytesAt c.block 17 1 }, i, j)
    | some (x, y, i, j), .lswap _ => some (y, x, i, j)
    | some (x, y, i, j), .lzero o => some (x, y, (if o.tile then i else o.fmt? == some .int32), (if o.tile then o.fmt? == some .int32 else j))
    | some a, _ => some a
  (s.cmds core).foldl go (some (k.planeA.tag, k.planeS.tag, k.acc0.int, k.acc1.int))

/-- A check against the tags in issue order; it waits while they are not known. -/
def tagCheck (s : State) (ok : PlaneTag → Bool → Bool) (tile : Bool) (p : Plan) : Plan :=
  match s.issueTags (coreOf s.cur) with
  | none => .stall s
  | some (a, _, i, j) => .need (ok a (if tile then j else i)) FMTTAG p

/-- A 64-byte Lath block: bytes from z on that a form does not use are zero (R314, R317). -/
def blockOf (x : Nat) : BitVec 1024 := BitVec.ofNat 1024 x

/-- The bytes of a block that a form does not use hold zero (R314). -/
def unused (b : BitVec 1024) (l : List (Nat × Nat)) : Bool := l.all fun p => bytesAt b p.1 p.2 == 0

/-- The shape of a dense command. -/
def etShape (o : Et) (keep : Nat) : Shape := { fmt := o.fmt?.getD .raw, scaled := o.scaled, keep := keep }

/-- LSTA (R318). -/
def planLsta (o : Et) (s : State) : Plan :=
  let q := coreOf s.cur
  engineIssue s q o <| withBlock s o 64 fun _ x =>
    let b := blockOf x
    let keep := bytesAt b 17 1
    let p := etShape o keep
    .need ((keep == 8 || keep == 4 || keep == 2 || keep == 1) && unused b [(16, 1), (18, 46)]) BOUNDS <|
    locCheck s.me b 0 p.image (fun z => p.image % z == 0) <|
    enter q (.lsta o) o 0 b []

/-- LSTA issued alone. -/
def execLsta (o : Et) (s : State) : Host.Outcome State Fault Refusal :=
  alone (.lsta o) (planLsta o) s

/-- LSWAP (R319). -/
def planLswap (o : Et) (s : State) : Plan :=
  let q := coreOf s.cur
  engineIssue s q o <| enter q (.lswap o) o 0 0 []

/-- LSWAP issued alone. -/
def execLswap (o : Et) (s : State) : Host.Outcome State Fault Refusal :=
  alone (.lswap o) (planLswap o) s

/-- A product of the stream rows of its block (R301, R320). -/
def productPlan (i : Instr) (o : Et) (keepOf : BitVec 1024 → Nat) (keepOk : Nat → Bool) (s : State) : Plan :=
  let q := coreOf s.cur
  engineIssue s q o <| withBlock s o 64 fun _ x =>
    let b := blockOf x
    let rows := bytesAt b 16 1
    let p := etShape o (keepOf b)
    .need (decide (1 ≤ rows) && decide (rows ≤ 128) && keepOk (bytesAt b 17 1) && unused b [(18, 46)]) BOUNDS <|
    locCheck s.me b 0 (rows * p.pitch) (fun z => z % p.pitch == 0) <|
    tagCheck s (fun a int => a == p.tag && int == intResult p.fmt p.scaled) o.tile <|
    enter q i o 0 b []

/-- LMM (R320). -/
def planLmm (o : Et) (s : State) : Plan := productPlan (.lmm o) o (fun _ => 8) (fun k => k == 0) s

/-- LMM issued alone. -/
def execLmm (o : Et) (s : State) : Host.Outcome State Fault Refusal :=
  alone (.lmm o) (planLmm o) s

/-- LMMS (R320). -/
def planLmms (o : Et) (s : State) : Plan :=
  productPlan (.lmms o) o (fun b => bytesAt b 17 1) (fun k => k == 4 || k == 2 || k == 1) s

/-- LMMS issued alone. -/
def execLmms (o : Et) (s : State) : Host.Outcome State Fault Refusal :=
  alone (.lmms o) (planLmms o) s

/-- LZERO (R321). -/
def planLzero (o : Et) (s : State) : Plan :=
  let q := coreOf s.cur
  engineIssue s q o <| enter q (.lzero o) o 0 0 []

/-- LZERO issued alone. -/
def execLzero (o : Et) (s : State) : Host.Outcome State Fault Refusal :=
  alone (.lzero o) (planLzero o) s

/-- LEPI (R322). -/
def planLepi (o : Et) (s : State) : Plan :=
  let q := coreOf s.cur
  engineIssue s q o <| withBlock s o 64 fun _ x =>
    let b := blockOf x
    let rows := bytesAt b 16 1
    let vecOff := bytesAt b 24 8
    let mode := o.mode.toNat
    .need (decide (1 ≤ rows) && decide (rows ≤ 128) && decide (bytesAt b 18 1 < 2) && unused b [(17, 1), (19, 5), (32, 32)] &&
      (epiAff mode || vecOff == 0) && decide (vecOff ≤ 0xFF800) && vecOff % 64 == 0) BOUNDS <|
    locCheck s.me b 0 (rows * epiRow mode) (fun z => z % epiRow mode == 0) <|
    enter q (.lepi o) o 0 b []

/-- LEPI issued alone. -/
def execLepi (o : Et) (s : State) : Host.Outcome State Fault Refusal :=
  alone (.lepi o) (planLepi o) s

/-! Steps of the commands (R302, R310). -/

/-- A step of LSTA: one 64-byte unit. -/
def State.stepLsta (s : State) (q : Nat) (c : Cmd) (o : Et) : Got :=
  let p := etShape o (bytesAt c.block 17 1)
  let l := locAt c.block 0
  let last := decide (p.image ≤ 64 * (c.step + 1))
  (s.peek q c l (64 * c.step) 64).andThen fun s x =>
    ((s.planeUnit (coreOf c.who) p c.step x).took c l (64 * c.step) 64 last).stepped q c last

/-- A step of LMM or LMMS: one stream row. -/
def State.stepProduct (s : State) (q : Nat) (c : Cmd) (o : Et) (keep : Nat) : Got :=
  let p := etShape o keep
  let l := locAt c.block 0
  let last := decide (bytesAt c.block 16 1 ≤ c.step + 1)
  (s.peek q c l (c.step * p.pitch) p.rowBytes).andThen fun s x =>
    (((s.productRow q c p o.tile c.step x).took c l (c.step * p.pitch) p.pitch last).arrayRow q c last).stepped q c last

/-- Send a row of an epilogue (R303). -/
def State.epilogueRow (s : State) (q : Nat) (c : Cmd) (l : Loc) (mode : Nat) (tile : Bool) (r : Nat) (last : Bool) (k : State → Got) : Got :=
  let e := epiBits mode c.table ((s.core (coreOf c.who)).tile tile) r
  let n := epiRow mode
  (s.put q c l (r * n) n e.1).andThen fun s _ =>
    k (((s.gave c l (r * n) n last).note q c.id 1 0 e.2.1).note q c.id 2 0 e.2.2)

/-- A step of LEPI: one row. -/
def State.stepLepi (s : State) (q : Nat) (c : Cmd) (o : Et) : Got :=
  let last := decide (bytesAt c.block 16 1 ≤ c.step + 1)
  s.epilogueRow q c (locAt c.block 0) o.mode.toNat (bytesAt c.block 18 1 == 1) c.step last fun s => s.stepped q c last

/-- A Lath command begins: LEPI reads its vectors, LSTA's tag stands on the shadow plane (R296, R303). -/
def State.beginLath (s : State) (q : Nat) (c : Cmd) : Got :=
  match c.instr with
  | .lepi o =>
    if epiAff o.mode.toNat then
      (s.nearRead q c (bytesAt c.block 24 8) 2048).andThen fun s x => .ok (s.setCmd q { c with table := Mem.writeNat [] 0 2048 x }) 0
    else .ok s 0
  | .lsta o => .ok (s.onCore (coreOf c.who) fun k => k.tagShadow (etShape o (bytesAt c.block 17 1)).tag) 0
  | _ => .ok s 0

/-- What a failed command leaves of the tags that follow its issue (R301). -/
def Core.failedTags (k : Core) (i : Instr) (block : BitVec 1024) : Core :=
  match i with
  | .lsta o => k.tagShadow (etShape o (bytesAt block 17 1)).tag
  | .lswap _ =>
    let a := k.planeA.tag
    { k with planeA := { k.planeA with tag := k.planeS.tag }, planeS := { k.planeS with tag := a } }
  | .lzero o => k.onTile o.tile fun t => { t with int := o.fmt? == some .int32 }
  | _ => k

end Sys2Proof.Machine
end

