-- ==== Sys2Proof/Machine/Spline.lean ====
section
/-! DEFINITION. Coving mode: knot registers, coefficient planes, spline cells and the spline commands (R335 to R355). -/

namespace Sys2Proof.Machine

/-! Knot registers (R335, R336). -/

def knXlo (k : BitVec 128) : FP := fpDecode .fp32 (k.extractLsb' 0 32).toNat
def knInvh (k : BitVec 128) : FP := fpDecode .fp32 (k.extractLsb' 32 32).toNat
def knG (k : BitVec 128) : Nat := (k.extractLsb' 64 4).toNat
def knOrd (k : BitVec 128) : Nat := (k.extractLsb' 68 2).toNat
def knRule (k : BitVec 128) : Nat := (k.extractLsb' 70 2).toNat
def knBase (k : BitVec 128) : Nat := (k.extractLsb' 72 2).toNat

/-- A finite value. -/
def fpFinite : FP → Bool
  | .fin _ _ _ => true
  | _ => false

/-- May a knot register hold an image: idle, or valid (R336). -/
def knotOk (k : BitVec 128) : Bool :=
  k == 0 ||
  (fpFinite (knXlo k) && fpFinite (knInvh k) && fp0.lt (knInvh k) && knG k != 0 && knOrd k != 0 && decide (knRule k < 3) && decide (knBase k < 3) &&
   decide (knG k + knOrd k ≤ 16) && (k.extractLsb' 74 54) == 0)

/-- The 32 knot registers of a bank, numbered from 0. -/
def Core.bank (c : Core) (b : Nat) : FMap (BitVec 128) :=
  (List.range 32).filterMap fun i => match c.knots.find? (32 * b + i) with
    | some k => some (i, k)
    | none => none

/-- Image n of a knot block. -/
def knotImage (x n : Nat) : BitVec 128 := BitVec.ofNat 128 (x / 2 ^ (128 * n))

/-! Position, basis and cell value (R338 to R341). -/

/-- Where an input stands to its grid (R338). -/
inductive Side where
  | nan | low | high | inside
deriving DecidableEq, Repr

/-- The outcome of Position: its side, whether the spline takes part, the segment and the local coordinate. -/
structure GridPos where
  side : Side
  on : Bool
  seg : Nat
  u : FP
deriving DecidableEq, Repr

/-- The integer part of a value that is not negative. -/
def fpFloor : FP → Nat
  | .fin false m e => if 0 ≤ e then m * 2 ^ e.toNat else m / 2 ^ (-e).toNat
  | _ => 0

/-- Position of R338. -/
def gridPos (k : BitVec 128) (x : FP) : GridPos :=
  let g : Int := knG k
  let t := rne ((FP.add .rne x (knXlo k).neg).mul (knInvh k))
  if t.isNaN then { side := .nan, on := false, seg := 0, u := fp0 } else
  let side := if t.lt fp0 then .low else if (FP.ofInt g).lt t || (knRule k == 2 && t.eq (FP.ofInt g)) then .high else .inside
  if knRule k = 2 ∧ side ≠ .inside then { side := side, on := false, seg := 0, u := fp0 } else
  let tc := if t.lt fp0 then fp0 else if (FP.ofInt g).lt t then FP.ofInt g else t
  let seg := min (fpFloor tc) (knG k - 1)
  let u := if knRule k = 1 then add32 t (FP.ofInt (-(seg : Int))) else FP.add .rne tc (FP.ofInt (-(seg : Int)))
  { side := side, on := true, seg := seg, u := u }

/-- 0.16666667 of R340. -/
def sixth : FP := dec false 16666667 8

/-- A small integer or half as a value. -/
def fpInt (n : Int) : FP := FP.ofInt n

/-- 0.5. -/
def fpHalf : FP := .fin false 1 (-1)

/-- Basis of R340. -/
def basis (k : Nat) (u : FP) : List FP :=
  let v := add32 fp1 u.neg
  match k with
  | 1 => [v, u]
  | 2 =>
    let b0 := mul32 fpHalf (mul32 v v)
    let b2 := mul32 fpHalf (mul32 u u)
    [b0, add32 (add32 fp1 b0.neg) b2.neg, b2]
  | _ =>
    let u2 := mul32 u u
    let u3 := mul32 u2 u
    let v3 := mul32 (mul32 v v) v
    let b0 := mul32 v3 sixth
    let b3 := mul32 u3 sixth
    let b1 := mul32 (fma32 (fpInt 3) u3 (fma32 (fpInt (-6)) u2 (fpInt 4))) sixth
    [b0, b1, add32 (add32 (add32 fp1 b0.neg) b1.neg) b3.neg, b3]

/-- DBasis of R340. -/
def dbasis (k : Nat) (u h : FP) : List FP :=
  let v := add32 fp1 u.neg
  let d : List FP := match k with
    | 1 => [fp1.neg, fp1]
    | 2 => [v.neg, add32 v u.neg, u]
    | _ =>
      let u2 := mul32 u u
      let v2 := mul32 v v
      let d0 := mul32 fpHalf.neg v2
      let d3 := mul32 fpHalf u2
      let d1 := fma32 (.fin false 3 (-1)) u2 (mul32 (fpInt (-2)) u)
      [d0, d1, add32 (add32 d0.neg d1.neg) d3.neg, d3]
  d.map fun x => mul32 x h

/-- Coefficient slot m of a cell (R337). -/
def cellC (cell m : Nat) : FP := tapDecode 8 (cell / 2 ^ (8 * m) % 256)

/-- The base weight of a cell. -/
def cellW (cell : Nat) : FP := fpDecode .bf16 (cell / 2 ^ 128 % 2 ^ 16)

/-- The scale of a cell. -/
def cellSc (cell : Nat) : S12 := s12Decode (cell / 2 ^ 144 % 2 ^ 12)

/-- Cell (i, j) of a plane (R337). -/
def cellAt (p : Mem) (i j : Nat) : Nat := p.readNat (20 * (256 * i + j)) 20

/-- The exact sum of coefficients times basis values, and whether a coefficient is NaR (R340). -/
def slotSum (cell seg : Nat) (bs : List FP) : FP × Bool :=
  bs.zipIdx.foldl (fun (a : FP × Bool) p =>
    let c := cellC cell (seg + p.2)
    (FP.add .rne a.1 (c.mul p.1), a.2 || c.isNaN)) (fp0, false)

/-- The spline part under a cell's scale: S times g rounded once (R340), and whether an operand was NaN. -/
def slotScaled (cell seg : Nat) (bs : List FP) : FP × Bool :=
  let S := slotSum cell seg bs
  match cellSc cell with
  | .nan => (.nan, true)
  | .zero => if S.1.isNaN then (.nan, S.2) else (fp0, S.2)
  | .val g => (rne (S.1.mul g), S.2)

/-- The base function (R340). -/
def baseFn (k : BitVec 128) (x : FP) : FP :=
  match knBase k with
  | 1 => silu32 x
  | 2 => x
  | _ => fp0

/-- CellValue of R340. -/
def cellValue (cell : Nat) (k : BitVec 128) (p : GridPos) (x : FP) : Term :=
  if p.side = .nan then { val := .nan, made := !x.isNaN } else
  let y := if p.on then slotScaled cell p.seg (basis (knOrd k) p.u) else (fp0, false)
  let r := if knBase k = 0 then y.1 else rne (FP.add .rne y.1 ((cellW cell).mul (baseFn k x)))
  { val := r, made := r.isNaN && !x.isNaN && !y.2 }

/-- The derivative of a cell (R350). -/
def cellSlope (cell : Nat) (k : BitVec 128) (p : GridPos) (x : FP) : Term :=
  if p.side = .nan then { val := .nan, made := !x.isNaN } else
  let b := match knBase k with
    | 1 => dsilu32 x
    | 2 => fp1
    | _ => fp0
  let g := if !p.on || (knRule k == 0 && p.side != .inside) then (fp0, false) else slotScaled cell p.seg (dbasis (knOrd k) p.u (knInvh k))
  let r := if knBase k = 0 then g.1 else rne (FP.add .rne g.1 ((cellW cell).mul b))
  { val := r, made := r.isNaN && !x.isNaN && !g.2 }

/-- Element i of a row of inputs (R348). -/
def inputElt (f : Fmt) (row i : Nat) : FP := fpDecode f (row / 2 ^ (f.bits * i) % 2 ^ f.bits)

/-- Pitch of a row of 32 inputs (R348). -/
def inputPitch (f : Fmt) : Nat := 32 * f.bits / 8

/-- The rows of a bank that are not idle, in order. -/
def busyRows (kn : FMap (BitVec 128)) : List (Nat × BitVec 128) := kn.filter fun p => p.2 != 0

/-! Evaluation (R339, R341, R348). -/

/-- Add 1 to an out-of-grid counter, saturating (R339). -/
def oogCount (r : BitVec 128) (s : Side) : BitVec 128 :=
  let bump (lo : Nat) : BitVec 128 :=
    if (r.extractLsb' lo 32) = BitVec.allOnes 32 then r else r + BitVec.ofNat 128 (2 ^ lo)
  match s with
  | .low => bump 0
  | .high => bump 32
  | .nan => bump 64
  | .inside => r

/-- Element (r, j) of a tile after a stream row's cells (R341), and whether a cell made a NaN. -/
def spevColumn (plane : Mem) (rows : List (Nat × BitVec 128 × FP × GridPos)) (j : Nat) (old : BitVec 32) : BitVec 32 × Bool :=
  let x := rows.foldl (fun (a : FP × Bool) (p : Nat × BitVec 128 × FP × GridPos) =>
    let v := cellValue (cellAt plane p.1 j) p.2.1 p.2.2.2 p.2.2.1
    (rne (FP.add .rne a.1 v.val), a.2 || v.made)) (fpDecode .fp32 old.toNat, false)
  (BitVec.ofNat 32 (fpRound .fp32 .rne false x.1), x.2)

/-- Remember the lowest plane row off its grid (R354). -/
def Cmd.offGrid (c : Cmd) (rows : List (Nat × BitVec 128 × FP × GridPos)) : Cmd :=
  match rows.find? fun p => p.2.2.2.side != .inside with
  | none => c
  | some p => { c with low := if c.low = 0 then p.1 + 1 else min c.low (p.1 + 1) }

/-- Stream row r of an SPEV, once it has been read. -/
def State.spevRow (s : State) (q : Nat) (c : Cmd) (kn : FMap (BitVec 128)) (f : Fmt) (tile : Bool) (r row : Nat) : State :=
  let core := coreOf c.who
  let k := s.core core
  let rows := (busyRows kn).map fun (p : Nat × BitVec 128) => (p.1, p.2, inputElt f row p.1, gridPos p.2 (inputElt f row p.1))
  let t := (List.range 256).foldl (fun (a : Tile × Bool) j =>
    let e := spevColumn k.coefA rows j (a.1.elt r j)
    (a.1.setElt r j e.1, a.2 || e.2)) (k.tile tile, false)
  let oog := rows.foldl (fun (o : FMap (BitVec 128)) (p : Nat × BitVec 128 × FP × GridPos) => o.set p.1 (oogCount (o.get p.1 0) p.2.2.2.side)) k.oog
  let s := s.onCore core fun k => { k.onTile tile (fun _ => t.1) with oog := oog }
  let s := match s.findCmd q c.id with
    | some d => s.setCmd q (d.offGrid rows)
    | none => s
  (s.meter (leafOf c.who) 4 (256 * rows.length)).note q c.id 1 0 t.2

/-! Gradients (R350, R351). -/

/-- dx of plane row i, and whether a derivative is a NaN it made (R350). -/
def slopeRow (plane : Mem) (i : Nat) (k : BitVec 128) (x : FP) (dy : Nat) : FP × Bool :=
  let p := gridPos k x
  (List.range 256).foldl (fun (a : FP × Bool) j =>
    let e := inputElt .fp32 dy j
    let d := cellSlope (cellAt plane i j) k p x
    (rne (FP.add .rne a.1 (e.mul d.val)), a.2 || (d.made && !e.isNaN))) (fp0, false)

/-- An output row of SPDX: 32 FP32 words. -/
def spdxRow (plane : Mem) (kn : FMap (BitVec 128)) (f : Fmt) (row dy : Nat) : Nat × Bool :=
  let xs := (busyRows kn).map fun (p : Nat × BitVec 128) => (p.1, slopeRow plane p.1 p.2 (inputElt f row p.1) dy)
  let at_ (i : Nat) : Nat := match xs.find? fun p => p.1 == i with
    | some p => fpRound .fp32 .rne false p.2.1
    | none => 0
  (pack 32 at_ 32, xs.any fun p => p.2.2)

/-- A word added to: its offset in the gradient area, the term, and whether it is a NaN it made. -/
structure Accum where
  off : Nat
  term : FP
  made : Bool
deriving DecidableEq, Repr

/-- The terms of one cell for a stream row (R351). -/
def gradTerms (cell : Nat) (k : BitVec 128) (x e : FP) (slot : Nat → Nat) (base : Nat) : List Accum :=
  let p := gridPos k x
  if p.side = .nan then
    (List.range (knG k + knOrd k)).map (fun m => { off := slot m, term := .nan, made := false }) ++
    (if knBase k = 0 then [] else [{ off := base, term := .nan, made := false }])
  else
    (if !p.on then [] else
      let bs := (basis (knOrd k) p.u).zipIdx
      match cellSc cell with
      | .zero => []
      | .nan => bs.map fun b => { off := slot (p.seg + b.2), term := .nan, made := false }
      | .val g => bs.map fun b =>
          let t := (e.mul b.1).mul g
          { off := slot (p.seg + b.2), term := t, made := t.isNaN && !e.isNaN && !x.isNaN }) ++
    (if knBase k = 0 then [] else
      let t := e.mul (baseFn k x)
      [{ off := base, term := t, made := t.isNaN && !e.isNaN && !x.isNaN }])

/-- Add a term to a word of local store. -/
def State.accumulate (s : State) (core a : Nat) (x : FP) : State :=
  let old := fpDecode .fp32 ((s.core core).local_.readNat a 4)
  s.localPut core (a + ·) 4 (fpRound .fp32 .rne false (rne (FP.add .rne old x))) (2 ^ 32 - 1)

/-- Every term of a stream row of SPGR, in ascending plane rows and columns (R351). -/
def rowTerms (plane : Mem) (kn : FMap (BitVec 128)) (f : Fmt) (row dy grad row0 nrow : Nat) : List Accum :=
  ((busyRows kn).filter fun p => decide (row0 ≤ p.1) && decide (p.1 < row0 + nrow)).flatMap fun (p : Nat × BitVec 128) =>
    (List.range 256).flatMap fun j =>
      gradTerms (cellAt plane p.1 j) p.2 (inputElt f row p.1) (inputElt .fp32 dy j)
        (fun m => grad + 16384 * (p.1 - row0) + 64 * j + 4 * m) (grad + 16384 * nrow + 1024 * (p.1 - row0) + 4 * j)

/-! Refinement (R352). -/

/-- The refined knot image: G doubled, INVH doubled. -/
def knotRefined (k : BitVec 128) : BitVec 128 :=
  let inv := fpRound .fp32 .rne false ((knInvh k).mul (fpInt 2))
  (k.extractLsb' 68 60) ++ BitVec.ofNat 4 (2 * knG k) ++ BitVec.ofNat 32 inv ++ (k.extractLsb' 0 32)

/-- May a row be refined (R352). -/
def refinable (k : BitVec 128) : Bool :=
  decide (2 * knG k + knOrd k ≤ 16) && fpFinite (rne ((knInvh k).mul (fpInt 2)))

/-- A weighted exact sum of coefficients over 2^s, rounded (R352); NaN if one of them is. -/
def weighted (cell : Nat) (s : Nat) (l : List (Nat × Nat)) : FP :=
  rne ((l.foldl (fun a p => FP.add .rne a ((cellC cell p.2).mul (fpInt p.1))) fp0).mul (.fin false 1 (-(s : Int))))

/-- New coefficient n of order k (R352). -/
def refined (cell k n : Nat) : FP :=
  let p := n / 2
  match k, n % 2 with
  | 1, 0 => cellC cell p
  | 1, _ => weighted cell 1 [(1, p), (1, p + 1)]
  | 2, 0 => weighted cell 2 [(3, p), (1, p + 1)]
  | 2, _ => weighted cell 2 [(1, p), (3, p + 1)]
  | _, 0 => weighted cell 1 [(1, p), (1, p + 1)]
  | _, _ => weighted cell 3 [(1, p), (6, p + 1), (1, p + 2)]

/-- The exponent of the largest magnitude of some values, none of them 0 or NaN counted. -/
def topExp (l : List FP) : Option Int :=
  l.foldl (fun a x => match x with
    | .fin _ m e => if m = 0 then a else match a with
      | none => some (e + Nat.log2 m)
      | some b => some (max b (e + Nat.log2 m))
    | _ => a) none

/-- A value times 2^-q. -/
def fpShift (x : FP) (q : Int) : FP :=
  match x with
  | .fin s m e => .fin s m (e - q)
  | x => x

/-- A refined cell, requantised (R352). -/
def refineCell (cell : Nat) (k : BitVec 128) : Nat :=
  let n := 2 * knG k + knOrd k
  let cs := (List.range n).map (refined cell (knOrd k))
  let sc := cell / 2 ^ 144 % 2 ^ 12
  let e : Int := (sc / 16 : Nat)
  let q : Int := match topExp cs with
    | none => 0
    | some m => if e = 0 ∨ e = 255 then 0 else min (max (m - 1) (1 - e)) (254 - e)
  let slots := pack 8 (fun i => if i < n then (tapEncode 8 (fpShift (cs.getD i fp0) q)).1 else 0) 16
  slots + cell / 2 ^ 128 % 2 ^ 16 * 2 ^ 128 + ((e + q).toNat * 16 + sc % 16) * 2 ^ 144

/-- Plane row i of the shadow plane after SPREF (R352). -/
def spreffedRow (plane : Mem) (kn : FMap (BitVec 128)) (mask i : Nat) : Nat :=
  let k := kn.get i 0
  pack 160 (fun j => let c := cellAt plane i j
                     if mask.testBit i && k != 0 then refineCell c k else c) 256

/-! Commands (R342 to R352). -/

/-- The write of a bank of knot registers from a block's images. -/
def Core.setKnots (c : Core) (b x : Nat) : Core :=
  { c with knots := (List.range 32).foldl (fun m n => m.set (32 * b + n) (knotImage x n)) c.knots }

/-- KSET completes failed (R344). -/
def State.ksetFailed (s : State) (o : Et) : State :=
  let leaf := leafOf s.cur
  let id := (s.leaf leaf).cmdSeq
  let pc := s.me.pc
  let s := s.onLeaf leaf fun l => { l with cmdSeq := id + 1 }
  let s := s.onMe fun t => { t with issued := t.issued ++ [id], tks := (if o.tp = 0 then t.tks else t.tks.set o.tp.toNat (.pending id)) }
  let s := s.onMyCore fun c => { c.record 5 (s.cur % 4) fTOKEN.toNat pc with tstat := c.tstat.failed fTOKEN }
  s.endToken s.cur id o.tp.toNat pc true

/-- KSET (R344). -/
def planKset (o : Et) (s : State) : Plan :=
  let deps := s.me.depsOf o
  if (s.me.rdTk o.tp.toNat).isPending then .stall s
  else if !deps.1.isEmpty then .stall s
  else withBlock s o 512 fun _ x =>
    .need ((List.range 32).all fun n => knotOk (knotImage x n)) BOUNDS <|
    .go fun s =>
      if deps.2 then s.ksetFailed o
      else (s.onMyCore fun c => c.setKnots (o.mode.toNat % 2) x).onMe fun t => { t with tks := if o.tp = 0 then t.tks else t.tks.set o.tp.toNat .complete }

/-- KSET issued alone. -/
def execKset (o : Et) (s : State) : Host.Outcome State Fault Refusal :=
  alone (.kset o) (planKset o) s

/-- KGET (R345): the destination's offset is the command's operand. -/
def planKget (o : Et) (s : State) : Plan :=
  let q := coreOf s.cur
  let a := s.me.rdS o.sa
  engineIssue s q o <|
  .needAt (a.toNat % 64 == 0) ALIGN a <|
  .need (decide (a.toNat + 512 ≤ localSize)) BOUNDS <|
  enter q (.kget o) o a 0 ((s.core q).bank (o.mode.toNat % 2))

/-- KGET issued alone. -/
def execKget (o : Et) (s : State) : Host.Outcome State Fault Refusal :=
  alone (.kget o) (planKget o) s

/-- SPLD (R346). -/
def planSpld (o : Et) (s : State) : Plan :=
  let q := coreOf s.cur
  engineIssue s q o <| withBlock s o 64 fun _ x =>
    let b := blockOf x
    .need (unused b [(16, 48)]) BOUNDS <|
    locCheck s.me b 0 163840 (fun z => 163840 % z == 0) <|
    enter q (.spld o) o 0 b []

/-- SPLD issued alone. -/
def execSpld (o : Et) (s : State) : Host.Outcome State Fault Refusal :=
  alone (.spld o) (planSpld o) s

/-- Exchange the knot banks (R336, R347). -/
def Core.swapKnots (c : Core) : Core :=
  { c with knots := (List.range 32).foldl (fun m i => (m.set i (c.knots.get (32 + i) 0)).set (32 + i) (c.knots.get i 0)) c.knots }

/-- SPSWAP (R347): the knots change at commit. -/
def planSpswap (o : Et) (s : State) : Plan :=
  let q := coreOf s.cur
  engineIssue s q o <| .go fun s => (s.enqueue q (.spswap o) o 0 0 []).onMyCore Core.swapKnots

/-- SPSWAP issued alone. -/
def execSpswap (o : Et) (s : State) : Host.Outcome State Fault Refusal :=
  alone (.spswap o) (planSpswap o) s

/-- A row count of a block. -/
def rowsOk (n : Nat) : Bool := decide (1 ≤ n) && decide (n ≤ 128)

/-- SPEV (R348). -/
def planSpev (o : Et) (s : State) : Plan :=
  let q := coreOf s.cur
  let pitch := inputPitch (o.fmt?.getD .fp32)
  engineIssue s q o <| withBlock s o 64 fun _ x =>
    let b := blockOf x
    .need (rowsOk (bytesAt b 16 1) && unused b [(17, 47)]) BOUNDS <|
    locCheck s.me b 0 (bytesAt b 16 1 * pitch) (fun z => z % pitch == 0) <|
    tagCheck s (fun _ int => !int) o.tile <|
    enter q (.spev o) o 0 b ((s.core q).bank 0)

/-- SPEV issued alone. -/
def execSpev (o : Et) (s : State) : Host.Outcome State Fault Refusal :=
  alone (.spev o) (planSpev o) s

/-- The checks of a spline block common to SPDX and SPGR (R349). -/
def splineBlock (s : State) (o : Et) (b : BitVec 1024) (p : Plan) : Plan :=
  let rows := bytesAt b 48 1
  let pitch := inputPitch (o.fmt?.getD .fp32)
  .need (rowsOk rows && unused b [(51, 5)]) BOUNDS <|
  locCheck s.me b 0 (rows * pitch) (fun z => z % pitch == 0) <|
  locCheck s.me b 16 (rows * 1024) (fun z => z % 1024 == 0) p

/-- SPDX (R349, R350). -/
def planSpdx (o : Et) (s : State) : Plan :=
  let q := coreOf s.cur
  engineIssue s q o <| withBlock s o 64 fun _ x =>
    let b := blockOf x
    splineBlock s o b <|
    .need (unused b [(49, 2), (56, 8)]) BOUNDS <|
    locCheck s.me b 32 (bytesAt b 48 1 * 128) (fun z => z % 128 == 0) <|
    enter q (.spdx o) o 0 b ((s.core q).bank 0)

/-- SPDX issued alone. -/
def execSpdx (o : Et) (s : State) : Host.Outcome State Fault Refusal :=
  alone (.spdx o) (planSpdx o) s

/-- SPGR (R349, R351). -/
def planSpgr (o : Et) (s : State) : Plan :=
  let q := coreOf s.cur
  engineIssue s q o <| withBlock s o 64 fun _ x =>
    let b := blockOf x
    let row0 := bytesAt b 49 1
    let nrow := bytesAt b 50 1
    let grad := bytesAt b 56 8
    splineBlock s o b <|
    .need (unused b [(32, 16)] && decide (row0 < 32) && decide (1 ≤ nrow) && decide (nrow ≤ 32) && decide (row0 + nrow ≤ 32) &&
      decide (grad + 17408 * nrow ≤ localSize)) BOUNDS <|
    .needAt (grad % 64 == 0) ALIGN (BitVec.ofNat 64 grad) <|
    enter q (.spgr o) o 0 b ((s.core q).bank 0)

/-- SPGR issued alone. -/
def execSpgr (o : Et) (s : State) : Host.Outcome State Fault Refusal :=
  alone (.spgr o) (planSpgr o) s

/-- The shadow knots after SPREF (R352). -/
def Core.refineKnots (c : Core) (mask : Nat) : Core :=
  { c with knots := (List.range 32).foldl (fun m i =>
      let k := c.knots.get i 0
      m.set (32 + i) (if mask.testBit i && k != 0 then knotRefined k else k)) c.knots }

/-- SPREF (R352): the row mask is the command's operand. -/
def planSpref (o : Et) (s : State) : Plan :=
  let q := coreOf s.cur
  let mask := (s.me.rdS o.sa).toNat
  engineIssue s q o <|
  .need (decide (mask < 2 ^ 32) && ((s.core q).bank 0).all fun p => !mask.testBit p.1 || p.2 == 0 || refinable p.2) BOUNDS <|
  .go fun s => (s.enqueue q (.spref o) o (BitVec.ofNat 64 mask) 0 ((s.core q).bank 0)).onMyCore fun c => c.refineKnots mask

/-- SPREF issued alone. -/
def execSpref (o : Et) (s : State) : Host.Outcome State Fault Refusal :=
  alone (.spref o) (planSpref o) s

/-! Steps of the commands (R353). -/

/-- Exchange the coefficient planes (R347). -/
def Core.swapCoefs (c : Core) : Core := { c with coefA := c.coefS, coefS := c.coefA }

/-- KGET's one step (R345). -/
def State.stepKget (s : State) (q : Nat) (c : Cmd) (o : Et) : Got :=
  let core := coreOf c.who
  let image (i : Nat) : Nat := if o.mode.getLsbD 1 then ((s.core core).oog.get i 0).toNat else (c.knots.get i 0).toNat
  (s.nearWrite q c c.base.toNat 512 (pack 128 image 32)).andThen fun s _ =>
    (if o.mode.getLsbD 2 then s.onCore core fun k => { k with oog := [] } else s).stepped q c true

/-- The bytes of a plane's image at an offset as they are written: bits [15:12] of each cell's SC are zero (R337). -/
def imageBytes (off n x : Nat) : Nat :=
  pack 8 (fun i => let b := x / 2 ^ (8 * i) % 256
                   if (off + i) % 20 = 19 then b % 16 else b) n

/-- A step of SPLD: one 64-byte unit (R346). -/
def State.stepSpld (s : State) (q : Nat) (c : Cmd) : Got :=
  let l := locAt c.block 0
  let last := decide (2560 ≤ c.step + 1)
  (s.peek q c l (64 * c.step) 64).andThen fun s x =>
    ((s.onCore (coreOf c.who) fun k => { k with coefS := k.coefS.writeNat (64 * c.step) 64 (imageBytes (64 * c.step) 64 x) }).took c l (64 * c.step) 64 last).stepped q c last

/-- A step of SPEV: one stream row (R348). -/
def State.stepSpev (s : State) (q : Nat) (c : Cmd) (o : Et) : Got :=
  let f := o.fmt?.getD .fp32
  let l := locAt c.block 0
  let n := inputPitch f
  let last := decide (bytesAt c.block 16 1 ≤ c.step + 1)
  (s.peek q c l (c.step * n) n).andThen fun s x =>
    (((s.spevRow q c c.knots f o.tile c.step x).took c l (c.step * n) n last).arrayRow q c last).stepped q c last

/-- A step of SPDX: one stream row, fully written (R350). -/
def State.stepSpdx (s : State) (q : Nat) (c : Cmd) (o : Et) : Got :=
  let f := o.fmt?.getD .fp32
  let r := c.step
  let n := inputPitch f
  let x := locAt c.block 0
  let y := locAt c.block 16
  let z := locAt c.block 32
  let last := decide (bytesAt c.block 48 1 ≤ r + 1)
  (s.peek q c x (r * n) n).andThen fun s row => (s.peek q c y (r * 1024) 1024).andThen fun s dy =>
    let e := spdxRow (s.core (coreOf c.who)).coefA c.knots f row dy
    (s.put q c z (r * 128) 128 e.1).andThen fun s _ =>
      ((((s.took c x (r * n) n last).took c y (r * 1024) 1024 last).gave c z (r * 128) 128 last).note q c.id 1 0 e.2).stepped q c last

/-- A step of SPGR: one stream row, fully accumulated (R351). -/
def State.stepSpgr (s : State) (q : Nat) (c : Cmd) (o : Et) : Got :=
  let f := o.fmt?.getD .fp32
  let r := c.step
  let n := inputPitch f
  let x := locAt c.block 0
  let y := locAt c.block 16
  let core := coreOf c.who
  let nrow := bytesAt c.block 50 1
  let grad := bytesAt c.block 56 8
  let last := decide (bytesAt c.block 48 1 ≤ r + 1)
  (s.peek q c x (r * n) n).andThen fun s row => (s.peek q c y (r * 1024) 1024).andThen fun s dy =>
    (s.nearRead q c grad (17408 * nrow)).andThen fun s _ =>
      let ts := rowTerms (s.core core).coefA c.knots f row dy grad (bytesAt c.block 49 1) nrow
      let s := ts.foldl (fun s a => s.accumulate core a.off a.term) s
      (((s.took c x (r * n) n last).took c y (r * 1024) 1024 last).note q c.id 1 0 (ts.any Accum.made)).stepped q c last

/-- A step of SPREF: one plane row of the shadow plane (R352). -/
def State.stepSpref (s : State) (q : Nat) (c : Cmd) : Got :=
  let s := s.onCore (coreOf c.who) fun k =>
    { k with coefS := k.coefS.writeNat (5120 * c.step) 5120 (spreffedRow k.coefA c.knots c.base.toNat c.step) }
  s.stepped q c (decide (32 ≤ c.step + 1))

end Sys2Proof.Machine
end

