-- ==== Sys2Proof/Machine/Trowel.lean ====
section
/-! DEFINITION. The Trowel: its table, nests and status word (R306 to R310, R323 to R325). -/

namespace Sys2Proof.Machine

/-! The table (R306). -/

/-- A field of a Trowel table. -/
def tabU (t : Mem) (off n : Nat) : Nat := t.readNat off n

/-- A signed 32-bit field. -/
def tabS (t : Mem) (off : Nat) : Int := (BitVec.ofNat 32 (t.readNat off 4)).toInt

def tabCount (t : Mem) (l : Nat) : Nat := tabU t (32 * l) 4
def tabStep (t : Mem) (l : Nat) : Nat := tabU t (32 * l + 4) 1
def tabExit (t : Mem) (l : Nat) : Nat := tabU t (32 * l + 5) 1
def tabStride (t : Mem) (l n : Nat) : Int := tabS t (32 * l + 8 + 4 * n)
def tabBase (t : Mem) (n : Nat) : Nat := tabU t (192 + 8 * n) 8
def tabBody (t : Mem) : Nat := tabU t 224 1
def tabFmt (t : Mem) : Option Fmt := fmtOfCode (tabU t 225 1)
def tabRows (t : Mem) : Nat := tabU t 226 1
def tabTile0 (t : Mem) : Nat := tabU t 227 1
def tabKeep (t : Mem) : Nat := tabU t 228 1
def tabEpi (t : Mem) : Nat := tabU t 229 1
def tabScaled (t : Mem) : Nat := tabU t 230 1
def tabSpace (t : Mem) : Nat := tabU t 231 1

/-- Steps of a nest. -/
def tabSteps (t : Mem) : Nat := (List.range 6).foldl (fun a l => a * tabCount t l) 1

/-- A level record within its limits. -/
def levelOk (t : Mem) (l : Nat) : Bool :=
  decide (1 ≤ tabCount t l) && decide (tabCount t l ≤ 65536) && decide (tabStep t l < 32) && decide (tabExit t l < 32) &&
  tabU t (32 * l + 6) 2 == 0 && tabU t (32 * l + 24) 8 == 0 && ((List.range 4).all fun n => tabStride t l n % 64 == 0)

/-- The body's format, KEEP and SCALED agree (R306, R312). -/
def bodyOk (t : Mem) : Bool :=
  match tabBody t with
  | 0 => (tabFmt t).isSome && tabKeep t == 0
  | 1 => lathOk (tabFmt t) (tabScaled t == 1) && tabKeep t == 0
  | 2 => lathOk (tabFmt t) (tabScaled t == 1) && (tabKeep t == 1 || tabKeep t == 2 || tabKeep t == 4)
  | 3 => spFmt (tabFmt t) && tabKeep t == 0 && tabScaled t == 0
  | _ => false

/-- A valid table (R306). -/
def tableOk (t : Mem) : Bool :=
  ((List.range 6).all (levelOk t)) && decide (tabSteps t ≤ 2 ^ 32 - 1) && bodyOk t && rowsOk (tabRows t) && decide (tabTile0 t < 2) &&
  decide (tabEpi t < 64) && decide (tabScaled t < 2) && decide (tabSpace t < 16) && tabU t 232 24 == 0

/-! The odometer (R307). -/

/-- The index of level l at step n. -/
def nestIndex (t : Mem) (n l : Nat) : Nat := n / ((List.range l).foldl (fun a k => a * tabCount t k) 1) % tabCount t l

/-- Generator g at step n, as a place in local store or virtual memory: the sum is exact (R8), and one below 0 is no address, as
one beyond the end is none. -/
def nestLoc (t : Mem) (n g : Nat) : Loc :=
  let a : Int := (List.range 6).foldl (fun (a : Int) l => a + nestIndex t n l * tabStride t l g) (tabBase t g)
  { addr := if a < 0 then 2 ^ 64 + (a % 2 ^ 64).toNat else a.toNat, kind := if (tabSpace t).testBit g then 2 else 0, cbn := 0 }

/-- The actions of one level's record, in ascending bit order. -/
def actionBits (b : Nat) : List Nat := (List.range 5).filter b.testBit

/-- The actions at the end of step n: levels from 0 until one that has not ended. -/
def nestActions (t : Mem) (n : Nat) : Nat → List Nat
  | 0 => []
  | k + 1 =>
    let l := 5 - k
    if nestIndex t n l < tabCount t l - 1 then actionBits (tabStep t l) else actionBits (tabExit t l) ++ nestActions t n k

/-- The shape of a nest's products and LSTAs. -/
def nestShape (t : Mem) : Shape :=
  { fmt := (tabFmt t).getD .raw, scaled := tabScaled t == 1, keep := if tabKeep t = 0 then 8 else tabKeep t }

/-! Commands (R323 to R325). -/

/-- TCFG and TCFGD: the table's offset is the command's operand. -/
def tablePlan (i : Instr) (o : Et) (n : Nat) (s : State) : Plan :=
  let q := coreOf s.cur
  let a := s.me.rdS o.sa
  engineIssue s q o <|
  .needAt (a.toNat % 64 == 0) ALIGN a <|
  .need (decide (a.toNat + n ≤ localSize)) BOUNDS <|
  enter q i o a 0 []

/-- TCFG (R323). -/
def planTcfg (o : Et) (s : State) : Plan := tablePlan (.tcfg o) o 256 s

/-- TCFG issued alone. -/
def execTcfg (o : Et) (s : State) : Host.Outcome State Fault Refusal :=
  alone (.tcfg o) (planTcfg o) s

/-- Bytes of a difference with its head (R323). -/
def diffBytes (head : Nat) : Nat := 8 + 8 * ((List.range 32).filter head.testBit).length

/-- TCFGD (R323): the difference lies in local store. Where no consumed token is pending or failed its head is read at the bundle
for that check; else its MASK is not known there, and a difference beyond the end fails the command (log 27). -/
def planTcfgd (o : Et) (s : State) : Plan :=
  if s.me.depsOf o ≠ ([], false) then tablePlan (.tcfgd o) o 8 s
  else engineIssue s (coreOf s.cur) o <| withBlock s o 8 fun _ head =>
    .need (decide ((s.me.rdS o.sa).toNat + diffBytes head ≤ localSize)) BOUNDS <| enter (coreOf s.cur) (.tcfgd o) o (s.me.rdS o.sa) 0 []

/-- TCFGD issued alone. -/
def execTcfgd (o : Et) (s : State) : Host.Outcome State Fault Refusal :=
  alone (.tcfgd o) (planTcfgd o) s

/-- TGO (R324). -/
def planTgo (o : Et) (s : State) : Plan :=
  let q := coreOf s.cur
  engineIssue s q o <| enter q (.tgo o) o 0 0 ((s.core q).bank 0)

/-- TGO issued alone. -/
def execTgo (o : Et) (s : State) : Host.Outcome State Fault Refusal :=
  alone (.tgo o) (planTgo o) s

/-- The Trowel status word (R308). -/
def TrowelStat.word (t : TrowelStat) : W64 :=
  BitVec.ofNat 64 ((if t.go then 1 else 0) + (if t.park then 2 else 0) + (if t.fail then 4 else 0) + t.fcause.toNat * 2 ^ 8 +
    t.row.toNat * 2 ^ 16 + t.step.toNat * 2 ^ 32)

/-- TSTAT (R325). -/
def planTstat (o : Et) (s : State) : Plan :=
  let x := (s.core (coreOf s.cur)).tstat.word
  .reg fun t => t.wrS o.sa x

/-- TSTAT issued alone. -/
def execTstat (o : Et) (s : State) : Host.Outcome State Fault Refusal :=
  alone (.tstat o) (planTstat o) s

/-! Steps. -/

/-- TCFG's one step. -/
def State.stepTcfg (s : State) (q : Nat) (c : Cmd) : Got :=
  (s.nearRead q c c.base.toNat 256).andThen fun s x =>
    (s.onCore (coreOf c.who) fun k => { k with trowelS := k.trowelS.writeNat 0 256 x }).stepped q c true

/-- The shadow table with a difference's words in place (R323). -/
def patched (t : Mem) (mask x : Nat) : Mem :=
  (((List.range 32).filter mask.testBit).zipIdx).foldl (fun t p => t.writeNat (8 * p.1) 8 (x / 2 ^ (64 * p.2) % 2 ^ 64)) t

/-- TCFGD's one step. -/
def State.stepTcfgd (s : State) (q : Nat) (c : Cmd) : Got :=
  let a := c.base.toNat
  (s.nearRead q c a 8).andThen fun s head =>
    if head / 2 ^ 32 ≠ 0 then .fail s fTABLE else
    if localSize < a + diffBytes head then .fail s fTABLE else
    (s.nearRead q c (a + 8) (diffBytes head - 8)).andThen fun s x =>
      (s.onCore (coreOf c.who) fun k => { k with trowelS := patched k.trowelS head x }).stepped q c true

/-- A nest begins: the shadow table becomes active, FAIL clears and GO sets, with no step of this nest finished; a table that is
invalid fails it before its first step (R306, R308, R309). -/
def State.beginNest (s : State) (q : Nat) (c : Cmd) : Got :=
  let core := coreOf c.who
  let s := s.onCore core fun k => { k with trowelA := k.trowelS, tstat := { k.tstat with go := true, park := false, fail := false, row := 0, step := 0 } }
  let t := (s.core core).trowelA
  if !tableOk t then .fail s fTABLE else .ok (s.setCmd q { c with tile := tabTile0 t == 1 }) 0

/-- A nest moves on within a step; the vector block of a LEPI action is forgotten with the action. -/
def State.nestAt (s : State) (q : Nat) (c : Cmd) (row act : Nat) : Got :=
  let s := s.forget (leafOf c.who) (c.party q)
  let d := (s.findCmd q c.id).getD c
  .ok (s.setCmd q { d with row := row, act := act, table := if act = c.act then d.table else [] }) 0

/-- The row of a nest's body step, as the status word shows it. -/
def State.nestRow (s : State) (core r : Nat) : State := s.onCore core fun k => { k with tstat := { k.tstat with row := BitVec.ofNat 8 r } }

/-- A nest's step fails with TAG, and leaves its record (R308, R333). -/
def State.nestTag (s : State) (q : Nat) (c : Cmd) : Got := .fail (s.note q c.id 4 0 true) fTAG

/-- One row of the body of a nest's step. -/
def State.nestBody (s : State) (q : Nat) (c : Cmd) (t : Mem) : Got :=
  let core := coreOf c.who
  let k := s.core core
  let l := nestLoc t c.step 0
  let done := decide (tabRows t ≤ c.row + 1)
  let next (s : State) : Got :=
    let s := s.arrayRow q c done
    if done then (s.nestRow core 0).nestAt q c 0 1 else (s.nestRow core (c.row + 1)).nestAt q c (c.row + 1) 0
  if tabBody t = 0 then s.nestAt q c 0 1
  else if tabBody t = 3 then
    let f := (tabFmt t).getD .fp32
    let n := inputPitch f
    if (k.tile c.tile).int then s.nestTag q c else
    (s.peek q c l (c.row * n) n).andThen fun s x => next ((s.spevRow q c c.knots f c.tile c.row x).took c l (c.row * n) n done)
  else
    let p := nestShape t
    if k.planeA.tag != p.tag || (k.tile c.tile).int != intResult p.fmt p.scaled then s.nestTag q c else
    (s.peek q c l (c.row * p.pitch) p.rowBytes).andThen fun s x =>
      next ((s.productRow q c p c.tile c.row x).took c l (c.row * p.pitch) p.pitch done)

/-- The vector block of a nest's LEPI as the command keeps it: a 1 after it says that it has been read. -/
def keptBlock (x : Nat) : Mem := Mem.writeNat [] 0 2049 (x + 2 ^ 16384)

/-- The LEPI action of a nest: it begins once the body's rows have landed (R302), and its vector block is read once (R303). -/
def State.nestLepi (s : State) (q : Nat) (c : Cmd) (t : Mem) : Got :=
  let mode := tabEpi t
  let l := nestLoc t c.step 2
  let done := decide (tabRows t ≤ c.row + 1)
  let next (s : State) : Got := if done then s.nestAt q c 0 (c.act + 1) else s.nestAt q c (c.row + 1) c.act
  if (s.leaf (leafOf c.who)).clk < c.landAt then .wait s
  else if epiAff mode = true ∧ c.table = [] then
    (s.peek q c (nestLoc t c.step 3) 0 2048).andThen fun s x =>
      .ok ((s.forget (leafOf c.who) (c.party q)).setCmd q { (s.findCmd q c.id).getD c with table := keptBlock x }) 0
  else s.epilogueRow q c l mode c.tile c.row done next

/-- The LSTA action of a nest: one 64-byte unit. -/
def State.nestLsta (s : State) (q : Nat) (c : Cmd) (t : Mem) : Got :=
  let p := nestShape t
  let core := coreOf c.who
  let l := nestLoc t c.step 1
  (s.peek q c l (64 * c.row) 64).andThen fun s x =>
    let s := (s.onCore core fun k => k.tagShadow p.tag).planeUnit core p c.row x
    let s := s.took c l (64 * c.row) 64 false
    if p.image ≤ 64 * (c.row + 1) then s.nestAt q c 0 (c.act + 1) else s.nestAt q c (c.row + 1) c.act

/-- A step of the nest ends (R307): its records may be appended again, and STEP counts it. -/
def State.nestStep (s : State) (q : Nat) (c : Cmd) (t : Mem) : Got :=
  let core := coreOf c.who
  let s := s.noteLow q c.id
  let d := { (s.findCmd q c.id).getD c with act := 0, row := 0, notes := 0, low := 0 }
  let last := decide (tabSteps t ≤ c.step + 1)
  let s := (s.setCmd q d).onCore core fun k => { k with tstat := { k.tstat with step := BitVec.ofNat 32 (c.step + 1), go := !last } }
  s.stepped q c last

/-- One step of a nest: a row of its body, or of an action at the step's end (R307, R310). -/
def State.stepNest (s : State) (q : Nat) (c : Cmd) : Got :=
  let core := coreOf c.who
  let t := (s.core core).trowelA
  if c.act = 0 then s.nestBody q c t else
  match (nestActions t c.step 6)[c.act - 1]? with
  | none => s.nestStep q c t
  | some 0 => (s.onCore core Core.swapPlanes).nestAt q c 0 (c.act + 1)
  | some 1 => s.nestLepi q c t
  | some 2 => (s.setCmd q { c with tile := !c.tile }).nestAt q c 0 (c.act + 1)
  | some 3 => (s.onCore core fun k => k.zeroTile c.tile (k.tile c.tile).int).nestAt q c 0 (c.act + 1)
  | some _ => s.nestLsta q c t

end Sys2Proof.Machine
end

