-- ==== Sys2Proof/Machine/Hawk.lean ====
section
/-! DEFINITION. The Hawk copy engines: copy control blocks, their checks, the odometer and the elements moved (R326 to
R330). -/

namespace Sys2Proof.Machine

/-! The copy control block (R327). -/

/-- A signed 32-bit field of a block. -/
def bytesS {w : Nat} (b : BitVec w) (off : Nat) : Int := (BitVec.ofNat 32 (bytesAt b off 4)).toInt

def ccSrc (b : BitVec 1024) : Nat := bytesAt b 0 8
def ccDst (b : BitVec 1024) : Nat := bytesAt b 8 8
def ccSkind (b : BitVec 1024) : Nat := bytesAt b 16 1
def ccDkind (b : BitVec 1024) : Nat := bytesAt b 17 1
def ccScbn (b : BitVec 1024) : Nat := bytesAt b 18 1
def ccDcbn (b : BitVec 1024) : Nat := bytesAt b 19 1
def ccEw (b : BitVec 1024) : Nat := bytesAt b 20 1
def ccOpf (b : BitVec 1024) : Nat := bytesAt b 21 1
def ccWrap (b : BitVec 1024) (d : Nat) : Bool := (bytesAt b 22 1).testBit d
def ccCount (b : BitVec 1024) (d : Nat) : Nat := bytesAt b (24 + 4 * d) 4
def ccSoff (b : BitVec 1024) (d : Nat) : Int := bytesS b (64 + 4 * d)
def ccFill (b : BitVec 1024) : Nat := bytesAt b 80 8
def ccIdx (b : BitVec 1024) : Nat := bytesAt b 88 8

/-- Source stride of dimension d; dimension 0 steps by EW. -/
def ccSstr (b : BitVec 1024) (d : Nat) : Int := if d = 0 then ccEw b else bytesS b (36 + 4 * d)

/-- Destination stride of dimension d. -/
def ccDstr (b : BitVec 1024) (d : Nat) : Int := if d = 0 then ccEw b else bytesS b (48 + 4 * d)

/-- Elements a block moves. -/
def ccTotal (b : BitVec 1024) : Nat := ccCount b 0 * ccCount b 1 * ccCount b 2 * ccCount b 3

/-- Is a field zero or, for a count, one. -/
def ccClear (b : BitVec 1024) (zero : List (Nat × Nat)) (counts : List Nat) : Bool :=
  unused b zero && counts.all fun d => ccCount b d == 1

/-- The fields a form leaves unused hold zero, or one for a count (R329). -/
def ccUnused (form : Nat) (b : BitVec 1024) : Bool :=
  match form with
  | 0x20 => ccClear b [(22, 1), (40, 24), (64, 16), (80, 8), (88, 8)] [1, 2, 3]
  | 0x21 | 0x22 => ccClear b [(80, 8), (88, 8)] []
  | 0x24 => ccClear b [(0, 8), (16, 1), (18, 1), (22, 1), (40, 12), (64, 16), (88, 8)] []
  | _ => ccClear b [(22, 1), (44, 8), (56, 8), (64, 16), (80, 8)] [2, 3]

/-- The kinds a form requires (R329). -/
def ccKinds (form : Nat) (b : BitVec 1024) : Bool :=
  match form with
  | 0x22 => (ccSkind b == 0 || ccSkind b == 2) && (ccDkind b == 0 || ccDkind b == 2)
  | 0x23 => ccSkind b == 0 || ccSkind b == 2
  | 0x25 => ccDkind b == 0 || ccDkind b == 2
  | _ => true

/-- The lowest and highest byte offset that strides reach from an address, exclusive above. -/
def reachOf (base : Nat) (ew : Nat) (l : List (Nat × Int)) : Int × Int :=
  l.foldl (fun (a : Int × Int) p =>
    let x : Int := ((p.1 : Int) - 1) * p.2
    (a.1 + min 0 x, a.2 + max 0 x)) ((base : Int), (base : Int) + ew)

/-- The source's bytes, from the extremes of every index; none where an index table gives a row (R327). -/
def ccSrcReach (form : Nat) (b : BitVec 1024) : Option (Int × Int) :=
  if form = 0x23 ∨ form = 0x24 then none
  else some (reachOf (ccSrc b) (ccEw b) ((List.range 4).map fun d => (ccCount b d, ccSstr b d)))

/-- The destination's bytes. HTRN swaps dimensions 0 and 1 (R328). -/
def ccDstReach (form : Nat) (b : BitVec 1024) : Option (Int × Int) :=
  if form = 0x25 then none
  else if form = 0x22 then
    some (reachOf (ccDst b) (ccEw b) [(ccCount b 1, ccDstr b 0), (ccCount b 0, ccDstr b 1), (ccCount b 2, ccDstr b 2), (ccCount b 3, ccDstr b 3)])
  else some (reachOf (ccDst b) (ccEw b) ((List.range 4).map fun d => (ccCount b d, ccDstr b d)))

/-- Do the bytes of a side lie in n bytes. -/
def reachIn (n : Nat) : Option (Int × Int) → Bool
  | none => true
  | some r => decide (0 ≤ r.1) && decide (r.2 ≤ n)

/-- The values of a block that raise BOUNDS, but for those that need the strand's descriptors (R327, R329). -/
def ccBounds (form : Nat) (b : BitVec 1024) : Bool :=
  decide (ccSkind b < 3) && decide (ccDkind b < 4) && (ccEw b == 1 || ccEw b == 2 || ccEw b == 4 || ccEw b == 8) &&
  (ccSkind b == 1 || ccScbn b == 0) && (ccDkind b == 1 || ccDcbn b == 0) && decide (ccScbn b < 32) && decide (ccDcbn b < 32) &&
  (ccSkind b != 1 || ccSrc b == 0) && (ccDkind b != 1 || ccDst b == 0) && (ccOpf b == 0 || ccOpf b == form) &&
  decide (bytesAt b 22 1 < 16) && unused b [(23, 1), (96, 32)] && ((List.range 4).all fun d => ccCount b d != 0) &&
  decide (ccTotal b * ccEw b ≤ 2 ^ 40) && ((List.range 4).all fun d => ccWrap b d || ccSoff b d == 0) && ccUnused form b && ccKinds form b &&
  (ccSkind b != 0 || reachIn localSize (ccSrcReach form b)) && (ccDkind b != 0 || reachIn localSize (ccDstReach form b)) &&
  (ccDkind b != 3 || reachIn 0x20000 (ccDstReach form b))

/-- The first misaligned address or stride of a block (R327). -/
def ccMisaligned (form : Nat) (b : BitVec 1024) : Option Nat :=
  let e := ccEw b
  if ccSrc b % e ≠ 0 then some (ccSrc b)
  else if ccDkind b ≠ 3 ∧ ccDst b % e ≠ 0 then some (ccDst b)
  else if (form = 0x23 ∨ form = 0x25) ∧ ccIdx b % 4 ≠ 0 then some (ccIdx b)
  else if ((List.range 3).any fun d => ccSstr b (d + 1) % e != 0 || ccDstr b (d + 1) % e != 0) then some (ccSrc b)
  else none

/-- Does a form read an index table. -/
def ccIndexed (form : Nat) : Bool := form == 0x23 || form == 0x25

/-- A circular-buffer side: a set descriptor whose slots divide the bytes moved (R327, R328). -/
def ccSlots (t : Strand) (b : BitVec 1024) (kind cb : Nat) : Bool :=
  kind != 1 || (cbNslot (t.rdCb cb) != 0 && ccTotal b * ccEw b % slotBytes (t.rdCb cb) == 0)

/-- A Hawk command on the logical engine that MODE names (R312, R326, R327). -/
def hawkPlan (i : Instr) (o : Et) (s : State) : Plan :=
  let q := hawkQueue (coreOf s.cur) (o.mode.toNat % 4)
  let form := hawkForm i
  engineIssue s q o <| withBlock s o 128 fun _ x =>
    let b := blockOf x
    .need (ccBounds form b && ccSlots s.me b (ccSkind b) (ccScbn b) && ccSlots s.me b (ccDkind b) (ccDcbn b) &&
      (!ccIndexed form || decide (ccIdx b + 4 * ccCount b 1 ≤ localSize))) BOUNDS <|
    match ccMisaligned form b with
    | some a => .trap ALIGN (some (BitVec.ofNat 64 a))
    | none => enter q i o 0 b []

/-- HCPY (R329). -/
def planHcpy (o : Et) (s : State) : Plan := hawkPlan (.hcpy o) o s

/-- HCPY issued alone. -/
def execHcpy (o : Et) (s : State) : Host.Outcome State Fault Refusal :=
  alone (.hcpy o) (planHcpy o) s

/-- HSTR (R329). -/
def planHstr (o : Et) (s : State) : Plan := hawkPlan (.hstr o) o s

/-- HSTR issued alone. -/
def execHstr (o : Et) (s : State) : Host.Outcome State Fault Refusal :=
  alone (.hstr o) (planHstr o) s

/-- HTRN (R329). -/
def planHtrn (o : Et) (s : State) : Plan := hawkPlan (.htrn o) o s

/-- HTRN issued alone. -/
def execHtrn (o : Et) (s : State) : Host.Outcome State Fault Refusal :=
  alone (.htrn o) (planHtrn o) s

/-- HGATH (R329). -/
def planHgath (o : Et) (s : State) : Plan := hawkPlan (.hgath o) o s

/-- HGATH issued alone. -/
def execHgath (o : Et) (s : State) : Host.Outcome State Fault Refusal :=
  alone (.hgath o) (planHgath o) s

/-- HFILL (R329). -/
def planHfill (o : Et) (s : State) : Plan := hawkPlan (.hfill o) o s

/-- HFILL issued alone. -/
def execHfill (o : Et) (s : State) : Host.Outcome State Fault Refusal :=
  alone (.hfill o) (planHfill o) s

/-- HSCAT (R329). -/
def planHscat (o : Et) (s : State) : Plan := hawkPlan (.hscat o) o s

/-- HSCAT issued alone. -/
def execHscat (o : Et) (s : State) : Host.Outcome State Fault Refusal :=
  alone (.hscat o) (planHscat o) s

/-! The odometer (R328). -/

/-- Index of dimension d at element n. -/
def ccIndex (b : BitVec 1024) (n d : Nat) : Nat := n / ((List.range d).foldl (fun a k => a * ccCount b k) 1) % ccCount b d

/-- The source index of dimension d (R328). -/
def ccSindex (b : BitVec 1024) (n d : Nat) : Int :=
  if ccWrap b d then ((ccIndex b n d : Int) + ccSoff b d) % ccCount b d else ccIndex b n d

/-- Entry i of an index table. -/
def ccEntry (table : Mem) (i : Nat) : Nat := table.readNat (4 * i) 4

/-- The exact source address of element n. -/
def ccFrom (form : Nat) (b : BitVec 1024) (table : Mem) (n : Nat) : Int :=
  let ix (d : Nat) : Int := if form = 0x23 ∧ d = 1 then ccEntry table (ccIndex b n 1) else ccSindex b n d
  (ccSrc b : Int) + ix 0 * ccSstr b 0 + ix 1 * ccSstr b 1 + ix 2 * ccSstr b 2 + ix 3 * ccSstr b 3

/-- The exact destination address of element n. -/
def ccTo (form : Nat) (b : BitVec 1024) (table : Mem) (n : Nat) : Int :=
  let i (d : Nat) : Int := ccIndex b n d
  (ccDst b : Int) + i 2 * ccDstr b 2 + i 3 * ccDstr b 3 +
  (if form = 0x22 then i 1 * ccDstr b 0 + i 0 * ccDstr b 1
   else i 0 * ccDstr b 0 + (if form = 0x25 then (ccEntry table (ccIndex b n 1) : Int) else i 1) * ccDstr b 1)

/-- An exact address on 64 bits. -/
def addr64 (a : Int) : Nat := (a % 2 ^ 64).toNat

/-! Steps (R282, R326, R330). -/

/-- A Hawk command begins: its index table is read (R328). -/
def State.beginHawk (s : State) (q : Nat) (c : Cmd) : Got :=
  if ccIndexed (hawkForm c.instr) then
    let n := 4 * ccCount c.block 1
    (s.nearRead q c (ccIdx c.block) n).andThen fun s x => .ok (s.setCmd q { c with table := Mem.writeNat [] 0 n x }) 0
  else .ok s 0

/-- The operands of element n: where it is read and written, with the position in a slot stream. -/
def ccSides (c : Cmd) (n : Nat) : (Loc × Nat) × (Loc × Nat) :=
  let form := hawkForm c.instr
  let b := c.block
  let side (kind cb : Nat) (a : Int) : Loc × Nat :=
    if kind = 1 then ({ addr := 0, kind := 1, cbn := cb }, n * ccEw b) else ({ addr := addr64 a, kind := kind, cbn := 0 }, 0)
  (side (ccSkind b) (ccScbn b) (ccFrom form b c.table n), side (ccDkind b) (ccDcbn b) (ccTo form b c.table n))

/-- Does a gathered or scattered element fall outside local store (R328). -/
def ccOutside (c : Cmd) (n : Nat) : Bool :=
  let form := hawkForm c.instr
  let b := c.block
  let out (a : Int) : Bool := decide (a < 0) || decide (localSize < a + ccEw b)
  (form == 0x23 && ccSkind b == 0 && out (ccFrom form b c.table n)) || (form == 0x25 && ccDkind b == 0 && out (ccTo form b c.table n))

/-- Read w bytes of local store at a for a Hawk command: the aligned 64 bytes that they lie in are read at once, and serve the
elements that follow in them (R282). -/
def State.unitRead (s : State) (q : Nat) (c : Cmd) (a w : Nat) : Got :=
  let cut (x : Nat) : Nat := x / 2 ^ (8 * (a % 64)) % 2 ^ (8 * w)
  let d := (s.findCmd q c.id).getD c
  match d.unit.filter fun u => u.1 == a / 64 with
  | some u => .ok s (cut u.2)
  | none => (s.nearRead q c (64 * (a / 64)) 64).andThen fun s x => .ok (s.setCmd q { d with unit := some (a / 64, x) }) (cut x)

/-- Read an element's w bytes at a position of a Hawk command's source. -/
def State.elementRead (s : State) (q : Nat) (c : Cmd) (l : Loc) (pos w : Nat) : Got :=
  if l.kind = 0 then (if l.addr + w ≤ localSize then s.unitRead q c l.addr w else .fail s 0)
  else if l.kind = 1 then
    let d := (s.strand c.who).rdCb l.cbn
    if s.cbTurn c l.cbn false && cbFilled d != 0 then s.unitRead q c (cbAt d false pos) w else .wait s
  else s.peek q c l pos w

/-- The aligned 64 bytes that an element is written in: its kind, and its number in its space or slot stream. -/
def unitOfLoc (l : Loc × Nat) : Nat × Nat := (l.1.kind, (l.1.addr + l.2) / 64)

/-- What a step has read to write: the elements moved, and the bits of the destination's 64 bytes under a mask. -/
structure Moved where
  count : Nat
  data : Nat
  mask : Nat

/-- The bits of an element that a step is about to write over: those read from the bytes it writes (R326). -/
def Moved.over (m : Moved) (s : State) (c : Cmd) (src dst : Loc × Nat) (w x : Nat) : Nat :=
  let near (l : Loc × Nat) (out : Bool) : Nat × Nat :=
    if l.1.kind = 1 then (0, cbAt ((s.strand c.who).rdCb l.1.cbn) out l.2) else (l.1.kind, l.1.addr)
  let a := near src false
  let b := near dst true
  if a.1 = b.1 ∧ a.2 / 64 = b.2 / 64 then
    let cut (y : Nat) : Nat := y / 2 ^ (8 * (a.2 % 64)) % 2 ^ (8 * w)
    mergeNat x (cut m.data) (cut m.mask)
  else x

/-- Read elements in turn into the destination's 64 bytes, until one lies in others, cannot be read, or there are no more; fuel is
the number of elements. What the first one meets is the step's. -/
def State.gatherUnit (s : State) (q : Nat) (c : Cmd) (m : Moved) : Nat → State × Moved × Option Got
  | 0 => (s, m, none)
  | k + 1 =>
    let n := c.step + m.count
    let w := ccEw c.block
    let (src, dst) := ccSides c n
    if ccTotal c.block ≤ n ∨ (m.count ≠ 0 ∧ unitOfLoc dst ≠ unitOfLoc (ccSides c c.step).2) then (s, m, none)
    else if ccOutside c n then (s, m, some (.fail s 0))
    else
      let fill := hawkForm c.instr == 0x24
      match if fill then Got.ok s (ccFill c.block % 2 ^ (8 * w)) else s.elementRead q c src.1 src.2 w with
      | .ok u x =>
        let x := if fill then x else m.over u c src dst w x
        let at_ := 2 ^ (8 * ((dst.1.addr + dst.2) % 64))
        let ones := (2 ^ (8 * w) - 1) * at_
        let u := if fill then u else
          let d := (u.findCmd q c.id).getD c
          let v := u.took c src.1 src.2 w false
          if src.1.kind = 1 ∧ (v.strand c.who).rdCb src.1.cbn ≠ (u.strand c.who).rdCb src.1.cbn then v.setCmd q { d with unit := none } else v
        u.gatherUnit q c { count := m.count + 1, data := mergeNat m.data (x * at_) ones, mask := m.mask ||| ones } k
      | g => (s, m, some g)

/-- Write bits of 64 bytes of a Hawk command's destination at once (R282, R330, R360). -/
def State.unitWrite (s : State) (q : Nat) (c : Cmd) (dst : Loc × Nat) (m : Moved) : Got :=
  let base := (dst.1.addr + dst.2) / 64 * 64
  let local_ (a : Nat) : Got :=
    match s.touchAll (coreOf c.who) (c.party q) [a / 16384] with
    | (u, true) =>
      let d := (u.findCmd q c.id).getD c
      .ok ((u.localPut (coreOf c.who) (a + ·) 64 m.data m.mask).setCmd q
        { d with unit := d.unit.map fun x => if x.1 = a / 64 then (x.1, mergeNat x.2 m.data m.mask) else x }) 0
    | (u, false) => .wait u
  if dst.1.kind = 0 then (if dst.1.addr < localSize then local_ base else .fail s 0)
  else if dst.1.kind = 1 then
    let d := (s.strand c.who).rdCb dst.1.cbn
    if s.cbTurn c dst.1.cbn true && cbFilled d != cbNslot d then local_ (cbAt d true dst.2 / 64 * 64) else .wait s
  else if dst.1.kind = 3 then
    .ok ((s.staleUnits (coreOf c.who) base 64).onCore (coreOf c.who) fun k => { k with istore := k.istore.scatter (base + ·) m.data m.mask 64 }) 0
  else s.reached needWr (s.writeFor c.who (c.party q) base 64 m.data m.mask)

/-- A step of a Hawk command (R282, R326): the elements that lie next in one aligned 64 bytes of its destination are read in
turn, and written at once. -/
def State.stepHawk (s : State) (q : Nat) (c : Cmd) : Got :=
  let (u, m, g) := s.gatherUnit q c { count := 0, data := 0, mask := 0 } 64
  let dst := (ccSides c c.step).2
  let src := (ccSides c (c.step + m.count)).1
  match m.count, g, src.1.kind with
  | 0, some g, _ => g
  | _ + 1, some (.wait _), 2 => s.elementRead q c src.1 src.2 (ccEw c.block)
  | n, _, _ =>
    match s.unitWrite q c dst m with
    | .ok _ _ => (u.unitWrite q c dst m).andThen fun s _ =>
      let s := (List.range n).foldl (fun s i => let d := (ccSides c (c.step + i)).2; s.gave c d.1 d.2 (ccEw c.block) false) s
      (s.meter (leafOf c.who) 11 (n * ccEw c.block)).stepped q { c with step := c.step + n - 1 } (decide (ccTotal c.block ≤ c.step + n))
    | g => g

end Sys2Proof.Machine
end

