-- ==== Sys2Proof/Machine/Commands.lean ====
section
/-! DEFINITION. The engines at work: which queued command may act, its steps, and COMMAND_START and COMMAND_COMPLETE (R136,
R230, R297, R302, R305, R309, R310, R313, R326, R342). -/

namespace Sys2Proof.Machine

/-! Shared state of a core (R136). -/

/-- A piece of the state that a core's commands share. -/
inductive Share where
  | planeA | planeS | coefA | coefS | tile (n : Bool) | array | shadowTable | nest | counts
deriving DecidableEq, Repr

/-- What a command uses, and whether it changes it (R297, R301, R302, R307, R309, R342, R345). -/
def Cmd.uses (c : Cmd) : List (Share × Bool) :=
  match c.instr with
  | .lsta _ => [(.planeS, true)]
  | .lswap _ => [(.planeA, true), (.planeS, true)]
  | .lmm o | .lmms o => [(.planeA, false), (.array, true), (.tile o.tile, true)]
  | .lzero o => [(.tile o.tile, true)]
  | .lepi _ => [(.tile (bytesAt c.block 18 1 == 1), false)]
  | .tcfg _ | .tcfgd _ => [(.shadowTable, true)]
  | .tgo _ =>
    [(.planeA, true), (.planeS, true), (.coefA, false), (.tile false, true), (.tile true, true), (.array, true), (.nest, true), (.counts, true)] ++
    (match c.stage with
     | .queued => [(.shadowTable, false)]
     | _ => [])
  | .spld _ => [(.coefS, true)]
  | .spswap _ => [(.coefA, true), (.coefS, true)]
  | .spev o => [(.coefA, false), (.array, true), (.tile o.tile, true), (.counts, true)]
  | .spdx _ | .spgr _ => [(.coefA, false), (.array, true)]
  | .spref _ => [(.coefA, false), (.array, true), (.coefS, true)]
  | .kget o => if o.mode.getLsbD 1 then [(.counts, true)] else []
  | _ => []

/-- Must a later command wait for an earlier one. -/
def Cmd.conflicts (a b : Cmd) : Bool := a.uses.any fun x => b.uses.any fun y => x.1 == y.1 && (x.2 || y.2)

/-- A nest. -/
def Cmd.isNest (c : Cmd) : Bool :=
  match c.instr with
  | .tgo _ => true
  | _ => false

/-- Is a command at a row that enters the array from the stream (R302). -/
def Cmd.streams (c : Cmd) : Bool :=
  c.stage == .running &&
  match c.instr with
  | .lmm _ | .lmms _ | .spev _ => true
  | .tgo _ => c.act == 0
  | _ => false

/-- Does a command hold back a later one of its queue (R136, R230, R302, R309): one that shares state with it, until it is over
and its rows have landed, where the later one does not only follow it into the array; one that waits on a slot count; and a nest
another nest, until it has completed. -/
def State.holdsBack (s : State) (e c : Cmd) : Bool :=
  if e.isNest && c.isNest then true
  else if e.over then e.conflicts c && !c.streams && decide ((s.leaf (leafOf e.who)).clk < e.landAt)
  else e.conflicts c || s.cbBlocked e

/-- Is a request of a command being sent once more, so that it is parked (R304, R316, R361). -/
def State.retrying (s : State) (q : Nat) (c : Cmd) : Bool := (s.leaf (leafOf c.who)).remotes.any fun r => r.party == c.party q && r.resent

/-- May a command act: it waits for no token and is not parked or over, and no local access of its core still waits for a FENCE, so that
it meets local store as the bundles before it left it (R231, R289); a Hawk engine runs its commands one after another
(R326); on a Lath and Trowel queue no earlier command holds it back, and the array takes one row a clock (R302). earlier are
the commands before it. -/
def State.mayAct (s : State) (q : Nat) (earlier : List Cmd) (c : Cmd) : Bool :=
  let can : Bool := match c.stage with
    | .queued => c.deps.isEmpty
    | .running => true
    | _ => false
  can && !s.retrying q c && !s.heldLocal (coreOf c.who) &&
  (if isHawk q then earlier.isEmpty
   else !earlier.any (fun e => s.holdsBack e c) && (!c.streams || decide ((s.core (coreOf c.who)).arrayAt ≤ (s.leaf (leafOf c.who)).clk)))

/-- The commands of a queue that may act, by the commands before them. -/
def State.actors (s : State) (q : Nat) : List Cmd → List Cmd → List Cmd
  | _, [] => []
  | earlier, c :: t => if s.mayAct q earlier c then c :: s.actors q (earlier ++ [c]) t else s.actors q (earlier ++ [c]) t

/-! One step of a command. -/

/-- A command begins (R288, R296, R303, R306, R328). -/
def State.beginCmd (s : State) (q : Nat) (c : Cmd) : Got :=
  match c.instr with
  | .tgo _ => s.beginNest q c
  | .hgath _ | .hscat _ => s.beginHawk q c
  | _ => s.beginLath q c

/-- One step of a running command. -/
def State.stepCmd (s : State) (q : Nat) (c : Cmd) : Got :=
  let core := coreOf c.who
  match c.instr with
  | .lsta o => s.stepLsta q c o
  | .lswap _ => (s.onCore core Core.swapPlanes).stepped q c true
  | .lmm o => s.stepProduct q c o 8
  | .lmms o => s.stepProduct q c o (bytesAt c.block 17 1)
  | .lzero o => (s.onCore core fun k => k.zeroTile o.tile (o.fmt? == some .int32)).stepped q c true
  | .lepi o => s.stepLepi q c o
  | .tcfg _ => s.stepTcfg q c
  | .tcfgd _ => s.stepTcfgd q c
  | .tgo _ => s.stepNest q c
  | .spld _ => s.stepSpld q c
  | .spswap _ => (s.onCore core Core.swapCoefs).stepped q c true
  | .spev o => s.stepSpev q c o
  | .spdx o => s.stepSpdx q c o
  | .spgr o => s.stepSpgr q c o
  | .spref _ => s.stepSpref q c
  | .kget o => s.stepKget q c o
  | _ => s.stepHawk q c

/-- The PARK bit of the nest a command is (R308). -/
def State.parkBit (s : State) (c : Cmd) (on : Bool) : State :=
  match c.instr with
  | .tgo _ => s.onCore (coreOf c.who) fun k => { k with tstat := { k.tstat with park := on } }
  | _ => s

/-- A command fails: it stops at once, and its tags stand as its issue left them (R301, R305). -/
def State.failCmd (s : State) (q : Nat) (c : Cmd) (cause : BitVec 8) : State :=
  let d := (s.findCmd q c.id).getD c
  let s := s.onCore (coreOf c.who) fun k => k.failedTags c.instr c.block
  let s := match c.instr with
    | .tgo _ => s.onCore (coreOf c.who) fun k => { k with tstat := { k.tstat with go := false, park := false } }
    | _ => s
  ((s.forget (leafOf c.who) (c.party q)).setCmd q { d with stage := .failing cause }).post (.commandComplete q)

/-- A command parks at its step (R304, R316): units fetched for it are dropped, and a page that is not resident is asked
for. -/
def State.parkCmd (s : State) (q : Nat) (c : Cmd) (va : Nat) (need : Need) (line : Phys) (nonres : Bool) : State :=
  let leaf := leafOf c.who
  let d := (s.findCmd q c.id).getD c
  let s := (s.forget leaf (c.party q)).setCmd q { d with stage := .parked va need.wr }
  let s := (s.parkBit c true).parkOn leaf (c.party q) need va line
  if nonres then s.requestPage leaf va need.wr line else s

/-- Carry out what a step met: a nest that goes on is no longer parked, and one that is held is (R308). -/
def settleCmd (q : Nat) (c : Cmd) : Got → State
  | .ok u _ => u.parkBit c false
  | .wait u => u
  | .hold u => (u.forget (leafOf c.who) (c.party q)).parkBit c true
  | .park u va need line nonres => u.parkCmd q c va need line nonres
  | .fail u cause => u.failCmd q c cause

/-- A command that has begun; act tells it from one that parked while beginning. -/
def Cmd.begun (c : Cmd) : Cmd := { c with stage := .running, act := if c.isNest then c.act else 1 }

/-- A parked command goes on from where it stands (R304, R401). -/
def Cmd.resumed (c : Cmd) : Cmd := { c with stage := if c.isNest || c.act != 0 then .running else .queued }

/-- A command acts: it fails if a token it consumes failed; else it begins, or makes its next step. -/
def State.actCmd (s : State) (q : Nat) (c : Cmd) : State :=
  match c.stage with
  | .queued =>
    if c.depFailed then s.failCmd q c fTOKEN
    else settleCmd q c ((s.beginCmd q c).andThen fun s x =>
      .ok (s.setCmd q ((s.findCmd q c.id).getD c).begun) x)
  | _ => settleCmd q c (s.stepCmd q c)

/-- COMMAND_START (R313): one of the commands of a queue that may act begins, or makes its next step. -/
def execCommandStart (q : Nat) (s : State) : Host.Outcome State Fault Refusal :=
  let ev := Ev.commandStart q
  if !s.enginesRun (queueLeaf q) then .next s else
  if (s.cmds q).all Cmd.over then .next (s.unpost ev) else
  match s.actors q [] (s.cmds q) with
  | [] => .next s
  | c :: t =>
    match s.choose (c :: t) with
    | (some d, u) => .next (u.actCmd q d)
    | (none, u) => .next (u.actCmd q c)

/-- Has another member still to acknowledge a write of a command (R288). -/
def State.awaitsAck (s : State) (q : Nat) (c : Cmd) : Bool := (s.leaf (leafOf c.who)).remotes.any fun r => r.party == c.party q

/-- The first command of a queue whose accesses are over and acknowledged, and whose rows have landed. -/
def State.overCmd (s : State) (q : Nat) : Option Cmd :=
  (s.cmds q).find? fun c => c.over && !s.awaitsAck q c && decide (c.landAt ≤ (s.leaf (leafOf c.who)).clk)

/-- COMMAND_COMPLETE (R288, R305): the token of a command whose accesses are over completes, or completes failed. -/
def execCommandComplete (q : Nat) (s : State) : Host.Outcome State Fault Refusal :=
  let ev := Ev.commandComplete q
  if !s.enginesRun (queueLeaf q) then .next s else
  if !(s.cmds q).any Cmd.over then .next (s.unpost ev) else
  match s.overCmd q with
  | none => .next s
  | some c =>
    let s := s.unpost ev
    match c.stage with
    | .failing f => .next (s.completeCmd q c (some f))
    | _ => .next (s.completeCmd q c none)

/-! Local bytes that commands reach (R226). -/

/-- The local bytes of a locator over n bytes. -/
def Loc.near (t : Strand) (l : Loc) (n : Nat) : List (Nat × Nat) :=
  if l.kind = 0 then [(l.addr, n)]
  else if l.kind = 1 then [(64 * cbBase (t.rdCb l.cbn), slotBytes (t.rdCb l.cbn) * cbNslot (t.rdCb l.cbn))]
  else []

/-- The local bytes of one side of a Hawk command; all of local store where an index table gives the rows. -/
def ccNear (t : Strand) (kind cb : Nat) (r : Option (Int × Int)) : List (Nat × Nat) :=
  if kind = 1 then [(64 * cbBase (t.rdCb cb), slotBytes (t.rdCb cb) * cbNslot (t.rdCb cb))]
  else if kind = 0 then match r with
    | some r => [(r.1.toNat, (r.2 - r.1).toNat)]
    | none => [(0, localSize)]
  else []

/-- The local bytes that a command reads or writes. A nest's lie anywhere. -/
def Cmd.near (c : Cmd) (t : Strand) : List (Nat × Nat) :=
  let b := c.block
  let rows := bytesAt b 16 1
  match c.instr with
  | .lsta o => (locAt b 0).near t (etShape o (bytesAt b 17 1)).image
  | .lmm o => (locAt b 0).near t (rows * (etShape o 8).pitch)
  | .lmms o => (locAt b 0).near t (rows * (etShape o (bytesAt b 17 1)).pitch)
  | .lepi o => (locAt b 0).near t (rows * epiRow o.mode.toNat) ++ (if epiAff o.mode.toNat then [(bytesAt b 24 8, 2048)] else [])
  | .tcfg _ => [(c.base.toNat, 256)]
  | .tcfgd _ => [(c.base.toNat, 264)]
  | .tgo _ => [(0, localSize)]
  | .kget _ => [(c.base.toNat, 512)]
  | .spld _ => (locAt b 0).near t 163840
  | .spev o => (locAt b 0).near t (rows * inputPitch (o.fmt?.getD .fp32))
  | .spdx o =>
    (locAt b 0).near t (bytesAt b 48 1 * inputPitch (o.fmt?.getD .fp32)) ++ (locAt b 16).near t (bytesAt b 48 1 * 1024) ++
    (locAt b 32).near t (bytesAt b 48 1 * 128)
  | .spgr o =>
    (locAt b 0).near t (bytesAt b 48 1 * inputPitch (o.fmt?.getD .fp32)) ++ (locAt b 16).near t (bytesAt b 48 1 * 1024) ++
    [(bytesAt b 56 8, 17408 * bytesAt b 50 1)]
  | .hcpy _ | .hstr _ | .htrn _ | .hgath _ | .hfill _ | .hscat _ =>
    let f := hawkForm c.instr
    (if f = 0x24 then [] else ccNear t (ccSkind b) (ccScbn b) (ccSrcReach f b)) ++ ccNear t (ccDkind b) (ccDcbn b) (ccDstReach f b) ++
    (if ccIndexed f then [(ccIdx b, 4 * ccCount b 1)] else [])
  | _ => []

/-- Does a local access of a core that waits for a FENCE reach bytes of a region (R226, R258). -/
def State.regionHeld (s : State) (core region : Nat) : Bool :=
  (List.range 4).any fun i => (s.strand (4 * core + i)).waits.any fun e => e.addrs.any fun a => a / 16384 == region

/-- Does a command in progress on a core, or a local access that waits, reach bytes of a region (R226). -/
def State.regionBusy (s : State) (core region : Nat) : Bool :=
  s.regionHeld core region ||
  (s.cmdsNear core).any fun c => coreOf c.who == core &&
    (c.near (s.strand c.who)).any fun r => overlaps r.1 r.2 (16384 * region) 16384

end Sys2Proof.Machine
end

