-- ==== Sys2Proof/Machine/Reduce.lean ====
section
/-! DEFINITION. The reduction slot: the pairwise tree and the partial-sum latches (R211 to R215). -/

namespace Sys2Proof.Machine

/-- A latch as the slot's next syllable sees it: earlier updates apply in issue order (R215). -/
def Strand.newPs (t : Strand) (n : Nat) : Latch :=
  t.flights.foldl (fun l f => f.lands.foldl (fun l x => match x with
    | .ps m y => if m = n then y else l
    | _ => l) l) (t.rdPs n)

/-- One level of the tree (R212). -/
def pairs {α : Type} (g : α → α → α) : List α → List α
  | a :: b :: t => g a b :: pairs g t
  | l => l

/-- The pairwise tree over 2^n values (R212). -/
def tree {α : Type} (g : α → α → α) : Nat → List α → List α
  | 0, l => l
  | n + 1, l => tree g n (pairs g l)

/-- The three operations of the tree (R212). -/
inductive RedOp where
  | add | max | min
deriving DecidableEq, Repr

/-- The operation on class FP32 (R212). -/
def RedOp.fp : RedOp → FP → FP → FP
  | .add, a, b => rne (FP.add .rne a b)
  | .max, a, b => FP.max a b
  | .min, a, b => FP.min a b

/-- Its identity on class FP32 (R212). -/
def RedOp.fpId : RedOp → FP
  | .add => .fin true 0 0
  | .max => .inf true
  | .min => .inf false

/-- The operation on class INT32 (R212). -/
def RedOp.int : RedOp → Int → Int → Int
  | .add, a, b => a + b
  | .max, a, b => if a < b then b else a
  | .min, a, b => if b < a then b else a

/-- Its identity on class INT32; infinities as the bounds that every element of the formats lies within (R212). -/
def RedOp.intId : RedOp → Int
  | .add => 0
  | .max => -2 ^ 31
  | .min => 2 ^ 31 - 1

/-- The tree's value on class FP32 (R212). -/
def redFp (op : RedOp) (f : Fmt) (k : KBits) (v : VReg) : FP :=
  ((tree op.fp 8 ((List.range f.count).map fun i => if active k f i then fpDecode f (v.elt f i) else op.fpId)).head?).getD op.fpId

/-- The tree's value on class INT32, exact (R212). -/
def redInt (op : RedOp) (f : Fmt) (k : KBits) (v : VReg) : Int :=
  ((List.range f.count).filter (active k f)).foldl (fun a i => op.int a (intDecode f (v.elt f i))) op.intId

/-- A reduction result on its way to a latch 4 clocks on (R191), with its NANGEN record. -/
def redDone (ps : BitVec 2) (x : Latch) (nan : Bool) : Plan :=
  .go fun s => (s.fly 4 [.ps ps.toNat x]).recordMe 1 nan

/-- Is an active element NaN. -/
def redNaN (f : Fmt) (k : KBits) (v : VReg) : Bool :=
  (List.range f.count).any fun i => active k f i && (fpDecode f (v.elt f i)).isNaN

/-- An accumulating form (R211, R213): acc is false for QACC, which sets the latch. -/
def reduceForm (op : RedOp) (acc : Bool) (o : Rq) (s : State) : Plan :=
  let t := s.me
  let v := t.rdV o.va.toNat
  let k := t.rdK o.k
  let l := t.newPs o.ps.toNat
  let int := !o.fmt.isF
  .need (tagIs t o.va.toNat o.fmt && (!acc || l.int == int)) FMTTAG <|
  if int then
    let x := redInt op o.fmt k v
    let y := if acc then op.int (intDecode .int32 l.bits.toNat) (intDecode .int32 (intWrap .int32 x)) else x
    redDone o.ps { bits := BitVec.ofInt 32 y, int := true } false
  else
    let x := redFp op o.fmt k v
    let m := fpDecode .fp32 l.bits.toNat
    let y := if acc then op.fp m x else x
    redDone o.ps { bits := BitVec.ofNat 32 (fpRound .fp32 .rne false y), int := false }
      (y.isNaN && !redNaN o.fmt k v && !(acc && m.isNaN))

/-- QACC (R213). -/
def planQacc (o : Rq) (s : State) : Plan := reduceForm .add false o s

/-- QACC issued alone. -/
def execQacc (o : Rq) (s : State) : Host.Outcome State Fault Refusal :=
  alone (.qacc o) (planQacc o) s

/-- QADD (R213). -/
def planQadd (o : Rq) (s : State) : Plan := reduceForm .add true o s

/-- QADD issued alone. -/
def execQadd (o : Rq) (s : State) : Host.Outcome State Fault Refusal :=
  alone (.qadd o) (planQadd o) s

/-- QMAX (R213). -/
def planQmax (o : Rq) (s : State) : Plan := reduceForm .max true o s

/-- QMAX issued alone. -/
def execQmax (o : Rq) (s : State) : Host.Outcome State Fault Refusal :=
  alone (.qmax o) (planQmax o) s

/-- QMIN (R213). -/
def planQmin (o : Rq) (s : State) : Plan := reduceForm .min true o s

/-- QMIN issued alone. -/
def execQmin (o : Rq) (s : State) : Host.Outcome State Fault Refusal :=
  alone (.qmin o) (planQmin o) s

/-- QDRN (R214, R215). -/
def planQdrn (o : Qd) (s : State) : Plan :=
  let l := s.me.newPs o.ps.toNat
  let x : W64 := if l.int then l.bits.signExtend 64 else l.bits.zeroExtend 64
  .go fun s => s.fly 5 (landS o.sd x ++ [.ps o.ps.toNat { bits := 0, int := l.int }])

/-- QDRN issued alone. -/
def execQdrn (o : Qd) (s : State) : Host.Outcome State Fault Refusal :=
  alone (.qdrn o) (planQdrn o) s

end Sys2Proof.Machine
end

