-- ==== Sys2Proof/Machine/Collective.lean ====
section
/-! DEFINITION. The collective commands: the parameter block, the counters, COLL, CWAIT, CTEST and CABORT (R367 to R369,
R378 to R383). -/

namespace Sys2Proof.Machine

/-! The parameter block (R367, R368). -/

/-- A collective's parameters (R367). -/
abbrev CBlock := BitVec 1024

def cbOp (b : CBlock) : Nat := bytesAt b 0x00 1
def cbDtype (b : CBlock) : Fmt := (fmtOfCode (bytesAt b 0x01 1)).getD .raw
def cbRop (b : CBlock) : Nat := bytesAt b 0x02 1
def cbArrival (b : CBlock) : Bool := bytesAt b 0x03 1 == 1
def cbInnet (b : CBlock) : Bool := bytesAt b 0x04 1 == 1
def cbRoot (b : CBlock) : Nat := bytesAt b 0x06 2
def cbFirst (b : CBlock) : Nat := bytesAt b 0x08 2
def cbGroup (b : CBlock) : Nat := bytesAt b 0x0A 2
def cbStride (b : CBlock) : Nat := bytesAt b 0x0C 2
def cbSend (b : CBlock) : Nat := bytesAt b 0x10 8
def cbRecv (b : CBlock) : Nat := bytesAt b 0x18 8
def cbCount (b : CBlock) : Nat := bytesAt b 0x20 8
def cbChunk (b : CBlock) : Nat := bytesAt b 0x28 4
def cbCtr (b : CBlock) : Nat := bytesAt b 0x30 8
def cbSeq (b : CBlock) : W64 := BitVec.ofNat 64 (bytesAt b 0x38 8)

/-- Element width in bytes (R367). -/
def cbWidth (b : CBlock) : Nat := (cbDtype b).halfBytes / 2

/-- The member of a rank (R367). -/
def cbMember (b : CBlock) (rank : Nat) : Nat := cbFirst b + rank * cbStride b

/-- The rank of a member, if it is in the group (R367). -/
def cbRank (b : CBlock) (member : Nat) : Option Nat := (List.range (cbGroup b)).find? fun k => cbMember b k == member

/-- The rank whose leaf places the nodes (R373). -/
def cbRootRank (b : CBlock) : Nat := if cbOp b = 3 ∨ cbOp b = 4 then cbRoot b else 0

/-- Does the collective reduce (R374). -/
def cbReduces (b : CBlock) : Bool := cbOp b == 0 || cbOp b == 1 || cbOp b == 4

/-- Elements of a rank's send extent (R368). -/
def cbSendElts (b : CBlock) (rank : Nat) : Nat :=
  if cbOp b = 1 ∨ cbOp b = 5 then cbCount b * cbGroup b
  else if cbOp b = 3 ∧ rank ≠ cbRoot b then 0 else cbCount b

/-- Elements of a rank's receive extent (R368). -/
def cbRecvElts (b : CBlock) (rank : Nat) : Nat :=
  if cbOp b = 2 ∨ cbOp b = 5 then cbCount b * cbGroup b
  else if cbOp b = 4 ∧ rank ≠ cbRoot b then 0 else cbCount b

/-- Elements that a rank's chunks divide (R368). -/
def cbExtent (b : CBlock) (rank : Nat) : Nat := if cbOp b = 4 then cbCount b else cbRecvElts b rank

/-- NCHUNK (R368). -/
def cbChunks (b : CBlock) (rank : Nat) : Nat := (cbExtent b rank + cbChunk b - 1) / cbChunk b

/-- Does a rank use SEND (R367). -/
def cbUsesSend (b : CBlock) (rank : Nat) : Bool := cbOp b != 3 || rank == cbRoot b

/-- Does a rank use RECV (R367). -/
def cbUsesRecv (b : CBlock) (rank : Nat) : Bool := cbOp b != 4 || rank == cbRoot b

/-- The fields' limits (R367, R368). -/
def cbFieldsOk (b : CBlock) (gangSize : Nat) : Bool :=
  let f := fmtOfCode (bytesAt b 0x01 1)
  let moves := cbOp b == 2 || cbOp b == 3 || cbOp b == 5
  let dtypes : List Fmt := [.fp32, .bf16, .fp16, .int32, .int16, .int8, .uint8]
  decide (cbOp b ≤ 5) && f.isSome && (dtypes.contains (cbDtype b) || (moves && cbDtype b == .raw)) &&
  (if moves then cbRop b == 3 else decide (cbRop b ≤ 2)) && decide (bytesAt b 0x03 1 ≤ 1) && decide (bytesAt b 0x04 1 ≤ 1) &&
  bytesAt b 0x05 1 == 0 && bytesAt b 0x0E 2 == 0 && bytesAt b 0x2C 4 == 0 && bytesAt b 0x40 64 == 0 &&
  (if cbOp b = 3 ∨ cbOp b = 4 then decide (cbRoot b < cbGroup b) else cbRoot b == 0) &&
  decide (1 ≤ cbGroup b) && decide (1 ≤ cbStride b) && decide (cbMember b (cbGroup b - 1) < gangSize) && decide (1 ≤ cbCount b) &&
  decide (1 ≤ cbChunk b) && cbChunk b * cbWidth b % 64 == 0 && decide (cbChunk b * cbWidth b ≤ 2 ^ 20) && cbSeq b != 0

/-! Status (R369, R381). -/

/-- Leading chunks in place (R369). -/
def Coll.prefixOf (c : Coll) : Nat := ((List.range c.inPlace.length).takeWhile fun i => c.inPlace.contains i).length

/-- The status word (R381). -/
def Coll.status (c : Coll) : W64 :=
  BitVec.ofNat 64 (c.prefixOf + (if c.done then 0 else 2 ^ 32) + (if c.fail then 2 ^ 33 else 0) + (if c.aborted then 2 ^ 34 else 0) +
    c.ccause.toNat * 2 ^ 40 + bytesAt c.cmd.block 0x38 2 * 2 ^ 48)

/-- A member's collective context. -/
def State.collCtx (s : State) (leaf ctx : Nat) : CollCtx :=
  match (s.leaf leaf).member with
  | some m => m.colls.get ctx { colls := [], waits := [] }
  | none => { colls := [], waits := [] }

/-- Replace a collective context. -/
def State.setCollCtx (s : State) (leaf ctx : Nat) (x : CollCtx) : State := s.onMember leaf fun m => { m with colls := m.colls.set ctx x }

/-- The most recent COLL of a context (R378). -/
def CollCtx.latest (x : CollCtx) : Option Coll := x.colls.getLast?

/-- The COLLs of a context that are not complete. -/
def CollCtx.open_ (x : CollCtx) : List Coll := x.colls.filter fun c => !c.done

/-- The context a collective syllable names (R378). -/
def ctxOf (o : Et) : Nat := o.mode.toNat % 8

/-! Tokens (R313, R380). -/

/-- A collective's command takes a number and makes its token pending (R130, R313). -/
def State.takeToken (s : State) (o : Et) : Nat × State :=
  let leaf := leafOf s.cur
  let id := (s.leaf leaf).cmdSeq
  let s := s.onLeaf leaf fun l => { l with cmdSeq := id + 1 }
  (id, s.onMe fun t => { t with issued := t.issued ++ [id], tks := (if o.tp = 0 then t.tks else t.tks.set o.tp.toNat (.pending id)) })

/-- The stall of a collective command on its produced token (R313). -/
def collIssue (s : State) (o : Et) (p : Plan) : Plan := if (s.me.rdTk o.tp.toNat).isPending then .stall s else p

/-- CWAITs of a COLL that may complete: its prefix has reached their counts, or it has ended (R380). -/
def Coll.frees (c : Coll) (w : CWaitEntry) : Bool := w.coll == c.cmd.id && (c.done || decide (w.n ≤ c.prefixOf))

/-- Complete the CWAITs that a context's COLLs free (R380). -/
def State.freeWaits (s : State) (leaf ctx : Nat) : State :=
  let x := s.collCtx leaf ctx
  x.waits.foldl (fun s w =>
    match x.colls.find? fun c => c.frees w with
    | none => s
    | some c =>
      let y := s.collCtx leaf ctx
      (s.setCollCtx leaf ctx { y with waits := y.waits.filter fun v => v.id != w.id }).endToken w.who w.id w.tp w.addr (c.fail && decide (c.prefixOf < w.n))) s

/-! The syllables. -/

/-- A COLL as it enters its context. -/
def newColl (c : Cmd) : Coll :=
  { cmd := c, started := false, placed := false, pieces := [], inPlace := [], sendsLeft := [], nodes := [], sent := 0, recv := 0,
    done := false, fail := false, aborted := false, ccause := 0, abortAt := none, abortTp := [], abortAcks := [], counts := [] }

/-- A COLL enters its context; ended ones before it are forgotten, except the counts of an abort in progress (R378). -/
def State.enterColl (s : State) (o : Et) (block : CBlock) (base : W64) : State :=
  let leaf := leafOf s.cur
  let t := s.me
  let (id, s) := s.takeToken o
  let x := s.collCtx leaf (ctxOf o)
  let c := newColl (newCmd id s.cur (.coll o) t o base block [])
  (s.setCollCtx leaf (ctxOf o) { x with colls := (x.colls.filter fun d => !d.done || !d.abortTp.isEmpty) ++ [c] }).postOnce (.collStart leaf (ctxOf o))

/-- Does an address lie in the HBM of the member's own leaf (R367): one that no entry maps at the bundle is not found to lie
elsewhere (log 51). -/
def State.ownHbm (s : State) (leaf : Nat) (need : Need) (va : Nat) : Bool :=
  match s.xlate leaf need va with
  | .mapped t => (match t.at va with
    | .hbm l _ => l == leaf
    | _ => false)
  | _ => true

/-- COLL (R367, R378, R379). -/
def planColl (o : Et) (s : State) : Plan :=
  let leaf := leafOf s.cur
  collIssue s o <|
  if 4 ≤ (s.collCtx leaf (ctxOf o)).open_.length then .stall s else
  withBlock s o 128 fun v x =>
    let b : CBlock := BitVec.ofNat 1024 x
    match s.memberOf s.cur with
    | none => .trap BOUNDS none
    | some m =>
      let rank := (cbRank b m.member).getD 0
      let at64 (a : Nat) (p : Plan) : Plan := .needAt (a % 64 == 0) ALIGN (BitVec.ofNat 64 a) p
      at64 (cbCtr b) <|
      (if cbUsesSend b rank then at64 (cbSend b) else id) <|
      (if cbUsesRecv b rank then at64 (cbRecv b) else id) <|
      .need (cbFieldsOk b m.gangSize && (cbRank b m.member).isSome && decide (cbChunks b rank ≤ 16384) &&
        decide (cbCtr b + 8 + 8 * cbChunks b rank ≤ localSize) && (!cbUsesSend b rank || s.ownHbm leaf needRd (cbSend b)) &&
        (!cbUsesRecv b rank || s.ownHbm leaf needWr (cbRecv b))) BOUNDS <|
      .go fun s => s.enterColl o b (v.me.rdS o.sa)

/-- COLL issued alone. -/
def execColl (o : Et) (s : State) : Host.Outcome State Fault Refusal :=
  alone (.coll o) (planColl o) s

/-- CWAIT (R380). -/
def planCwait (o : Et) (s : State) : Plan :=
  let leaf := leafOf s.cur
  let n := (s.me.rdS o.sa).toNat
  collIssue s o <|
  match (s.collCtx leaf (ctxOf o)).latest, s.memberOf s.cur with
  | some c, some m =>
    .need (decide (n ≤ cbChunks c.cmd.block ((cbRank c.cmd.block m.member).getD 0))) BOUNDS <|
    .go fun s =>
      let (id, s) := s.takeToken o
      let w : CWaitEntry := { id := id, coll := c.cmd.id, who := s.cur, tp := o.tp.toNat, n := n, addr := s.me.pc }
      let x := s.collCtx leaf (ctxOf o)
      (s.setCollCtx leaf (ctxOf o) { x with waits := x.waits ++ [w] }).freeWaits leaf (ctxOf o)
  | _, _ => .trap BOUNDS none

/-- CWAIT issued alone. -/
def execCwait (o : Et) (s : State) : Host.Outcome State Fault Refusal :=
  alone (.cwait o) (planCwait o) s

/-- CTEST (R381). -/
def planCtest (o : Et) (s : State) : Plan :=
  let x := match (s.collCtx (leafOf s.cur) (ctxOf o)).latest with
    | some c => c.status
    | none => 0
  .reg fun t => t.wrS o.sa x

/-- CTEST issued alone. -/
def execCtest (o : Et) (s : State) : Host.Outcome State Fault Refusal :=
  alone (.ctest o) (planCtest o) s

/-! Abort (R382). -/

/-- A collective ends aborted here (R382): its COLL and CWAIT tokens complete, not failed; its packets still to come are
discarded. -/
def State.dropColl (s : State) (leaf ctx : Nat) (c : Coll) : State :=
  let f (d : Coll) : Coll := if d.cmd.id = c.cmd.id then { d with done := true, aborted := true, ccause := 6, nodes := [], sendsLeft := [] } else d
  let s := (s.onMember leaf fun m => m.onColls ctx f).onLeaf leaf fun l => { l with remotes := l.remotes.filter fun r => r.party != .coll ctx }
  let s := (s.endToken c.cmd.who c.cmd.id c.cmd.tp c.cmd.addr false).freeWaits leaf ctx
  s.postOnce (.collStart leaf ctx)

/-- The members and routers that take part in a collective (R382). -/
def Member.partners (m : Member) (b : CBlock) : List Nat :=
  let rs := (m.trees.filter fun t => cbSeq t.block == cbSeq b).flatMap fun t => t.routers.map fun r => 2048 + r.2.2
  (List.range (cbGroup b)).map (cbMember b) ++ rs.eraseDups

/-- A Plumb lane message to a member or a router of the gang on a leaf. -/
def State.tellMember (s : State) (leaf dst : Nat) (m : Nat → Ev) : State :=
  if dst = 2048 + s.pkg then s.post (m 2) else s.tell (s.placeOf leaf dst) fun l => m (if 2048 ≤ dst then 2 else l)

/-- CABORT (R382): an idle or completed context completes it at once; else the abort notice goes to the whole group. One that meets an
abort in progress completes with it. -/
def planCabort (o : Et) (s : State) : Plan :=
  let leaf := leafOf s.cur
  collIssue s o <| .go fun s =>
    let addr := s.me.pc
    let (id, s) := s.takeToken o
    match (s.collCtx leaf (ctxOf o)).latest, (s.leaf leaf).member with
    | some c, some m =>
      if c.done && c.abortTp.isEmpty then s.endToken s.cur id o.tp.toNat addr false else
      let first := c.abortTp.isEmpty
      let f (d : Coll) : Coll :=
        if d.cmd.id = c.cmd.id then { d with abortAt := if first then some s.now else d.abortAt, abortTp := d.abortTp ++ [(id, s.cur, o.tp.toNat)] } else d
      let u := (s.onMember leaf fun m => m.onColls (ctxOf o) f).postOnce (.cabortCountRound leaf (ctxOf o))
      if !first then u else (m.partners c.cmd.block).foldl (fun s d => s.tellMember leaf d fun l => .abortNotice l m.gang m.member (cbSeq c.cmd.block)) u
    | _, _ => s.endToken s.cur id o.tp.toNat addr false

/-- CABORT issued alone. -/
def execCabort (o : Et) (s : State) : Host.Outcome State Fault Refusal :=
  alone (.cabort o) (planCabort o) s

end Sys2Proof.Machine
end

