-- ==== Sys2Proof/Machine/Sync.lean ====
section
/-! DEFINITION. Fences, drains, tokens, events, barriers, pod time and region instructions (R243, R258 to R266). -/

namespace Sys2Proof.Machine

/-- FENCE (R258): accesses after it wait for those before it, and issue goes on. -/
def planFence (o : Sc) (_s : State) : Plan :=
  .go fun s =>
    (s.onMe fun t => { t with fences := t.fences ++ [{ id := t.memSeq, scope := o.scope }], memSeq := t.memSeq + 1 }).fencesOf s.cur

/-- FENCE issued alone. -/
def execFence (o : Sc) (s : State) : Host.Outcome State Fault Refusal :=
  alone (.fence o) (planFence o) s

/-- DRAIN (R260). -/
def planDrain (o : Sc) (s : State) : Plan := ordered s (s.drained s.cur o.scope) (.go fun s => s.cleanFor o.scope)

/-- DRAIN issued alone. -/
def execDrain (o : Sc) (s : State) : Host.Outcome State Fault Refusal :=
  alone (.drain o) (planDrain o) s

/-- TWAIT (R259, R305). -/
def planTwait (o : Tw) (s : State) : Plan :=
  match s.me.rdTk o.tk.toNat with
  | .complete => .go id
  | .pending c => .stall (s.chargeToken c)
  | .failed _ a => .trap ENGFAULT (some (BitVec.ofNat 64 a))

/-- TWAIT issued alone. -/
def execTwait (o : Tw) (s : State) : Host.Outcome State Fault Refusal :=
  alone (.twait o) (planTwait o) s

/-! Events (R261, R262). -/

/-- Set a strand's latch; a WFE that waits ends, and clears it. -/
def Strand.event (t : Strand) : Strand :=
  if t.trail = some .wfe then { t with trail := none, trailSafe := none, latch := false } else { t with latch := true }

/-- Set latches n clocks from now. -/
def State.signalAfter (s : State) (n : Nat) (l : List Nat) : State :=
  l.foldl (fun s who => s.after (leafOf s.cur) n (.eventLatchSet who)) s

/-- The strands that SEV's operand selects at a scope (R261). -/
def sevTargets (who : Nat) (x : W64) (scope : Scope) : List Nat :=
  let strands := (List.range 4).filter x.getLsbD
  match scope with
  | .core => strands.map (4 * coreOf who + ·)
  | .cluster =>
    ((List.range 8).filter fun c => x.getLsbD (8 + c)).flatMap fun c => strands.map (4 * (coreOf who / 8 * 8 + c) + ·)
  | .leaf => strands.map (4 * (64 * leafOf who + (x.extractLsb' 16 6).toNat) + ·)
  | _ => []

/-- SEV (R261). -/
def planSev (o : Scr) (s : State) : Plan :=
  let ts := sevTargets s.cur (s.me.rdS o.s) o.scope
  match o.scope with
  | .strand => .reg Strand.event
  | .core => .go fun s => s.signalAfter 1 ts
  | .cluster => .go fun s => s.signalAfter 4 ts
  | _ => .go fun s => s.signalAfter 12 ts

/-- SEV issued alone. -/
def execSev (o : Scr) (s : State) : Host.Outcome State Fault Refusal :=
  alone (.sev o) (planSev o) s

/-- EVENT_LATCH_SET (R261, R262). -/
def execEventLatchSet (who : Nat) (s : State) : Host.Outcome State Fault Refusal :=
  .next ((s.unpost (.eventLatchSet who)).onStrand who Strand.event)

/-- WFE (R262). -/
def planWfe (_s : State) : Plan :=
  .reg fun t => if t.latch then { t with latch := false } else { t with trail := some .wfe }

/-- WFE issued alone. -/
def execWfe (s : State) : Host.Outcome State Fault Refusal := alone .wfe planWfe s

/-! Barriers (R263). -/

/-- The strands at a scope. -/
def scopeStrands (m : Option Member) : Scope → Nat
  | .core => 4
  | .cluster => 32
  | .leaf => 256
  | _ => 256 * (match m with
    | some m => m.gangSize
    | none => 1)

/-- Where a scope instance keeps its barrier b: core barriers in the core, the others in the member. -/
def barKey (who : Nat) (x : Scope) (b : Nat) : Nat :=
  match x with
  | .cluster => 16 * (coreOf who % 64 / 8) + b
  | .leaf => 128 + b
  | _ => 144 + b

/-- The open episode of a barrier. -/
def State.episode (s : State) (who : Nat) (x : Scope) (b : Nat) : Option Episode :=
  if x = .core then (s.core (coreOf who)).barriers.find? b
  else match s.memberOf who with
    | some m => m.barriers.find? (barKey who x b)
    | none => none

/-- Replace the open episode of a barrier, or close it. -/
def State.setEpisode (s : State) (who : Nat) (x : Scope) (b : Nat) (e : Option Episode) : State :=
  let put (m : FMap Episode) (k : Nat) : FMap Episode := match e with
    | some e => m.set k e
    | none => m.erase k
  if x = .core then s.onCore (coreOf who) fun c => { c with barriers := put c.barriers b }
  else s.onLeaf (leafOf who) fun l => { l with member := l.member.map fun m => { m with barriers := put m.barriers (barKey who x b) } }

/-- An arriver of a closed episode goes on, as after an acquire (R263, R286). -/
def State.passBar (s : State) (who : Nat) (x : Scope) : State :=
  let s := s.onStrand who fun t => { t with trail := none, trailSafe := none }
  if s.beyondL1 (coreOf who) x then s.dropAll (coreOf who) else s

/-- A strand's name at a gang barrier: with its member's index (R263). -/
def arriver (member who : Nat) : Nat := member * 256 + who % 256

/-- An arrival at a barrier within the leaf; the N-th releases every arriver (R263). who names the barrier's instance, a the arriver by its
number in the leaf. -/
def State.arrive (s : State) (who : Nat) (x : Scope) (b n a : Nat) : State :=
  let e : Episode := (s.episode who x b).getD { n := n, arrived := [] }
  let e := { e with arrived := e.arrived ++ [a] }
  if e.arrived.length < e.n then s.setEpisode who x b (some e)
  else e.arrived.foldl (fun s w => s.passBar (256 * leafOf who + w) x) (s.setEpisode who x b none)

/-! Gang barriers are kept by member 0, which takes the arrivals of every member in one order and answers each (R263; log 41). -/

/-- The answer reaches the arriving strand: an episode that ends before the BAR has gone on leaves it nothing to wait for. -/
def State.barTold (s : State) (leaf w : Nat) (x : BarAnswer) : State :=
  let who := 256 * leaf + w
  match x, (s.strand who).trail with
  | .over, some (.bar .gang _) => s.passBar who .gang
  | _, _ => s.onStrand who fun t => { t with gangBar := some (some x) }

/-- The keeper answers an arriver, here or on its member's leaf. -/
def State.barAnswer (s : State) (leaf : Nat) (x : BarAnswer) (a : Nat) : State :=
  if a / 256 = 0 then s.barTold leaf (a % 256) x else s.inject leaf (a / 256) 1 (.barReply (a % 256) x)

/-- An arrival comes to the keeper on a leaf. -/
def State.barKept (s : State) (leaf b n a : Nat) : State :=
  let at_ := 256 * leaf
  let e : Episode := (s.episode at_ .gang b).getD { n := n, arrived := [] }
  if e.n ≠ n then s.barAnswer leaf .differs a
  else if e.arrived.length + 1 < n then (s.setEpisode at_ .gang b (some { e with arrived := e.arrived ++ [a] })).barAnswer leaf .arrived a
  else (e.arrived ++ [a]).foldl (fun s a => s.barAnswer leaf .over a) (s.setEpisode at_ .gang b none)

/-- A strand asks to arrive at a gang barrier, as after a release at gang scope. -/
def State.askBar (s : State) (b n : Nat) : State :=
  match s.memberOf s.cur with
  | none => s
  | some m =>
    let u := (s.cleanFor .gang).onMe fun t => { t with gangBar := some none }
    let a := arriver m.member s.cur
    if m.member = 0 then u.barKept (leafOf s.cur) b n a else u.inject (leafOf s.cur) 0 1 (.arrive b n a)

/-- A BAR at gang scope has arrived and goes on to its trailing wait, unless its episode has ended. -/
def State.enterBar (s : State) (b : Nat) (closes : Bool) : State :=
  let s := s.onMe fun t => { t with gangBar := none, trail := if closes then t.trail else some (.bar .gang b) }
  if closes then s.passBar s.cur .gang else s

/-- BAR at gang scope, its operand checked and its release made (R263). -/
def gangBar (s : State) (b n : Nat) : Plan :=
  match s.me.gangBar with
  | none => .stall (s.askBar b n)
  | some none => .stall s
  | some (some .differs) => .trap BOUNDS none
  | some (some x) => .go fun s => s.enterBar b (x == .over)

/-- BAR at core, cluster or leaf scope (R263). -/
def State.hereBar (s : State) (x : Scope) (b n : Nat) : State :=
  ((s.cleanFor x).onMe fun t => { t with trail := some (.bar x b) }).arrive s.cur x b n (s.cur % 256)

/-- BAR (R263). -/
def planBar (o : Scr) (s : State) : Plan :=
  let x := s.me.rdS o.s
  let n := x.toNat % 2 ^ 32
  let b := x.toNat / 2 ^ 32 % 16
  .need (decide (x.toNat < 2 ^ 36) && n != 0 && decide (n ≤ scopeStrands (s.memberOf s.cur) o.scope)) BOUNDS <|
  if o.scope = .gang then ordered s (s.drained s.cur .gang && s.me.waits.isEmpty) (gangBar s b n)
  else
    .need (match s.episode s.cur o.scope b with
      | some e => e.n == n
      | none => true) BOUNDS <|
    ordered s (s.earlierDone s.cur s.me.memSeq && s.me.waits.isEmpty) (.go fun s => s.hereBar o.scope b n)

/-- BAR issued alone. -/
def execBar (o : Scr) (s : State) : Host.Outcome State Fault Refusal :=
  alone (.bar o) (planBar o) s

/-! Pod time (R264, R265). -/

/-- RDNOW (R264). -/
def planRdnow (o : Sr) (s : State) : Plan :=
  let now := s.now
  .reg fun t => t.wrS o.s now

/-- RDNOW issued alone. -/
def execRdnow (o : Sr) (s : State) : Host.Outcome State Fault Refusal :=
  alone (.rdnow o) (planRdnow o) s

/-- WAITT (R265): a target already passed ends the wait at once. -/
def planWaitt (o : Sr) (s : State) : Plan :=
  let x := s.me.rdS o.s
  if x.toNat ≤ s.now.toNat then .go id
  else .go fun s => (s.onMe fun t => { t with trail := some (.waitt x) }).post (.waittExpiry s.cur)

/-- WAITT issued alone. -/
def execWaitt (o : Sr) (s : State) : Host.Outcome State Fault Refusal :=
  alone (.waitt o) (planWaitt o) s

/-- WAITT_EXPIRY (R265). -/
def execWaittExpiry (who : Nat) (s : State) : Host.Outcome State Fault Refusal :=
  match (s.strand who).trail with
  | some (.waitt x) =>
    if x.toNat ≤ s.now.toNat then
      .next ((s.unpost (.waittExpiry who)).onStrand who fun t => { t with trail := none, trailSafe := none })
    else .next s
  | _ => .next (s.unpost (.waittExpiry who))

/-! Regions (R224, R226, R266). -/

/-- The dirty lines of a region's backed part (R224). -/
def Region.dirtyBacked (r : Region) : List Nat :=
  if r.wb then (List.range 256).filter fun i => r.dirty.getLsbD i && decide (64 * i < r.backed) else []

/-- The bytes of the save area slot of a region that write-back copies from there, or what asks for them; 0 of a region whose
bytes are resident, or that has nothing to copy (R77, R224). -/
def State.slotBytes (s : State) (core n : Nat) : State × Option Nat :=
  let r := s.region core n
  match s.memberOf (4 * core) with
  | some m => if r.state = .saved ∧ r.dirtyBacked ≠ [] then s.slotRead core n m else (s, some 0)
  | none => (s, some 0)

/-- A line of a region that write-back copies: the resident bytes, or those of its save area slot (R77, R224). -/
def State.regionLine (s : State) (core n slot line : Nat) : Nat :=
  if (s.region core n).state = .saved then slot / 2 ^ (512 * line) % 2 ^ 512
  else (s.core core).local_.readNat (16384 * n + 64 * line) 64

/-- Write a region back as weak stores of the strand cur, and leave it clean (R224, R266); slot is what its save area slot holds. -/
def State.writeBack (s : State) (n slot : Nat) : State :=
  let core := coreOf s.cur
  let r := s.region core n
  let s := r.dirtyBacked.foldl (fun s i =>
    s.enterStore s.cur (.writeBack n i) [] (r.vbase.toNat + 64 * i) 64 (s.regionLine core n slot i) (2 ^ 512 - 1)) s
  (s.setRegion core n { s.region core n with dirty := 0 }).forget (leafOfCore core) (.region core n)

/-- What the region instructions wait for (R226): commands that reach the region, and a fill or first touch in progress. -/
def regionPlan (s : State) (a : W64) (p : Plan) : Plan :=
  .need (decide (a.toNat < 64)) BOUNDS <|
  let core := coreOf s.cur
  if s.regionBusy core a.toNat || (s.region core a.toNat).filling.isSome then .stall s else p

/-- A region instruction whose write-back copies from a save area slot on another package stalls until the bytes have come. -/
def slotPlan (s : State) (n : Nat) (f : Nat → State → State) : Plan :=
  match (s.ownRegion (coreOf s.cur) n).slotBytes (coreOf s.cur) n with
  | (_, some x) => .go (f x)
  | (u, none) => .stall u

/-- Put a new entry in place of a region's, after the write-back of the old (R266). -/
def State.remap (s : State) (n : Nat) (vbase rattr : W64) (slot : Nat) : State :=
  let core := coreOf s.cur
  let s := (s.ownRegion core n).writeBack n slot
  s.setRegion core n { s.region core n with vbase := vbase, rattr := rattr, state := .fresh, dirty := 0 }

/-- RMAP (R266). -/
def planRmap (o : Rmap) (s : State) : Plan :=
  let t := s.me
  .need (rattrOk (t.rdS o.b) (t.rdS o.c)) BOUNDS <|
  regionPlan s (t.rdS o.a) <| slotPlan s (t.rdS o.a).toNat fun slot s => s.remap (t.rdS o.a).toNat (t.rdS o.b) (t.rdS o.c) slot

/-- RMAP issued alone. -/
def execRmap (o : Rmap) (s : State) : Host.Outcome State Fault Refusal :=
  alone (.rmap o) (planRmap o) s

/-- RUNMAP (R266). -/
def planRunmap (o : Ra) (s : State) : Plan :=
  let a := s.me.rdS o.a
  regionPlan s a <| slotPlan s a.toNat fun slot s => s.remap a.toNat 0 0x100 slot

/-- RUNMAP issued alone. -/
def execRunmap (o : Ra) (s : State) : Host.Outcome State Fault Refusal :=
  alone (.runmap o) (planRunmap o) s

/-- RFLUSH (R266). -/
def planRflush (o : Ra) (s : State) : Plan :=
  let a := s.me.rdS o.a
  regionPlan s a <| .go fun s =>
    let s := s.ownRegion (coreOf s.cur) a.toNat
    if (s.region (coreOf s.cur) a.toNat).state = .held then s.writeBack a.toNat 0 else s

/-- RFLUSH issued alone. -/
def execRflush (o : Ra) (s : State) : Host.Outcome State Fault Refusal :=
  alone (.rflush o) (planRflush o) s

end Sys2Proof.Machine
end

