-- ==== Sys2Proof/Machine/Control.lean ====
section
/-! DEFINITION. Branches, calls, hardware loops, safe points and task end (R95, R99, R174 to R186, R426). -/

namespace Sys2Proof.Machine

/-! Branches (R95, R174 to R176, R426). -/

/-- A taken branch: its target issues after two delay bundles (R95). -/
def Strand.branchTo (t : Strand) (target : Nat) (bsw : Bool) : Strand :=
  { t with pend := some { left := 2, target := some target, bsw := bsw } }

/-- The target of a displacement, in code units modulo 2^64; a target below zero lies beyond every stream (R174, R175). -/
def dispTarget (pc : Nat) (disp : BitVec 24) : Nat := (wrap64 (pc + disp.toInt)).toNat

/-- BR (R174). -/
def planBr (o : Bd) (s : State) : Plan :=
  let a := dispTarget s.me.pc o.disp
  .reg fun t => t.branchTo a false

/-- BR issued alone. -/
def execBr (o : Bd) (s : State) : Host.Outcome State Fault Refusal :=
  alone (.br o) (planBr o) s

/-- BRI (R174). -/
def planBri (o : Bs) (s : State) : Plan :=
  let a := (s.me.rdS o.sl).toNat
  .reg fun t => t.branchTo a false

/-- BRI issued alone. -/
def execBri (o : Bs) (s : State) : Host.Outcome State Fault Refusal :=
  alone (.bri o) (planBri o) s

/-- CALL (R174, R176): the link is known once both delay bundles have been fetched. -/
def planCall (o : Bsd) (s : State) : Plan :=
  let a := dispTarget s.me.pc o.disp
  match s.linkAt s.cur (s.located s.cur) with
  | .inr l => .stall (s.askLine (coreOf s.cur) l)
  | .inl (some x) => .reg fun t => (t.wrS o.sl (BitVec.ofNat 64 x)).branchTo a false
  | .inl none => .go fun s =>
    let (x, s) := s.freeWord
    s.onMe fun t => (t.wrS o.sl x).branchTo a false

/-- CALL issued alone. -/
def execCall (o : Bsd) (s : State) : Host.Outcome State Fault Refusal :=
  alone (.call o) (planCall o) s

/-- RET (R174). -/
def planRet (o : Bs) (s : State) : Plan :=
  let a := (s.me.rdS o.sl).toNat
  .reg fun t => t.branchTo a false

/-- RET issued alone. -/
def execRet (o : Bs) (s : State) : Host.Outcome State Fault Refusal :=
  alone (.ret o) (planRet o) s

/-- BANKSW (R99, R426); in supervisor state it acts as BR (R407). -/
def planBanksw (o : Bd) (s : State) : Plan :=
  let a := dispTarget s.me.pc o.disp
  .reg fun t => t.branchTo a (!t.super)

/-- BANKSW issued alone. -/
def execBanksw (o : Bd) (s : State) : Host.Outcome State Fault Refusal :=
  alone (.banksw o) (planBanksw o) s

/-! Hardware loops (R177, R181, R182). -/

/-- Install a level: pending copies move first and the new bounds overwrite them (R181); a late write of the activation
it replaces is gone with it (log 24). -/
def Strand.install (t : Strand) (lvl : Bool) (ls le : Nat) (n : Nat) (nstg : Option Nat) : Strand :=
  let t := { t with late := t.late.filter (fun p => p.1 != lvl), lateHeld := t.lateHeld.filter fun p => p.1 != lvl }
  t.onLoop lvl fun l =>
    { l with ls := BitVec.ofNat 32 ls, le := BitVec.ofNat 32 le, lsPend := none, lePend := none, act := n != 0, nstg := nstg,
             lc := if n = 0 ∧ nstg.isSome then l.lc else BitVec.ofNat 32 (n + nstg.getD 0) }

/-- MLOOP's stage predicates and bases (R182). -/
def Strand.stages (t : Strand) : Strand :=
  let t := { t with rvb := 0, rpb := 0 }
  { t with pregs := setBit ((List.range 32).foldl (fun b i => setBit b (32 + i) false) t.pregs) 63 true }

/-- LOOP and MLOOP (R177, R182). A zero-trip entry skips the body; in a delay bundle of a taken branch it installs
nothing. -/
def loopForm (s : State) (sc : BitVec 6) (lvl : Bool) (len : BitVec 16) (nstg : Option Nat) : Plan :=
  let t := s.me
  let f := s.located s.cur
  let n := (t.rdS sc).toNat
  let le := f.addr + len.toNat
  let next := f.addr + f.len
  .need (!t.super) PRIV <|
  .need (decide (n < 2 ^ 31)) BOUNDS <|
  if n ≠ 0 then .reg fun t =>
    let t := t.install lvl next le n nstg
    if nstg.isSome then t.stages else t
  else if t.pend.any fun p => p.target.isSome then .go id
  else match s.afterBody s.cur le (len.toNat + 1) next f.runs with
    | .miss l => .stall (s.askLine (coreOf s.cur) l)
    | .at pc r => .reg fun t => { t.install lvl next le 0 nstg with next := some (pc, r) }

/-- LOOP (R177). -/
def planLoop (o : Lp) (s : State) : Plan := loopForm s o.sc o.lvl o.len none

/-- LOOP issued alone. -/
def execLoop (o : Lp) (s : State) : Host.Outcome State Fault Refusal :=
  alone (.loop o) (planLoop o) s

/-- MLOOP (R182). -/
def planMloop (o : Mlp) (s : State) : Plan := loopForm s o.sc o.lvl o.len (some o.nstg.toNat)

/-- MLOOP issued alone. -/
def execMloop (o : Mlp) (s : State) : Host.Outcome State Fault Refusal :=
  alone (.mloop o) (planMloop o) s

/-! Safe points and task end (R184, R186, R243, R407, R412). -/

/-- A safe point commits: the counter resets; a stop that is pending is taken; a trailing wait of the bundle becomes a
waiting safe point (R184, R243). -/
def Strand.safePoint (t : Strand) (n : Nat) : Strand :=
  let t := { t with safeCount := 0 }
  let t := if t.trail.isSome then { t with trailSafe := some n } else t
  if t.stop = .pending then { t with stop := .stopped n } else t

/-- SAFE (R184); in supervisor state it only checks its index (R407). -/
def planSafe (o : Im) (s : State) : Plan :=
  let n := o.imm.toNat
  .need (decide (n < ((s.memberOf s.cur).map Member.nlive).getD 0)) BOUNDS <|
  if s.me.super then .go id
  else if !s.me.quiet then .stall s
  else .reg fun t => t.safePoint n

/-- SAFE issued alone. -/
def execSafe (o : Im) (s : State) : Host.Outcome State Fault Refusal :=
  alone (.safe o) (planSafe o) s

/-- The task's last bundle has committed (R186): no later bundle of it issues and both levels are inactive. A late write to LC
that still waits for a test is gone: LC keeps its value (log 24). -/
def Strand.ended (t : Strand) : Strand :=
  { t with retiring := true, super := false, pend := none, late := [], lateHeld := [], loop0 := { t.loop0 with act := false },
           loop1 := { t.loop1 with act := false } }

/-- Is an XPUT of a strand still on its way, or waiting at its destination (R482). -/
def State.pushesFrom (s : State) (who : Nat) : Bool := s.cores.any fun c => c.2.pushes.any fun p => p.who == who

/-- Has the task's store buffer emptied, and have its remote and pool stores and its XPUTs completed (R293). -/
def State.tendDone (s : State) (who : Nat) : Bool :=
  (s.strand who).stores.isEmpty && (s.strand who).sent.isEmpty && (s.strand who).waits.isEmpty && !s.pushesFrom who

/-- TEND (R186, R260, R293, R305): a held fault of an earlier access and a failed command of the task are reported at its
bundle; in supervisor state it acts as
ERET where ABORT is 1 (R412). -/
def planTend (s : State) : Plan :=
  if s.me.super && s.me.trap.abort then .abort (s.abortTask s.cur none)
  else ordered s (s.tendDone s.cur) <|
  match s.me.failed with
  | (_, a) :: _ => .trap ENGFAULT (some (BitVec.ofNat 64 a))
  | [] => .go fun s => (s.onMe Strand.ended).post (.taskRetire s.cur)

/-- TEND issued alone. -/
def execTend (s : State) : Host.Outcome State Fault Refusal := alone .tend planTend s

end Sys2Proof.Machine
end

