-- ==== Sys2Proof/Machine/GlobalMem.lean ====
section
/-! DEFINITION. The memory map's global half: loads, stores, acquires, releases, prefetch and atomics (R239 to R242,
R248 to R257). -/

namespace Sys2Proof.Machine

/-- Does a buffered store of the strand overlap an access. -/
def Strand.storesTo (t : Strand) (va n : Nat) : Bool := t.stores.any fun e => overlaps e.va e.len va n

/-- A global load of a strand: alignment, precise translation, then a scoreboarded access (R241, R248, R249). An
acquire or atomic to another member's memory leaves after the strand's own stores to its bytes. -/
def globalLoad (s : State) (kind : AccessKind) (dest : LoadDest) (va align len mask : Nat) (scope : Scope) (drops : Bool)
    (pre : State → State) : Plan :=
  .needAt (va % align == 0) ALIGN (BitVec.ofNat 64 va) <|
  xlated s needRd va (linesOf va len mask) fun ps =>
    let late := kind != .load && s.me.storesTo va len && ps.any fun p => match p.2 with
      | .remote _ _ => true
      | _ => false
    if late then .stall s
    else .go fun s => (pre s).issueLoad kind dest va len ps scope drops 1 fun off n => .read n off 64

/-- A vector load into VD under K (R240). -/
def vectorLoad (s : State) (kind : AccessKind) (reg : BitVec 8) (k : BitVec 4) (f : Fmt) (va : Nat) (scope : Scope) (drops : Bool)
    (pre : State → State) : Plan :=
  let t := s.me
  .need (destTagOk t k reg.toNat f) FMTTAG <|
  globalLoad s kind (.vec (t.physV reg.toNat) f (t.rdK k)) va 64 (memBytes f) (memMask f (t.rdK k)) scope drops pre

/-- A scalar load. -/
def scalarLoad (s : State) (kind : AccessKind) (reg : BitVec 8) (f : Fmt) (va : Nat) (scope : Scope) (pre : State → State) : Plan :=
  let z := scalarBytes f
  globalLoad s kind (.scalar (reg.toNat % 64) f) va z z (2 ^ (8 * z) - 1) scope false pre

/-- GLD (R248, R249). -/
def planGld (o : Gm) (s : State) : Plan := vectorLoad s .load o.reg o.k o.fmt (gmAddr s o.sa 64 o.disp) .strand false id

/-- GLD issued alone. -/
def execGld (o : Gm) (s : State) : Host.Outcome State Fault Refusal :=
  alone (.gld o) (planGld o) s

/-- GLDS (R248, R249). -/
def planGlds (o : Gm) (s : State) : Plan := scalarLoad s .load o.reg o.fmt (gmAddr s o.sa 8 o.disp) .strand id

/-- GLDS issued alone. -/
def execGlds (o : Gm) (s : State) : Host.Outcome State Fault Refusal :=
  alone (.glds o) (planGlds o) s

/-- LDLU (R251). -/
def planLdlu (o : Gm) (s : State) : Plan := vectorLoad s .load o.reg o.k o.fmt (gmAddr s o.sa 64 o.disp) .strand true id

/-- LDLU issued alone. -/
def execLdlu (o : Gm) (s : State) : Host.Outcome State Fault Refusal :=
  alone (.ldlu o) (planLdlu o) s

/-- Before an acquire at pool scope or wider the S lines that the strand's own loads filled are invalidated (R253). -/
def acquireFirst (x : Scope) (s : State) : State := if x = .pool ∨ x = .system then s.poolAcquire s.cur else s

/-- GLDACQ (R253). -/
def planGldacq (o : Gms) (s : State) : Plan :=
  scalarLoad s .acquire o.reg o.fmt (gmAddr s o.sa 8 o.disp) o.scope (acquireFirst o.scope)

/-- GLDACQ issued alone. -/
def execGldacq (o : Gms) (s : State) : Host.Outcome State Fault Refusal :=
  alone (.gldacq o) (planGldacq o) s

/-- GLDACQV (R253). -/
def planGldacqv (o : Gmv) (s : State) : Plan :=
  vectorLoad s .acquire o.reg o.k o.fmt (gmAddr s o.sa 64 o.disp) o.scope false (acquireFirst o.scope)

/-- GLDACQV issued alone. -/
def execGldacqv (o : Gmv) (s : State) : Host.Outcome State Fault Refusal :=
  alone (.gldacqv o) (planGldacqv o) s

/-- A store enters the buffer, which holds 64; a full buffer stalls it (R250). -/
def bufferStore (s : State) (kind : StoreKind) (lines : List (Nat × Phys)) (va len data mask : Nat) : Plan :=
  if 64 ≤ s.me.buffered then .stall s else .go fun s => s.enterStore s.cur kind lines va len data mask

/-- A weak store (R248, R250). -/
def weakStore (s : State) (va align len data mask : Nat) : Plan :=
  .needAt (va % align == 0) ALIGN (BitVec.ofNat 64 va) <| bufferStore s .weak [] va len data mask

/-- A release: precise translation, then the waits of R253, then the store at its scope. -/
def releaseStore (s : State) (kind : StoreKind) (x : Scope) (va align len data mask : Nat) : Plan :=
  .needAt (va % align == 0) ALIGN (BitVec.ofNat 64 va) <|
  xlated s needWr va (linesOf va len mask) fun ps =>
  ordered s (s.earlierDone s.cur s.me.memSeq) <|
  match bufferStore s kind ps va len data mask with
  | .go f => .go fun s => f (s.cleanFor x)
  | p => p

/-- GST (R248, R250). -/
def planGst (o : Gm) (s : State) : Plan :=
  let t := s.me
  .need (tagOrRaw t o.reg.toNat o.fmt) FMTTAG <|
  weakStore s (gmAddr s o.sa 64 o.disp) 64 (memBytes o.fmt) (toMem o.fmt (t.rdV o.reg.toNat).bits) (memMask o.fmt (t.rdK o.k))

/-- GST issued alone. -/
def execGst (o : Gm) (s : State) : Host.Outcome State Fault Refusal :=
  alone (.gst o) (planGst o) s

/-- GSTS (R248, R250). -/
def planGsts (o : Gm) (s : State) : Plan :=
  let z := scalarBytes o.fmt
  weakStore s (gmAddr s o.sa 8 o.disp) z z ((s.me.rdS (o.reg.setWidth 6)).toNat % 2 ^ (8 * z)) (2 ^ (8 * z) - 1)

/-- GSTS issued alone. -/
def execGsts (o : Gm) (s : State) : Host.Outcome State Fault Refusal :=
  alone (.gsts o) (planGsts o) s

/-- GSTREL (R253). -/
def planGstrel (o : Gms) (s : State) : Plan :=
  let z := scalarBytes o.fmt
  releaseStore s (.release o.scope) o.scope (gmAddr s o.sa 8 o.disp) z z ((s.me.rdS (o.reg.setWidth 6)).toNat % 2 ^ (8 * z)) (2 ^ (8 * z) - 1)

/-- GSTREL issued alone. -/
def execGstrel (o : Gms) (s : State) : Host.Outcome State Fault Refusal :=
  alone (.gstrel o) (planGstrel o) s

/-- GSTRELV (R253). -/
def planGstrelv (o : Gmv) (s : State) : Plan :=
  let t := s.me
  .need (tagOrRaw t o.reg.toNat o.fmt) FMTTAG <|
  releaseStore s (.release o.scope) o.scope (gmAddr s o.sa 64 o.disp) 64 (memBytes o.fmt) (toMem o.fmt (t.rdV o.reg.toNat).bits)
    (memMask o.fmt (t.rdK o.k))

/-- GSTRELV issued alone. -/
def execGstrelv (o : Gmv) (s : State) : Host.Outcome State Fault Refusal :=
  alone (.gstrelv o) (planGstrelv o) s

/-- Bring a line into L1, or into the pool line cache for a pool address; every fault is dropped (R252). -/
def State.prefetch (s : State) (who va : Nat) : State :=
  let leaf := leafOf who
  if va % 64 ≠ 0 then s else
  match s.xlate leaf needRd va with
  | .mapped e =>
    match e.at va with
    | .hbm _ off =>
      let have_ := (((s.core (s.l1Home (coreOf who) va)).l1.find? (off / 64)).any fun l => l.valid == BitVec.allOnes 64)
      if have_ then s else (s.l1Fill (coreOf who) va off (s.keyVf leaf).1).countBytes leaf va 64
    | .pool a =>
      if s.gate leaf (.pool a) = .ok ∧ (s.poolLines.find? (poolSlot (s.keyVf leaf).1 (a / 64))).isNone then
        (s.poolFill (s.keyVf leaf).1 (a / 64) .shared (some who)).countBytes leaf va 64
      else s
    | _ => s
  | _ => s

/-- PREF (R252). -/
def planPref (o : Pf) (s : State) : Plan :=
  let va := gmAddr s o.sa 64 o.disp
  .go fun s => s.prefetch s.cur va

/-- PREF issued alone. -/
def execPref (o : Pf) (s : State) : Host.Outcome State Fault Refusal :=
  alone (.pref o) (planPref o) s

/-- The new value of an atomic's word of w bits (R256). -/
def atomicNew (op : BitVec 3) (w : Nat) (old x q : Nat) : Nat :=
  let sg (n : Nat) : Int := if 2 ^ (w - 1) ≤ n then (n : Int) - 2 ^ w else n
  match op.toNat with
  | 0 => (old + x) % 2 ^ w
  | 1 => if sg x < sg old then x else old
  | 2 => if sg old < sg x then x else old
  | 3 => old &&& x
  | 4 => old ||| x
  | 5 => old ^^^ x
  | 6 => x
  | _ => if old = q then x else old

/-- An atomic (R256): precise translation with both permissions, then a scoreboarded access. -/
def atomicForm (op : BitVec 3) (s : State) (d a b c : BitVec 6) (scope : Scope) (wide : Bool) : Plan :=
  let t := s.me
  let va := (t.rdS a).toNat
  let z := if wide then 8 else 4
  let cut (x : W64) : W64 := if wide then x else x &&& 0xFFFFFFFF
  let x := cut (t.rdS b)
  let q := cut (t.rdS c)
  .needAt (va % z == 0) ALIGN (t.rdS a) <|
  xlated s needRw va (linesOf va z (2 ^ (8 * z) - 1)) fun ps =>
    let late := t.storesTo va z && ps.any fun p => match p.2 with
      | .remote _ _ => true
      | _ => false
    if late then .stall s
    else .go fun s => s.issueLoad (.atomic op wide x q) (.scalar d.toNat (if wide then .raw else .int32)) va z ps scope false 2
      fun off n => .atomic n (off + va % 64) op wide x q

/-- AADD (R256). -/
def planAadd (o : At) (s : State) : Plan := atomicForm 0 s o.d o.a o.b 0 o.scope o.wide

/-- AADD issued alone. -/
def execAadd (o : At) (s : State) : Host.Outcome State Fault Refusal :=
  alone (.aadd o) (planAadd o) s

/-- AMIN (R256). -/
def planAmin (o : At) (s : State) : Plan := atomicForm 1 s o.d o.a o.b 0 o.scope o.wide

/-- AMIN issued alone. -/
def execAmin (o : At) (s : State) : Host.Outcome State Fault Refusal :=
  alone (.amin o) (planAmin o) s

/-- AMAX (R256). -/
def planAmax (o : At) (s : State) : Plan := atomicForm 2 s o.d o.a o.b 0 o.scope o.wide

/-- AMAX issued alone. -/
def execAmax (o : At) (s : State) : Host.Outcome State Fault Refusal :=
  alone (.amax o) (planAmax o) s

/-- AAND (R256). -/
def planAand (o : At) (s : State) : Plan := atomicForm 3 s o.d o.a o.b 0 o.scope o.wide

/-- AAND issued alone. -/
def execAand (o : At) (s : State) : Host.Outcome State Fault Refusal :=
  alone (.aand o) (planAand o) s

/-- AOR (R256). -/
def planAor (o : At) (s : State) : Plan := atomicForm 4 s o.d o.a o.b 0 o.scope o.wide

/-- AOR issued alone. -/
def execAor (o : At) (s : State) : Host.Outcome State Fault Refusal :=
  alone (.aor o) (planAor o) s

/-- AXOR (R256). -/
def planAxor (o : At) (s : State) : Plan := atomicForm 5 s o.d o.a o.b 0 o.scope o.wide

/-- AXOR issued alone. -/
def execAxor (o : At) (s : State) : Host.Outcome State Fault Refusal :=
  alone (.axor o) (planAxor o) s

/-- ASWAP (R256). -/
def planAswap (o : At) (s : State) : Plan := atomicForm 6 s o.d o.a o.b 0 o.scope o.wide

/-- ASWAP issued alone. -/
def execAswap (o : At) (s : State) : Host.Outcome State Fault Refusal :=
  alone (.aswap o) (planAswap o) s

/-- ACAS (R256). -/
def planAcas (o : Atc) (s : State) : Plan := atomicForm 7 s o.d o.a o.b o.c o.scope o.wide

/-- ACAS issued alone. -/
def execAcas (o : Atc) (s : State) : Host.Outcome State Fault Refusal :=
  alone (.acas o) (planAcas o) s

end Sys2Proof.Machine
end

