-- ==== Sys2Proof/Machine/System.lean ====
section
/-! DEFINITION. The system instructions of the branch slot: control registers, traps and returns, issue, overlays, the
statistics queue and signals (R98, R131 to R134, R172, R173, R407 to R413, R425 to R432). -/

namespace Sys2Proof.Machine

/-- YIELD (R430). -/
def planYield (_s : State) : Plan := .go fun s => s.onMyCore fun c => { c with yielded := true }

/-- YIELD issued alone. -/
def execYield (s : State) : Host.Outcome State Fault Refusal := alone .yield planYield s

/-- TRAP (R413): the bundle commits and the handler is entered with SWTRAP; the resume point is filled in as the bundle
advances. -/
def planTrap (o : Im) (s : State) : Plan :=
  let syl := rawSyllable (s.located s.cur).raw .b
  .reg fun t =>
    { t with trapReq := some { cause := SWTRAP, slot := .b, fetch := false, addr := some (o.imm.zeroExtend 64), syl := syl, pc := t.pc, pend := none } }

/-- TRAP issued alone. -/
def execTrap (o : Im) (s : State) : Host.Outcome State Fault Refusal :=
  alone (.trap o) (planTrap o) s

/-- ERET (R412): with ABORT 1 the task is aborted at its bundle, of which no slot commits (R398). -/
def planEret (s : State) : Plan :=
  .need s.me.super PRIV <|
  if s.me.trap.abort then .abort (s.abortTask s.cur none) else .reg Strand.leave

/-- ERET issued alone. -/
def execEret (s : State) : Host.Outcome State Fault Refusal := alone .eret planEret s

/-! Control registers (R131 to R134, R172, R173). -/

/-- Is a control register marked S (R131). -/
def crSuper (n : Nat) : Bool := decide (0x10 ≤ n ∧ n < 0x18) || n == 0x20

/-- MFS (R172). -/
def planMfs (o : Mfs) (s : State) : Plan :=
  let n := o.cr.toNat
  let x := s.readCr s.cur n
  .need (s.me.super || !crSuper n) PRIV <| .reg fun t => t.wrS o.sd x

/-- MFS issued alone. -/
def execMfs (o : Mfs) (s : State) : Host.Outcome State Fault Refusal :=
  alone (.mfs o) (planMfs o) s

/-- A write to LC: late while its level is active (R180). -/
def Strand.writeLc (t : Strand) (lvl : Bool) (x : W64) : Strand :=
  if (t.loop lvl).act then { t with late := t.late ++ [(lvl, x.setWidth 32)] }
  else t.onLoop lvl fun l => { l with lc := x.setWidth 32 }

/-- A write to LS or LE: pending while its level is active (R181). -/
def Strand.writeBound (t : Strand) (lvl le : Bool) (x : W64) : Strand :=
  let v : BitVec 32 := x.setWidth 32
  if (t.loop lvl).act then
    { t.onLoop lvl (fun l => if le then { l with lePend := some v } else { l with lsPend := some v }) with ledit := true }
  else t.onLoop lvl fun l => if le then { l with le := v } else { l with ls := v }

/-- The handler's writes to the trap state registers, field by field (R410). -/
def Strand.writeTrap (t : Strand) (n : Nat) (x : W64) : Strand :=
  let r := t.trap
  match n with
  | 0x10 => if r.cause = WSFAULT ∨ r.cause = ENGFAULT then t else { t with trap := { r with abort := x.getLsbD 12 } }
  | 0x11 => { t with trap := { r with pc := x.setWidth 32 } }
  | 0x13 => { t with trap := { r with ndelay := x.setWidth 2, taken := x.getLsbD 2, bsw := x.getLsbD 3, bank := x.getLsbD 4 } }
  | 0x14 => { t with trap := { r with tgt := x.setWidth 32 } }
  | 0x16 => { t with trap := { r with tscr := x } }
  | 0x17 => if x.getLsbD 24 then { t with safeOver := false } else t
  | _ => t

/-- A write of a control register, under each field's access code (R131 to R134, R173). -/
def Strand.writeCr (t : Strand) (n : Nat) (x : W64) : Strand :=
  match n with
  | 0x00 => { t with rmode := x.setWidth 2, ftz := x.getLsbD 2 }
  | 0x04 => { t with rvb := x.setWidth 6 }
  | 0x05 => { t with rpb := x.setWidth 5 }
  | 0x06 => if x.getLsbD 0 then { t with ledit := false } else t
  | 0x30 => t.writeLc false x
  | 0x31 => t.writeBound false false x
  | 0x32 => t.writeBound false true x
  | 0x33 => t.writeLc true x
  | 0x34 => t.writeBound true false x
  | 0x35 => t.writeBound true true x
  | _ => if 0x40 ≤ n then { t with cbs := t.cbs.set (n - 0x40) x } else t.writeTrap n x

/-- A descriptor that may be written (R134). The table gives SLOTSZ and NSLOT 1 to 256, but the rule's list of what raises BOUNDS does
not name 257 to 511: such a value is accepted where the extent fits (DESIGN CHOICE; unsafe: hardware could raise BOUNDS). -/
def cbOk (d : W64) : Bool :=
  cbNslot d != 0 && cbSlotSz d != 0 && decide (cbProd d < cbNslot d) && decide (cbCons d < cbNslot d) &&
  decide (cbFilled d ≤ cbNslot d) && decide (d.toNat < 2 ^ 57) && decide (cbBase d + cbSlotSz d * cbNslot d ≤ 16384)

/-- MTS (R172, R173): a descriptor waits for the commands that name its buffer (R134). -/
def planMts (o : Mts) (s : State) : Plan :=
  let n := o.cr.toNat
  let x := s.me.rdS o.sa
  let isCb : Bool := decide (0x40 ≤ n)
  .need (s.me.super || !crSuper n) PRIV <|
  .need (!isCb || cbOk x) BOUNDS <|
  if isCb && s.cbNamed s.cur (n - 0x40) then .stall s else .reg fun t => t.writeCr n x

/-- MTS issued alone. -/
def execMts (o : Mts) (s : State) : Host.Outcome State Fault Refusal :=
  alone (.mts o) (planMts o) s

/-- STQRD (R432). -/
def planStqrd (o : Sd) (_s : State) : Plan :=
  .go fun s =>
    let (x, c) := (s.core (coreOf s.cur)).takeRecord
    (s.setCore (coreOf s.cur) c).onMe fun t => t.wrS o.sd x

/-- STQRD issued alone. -/
def execStqrd (o : Sd) (s : State) : Host.Outcome State Fault Refusal :=
  alone (.stqrd o) (planStqrd o) s

/-! Overlays (R97 to R100, R427 to R429). -/

/-- Fetch lines of a core that have been asked of another leaf, or have come from it, are not used (R98). -/
def State.dropFetch (s : State) (core : Nat) : State :=
  let party := Party.fetch (4 * core)
  s.onLeaf (leafOfCore core) fun l =>
    { l with got := l.got.filter fun (g : Party × Nat × BitVec 512) => g.1 != party
             remotes := l.remotes.filter fun r => r.party != party }

/-- IFENCE (R98): it waits for the strand's earlier stores, cleans its L1 domain, and drops what has been fetched; from
the instruction store two of the strand's issue clocks pass without a bundle (R427). -/
def planIfence (s : State) : Plan :=
  if !(s.me.stores.isEmpty && s.me.sent.isEmpty) then .stall s
  else .go fun s =>
    let s := (s.clean (coreOf s.cur)).onMyCore fun c => { c with icache := [] }
    let s := s.dropFetch (coreOf s.cur)
    let n := if s.xip s.cur then 0 else 2
    s.onMe fun t => { t with ibuf := [], stale := [], view := [], refetch := n }

/-- IFENCE issued alone. -/
def execIfence (s : State) : Host.Outcome State Fault Refusal := alone .ifence planIfence s

/-- CRC-32C of a bank of the instruction store (R100). -/
def State.bankCrc (s : State) (core bank : Nat) : BitVec 32 :=
  crc32c (fun i => (s.core core).istore.read (65536 * bank + i)) 65536

/-- Clocks that DICTCHK holds its bundle (R428). -/
def dictchkClocks : Nat := 1024

/-- DICTCHK (R100, R428): the sum is taken as the bundle reaches issue, and the bundle commits when the hold ends. -/
def planDictchk (o : Dck) (s : State) : Plan :=
  let x : BitVec 32 := (s.me.rdS o.sa).setWidth 32
  match s.me.holdStarted with
  | some c => .reg fun t => { t.wrP o.pd (BitVec.ofNat 32 c == x) with holdStarted := none }
  | none =>
    let c := (s.bankCrc (coreOf s.cur) o.bank.toNat).toNat
    .stall ((s.onMe fun t => { t with hold := some c }).after (leafOf s.cur) dictchkClocks (.dictchkHoldEnd s.cur))

/-- DICTCHK issued alone. -/
def execDictchk (o : Dck) (s : State) : Host.Outcome State Fault Refusal :=
  alone (.dictchk o) (planDictchk o) s

/-- DICTCHK_HOLD_END (R428); a hold that was cut short leaves its timer behind, and only the last one counts. -/
def execDictchkHoldEnd (who : Nat) (s : State) : Host.Outcome State Fault Refusal :=
  if s.timers.any fun e => e.2.2 == .dictchkHoldEnd who then .next s else
  .next (s.onStrand who fun t => match t.hold with
    | some c => { t with hold := none, holdStarted := some c }
    | none => t)

/-- NDICT (R25). -/
def Member.ndict (m : Member) : Nat := bytesAt m.header 0x4C 2

/-- The address of a dictionary of the image (R429). -/
def Member.dictAt (m : Member) (n : Nat) : Nat := m.image + bytesAt m.header 0x48 4 + 49152 * n

/-- DICTLD (R429): the bundle holds until its bytes have landed. -/
def planDictld (o : Dld) (s : State) : Plan :=
  let n := (s.me.rdS o.sa).toNat
  .need (decide (n < ((s.memberOf s.cur).map Member.ndict).getD 0)) BOUNDS <|
  match s.me.walk with
  | some (.failed c va) => .trap c (some (BitVec.ofNat 64 va))
  | _ =>
    match s.me.holdStarted with
    | some _ => .reg fun t => { t with holdStarted := none }
    | none => .stall ((s.onMe fun t => { t with hold := some (2 * n + o.bank.toNat) }).post (.dictldDone s.cur))

/-- DICTLD issued alone. -/
def execDictld (o : Dld) (s : State) : Host.Outcome State Fault Refusal :=
  alone (.dictld o) (planDictld o) s

/-- SIGNAL (R431): a release of 8 bytes at system scope, whose performance fires the function's vector. -/
def planSignal (o : Sig) (s : State) : Plan :=
  releaseStore s .signal .system (s.me.rdS o.sd).toNat 8 8 (s.me.rdS o.sa).toNat (2 ^ 64 - 1)

/-- SIGNAL issued alone. -/
def execSignal (o : Sig) (s : State) : Host.Outcome State Fault Refusal :=
  alone (.signal o) (planSignal o) s

end Sys2Proof.Machine
end

