-- ==== Sys2Proof/Machine/CoreEvents.lean ====
section
/-! DEFINITION. What a core brings about by itself: results that land, loads that return, stores that perform, pushes,
region fills, fetch, and the entry of a trap that had to wait (R90 to R94, R221 to R224, R240, R241, R249 to R257, R273,
R274, R285 to R289, R408, R416, R429, R482). -/

namespace Sys2Proof.Machine

/-! Landings, traps and safe points. -/

/-- RESULT_LAND (R191, R241). -/
def execResultLand (who id : Nat) (s : State) : Host.Outcome State Fault Refusal :=
  match (s.strand who).flights.find? fun f => f.id == id with
  | none => .next s
  | some f =>
    if (s.leaf (leafOf who)).clk < f.due then .next s
    else .next (s.onStrand who fun t => f.lands.foldl Strand.land { t with flights := t.flights.filter fun g => g.id != id })

/-- May a strand act: its leaf is at work and the strand has not stopped (R67, R417, R424). -/
def State.strandActs (s : State) (who : Nat) : Bool :=
  s.enginesRun (leafOf who) && ((s.strand who).stop == .none || (s.strand who).stop == .pending)

/-- TRAP_ENTRY (R408). -/
def execTrapEntry (who : Nat) (s : State) : Host.Outcome State Fault Refusal :=
  match (s.strand who).trapReq with
  | none => .next (s.unpost (.trapEntry who))
  | some r =>
    if s.strandActs who && (s.strand who).quiet then .next ((s.unpost (.trapEntry who)).enterTrap who r) else .next s

/-- SAFEOVR (R416): the bound is passed. -/
def execSafeovr (who : Nat) (s : State) : Host.Outcome State Fault Refusal :=
  let s := s.unpost (.safeovr who)
  let s := s.onStrand who fun t => { t with safeOver := true }
  .next (s.onCore (coreOf who) fun c => c.record 6 (who % 4) 0 (s.strand who).last)

/-! Loads and atomics (R241, R249, R251, R253, R256, R257, R275, R362). -/

/-- Is an access strong: an acquire or an atomic. -/
def AccessKind.strong : AccessKind → Bool
  | .load => false
  | _ => true

/-- Does an access write what it reads. -/
def AccessKind.writes : AccessKind → Bool
  | .atomic _ _ _ _ => true
  | _ => false

/-- The register a scoreboarded access writes. -/
def LoadDest.reg : LoadDest → Option Reg
  | .gone => none
  | .vec n _ _ => some (.v n)
  | .scalar n _ => some (.s n)

/-- The bytes an access moves (R236, R240). -/
def LoadEntry.moved (e : LoadEntry) : Nat :=
  match e.dest with
  | .vec _ f k => ((List.range e.len).filter (byteIn (memMask f k))).length
  | .scalar _ _ | .gone => e.len

/-- What stands against the lines of an access in the pool (R275). -/
def State.loadGate (s : State) (who : Nat) (e : LoadEntry) : PoolGate :=
  e.lines.foldl (fun g p => if g != .ok then g else s.gate (leafOf who) p.2) .ok

/-- May an access perform: what is ordered before it has performed, and its remote lines have come (R249, R253, R257, R258). -/
def State.loadReady (s : State) (who : Nat) (e : LoadEntry) : Bool :=
  let t := s.strand who
  let leaf := leafOf who
  (e.remote || !(t.fences.any fun f => decide (f.id < e.id))) &&
  !(t.loads.any fun d => decide (d.id < e.id) && overlaps d.va d.len e.va e.len) &&
  (!e.kind.strong || !(t.stores.any fun d => decide (d.id < e.id) && overlaps d.va d.len e.va e.len)) &&
  !(e.kind.writes && e.lines.any fun p => s.isFrozen leaf p.1) &&
  e.lines.all fun p => match p.2 with
    | .remote _ _ => ((s.leaf leaf).gotLine (.load who e.id) p.1).isSome
    | _ => true

/-- The lines of an access, each read at the access's point (R249, R286). -/
def State.loadLines (s : State) (who : Nat) (e : LoadEntry) : State × List (Nat × BitVec 512) :=
  let far := e.kind.strong && s.beyondL1 (coreOf who) e.scope
  e.lines.foldl (fun (a : State × List (Nat × BitVec 512)) p =>
    let (s, x) := if far then a.1.pointLine who p.1 p.2 (.load who e.id) else a.1.weakLine who p.1 p.2 (.load who e.id)
    (s, a.2 ++ [(p.1, x)])) (s, [])

/-- LDLU drops the lines it covers from L1: dirty ones unwritten on a DISCARD page, written back elsewhere (R233, R251). -/
def State.dropLoaded (s : State) (who va len : Nat) : State :=
  let core := coreOf who
  ((List.range ((len + 63) / 64)).map (va / 64 + ·)).foldl (fun s l =>
    match s.xlate (leafOf who) needRd (64 * l) with
    | .mapped t =>
      match t.at (64 * l) with
      | .hbm _ off => if t.discard then s.dropLine (s.l1Home core (64 * l)) (off / 64) else s.flushLine core (64 * l) off
      | _ => s
    | _ => s) s

/-- The old value of an atomic's word, and the state after it has performed (R256, R257, R274). -/
def State.atomicAt (s : State) (who : Nat) (e : LoadEntry) (op : BitVec 3) (wide : Bool) (x q : W64) (vline : Nat) (p : Phys) : State × Nat :=
  let leaf := leafOf who
  let z := if wide then 8 else 4
  let at_ := e.va % 64
  let new (old : Nat) : Nat := atomicNew op (8 * z) old x.toNat q.toNat
  let ones := 2 ^ (8 * z) - 1
  let word (l : BitVec 512) : Nat := l.toNat / 2 ^ (8 * at_) % 2 ^ (8 * z)
  match p with
  | .hbm l off =>
    if s.beyondL1 (coreOf who) e.scope then
      let (s, v) := (s.flushLine (coreOf who) e.va off).hbmLineAt l off (s.keyVf leaf).1
      (if op = 7 ∧ word v ≠ q.toNat then s
       else (s.hbmBits l (off + at_) z (new (word v)) ones (s.keyVf leaf).1).meter leaf 7 64, word v)
    else
      let (s, v) := s.weakLine who vline p (.load who e.id)
      (if op = 7 ∧ word v ≠ q.toNat then s else s.weakPut who e.va (off + at_) z (new (word v)) ones, word v)
  | .host a =>
    let v := s.host.readNat (a + at_) z
    (if op = 7 ∧ v ≠ q.toNat then s else s.hostBits (a + at_) z (new v) ones, v)
  | .pool a =>
    let key := (s.keyVf leaf).1
    let v := word (s.poolData key (a / 64))
    let s := if op = 7 ∧ v ≠ q.toNat then s else s.poolBits key (a + at_) z (new v) ones
    (s.poolHold key (a / 64) false, v)
  | .remote _ _ => (s, (((s.leaf leaf).gotLine (.load who e.id) vline).getD 0).toNat % 2 ^ (8 * z))

/-- The pool line an access must own and does not (R274). -/
def State.wantsLine (s : State) (who : Nat) (e : LoadEntry) : Option Nat :=
  if !e.kind.writes then none
  else e.lines.findSome? fun p => match p.2 with
    | .pool a => if s.poolOwned (s.keyVf (leafOf who)).1 (a / 64) then none else some (a / 64)
    | _ => none

/-- Take an access off the scoreboard; FENCEs behind it may pass. -/
def State.endLoad (s : State) (who id : Nat) (f : Strand → Strand) : State :=
  ((s.onStrand who fun t => f { t with loads := t.loads.filter fun d => d.id != id }).forget (leafOf who) (.load who id)).fencesOf who

/-- An access ends without its data (R241, R275, R362): its destination keeps its value, and the report is held. -/
def State.loseLoad (s : State) (who : Nat) (e : LoadEntry) (cause : BitVec 8) : State :=
  (s.poolLoose (s.keyVf (leafOf who)).1 e).endLoad who e.id fun t => match e.dest.reg with
    | some r => { t with reports := t.reports ++ [{ cause := cause, addr := BitVec.ofNat 64 e.va, dest := some r }] }
    | none => t

/-- An access performs and its destination is written (R240, R241, R249, R253, R256). -/
def State.performLoad (s : State) (who : Nat) (e : LoadEntry) : State :=
  let leaf := leafOf who
  let s := s.countBytes leaf e.va e.moved
  match e.kind, e.lines with
  | .atomic op wide x q, (l, p) :: _ =>
    let (s, old) := s.atomicAt who e op wide x q l p
    let v : W64 := if wide then BitVec.ofNat 64 old else (BitVec.ofNat 32 old).signExtend 64
    s.endLoad who e.id fun t => match e.dest with
      | .scalar n _ => t.land (.s n v)
      | .vec _ _ _ | .gone => t
  | k, _ =>
    let (s, ls) := s.loadLines who e
    let s := if k.strong && s.beyondL1 (coreOf who) e.scope then s.dropAll (coreOf who) else s
    let s := if e.drops then s.dropLoaded who e.va e.len else s
    let x := forwarded (s.strand who) e.id e.va e.len (spliceLines e.va e.len ls)
    s.endLoad who e.id fun t => (e.dest.lands t x).foldl Strand.land t

/-- LOAD_DATA_RETURN (R241, R249, R257, R271, R272, R275, R362): the access performs once it may, or ends without its
data. -/
def execLoadDataReturn (who id : Nat) (reply : LoadReply) (s : State) : Host.Outcome State Fault Refusal :=
  let ev := Ev.loadDataReturn who id reply
  match (s.strand who).loads.find? fun e => e.id == id with
  | none => .next (s.unpost ev)
  | some e =>
    if !s.enginesRun (leafOf who) then .next s else
    match reply with
    | .refused => .next ((s.unpost ev).loseLoad who e WSFAULT)
    | .lost => .next ((s.unpost ev).loseLoad who e POOLLOST)
    | .data =>
      match s.loadGate who e with
      | .retry => .next s
      | .lost => .next ((s.unpost ev).loseLoad who e POOLLOST)
      | .invalid => .next ((s.unpost ev).loseLoad who e MEMXL)
      | .ok =>
        if !s.loadReady who e then .next s else
        match s.wantsLine who e with
        | some l => .next (s.askOwnership l)
        | none => .next ((s.unpost ev).performLoad who e)

/-! Stores (R250, R253, R258, R273, R285, R287, R294, R431, R440). -/

/-- A part of a store: where it begins, its bytes, its data and its mask. -/
structure Part where
  va : Nat
  n : Nat
  data : Nat
  mask : Nat
deriving DecidableEq, Repr

/-- The part of a store from its lowest byte still to write to the end of that byte's unit of the given size. -/
def StoreEntry.part (e : StoreEntry) (unit : Nat) : Option Part :=
  ((List.range e.len).find? (byteIn e.mask.toNat)).map fun j =>
    let lo := max e.va ((e.va + j) / unit * unit)
    let hi := min (e.va + e.len) ((e.va + j) / unit * unit + unit)
    let n := hi - lo
    let cut (x : Nat) : Nat := x / 2 ^ (8 * (lo - e.va)) % 2 ^ (8 * n)
    { va := lo, n := n, data := cut e.data.toNat, mask := cut e.mask.toNat }

/-- Bytes a part writes (R240). -/
def Part.moved (p : Part) : Nat := ((List.range p.n).filter (byteIn p.mask)).length

/-- Have two stores bits in common. -/
def StoreEntry.meets (d e : StoreEntry) : Bool :=
  overlaps d.va d.len e.va e.len &&
  (if d.va ≤ e.va then d.mask.toNat / 2 ^ (8 * (e.va - d.va)) &&& e.mask.toNat else e.mask.toNat / 2 ^ (8 * (d.va - e.va)) &&& d.mask.toNat) != 0

/-- May a store perform: earlier stores and loads of its bytes have, the strand's later remote loads of them are not on
their way, and no FENCE, parked page or frozen page holds it; one that asked for a pool line's ownership has it, or has lost it again and
meets its translation anew (R249, R250, R258, R273, R291, R440). -/
def State.storeReady (s : State) (who : Nat) (e : StoreEntry) : Bool :=
  let t := s.strand who
  !(t.stores.any fun d => decide (d.id < e.id) && d.meets e) &&
  !(t.loads.any fun d => (decide (d.id < e.id) || d.lines.any fun p => match p.2 with
      | .remote _ _ => true
      | _ => false) && overlaps d.va d.len e.va e.len) &&
  (s.storeRemote who e || !(t.fences.any fun f => decide (f.id < e.id))) &&
  match e.stage with
  | .parked => false
  | .owning l => s.poolOwned (s.keyVf (leafOf who)).1 l || !s.agenda.contains (.ownershipGrant l)
  | .buffered => true

/-- Replace a store of a strand. -/
def State.setStore (s : State) (who : Nat) (e : StoreEntry) : State :=
  s.onStrand who fun t => { t with stores := t.stores.map fun d => if d.id = e.id then e else d }

/-- A store leaves the buffer; FENCEs behind it may pass. -/
def State.endStore (s : State) (who id : Nat) : State :=
  ((s.unpost (.storePerform who id)).onStrand who fun t => { t with stores := t.stores.filter fun d => d.id != id }).fencesOf who

/-- The line that a write-back could not write is dirty again (R225). -/
def State.redirty (s : State) (who : Nat) : StoreKind → State
  | .writeBack n l =>
    let r := s.region (coreOf who) n
    s.setRegion (coreOf who) n { r with dirty := setBit r.dirty l true }
  | _ => s

/-- A store faults (R225, R250): the report is held, and a write-back's line stays dirty. -/
def State.faultStore (s : State) (who : Nat) (e : StoreEntry) : State :=
  ((s.redirty who e.kind).onStrand who fun t => { t with reports := t.reports ++ [{ cause := WSFAULT, addr := BitVec.ofNat 64 e.va, dest := none }] }).endStore who e.id

/-- A part has performed: what is left of the store stays in the buffer (R250). A SIGNAL fires its function's vector
(R431). -/
def State.partDone (s : State) (who : Nat) (e : StoreEntry) (p : Part) (here : Bool) : State :=
  let s := s.countBytes (leafOf who) e.va p.moved
  let left := e.mask &&& ~~~(BitVec.ofNat 4096 ((2 ^ (8 * p.n) - 1) * 2 ^ (8 * (p.va - e.va))))
  if left ≠ 0 then s.setStore who { e with mask := left, stage := .buffered }
  else
    let s := s.endStore who e.id
    if here && e.kind == .signal then s.fireVf (s.keyVf (leafOf who)).2 vecKernelSignal else s

/-- The scope of a store that performs beyond L1. -/
def StoreKind.beyond (s : State) (who : Nat) : StoreKind → Bool
  | .release x => s.beyondL1 (coreOf who) x
  | .signal => true
  | _ => false

/-- A part reaches the leaf's HBM through L1; a release's is written back at once (R253, R285). -/
def State.putHbm (s : State) (who : Nat) (e : StoreEntry) (p : Part) (off : Nat) : State :=
  let s := (s.weakPut who p.va off p.n p.data p.mask)
  if e.kind.beyond s who then
    s.cleanLine (s.l1Home (coreOf who) p.va) (off / 64)
  else s

/-- The next part of a store reaches its place (R273, R285, R287). -/
def State.storeTo (s : State) (who : Nat) (e : StoreEntry) (p : Part) : Phys → State
  | .hbm _ off => (s.putHbm who e p off).partDone who e p true
  | .host a => (s.hostBits a p.n p.data p.mask).partDone who e p true
  | .pool a =>
    match s.gate (leafOf who) (.pool a) with
    | .retry => s
    | .lost | .invalid => s.faultStore who e
    | .ok =>
      if s.poolOwned (s.keyVf (leafOf who)).1 (a / 64) then (s.poolBits (s.keyVf (leafOf who)).1 a p.n p.data p.mask).partDone who e p true
      else (s.setStore who { e with stage := .owning (a / 64) }).askOwnership (a / 64)
  | .remote m off =>
    let q := (e.part 4096).getD p
    match (s.leaf (leafOf who)).member with
    | none => s
    | some k =>
      let u := s.ask (leafOf who) m (1 + flitsOf q.n) (.store who e.id) (q.va / 64) fun n => .store n (off - (p.va - q.va)) q.n (BitVec.ofNat 8192 q.data) (BitVec.ofNat 8192 q.mask)
      (u.onStrand who fun t => { t with sent := t.sent ++ [{ txn := k.txnSeq, va := e.va, part := q.va, len := q.n, kind := e.kind }] }).partDone who e q false

/-- Where a release found a byte before its bundle committed (R253). -/
def StoreEntry.placed (e : StoreEntry) (va : Nat) : Option Phys := (e.lines.find? fun x => x.1 == va / 64).map fun x => x.2.plus (va % 64)

/-- The next part of a store meets its translation, a release the one it committed with; it parks or faults, or reaches its place
(R225, R250, R253, R396, R440). -/
def State.performStore (s : State) (who : Nat) (e : StoreEntry) : State :=
  let leaf := leafOf who
  match e.part 64 with
  | none => s.endStore who e.id
  | some p =>
    if s.isFrozen leaf (p.va / 64) then s else
    match e.placed p.va with
    | some x => s.storeTo who e p x
    | none =>
      match s.xlate leaf needWr p.va with
      | .busy line => ((s.unpost (.storePerform who e.id)).setStore who { e with stage := .parked }).parkOn leaf (.store who e.id) needWr p.va line
      | .nonres _ | .lost => s.faultStore who e
      | .invalid => (s.countWalk (s.keyVf leaf).2 p.va).faultStore who e
      | .mapped t => s.storeTo who e p (t.at p.va)

/-- STORE_PERFORM (R250, R273, R285, R287): a store leaves the buffer and performs once it may. -/
def execStorePerform (who id : Nat) (s : State) : Host.Outcome State Fault Refusal :=
  match (s.strand who).stores.find? fun e => e.id == id with
  | none => .next (s.unpost (.storePerform who id))
  | some e => if s.enginesRun (leafOf who) && s.storeReady who e then .next (s.performStore who e) else .next s

/-! Pool line ownership (R272 to R274). -/

/-- The strand whose store or atomic waits for a line's ownership, and whether it is an atomic. -/
def State.wantsOwner (s : State) (line : Nat) : Option (Nat × Bool) :=
  s.strands.findSome? fun p =>
    if p.2.stores.any fun e => e.stage == .owning line then some (p.1, false)
    else if p.2.loads.any fun e => s.wantsLine p.1 e == some line then some (p.1, true) else none

/-- OWNERSHIP_GRANT (R272 to R274): the line is E for the strand that waits for it; an atomic holds it until it has
performed. -/
def execOwnershipGrant (line : Nat) (s : State) : Host.Outcome State Fault Refusal :=
  match s.wantsOwner line with
  | none => .next (s.unpost (.ownershipGrant line))
  | some (who, atom) =>
    let key := (s.keyVf (leafOf who)).1
    match s.poolGate key (64 * line) with
    | .ok => .next (((s.unpost (.ownershipGrant line)).poolFill key line .exclusive none).poolHold key line atom)
    | .retry => .next s
    | _ => .next (s.unpost (.ownershipGrant line))

/-! Pushes (R255, R482). -/

/-- An XPUT has reached its destination: it is in flight no longer. -/
def State.pushArrived (s : State) (core : Nat) (p : Push) : State :=
  if p.waiting then s else
  let s := s.onCore core fun c => { c with pushes := c.pushes.map fun q => if q.id = p.id then { q with waiting := true } else q }
  s.onStrand p.who fun t => { t with xputsOut := t.xputsOut - 1 }

/-- XPUT_LAND (R255, R258, R482): the bytes land, or wait at the destination for its region, for the pushes before them or for a
FENCE of their strand. -/
def execXputLand (core id : Nat) (s : State) : Host.Outcome State Fault Refusal :=
  let ev := Ev.xputLand core id
  let leaf := leafOfCore core
  match (s.core core).pushes.find? fun p => p.id == id with
  | none => .next (s.unpost ev)
  | some p =>
    if (!p.waiting && decide ((s.leaf leaf).clk < p.due)) || !s.enginesRun leaf then .next s else
    let s := s.pushArrived core p
    let behind := (s.core core).pushes.any fun q => q.dir == p.dir && decide (q.id < id)
    let parked := (s.leaf leaf).walks.any fun w => w.party == .push core id
    let held := (s.strand p.who).fences.any fun f => decide (f.id < p.seq)
    if behind || parked || held then .next (s.postOnce ev) else
    match s.touchAll core (.push core id) (regionSpan p.off 512) with
    | (u, false) => .next (u.postOnce ev)
    | (u, true) =>
      .next (((u.unpost ev).localPut core (p.off + ·) 512 p.data.toNat (2 ^ 4096 - 1)).onCore core fun c =>
        { c with pushes := c.pushes.filter fun q => q.id != id })

/-- What a local access does that no FENCE holds back any more (R241, R258): a load delivers 4 clocks on. -/
def State.doHeld (s : State) (who : Nat) (e : HeldAccess) : State :=
  let core := coreOf who
  let at_ (j : Nat) : Nat := e.addrs.getD j 0
  match e.kind with
  | .store d => s.localPut core at_ e.addrs.length d.toNat e.mask.toNat
  | .load dest =>
    let x := (s.core core).local_.gather at_ e.addrs.length
    let due := (s.leaf (leafOf who)).clk + 4
    s.onStrand who fun t =>
      { t with flights := t.flights ++ [{ id := t.flightSeq, due := due, load := true, lands := dest.lands t x }], flightSeq := t.flightSeq + 1 }

/-- A local access that a FENCE held back performs, in program order (R258, R283, R284); it touches its regions anew, since a gang switch
may have come between (R221). -/
def execLocalPerform (who id : Nat) (s : State) : Host.Outcome State Fault Refusal :=
  let ev := Ev.localPerform who id
  let t := s.strand who
  match t.waits.find? fun e => e.id == id with
  | none => .next (s.unpost ev)
  | some e =>
    if !s.enginesRun (leafOf who) || (t.fences.any fun f => decide (f.id < id)) || t.waits.any (fun d => decide (d.id < id)) then .next s else
    match s.touchAll (coreOf who) (.store who id) (regionsOf (e.addrs.getD · 0) e.addrs.length e.mask.toNat) with
    | (u, false) => .next u
    | (u, true) =>
      .next ((((u.unpost ev).doHeld who e).onStrand who fun t => { t with waits := t.waits.filter fun d => d.id != id }).fencesOf who)

/-- A push is dropped with every push behind it; each issuing strand holds a WSFAULT (R482). -/
def State.dropPushes (s : State) (core id : Nat) : State :=
  match (s.core core).pushes.find? fun p => p.id == id with
  | none => s
  | some p =>
    let gone := (s.core core).pushes.filter fun q => q.dir == p.dir && decide (id ≤ q.id)
    let s := gone.foldl (fun s q => (s.pushArrived core q).onStrand q.who fun t =>
      { t with reports := t.reports ++ [{ cause := WSFAULT, addr := BitVec.ofNat 64 q.off, dest := none }] }) s
    s.onCore core fun c => { c with pushes := c.pushes.filter fun q => !(gone.any fun g => g.id == q.id) }

/-! Region fills (R221 to R223). -/

/-- The strand a filling party acts for (R222). -/
def State.partyStrand (s : State) (core : Nat) : Party → Nat
  | .bundle w => w
  | .store w _ => w
  | .cmd q id => ((s.findCmd q id).map Cmd.who).getD (4 * core)
  | .push c id => (((s.core c).pushes.find? fun p => p.id == id).map Push.who).getD (4 * core)
  | _ => 4 * core

/-- Where a party's touch stands among its strand's accesses (R222). -/
def State.partySeq (s : State) (core : Nat) : Party → Nat
  | .store _ id => id
  | .cmd q id => ((s.findCmd q id).map Cmd.seq).getD 0
  | .push c id => (((s.core c).pushes.find? fun p => p.id == id).map Push.seq).getD 0
  | p => (s.strand (s.partyStrand core p)).memSeq

/-- May a fill read memory, as a weak load of the touching strand at its place might: no earlier FENCE holds it, and no earlier access
of the strand to the bytes is in flight (R222, R249, R258). -/
def State.fillReady (s : State) (core : Nat) (party : Party) (va n : Nat) : Bool :=
  let t := s.strand (s.partyStrand core party)
  let seq := s.partySeq core party
  !(t.fences.any fun f => decide (f.id < seq)) && !(t.loads.any fun d => decide (d.id < seq) && overlaps d.va d.len va n)

/-- The stall of an engine command on the fill that it began, charged as the fill ends (R237). -/
def State.fillCharge (s : State) (core : Nat) (r : Region) : State :=
  match r.filling with
  | some (.cmd _ _) =>
    if r.state = .saved then s
    else (List.range ((s.leaf (leafOfCore core)).clk - r.since)).foldl (fun s _ => s.countStall (leafOfCore core) r.vbase.toNat) s
  | _ => s

/-- A fill has its bytes: the region is HELD (R221). -/
def State.fillEnds (s : State) (core n len x : Nat) (dirty : BitVec 256) : State :=
  let r := s.region core n
  let s := s.fillCharge core r
  let s := s.onCore core fun c => { c with local_ := (c.local_.clear (16384 * n) 16384).writeNat (16384 * n) len x }
  (s.setRegion core n { r with state := .held, filling := none, fillParked := false, dirty := dirty, since := 0 }).forget (leafOfCore core) (.region core n)

/-- A fill ends without data: the entry is as it was before the touch (R223). -/
def State.fillStops (s : State) (core n : Nat) : State :=
  ((s.setRegion core n { s.region core n with filling := none, fillParked := false, since := 0 }).forget (leafOfCore core) (.region core n)).onLeaf (leafOfCore core) fun l =>
    { l with remotes := l.remotes.filter fun r => r.party != .region core n }

/-- A fill fails for good (R223, R482): cause is the trap a strand's own touch takes, fcause the failure of a command. -/
def State.fillFails (s : State) (core n va : Nat) (party : Party) (cause fcause : BitVec 8) : State :=
  let s := s.fillStops core n
  match party with
  | .bundle w => s.onStrand w fun t => { t with walk := some (.failed cause va) }
  | .cmd q id =>
    match s.findCmd q id with
    | some c => s.failCmd q c fcause
    | none => s
  | .push c id => s.dropPushes c id
  | _ => s

/-- A fill meets a page that is not resident or busy (R223, R400, R482). -/
def State.fillParks (s : State) (core n va : Nat) (party : Party) (line : Phys) (nonres : Bool) : State :=
  let leaf := leafOfCore core
  match party with
  | .bundle w =>
    if nonres then ((s.fillStops core n).requestPage leaf va false line).abortTask w (some (va, false, line.lineKey))
    else (s.setRegion core n { s.region core n with fillParked := true }).parkOn leaf (.region core n) needRd va line
  | .cmd q id =>
    let s := s.fillStops core n
    match s.findCmd q id with
    | some c => s.parkCmd q c va needRd line nonres
    | none => s
  | .push c id =>
    let s := (s.fillStops core n).parkOn leaf (.push c id) needRd va line
    if nonres then s.requestPage leaf va false line else s
  | _ => s.fillStops core n

/-- A fill meets a pool region in RETRY: it tries again, and the nest that touched the region is parked (R223, R308). -/
def State.fillHeld (s : State) (party : Party) : State :=
  match party with
  | .cmd q id =>
    match s.findCmd q id with
    | some c => s.parkBit c true
    | none => s
  | _ => s

/-- REGION_FILL_COMPLETE (R221 to R223): the fill of a region ends with its bytes, or ends as its walk or its owner
decides. -/
def execRegionFillComplete (core n : Nat) (s : State) : Host.Outcome State Fault Refusal :=
  let ev := Ev.regionFillComplete core n
  let leaf := leafOfCore core
  let r := s.region core n
  match r.filling, (s.leaf leaf).member with
  | some party, some m =>
    if r.fillParked then .next (s.unpost ev)
    else if !s.enginesRun leaf then .next s
    else if r.state = .saved then
      match s.slotRead core n m with
      | (u, some x) => .next ((u.unpost ev).fillEnds core n 16384 x r.dirty)
      | (u, none) => .next u
    else if !r.back then .next ((s.unpost ev).fillEnds core n 0 0 0)
    else
      let who := s.partyStrand core party
      let va := r.vbase.toNat
      if !s.fillReady core party va r.backed then .next s else
      match s.readFor who (.region core n) true va r.backed with
      | .done u x => .next (((u.unpost ev).countBytes leaf va r.backed).fillEnds core n r.backed (forwarded (u.strand who) (s.partySeq core party) va r.backed x) 0)
      | .remote u => .next u
      | .retry _ => .next (s.fillHeld party)
      | .nonres a line => .next ((s.unpost ev).fillParks core n a party line true)
      | .busy a line => .next ((s.unpost ev).fillParks core n a party line false)
      | .invalid a => .next (((s.unpost ev).countWalk (s.keyVf leaf).2 a).fillFails core n a party MEMXL fXL)
      | .lost a => .next ((s.unpost ev).fillFails core n a party POOLLOST fXL)
  | _, _ => .next (s.unpost ev)

/-! Fetch and dictionaries (R91 to R94, R97, R98, R429). -/

/-- The end of a path of bundles decoded ahead in a bank: the first bundle on it that is not, unless a held cause ends the path. -/
def Strand.pathEnd (t : Strand) (bank : Bool) (pc : Nat) (r : Bool) : List (Bool × Nat × Bool) :=
  match (t.path bank pc r).getLast? with
  | none => [(bank, pc, r)]
  | some f => if f.cause.isSome then [] else [(bank, f.addr + f.len, f.runs)]

/-- The target of a branch syllable, known once its bundle is decoded, and the bank it is decoded in: a displacement's; a register's
is known once the branch has issued (R94, R99, R174). -/
def Strand.targetOf (t : Strand) (f : Fetched) : Option (Bool × Nat) :=
  if f.cause.isSome then none else
  match decodeSyllable .branch (rawSyllable f.raw .b) with
  | .ok y =>
    match y.instr with
    | .br o => some (t.bank, dispTarget f.addr o.disp)
    | .call o => some (t.bank, dispTarget f.addr o.disp)
    | .banksw o => some (t.bank != !t.super, dispTarget f.addr o.disp)
    | _ => none
  | .error _ => none

/-- Where fetch may decode ahead, by bank: down the successor path, and down the target path of a pending branch or of one that it has
decoded (R93, R94, R99). -/
def Strand.aheadOf (t : Strand) : List (Bool × Nat × Bool) :=
  t.pathEnd t.bank t.pc t.inRun ++
  (match t.pend with
   | some { target := some a, bsw := b, .. } => t.pathEnd (t.bank != b) a false
   | _ => []) ++
  ((t.path t.bank t.pc t.inRun).filterMap t.targetOf).flatMap fun x => t.pathEnd x.1 x.2 false

/-- What fetch answers for a strand at an address in a bank. -/
def State.fetchIn (s : State) (who : Nat) (bank : Bool) (pc : Nat) (r : Bool) : FetchResult :=
  if (s.strand who).bank == bank then s.fetchAt who pc r else (s.onStrand who fun t => { t with bank := bank }).fetchAt who pc r

/-- BUNDLE_FETCH (R90 to R94, R97): fetch decodes one bundle ahead of issue, on a path it chooses. -/
def execBundleFetch (who : Nat) (s : State) : Host.Outcome State Fault Refusal :=
  let t := s.strand who
  if t.running.isNone then .next (s.unpost (.bundleFetch who))
  else if !s.strandActs who then .next s
  else match (s.chooseView who).choose t.aheadOf with
    | (none, u) => .next u
    | (some (b, pc, r), u) =>
      match u.fetchIn who b pc r with
      | .miss l => .next (u.askLine (coreOf who) l)
      | .bundle f => .next (u.onStrand who fun t => { t with ibuf := t.ibuf ++ [f] })

/-- Lines of an instruction cache (R91). -/
def icacheLines : Nat := 512

/-- A fetch line has come; a full cache gives up one of its lines (R91). -/
def State.fillLine (s : State) (core line : Nat) (x : BitVec 512) : State :=
  let (old, s) := s.choose ((s.core core).icache.map Prod.fst)
  s.onCore core fun c =>
    let ic := match old with
      | some l => if icacheLines ≤ c.icache.length then c.icache.erase l else c.icache
      | none => c.icache
    { c with icache := ic.set line x }

/-- The bundles of a strand that fetch cannot read for want of a line: the first on its successor path or on a target path that
needs it, with the bank. -/
def State.lacking (s : State) (who line : Nat) : List (Bool × Nat × Bool) :=
  let t := s.strand who
  let fuel := 2 ^ 17
  let on := match s.firstMiss who fuel t.pc t.inRun with
    | some (pc, r, l) => if l = line then [(t.bank, pc, r)] else []
    | none => []
  on ++ t.aheadOf.filter fun a => a != (t.bank, t.pc, t.inRun) && s.fetchIn who a.1 a.2.1 a.2.2 == .miss line

/-- A fetch line cannot be read: FETCHXL is held with the bundles that need it, the one met first down a path (R92, R93, R462). -/
def State.lineFails (s : State) (core line : Nat) : State :=
  (List.range 4).foldl (fun s n =>
    let who := 4 * core + n
    if (s.strand who).running.isNone then s else
    let l := ((s.lacking who line).map fun a => badBundle a.2.1 a.2.2 a.1 FETCHXL (BitVec.ofNat 64 (64 * line))).eraseDups
    s.onStrand who fun t => { t with ibuf := t.ibuf ++ l }) s

/-- FETCH_LINE_FILL (R91, R92, R98, R396). -/
def execFetchLineFill (core : Nat) (line : W64) (s : State) : Host.Outcome State Fault Refusal :=
  let ev := Ev.fetchLineFill core line
  let leaf := leafOfCore core
  let l := line.toNat
  let party := Party.fetch (4 * core)
  if (s.leaf leaf).member.isNone then .next (s.unpost ev)
  else if !s.enginesRun leaf then .next s
  else match s.reachLine leaf needEx l with
    | .inl p =>
      match s.readLines (4 * core) party false [(l, p)] with
      | (u, (_, x) :: _, true) => .next (((u.unpost ev).forget leaf party).fillLine core l x)
      | (u, _, _) => .next u
    | .inr (.busy va at_) => .next ((s.unpost ev).parkOn leaf party needEx va at_)
    | .inr (.retry _) => .next s
    | .inr (.invalid _) => .next (((s.unpost ev).countWalk (s.keyVf leaf).2 (64 * l)).lineFails core l)
    | .inr _ => .next ((s.unpost ev).lineFails core l)

/-- DICTLD_DONE (R429): the dictionary's bytes have landed in the bank, or its read ended as its walk decides. -/
def execDictldDone (who : Nat) (s : State) : Host.Outcome State Fault Refusal :=
  let ev := Ev.dictldDone who
  let leaf := leafOf who
  match (s.strand who).hold, (s.leaf leaf).member with
  | some h, some m =>
    if !s.strandActs who then .next s else
    let va := m.dictAt (h / 2)
    let base := 65536 * (h % 2) + 0x4000
    let party := Party.bundle who
    match s.readFor who party true va 49152 with
    | .done u x =>
      let t := u.strand who
      let u := ((((u.unpost ev).countBytes leaf va 49152).forget leaf party).staleUnits (coreOf who) base 49152).onCore (coreOf who) fun c =>
        { c with istore := c.istore.writeNat base 49152 (forwarded t t.memSeq va 49152 x) }
      .next (u.onStrand who fun t => { t with hold := none, holdStarted := some h })
    | .remote u => .next u
    | .retry _ => .next s
    | .nonres a line => .next (((s.unpost ev).requestPage leaf a false line).abortTask who (some (a, false, line.lineKey)))
    | .busy a line => .next (((s.unpost ev).onStrand who fun t => { t with walk := some (.parked a false) }).parkOn leaf party needRd a line)
    | .invalid a => .next (((s.unpost ev).countWalk (s.keyVf leaf).2 a).onStrand who fun t => { t with hold := none, walk := some (.failed MEMXL a) })
    | .lost a => .next ((s.unpost ev).onStrand who fun t => { t with hold := none, walk := some (.failed POOLLOST a) })
  | _, _ => .next (s.unpost ev)

end Sys2Proof.Machine
end

