-- ==== Sys2Proof/Machine/Walks.lean ====
section
/-! DEFINITION. The end of a walk, and the wake of what is parked on a page table line (R387 to R401). -/

namespace Sys2Proof.Machine

/-- What an access of a walk needs. -/
def Walk.need (w : Walk) : Need := { rd := w.read, wr := w.write, ex := w.exec }

/-- A leaf takes a translation into its cache, which may give one up (R394). -/
def State.cache (s : State) (leaf : Nat) (e : TlbEntry) : State :=
  let (old, s) := s.choose (none :: (s.leaf leaf).tlb.map some)
  s.onLeaf leaf fun l =>
    { l with tlb := (match old with
        | some (some x) => l.tlb.erase x
        | _ => l.tlb) ++ [e] }

/-- The bundle of a strand whose walk has ended (R249, R396): it issues, parks, traps or has its task aborted. -/
def State.bundleWalked (s : State) (who : Nat) (w : Walk) (o : WalkEnd) : State :=
  let leaf := leafOf who
  let put (x : Option WalkState) (s : State) : State := s.onStrand who fun t => { t with walk := x }
  match o with
  | .mapped e => put none (s.cache leaf e)
  | .nonres line => ((put none s).requestPage leaf w.va w.write line).abortTask who (some (w.va, w.write, line.lineKey))
  | .busy line => (put (some (.parked w.va w.write)) s).parkOn leaf (.bundle who) w.need w.va line
  | .lost => put (some (.failed POOLLOST w.va)) s
  | .invalid => put (some (.failed MEMXL w.va)) s

/-- A walk in flight ends for its party with an outcome. -/
def State.walkOver (s : State) (leaf : Nat) (w : Walk) (o : WalkEnd) : State :=
  let s := s.endWalk leaf w.party
  match w.party with
  | .bundle who => s.bundleWalked who w o
  | _ => s

/-- WALK_COMPLETE (R234, R387 to R394, R396): the walk ends, and with it those that have joined it, each with what the entries that
it read mean to its access. -/
def execWalkComplete (leaf id : Nat) (s : State) : Host.Outcome State Fault Refusal :=
  let ev := Ev.walkComplete leaf id
  match (s.leaf leaf).walks.find? fun w => w.id == id && !w.parked with
  | none => .next (s.unpost ev)
  | some w =>
    let ends := ((s.leaf leaf).walks.filter w.joins).map fun v => (v, s.walk leaf v.vf (s.keyVf leaf).1 v.need v.va)
    .next (ends.foldl (fun s e => s.walkOver leaf e.1 e.2) ((s.unpost ev).countWalk w.vf w.va))

/-! Waking (R304, R399, R401). -/

/-- A party parked on a line goes on (R401). -/
def State.wakeParty (s : State) (leaf : Nat) (w : Walk) : State :=
  let s := s.endWalk leaf w.party
  match w.party with
  | .bundle who =>
    let t := s.strand who
    let s := s.onStrand who fun t => { t with walk := none }
    if t.hold.isSome then s.postOnce (.dictldDone who) else s
  | .store who id =>
    (s.onStrand who fun t => { t with stores := t.stores.map fun e => if e.id = id then { e with stage := .buffered } else e }).postOnce (.storePerform who id)
  | .fetch who => s.askLine (coreOf who) (w.va / 64)
  | .region core n => (s.setRegion core n { s.region core n with fillParked := false }).postOnce (.regionFillComplete core n)
  | .cmd q id =>
    match s.findCmd q id with
    | some c => ((s.setCmd q c.resumed).parkBit c false).postOnce (.commandStart q)
    | none => s
  | .push core id => s.postOnce (.xputLand core id)
  | .coll ctx => s.postOnce (.collStart leaf ctx)
  | .load _ _ | .requeue _ | .packet _ => s

/-- A requeued task whose page line has been written walks again; it is ready unless the page is still not resident
(R399). -/
def State.wakeTask (s : State) (leaf : Nat) (e : Requeue) : State :=
  let put (f : Requeue → Requeue) (s : State) : State :=
    s.onMember leaf fun m => { m with pool := m.pool.map fun d => if d.id = e.id then f d else d }
  match s.xlate leaf { rd := !e.write, wr := e.write, ex := false } e.va with
  | .nonres line => put (fun d => { d with key := line.lineKey }) s
  | _ => (put (fun d => { d with waiting := false }) s).postOnce (.taskStart e.who)

/-- MONITOR_WAKE (R399 to R401): a watched line has been written; line is its key. -/
def execMonitorWake (leaf line : Nat) (s : State) : Host.Outcome State Fault Refusal :=
  let l := s.leaf leaf
  let s := (s.unpost (.monitorWake leaf line)).onLeaf leaf fun l => { l with asked := l.asked.filter fun a => a.2 != line }
  let ws := l.walks.filter fun w => w.parked && (w.line.map Phys.lineKey) == some line
  let es := ((l.member.map Member.pool).getD []).filter fun e => e.waiting && e.key == line
  .next (es.foldl (fun s e => s.wakeTask leaf e) (ws.foldl (fun s w => s.wakeParty leaf w) s))

/-- REWALK_TIMER (R5, R401): a party that found no free monitor walks again, a microsecond of pod time after it parked. -/
def execRewalkTimer (leaf id : Nat) (s : State) : Host.Outcome State Fault Refusal :=
  match (s.leaf leaf).waiter id with
  | none => .next (s.unpost (.rewalkTimer leaf id))
  | some w => .next (if w.late s.now then (s.unpost (.rewalkTimer leaf id)).wakeParty leaf w else s)

end Sys2Proof.Machine
end

