-- ==== Sys2Proof/Machine/CmdProc.lean ====
section
/-! DEFINITION. The command processors: the gang table and stencil cells they read, their accesses to memory, packets and
handles, arbitration and completion (R33 to R46, R54 to R60, R235, R481). -/

namespace Sys2Proof.Machine

/-! The gang table and the cells (R55 to R60). -/

/-- The record of a gang number (R57); 0 where there is none. -/
def State.gangRec (s : State) (g : Nat) : BitVec 128 := s.gangs.get g 0

def gVf (r : BitVec 128) : Nat := bytesAt r 0 1
def gClass (r : BitVec 128) : Nat := bytesAt r 1 1
def gSize (r : BitVec 128) : Nat := bytesAt r 2 2
def gKey (r : BitVec 128) : BitVec 8 := BitVec.ofNat 8 (bytesAt r 4 1)
def gHop (r : BitVec 128) : Nat := bytesAt r 6 6

/-- Slots per frame (R55). -/
def Stencil.nslot (x : Stencil) : Nat := (x.cfg.extractLsb' 0 11).toNat

/-- LEAD, PREPDL and VOTEDL in microseconds (R55). -/
def Stencil.lead (x : Stencil) : Nat := (x.cfg.extractLsb' 16 16).toNat
def Stencil.prepdl (x : Stencil) : Nat := (x.cfg.extractLsb' 32 16).toNat
def Stencil.votedl (x : Stencil) : Nat := (x.cfg.extractLsb' 48 16).toNat

/-- The slot length in NOW units; STSLOT counts nanoseconds (R54, R264). -/
def Stencil.slotLen (x : Stencil) : Nat := (x.slot.extractLsb' 0 40).toNat * 1024

/-- Microseconds in NOW units (R264). -/
def us (n : Nat) : Nat := n * Config.nowPerMicrosecond

/-- The gang and the member index of a cell (R56). -/
def cellGang (c : BitVec 32) : Nat := c.toNat % 65536
def cellMember (c : BitVec 32) : Nat := c.toNat / 65536 % 2048

/-- The cell of the current slot, empty while no stencil is in force. -/
def Leaf.cell (l : Leaf) : BitVec 32 := if l.inForce then l.cells.get l.slotNow 0 else 0

/-- The gangs of a leaf's column in the current frame. -/
def Leaf.column (l : Leaf) : List Nat :=
  if l.inForce then (((List.range l.active.nslot).map fun i => cellGang (l.cells.get i 0)).filter (· != 0)).eraseDups else []

/-- The gang that a packet of a function and class binds to: the lowest number that matches in the leaf's column (R60). -/
def State.bound (s : State) (leaf vf cls : Nat) : Option Nat :=
  let gs := (s.leaf leaf).column.filter fun g => gVf (s.gangRec g) == vf && s.gangRec g != 0 && (cls == 0 || gClass (s.gangRec g) == cls)
  gs.foldl (fun m g => match m with
    | none => some g
    | some h => some (min g h)) none

/-- The command processors that serve a function: those in whose column a gang of it appears, leaf 0's where none does
(log 12); an offered leaf accepts queues from READY on, and runs on while the management processor reloads (R449, R451, R456). -/
def State.servedBy (s : State) (leaf vf : Nat) : Bool :=
  let has (l : Nat) : Bool := (s.leaf l).column.any fun g => gVf (s.gangRec g) == vf
  s.offered leaf && (s.isReady || s.mpDown) && (has leaf || (leaf == 0 && !has 1))

/-- A queue of a function. -/
def State.queue (s : State) (vf q : Nat) : Queue := (s.vf vf).queues.get q .reset

/-! Memory as the command processor reaches it (R235, R391, R392, R396). -/

/-- The key IDs whose HBM lines it accepts for a function (R235). -/
def State.cpKeys (s : State) (vf : Nat) : List (BitVec 8) := 0 :: (s.gangs.filterMap fun p => if gVf p.2 = vf ∧ p.2 ≠ 0 then some (gKey p.2) else none)

/-- What an access of the command processor meets: it waits for a busy page, a frozen page, a region in RETRY or a remote
answer, or its walk fails. -/
inductive CpGot where
  | done (s : State) (x : Nat)
  | busy (s : State)
  | fail (s : State)

/-- Where an address lies through the tables of a function, or whether it may be tried again. -/
def State.cpPlace (s : State) (leaf vf : Nat) (need : Need) (va : Nat) : Phys ⊕ Bool :=
  let ends := (s.cpKeys vf).map fun k => s.walk leaf vf k need va
  match ends.findSome? fun e => match e with
    | .mapped t => some t
    | _ => none with
  | some t =>
    match t.at va with
    | .pool a =>
      match s.poolGate (((s.poolRegionOf a).map PoolRegion.key).getD 0) a with
      | .ok => .inl (.pool a)
      | .retry => .inr true
      | .lost | .invalid => .inr false
    | p => .inl p
  | none => .inr (ends.any fun e => match e with
    | .busy _ => true
    | _ => false)

/-- How the pages of a range stand: none where all are mapped, else whether to try again. -/
def State.cpMapped (s : State) (leaf vf : Nat) (need : Need) (va n : Nat) : Option Bool :=
  ((List.range ((va + n + 4095) / 4096 - va / 4096)).map fun i => s.cpPlace leaf vf need ((va / 4096 + i) * 4096)).findSome? fun p =>
    match p with
    | .inr b => some b
    | .inl _ => none

/-- The key under which a pool line is held for its region. -/
def State.poolKey (s : State) (a : Nat) : BitVec 8 := ((s.poolRegionOf a).map PoolRegion.key).getD 0

/-- One line as the command processor reads it; a line of HBM under another key reads as zeros and is counted (R235). -/
def State.cpLine (s : State) (leaf vf pid vline : Nat) (p : Phys) : State × Option (BitVec 512) :=
  match p with
  | .hbm l off =>
    let see := (s.cpKeys vf).contains
    let s := if s.keyOk l off see then s else s.keyMiss l
    (s.onVf vf fun v => v.meter 6 64, some (BitVec.ofNat 512 (s.hbmRead l off 64 see)))
  | .host a => (s, some (BitVec.ofNat 512 (s.host.readNat a 64)))
  | .pool a =>
    let s := s.poolFill (s.poolKey a) (a / 64) .shared none
    (s, some (s.poolData (s.poolKey a) (a / 64)))
  | .remote m off =>
    match (s.leaf leaf).gotLine (.packet pid) vline with
    | some x => (s, some x)
    | none => (s.askForLine leaf (.packet pid) vline m off 64, none)

/-- The number under which the head packet of a queue reads over the fabric before it is consumed. -/
def State.headPid (s : State) (vf q : Nat) : Nat := 2 ^ 60 + 2 ^ 16 * (s.queue vf q).head.toNat + 64 * vf + q

/-- May the command processor ask another member for a line: for a consumed packet, or for a head packet where a member of its
function holds the leaf (log 15). -/
def State.cpAsks (s : State) (leaf vf pid : Nat) : Bool :=
  pid != 0 && (decide (pid < 2 ^ 60) || (s.leaf leaf).member.any fun m => m.vf == vf)

/-- Read lines in turn (R396). acc holds the k lines read before. -/
def State.cpLines (s : State) (leaf vf pid k acc : Nat) : List Nat → CpGot
  | [] => .done s acc
  | l :: t =>
    match s.cpPlace leaf vf needRd (64 * l) with
    | .inr true => .busy s
    | .inr false => .fail s
    | .inl (.remote m off) =>
      if !s.cpAsks leaf vf pid then .fail s else
      match s.cpLine leaf vf pid l (.remote m off) with
      | (u, none) => .busy u
      | (u, some x) => u.cpLines leaf vf pid (k + 1) (acc + x.toNat * 2 ^ (512 * k)) t
    | .inl p =>
      match s.cpLine leaf vf pid l p with
      | (u, none) => .busy u
      | (u, some x) => u.cpLines leaf vf pid (k + 1) (acc + x.toNat * 2 ^ (512 * k)) t

/-- Read n bytes through the tables of a function. -/
def State.cpRead (s : State) (leaf vf pid va n : Nat) : CpGot :=
  match s.cpLines leaf vf pid 0 0 ((List.range ((va + n + 63) / 64 - va / 64)).map (va / 64 + ·)) with
  | .done u x => .done u (x / 2 ^ (8 * (va % 64)) % 2 ^ (8 * n))
  | g => g

/-- Go on with what has been read. -/
def CpGot.andThen (g : CpGot) (k : State → Nat → CpGot) : CpGot :=
  match g with
  | .done s x => k s x
  | g => g

/-- Write bits of one line under a key ID. -/
def State.cpPutLine (s : State) (leaf vf pid vline : Nat) (key : BitVec 8) (p : Phys) (data mask : Nat) : State :=
  match p with
  | .hbm l off => (s.hbmBits l off 64 data mask key).onVf vf fun v => v.meter 7 64
  | .host a => s.hostBits a 64 data mask
  | .pool a => (s.poolFill (s.poolKey a) (a / 64) .exclusive none).poolBits (s.poolKey a) a 64 data mask
  | .remote m off => s.ask leaf m 2 (.packet pid) vline fun n => .store n off 64 (BitVec.ofNat 8192 data) (BitVec.ofNat 8192 mask)

/-- Write n bytes through the tables of a function. Nothing is written unless every page passes. -/
def State.cpWrite (s : State) (leaf vf pid : Nat) (key : BitVec 8) (va n data : Nat) : CpGot :=
  let lines := (List.range ((va + n + 63) / 64 - va / 64)).map (va / 64 + ·)
  match s.cpMapped leaf vf needWr va n with
  | some true => .busy s
  | some false => .fail s
  | none =>
    if lines.any (s.frozenFor leaf vf) then .busy s else
    let up (x l : Nat) : Nat := x * 2 ^ (8 * (va % 64)) / 2 ^ (512 * (l - va / 64)) % 2 ^ 512
    .done (lines.foldl (fun s l => match s.cpPlace leaf vf needWr (64 * l) with
      | .inl p => s.cpPutLine leaf vf pid l key p (up data l) (up (2 ^ (8 * n) - 1) l)
      | .inr _ => s) s) 0

/-! Packets (R37, R40, R41, R44). -/

/-- A field of a packet. -/
def Pkt.at (p : Pkt) (off n : Nat) : Nat := bytesAt p.bytes off n

def Pkt.type (p : Pkt) : Nat := p.at 0 1
def Pkt.barrier (p : Pkt) : Bool := (p.at 1 1).testBit 0 || p.type == 4 || p.type == 5
def Pkt.dep (p : Pkt) : Bool := (p.at 1 1).testBit 1
def Pkt.sigAddr (p : Pkt) : Nat := p.at 8 8
def Pkt.sigVal (p : Pkt) : Nat := p.at 16 8

/-- The place whose command processor consumed a packet, which its number holds. -/
def pidPlace (pid : Nat) : Nat := 2 * (pid / 2 % 1024) + pid % 2

/-- A consumed packet by its number. -/
def State.pkt (s : State) (leaf pid : Nat) : Option Pkt := (s.leaf leaf).pkts.find? fun p => p.pid == pid

/-- Change a packet. -/
def State.onPkt (s : State) (leaf pid : Nat) (f : Pkt → Pkt) : State :=
  s.onLeaf leaf fun l => { l with pkts := l.pkts.map fun p => if p.pid = pid then f p else p }

/-- Has a packet ended. -/
def Pkt.over (p : Pkt) : Bool :=
  match p.stage with
  | .done | .failed _ | .refused _ => true
  | _ => false

/-- Is a packet complete for those that wait for it; one refused before it started leaves no entry, so what it waited for
counts in its place (R41). The fuel is the number of packets. -/
def settled (l : List Pkt) : Nat → Nat → Bool
  | 0, _ => true
  | n + 1, pid =>
    match l.find? fun p => p.pid == pid with
    | none => true
    | some p =>
      match p.stage with
      | .done | .failed _ => true
      | .refused _ => p.waits.all (settled l n)
      | _ => false

/-- Is a packet complete (R44). -/
def Leaf.complete (l : Leaf) (pid : Nat) : Bool := settled l.pkts l.pkts.length pid

/-- The function and queue whose head packet reads under a number. -/
def headQueue (pid : Nat) : Option (Nat × Nat) := if 2 ^ 60 ≤ pid then some (pid % 2 ^ 16 / 64, pid % 64) else none

/-- Change a queue. -/
def State.onQueue (s : State) (vf q : Nat) (f : Queue → Queue) : State :=
  s.onVf vf fun v => { v with queues := v.queues.set q (f (v.queues.get q .reset)) }

/-- Every consumed packet of the package's two command processors. -/
def State.allPkts (s : State) : List Pkt := (s.leaf 0).pkts ++ (s.leaf 1).pkts

/-- Does an earlier packet of the queue stand failed while the queue is halted (R41). -/
def State.heldBack (s : State) (p : Pkt) : Bool :=
  (s.queue p.vf p.queue).halt && s.allPkts.any fun q => q.vf == p.vf && q.queue == p.queue && decide (q.pid < p.pid) &&
    (match q.stage with
     | .failed _ | .refused _ => true
     | _ => false)

/-- Have all earlier packets of a packet's queue completed (R37, R40). -/
def State.barred (s : State) (p : Pkt) : Bool :=
  p.barrier && s.allPkts.any fun q => q.vf == p.vf && q.queue == p.queue && decide (q.pid < p.pid) && !q.over

/-- A packet fails: its queue halts (R41). -/
def State.failPkt (s : State) (leaf pid : Nat) (cause : BitVec 8) (started : Bool) : State :=
  match s.pkt leaf pid with
  | none => s
  | some p => (s.onPkt leaf pid fun p => { p with stage := if started then .failed cause else .refused cause }).haltQueue p.vf p.queue cause p.index

/-- The key ID under which a packet's writes go: its gang's, or the first of its function's (R235; log 13). -/
def State.pktKey (s : State) (p : Pkt) : BitVec 8 :=
  if p.gang ≠ 0 then gKey (s.gangRec p.gang) else ((s.cpKeys p.vf).getD 1 0)

/-- A completed packet writes its signal, or waits for a busy page, or fails with TRANSL (R41). -/
def State.writeSignal (s : State) (leaf : Nat) (p : Pkt) : State :=
  let retry := Ev.completionSignalRetry leaf p.pid
  if p.sigAddr = 0 then (s.unpost retry).onPkt leaf p.pid fun p => { p with stage := .done } else
  match s.cpWrite leaf p.vf p.pid (s.pktKey p) p.sigAddr 8 p.sigVal with
  | .done u _ => (u.unpost retry).onPkt leaf p.pid fun p => { p with stage := .done }
  | .busy u => (u.onPkt leaf p.pid fun p => { p with stage := .writing }).postOnce retry
  | .fail u => (u.unpost retry).failPkt leaf p.pid 0x02 true

/-- The places of a gang's members: of the one that holds a leaf here, or of a saved one (R52). -/
def State.gangPlaces (s : State) (g : Nat) : List Nat :=
  let here := [0, 1].findSome? fun l => match (s.leaf l).member with
    | some m => if m.gang = g then some (s.placesOf l) else none
    | none => none
  let saved := s.contexts.findSome? fun p => if p.2.member.gang = g then some p.2.member.placement else none
  (here.orElse fun _ => saved).getD []

/-- L1 action on a list of ranges, on every leaf of a packet's gang; the packet awaits each (R46). -/
def State.rangesOf (s : State) (leaf : Nat) (p : Pkt) (ranges : List (Nat × Nat)) (drop : Bool) : State :=
  if ranges.isEmpty then s else
  let places := s.gangPlaces p.gang
  places.foldl (fun s place => s.tell place fun l => .cleanRanges l p.gang p.pid ranges drop) (s.onPkt leaf p.pid fun p => { p with owed := places })

/-- Write back a leaf's L1 lines of some ranges, and drop them where asked (R46). -/
def State.cleanRange (s : State) (leaf : Nat) (ranges : List (Nat × Nat)) (drop : Bool) : State :=
  (leafCores leaf).foldl (fun s c =>
    ((s.core c).l1.filter fun p => p.2.vlines.any fun v => ranges.any fun r => overlaps r.1 r.2 (64 * v) 64).foldl (fun s p =>
      let s := s.cleanLine c p.1
      if drop then s.dropLine c p.1 else s) s) s

/-- A leaf has done an L1 action of a packet, and says so (R46). -/
def State.cleanRanges (s : State) (leaf g pid : Nat) (ranges : List (Nat × Nat)) (drop : Bool) : State :=
  ((s.unpost (.cleanRanges leaf g pid ranges drop)).cleanRange leaf ranges drop).tell (pidPlace pid) fun l => .placeDone l pid (2 * s.pkg + leaf) true

/-- A place has done what a packet asked of it; ok is its verdict on a new configuration (R46, R49). -/
def State.placeDone (s : State) (leaf pid place : Nat) (ok : Bool) : State :=
  (s.unpost (.placeDone leaf pid place ok)).onPkt leaf pid fun p => { p with owed := p.owed.erase place, bad := p.bad || !ok }

/-- The ranges a packet writes. -/
def Pkt.written (p : Pkt) : List (Nat × Nat) := p.handles.filterMap fun h => if h.2.1.testBit 1 then some (h.2.2.1, h.2.2.2) else none

/-- The ranges a packet reads or writes. -/
def Pkt.ranges (p : Pkt) : List (Nat × Nat) := p.handles.map fun h => (h.2.2.1, h.2.2.2)

/-- The ranges whose dirty lines are written back as a packet completes: of a LAUNCH every one, since all its stores are visible at
system scope before its signal; else those it writes (R41, R46, R293). -/
def Pkt.cleans (p : Pkt) : List (Nat × Nat) := if p.type = 1 then [(0, 2 ^ 64)] else p.written

/-- A packet's work is done: dirty lines are written back, then its signal is written (R41, R46). -/
def State.finishPkt (s : State) (leaf pid : Nat) : State :=
  match s.pkt leaf pid with
  | none => s
  | some p =>
    let s := (s.onPkt leaf pid fun p => { p with stage := .writing, owed := [] }).rangesOf leaf p p.cleans false
    s.postOnce (.completionSignalRetry leaf pid)

/-- COMPLETION_SIGNAL_RETRY (R41, R46): the signal is written once every leaf has written back the packet's lines. -/
def execCompletionSignalRetry (leaf pid : Nat) (s : State) : Host.Outcome State Fault Refusal :=
  match s.pkt leaf pid with
  | some p =>
    if p.stage ≠ .writing then .next (s.unpost (.completionSignalRetry leaf pid))
    else if !p.owed.isEmpty || (s.leaf leaf).remotes.any (fun r => r.party == .packet pid) then .next s
    else .next (s.writeSignal leaf p)
  | none => .next (s.unpost (.completionSignalRetry leaf pid))

/-! Admission (R44). -/

/-- The key of a function's handle in a command processor's table. -/
def handleKey (vf : Nat) (h : BitVec 32) : Nat := vf * 2 ^ 32 + h.toNat

/-- What a packet waits for (R44). -/
def Leaf.waitsOf (l : Leaf) (p : Pkt) : List Nat :=
  (p.handles.flatMap fun h =>
    let e := l.handles.get (handleKey p.vf h.1) { writer := none, readers := [] }
    let w := e.writer.toList.filter fun x => !l.complete x
    w ++ (if h.2.1.testBit 1 then e.readers.filter fun x => !l.complete x else [])).eraseDups

/-- The table after a packet's handles (R44). -/
def Leaf.enterHandles (l : Leaf) (p : Pkt) : Leaf :=
  { l with handles := p.handles.foldl (fun t h =>
      let k := handleKey p.vf h.1
      let e := t.get k { writer := none, readers := [] }
      t.set k (if h.2.1.testBit 1 then { writer := some p.pid, readers := [] } else { e with readers := e.readers ++ [p.pid] })) l.handles }

/-- Admit a packet (R44): its waits are taken and the table is updated in one step. -/
def State.letIn (s : State) (leaf : Nat) (p : Pkt) : State :=
  let l := s.leaf leaf
  let p := { p with waits := (p.waits ++ l.waitsOf p).eraseDups }
  s.setLeaf leaf { l.enterHandles p with pkts := l.pkts ++ [p] }

/-- Packets that have ended and that nothing needs are forgotten: not a function's last LAUNCH, which a dependent launch
may name, nor one that others wait for, nor a failed packet of a halted queue, nor a refused one that waits in others' places. -/
def State.prune (s : State) (leaf : Nat) : State :=
  s.onLeaf leaf fun l =>
    { l with pkts := l.pkts.filter fun p => !p.over || !l.complete p.pid || l.lastLaunch.any (fun k => k.2 == p.pid) || l.pkts.any (fun q => !q.over && q.waits.contains p.pid) || (s.queue p.vf p.queue).halt }

/-! Arbitration (R43). -/

/-- An aligned 8-byte unit of host memory as the command processors see it: one that the host has written within the window of R36
may stand for what it held before. -/
def State.slotUnit (s : State) (u : Nat) : W64 := (s.slotView.find? u).getD (BitVec.ofNat 64 (s.host.readNat (8 * u) 8))

/-- The first 8-byte unit of a queue's head slot (R33). -/
def Queue.headUnit (x : Queue) : Nat := (x.base.toNat + 64 * x.head.toNat) / 8

/-- The 64 bytes of a queue's head slot (R33, R36). -/
def State.headSlot (s : State) (vf q : Nat) : BitVec 512 :=
  BitVec.ofNat 512 (pack 64 (fun i => (s.slotUnit ((s.queue vf q).headUnit + i)).toNat) 8)

/-- Does a unit lie in a slot that a doorbell covers and the head has not passed (R36). -/
def Queue.covers (x : Queue) (u : Nat) : Bool :=
  let n := 2 ^ x.logsz.toNat
  let slot := (8 * u - x.base.toNat) / 64
  decide (x.base.toNat ≤ 8 * u) && decide (slot < n) && decide ((slot + n - x.head.toNat) % n < (x.tail.toNat + n - x.head.toNat) % n)

/-- The host writes an aligned 8-byte unit of its memory; in the window of R36 what the unit held may still be taken. -/
def State.hostWrite (s : State) (u : Nat) (x : W64) : State :=
  let was := s.slotUnit u
  let s := if s.vfs.any fun v => v.2.queues.any fun q => q.2.covers u then { s with slotWas := s.slotWas ++ [(u, was)] } else s
  { s with slotView := s.slotView.erase u }.hostBits (8 * u) 8 x.toNat (2 ^ 64 - 1)

/-- Whether the old or the new contents of the units written within the window of R36 are taken is free, unit by unit. -/
def State.takeSlots (s : State) : State :=
  let take (s : State) (u : Nat) : State :=
    let (x, s) := s.choose (none :: (s.slotWas.filter fun w => w.1 == u).map fun w => some w.2)
    match x.join with
    | some x => { s with slotView := s.slotView.set u x }
    | none => s
  { (s.slotWas.map Prod.fst).eraseDups.foldl take s with slotWas := [] }

/-- Is a packet pending in a queue that is served. -/
def State.pending (s : State) (vf q : Nat) : Bool :=
  let x := s.queue vf q
  x.en && !x.halt && x.head != x.tail

/-- The predecessor of a dependent launch (R47). -/
def State.predOf (s : State) (leaf vf : Nat) : Option Pkt := ((s.leaf leaf).lastLaunch.find? vf).bind (s.pkt leaf)

/-- The header that a dependent launch's difference applies to (R48). -/
def State.residentHeader (s : State) (leaf vf : Nat) (b : BitVec 512) : Option (BitVec 1024) :=
  if (bytesAt b 1 1).testBit 1 then ((s.predOf leaf vf).bind Pkt.launch).map LaunchData.header else none

/-- The stencil class a packet binds by: a LAUNCH's stands in its image's header, a dependent one's in the header that is resident, a
RESIZE's in its body (R48, R60, R227). -/
def State.classOf (s : State) (leaf vf q : Nat) (b : BitVec 512) : Nat :=
  match bytesAt b 0 1 with
  | 1 =>
    match s.residentHeader leaf vf b with
    | some h => bytesAt h 6 1
    | none =>
      match s.cpRead leaf vf (s.headPid vf q) (bytesAt b 0x18 8 + 6) 1 with
      | .done _ x => x
      | _ => 0
  | 7 => bytesAt b 0x22 1
  | _ => 0

/-- Does a type of packet need the leaf (R43). -/
def needsLeaf (t : Nat) : Bool := t == 1 || t == 2 || t == 5 || t == 7

/-- Is a queue's head packet one that may be consumed now (R43, R60). -/
def State.eligible (s : State) (leaf vf q : Nat) : Bool :=
  s.pending vf q && s.servedBy leaf vf &&
  (let b := s.headSlot vf q
   !needsLeaf (bytesAt b 0 1) ||
   match s.bound leaf vf (s.classOf leaf vf q b) with
   | none => true
   | some g => cellGang (s.leaf leaf).cell == g)

/-- The doorbell order of a queue's head packet. -/
def Queue.bell (x : Queue) : Nat := (x.bells.headD (0, 0)).1

/-- The queue of a process that goes first: highest PRIO, then the earliest doorbell (R43). -/
def State.firstQueue (s : State) (vf : Nat) : List Nat → Option Nat
  | [] => none
  | q :: t =>
    match s.firstQueue vf t with
    | none => some q
    | some r =>
      let a := s.queue vf q
      let b := s.queue vf r
      if b.prio < a.prio ∨ (a.prio = b.prio ∧ a.bell ≤ b.bell) then some q else some r

/-- The weight of a process, reset 1 (R43). -/
def State.weight (s : State) (vf proc : Nat) : Nat := ((s.vf vf).weights.get proc 1).toNat

/-- The process that a function's turn goes to, and the deficits after it (R43). Of the processes with a deficit of at least 1 the one
of the lowest number goes first, which the rule leaves open (DESIGN CHOICE; unsafe: hardware could serve them in another order). -/
def State.firstProc (s : State) (leaf vf : Nat) (qs : List Nat) : Option Nat × FMap Nat :=
  let key (p : Nat) : Nat := vf * 16 + p
  let pend := (List.range 16).filter fun p => (s.vf vf).queues.any fun q => s.pending vf q.1 && q.2.proc.toNat == p
  let d := (s.leaf leaf).deficits
  let d := (List.range 16).foldl (fun d p => if pend.contains p then d else d.set (key p) 0) d
  let can := (List.range 16).filter fun p => qs.any fun q => (s.queue vf q).proc.toNat == p
  let pick (d : FMap Nat) : Option Nat := can.find? fun p => decide (1 ≤ d.get (key p) 0)
  let d := if (pick d).isSome then d else can.foldl (fun d p => d.set (key p) (d.get (key p) 0 + s.weight vf p)) d
  match pick d with
  | none => (none, d)
  | some p => (some p, d.set (key p) (d.get (key p) 0 - 1))

/-- The functions in round-robin order, the one served last at the end (R43). -/
def vfOrder (last : Nat) (l : List Nat) : List Nat := l.filter (fun v => decide (last < v)) ++ l.filter fun v => decide (v ≤ last)

/-- The queue whose head packet a command processor consumes next, and its leaf after the choice. -/
def State.nextPacket (s : State) (leaf : Nat) : Option (Nat × Nat × Leaf) :=
  let l := s.leaf leaf
  let vfs := s.vfs.map Prod.fst
  let ready (v : Nat) : List Nat := (((s.vf v).queues.map Prod.fst).filter fun q => s.eligible leaf v q)
  match (vfOrder l.rrVf vfs).find? fun v => !(ready v).isEmpty with
  | none => none
  | some v =>
    let qs := ready v
    match s.firstProc leaf v qs with
    | (none, _) => none
    | (some p, d) =>
      (s.firstQueue v (qs.filter fun q => (s.queue v q).proc.toNat == p)).map fun q => (v, q, { l with deficits := d, rrVf := v })

/-- The event that consumes a packet, by its type; a type that no packet has is refused as a LAUNCH is (R37, R50). -/
def consumeEv (leaf vf q t : Nat) : Ev :=
  match t with
  | 2 => .copy leaf vf q
  | 3 => .waitsig leaf vf q
  | 4 => .signalPacket leaf vf q
  | 5 => .ckpt leaf vf q
  | 6 => .meter leaf vf q
  | 7 => .resize leaf vf q
  | _ => .launch leaf vf q

/-- Let the heads of a queue be consumed, on the leaves that may serve it. -/
def State.offer (s : State) (vf q : Nat) : State :=
  if s.pending vf q then
    [0, 1].foldl (fun s l => if s.servedBy l vf then s.postOnce (consumeEv l vf q (bytesAt (s.headSlot vf q) 0 1)) else s) s
  else s

/-- Let every pending queue's head be consumed. -/
def State.offerAll (s : State) : State :=
  s.vfs.foldl (fun s v => v.2.queues.foldl (fun s q => s.offer v.1 q.1) s) s

/-- A queue after its head has been consumed (R33). -/
def Queue.advanced (x : Queue) : Queue :=
  let h := (x.head.toNat + 1) % 2 ^ x.logsz.toNat
  { x with head := BitVec.ofNat 32 h, bells := x.bells.dropWhile fun b => b.2 == h }

/-- The head of a queue is consumed: QHEAD advances (R33), and nothing of the slot is seen any more (R36). -/
def State.advanceHead (s : State) (vf q : Nat) : State :=
  let u := (s.queue vf q).headUnit
  { s with slotView := (List.range 8).foldl (fun v i => v.erase (u + i)) s.slotView }.onQueue vf q Queue.advanced

/-- A new packet from a slot, with its number. -/
def State.newPkt (s : State) (leaf vf q : Nat) (b : BitVec 512) : Pkt × State :=
  let n := (s.leaf 0).pktSeq
  ({ pid := (n * 1024 + s.pkg) * 2 + leaf, vf := vf, queue := q, index := (s.queue vf q).head.toNat, bytes := b, waits := [], handles := [], gang := 0,
     stage := .waiting, at_ := s.now, progress := 0, pages := [], launch := none, block := 0, table := [], owed := [], bad := false },
   s.onLeaf 0 fun l => { l with pktSeq := n + 1 })

/-- What consuming a packet decides: it is admitted as given; it waits, unconsumed, for a busy page; it waits for what it has asked
of another package; or it fails. -/
inductive Consumed where
  | letIn (s : State) (p : Pkt)
  | wait
  | ask (s : State)
  | fail (s : State) (cause : BitVec 8)

/-- The last LAUNCH of a function is noted (R47). -/
def State.noteLaunch (s : State) (leaf : Nat) (p : Pkt) : State :=
  if p.type = 1 then s.onLeaf leaf fun l => { l with lastLaunch := l.lastLaunch.set p.vf p.pid } else s

/-- What was asked for a head packet is of no use once it has been consumed. -/
def State.forgetHead (s : State) (leaf head : Nat) : State :=
  (s.forget leaf (.packet head)).onLeaf leaf fun l => { l with areas := l.areas.filter fun a => a.1 != head }

/-- The head packet of a queue fails as it is consumed: its queue halts, and it starts nothing (R41, R50). -/
def State.failHead (s : State) (leaf : Nat) (ev : Ev) (p : Pkt) (cause : BitVec 8) : State :=
  let t := (((s.forgetHead leaf (s.headPid p.vf p.queue)).unpost ev).advanceHead p.vf p.queue).prune leaf
  let t := t.onLeaf leaf fun l => { l with pkts := l.pkts ++ [p] }
  (t.noteLaunch leaf p).failPkt leaf p.pid cause false

/-- The head packet of a queue fails for what was asked for it. -/
def State.refuseHead (s : State) (leaf vf q : Nat) (cause : BitVec 8) : State :=
  let b := s.headSlot vf q
  let (p, u) := s.newPkt leaf vf q b
  u.failHead leaf (consumeEv leaf vf q (bytesAt b 0 1)) p cause

/-- Consume the head of a queue, if arbitration gives it the turn and its type is the row's (R33, R43, R50): the checks k
decide. One that waits keeps its turn. -/
def State.consume (s : State) (leaf vf q : Nat) (ev : Ev) (k : State → Pkt → Consumed) : State :=
  let s := s.takeSlots
  match s.nextPacket leaf with
  | none => if s.pending vf q then s else s.unpost ev
  | some (v, r, l) =>
    let b := s.headSlot vf q
    if !(s.pending vf q) then s.unpost ev
    else if consumeEv leaf vf q (bytesAt b 0 1) ≠ ev then (s.unpost ev).offer vf q
    else if v ≠ vf ∨ r ≠ q then s
    else
      let (p, u) := (s.setLeaf leaf l).newPkt leaf vf q b
      match k u p with
      | .wait => s
      | .ask t => t.onLeaf leaf fun x => { x with deficits := (s.leaf leaf).deficits, rrVf := (s.leaf leaf).rrVf }
      | .fail t cause => t.failHead leaf ev p cause
      | .letIn t p =>
        let t := ((((t.forgetHead leaf (s.headPid vf q)).unpost ev).advanceHead vf q).prune leaf).letIn leaf p
        ((t.noteLaunch leaf p).post (.packetStart leaf p.pid)).offer vf q

/-- The header's own checks (R37). -/
def headOk (b : BitVec 512) : Bool :=
  let t := bytesAt b 0 1
  decide (1 ≤ t) && decide (t ≤ 7) && decide (bytesAt b 1 1 < 4) && (!(bytesAt b 1 1).testBit 1 || t == 1) && bytesAt b 2 6 == 0 && bytesAt b 8 8 % 8 == 0

/-- The check of the signal address (R481): some true to wait, some false to fail. -/
def State.sigStands (s : State) (leaf : Nat) (p : Pkt) : Option Bool :=
  if p.sigAddr = 0 then none else s.cpMapped leaf p.vf needWr p.sigAddr 8

/-- Go on with a check of mapped ranges. -/
def Consumed.mapped (s : State) (o : Option Bool) (k : Consumed) : Consumed :=
  match o with
  | none => k
  | some true => .wait
  | some false => .fail s 0x02

/-- The last checks of a packet that binds to a gang: the gang appears and is not marked faulted (R43, R60). -/
def Consumed.bind (s : State) (leaf vf cls : Nat) (k : Nat → Consumed) : Consumed :=
  match s.bound leaf vf cls with
  | none => .fail s 0x0B
  | some g => if (s.faultedGangs.find? g).isSome then .fail s 0x0B else k g

end Sys2Proof.Machine
end

