-- ==== Sys2Proof/Machine/LaunchCheck.lean ====
section
/-! DEFINITION. The checks of a LAUNCH in the order of R50, and what it reads of its image (R24 to R32, R47 to R50, R62,
R73, R421, R481). -/

namespace Sys2Proof.Machine

/-! Members before their gang's first launch, and where they stand (R52, R62, R73, R420, R421; log 14). -/

/-- The head of a member's context area, as the host driver has written it: its dustsheet, save area and launch area
(R421). -/
def State.newMember (s : State) (leaf g i : Nat) : Member :=
  let r := s.gangRec g
  let head : BitVec 2048 := BitVec.ofNat 2048 (s.hbmRead leaf (contextBase g i) 256 fun k => k == 0 || k == gKey r)
  { gang := g, member := i, vf := gVf r, cls := gClass r, size := gSize r, key := gKey r, sent := 0, recv := 0,
    dustBase := bytesAt head 0x20 8, dustLimit := bytesAt head 0x28 8, saveBase := bytesAt head 0x30 8,
    launchBase := bytesAt head 0x40 8, image := 0, header := 0, args := [], bhl := [], live := [], cfg3 := 0, supPages := [],
    running := none, launched := false, nextWork := 0, workLeft := false, pool := [], aborts := [], unread := [],
    barriers := [], colls := [], trees := [], routers := [], unreleased := [], dropped := [], complete := true, mdones := [], txnSeq := 0,
    dust := [], dustUsed := 0, held := [], placement := [] }

/-- The context of a member that holds no leaf; before its gang's first launch its head is read from its area. -/
def State.savedOf (s : State) (leaf g i : Nat) : Saved :=
  let new : Saved :=
    { member := s.newMember leaf g i, leaf := 2 * s.pkg + leaf, strands := [], cores := [], queues := [], remotes := [], answers := [],
      faulted := false, captured := false, savedAt := 0, cmdSeq := 0, owed := 0 }
  match s.contexts.find? (contextKey g i) with
  | some c =>
    if c.member.launched then c
    else { c with member := { c.member with vf := new.member.vf, cls := new.member.cls, size := new.member.size, key := new.member.key, dustBase := new.member.dustBase,
                                            dustLimit := new.member.dustLimit, saveBase := new.member.saveBase, launchBase := new.member.launchBase } }
  | none => new

/-- The member record of a member, on its leaf or in its context. -/
def State.memberNow (s : State) (leaf g i : Nat) : Member :=
  match (s.leaf leaf).member with
  | some m => if m.gang = g ∧ m.member = i then m else (s.savedOf leaf g i).member
  | none => (s.savedOf leaf g i).member

/-- The members of a gang whose cells of the current slot are this package's, with their leaves. -/
def State.cellsOf (s : State) (g : Nat) : List (Nat × Nat) :=
  [0, 1].filterMap fun l =>
    let c := (s.leaf l).cell
    if g ≠ 0 ∧ cellGang c = g then some (l, cellMember c) else none

/-- The place of a member of a gang in the current slot. -/
def State.placeNow (s : State) (leaf g i : Nat) : Nat :=
  match (s.cellsOf g).find? fun c => c.2 == i with
  | some c => 2 * s.pkg + c.1
  | none => Config.memberPlace g i (s.leaf leaf).active.frame0.toNat (s.leaf leaf).slotNow

/-- The places of a gang's members in the current slot. -/
def State.placesNow (s : State) (leaf g : Nat) : List Nat := (List.range (gSize (s.gangRec g))).map (s.placeNow leaf g)

/-- The distance of R62 between two places. -/
def placeDistance (a b : Nat) : Nat := if a / 2 = b / 2 then 0 else Config.podDistance (a / 2) (b / 2)

/-- An entry of a gang's hop matrix (R62), in the HBM of the leaf that reads it. -/
def State.hopEntry (s : State) (leaf : Nat) (r : BitVec 128) (i j : Nat) : Nat :=
  let n := i * gSize r + j
  s.hbmRead leaf (gHop r + n / 4) 1 (· == 0) / 4 ^ (n % 4) % 4

/-- Does a placement satisfy a gang's hop matrix (R62). -/
def State.hopsHold (s : State) (leaf : Nat) (r : BitVec 128) (place : Nat → Nat) : Bool :=
  (List.range (gSize r)).all fun i => (List.range (gSize r)).all fun j =>
    let e := s.hopEntry leaf r i j
    e == 3 || e == placeDistance (place i) (place j)

/-- A hop matrix is read: its lines under another key ID are counted (R62, R234). -/
def State.matrixRead (s : State) (leaf : Nat) (r : BitVec 128) : State :=
  s.keyMisses leaf (gHop r) ((gSize r * gSize r + 3) / 4) (· == 0)

/-- Does an area's base name a leaf, with the area allotted (R73). -/
def State.areaOk (s : State) (vf leaf base n : Nat) : Bool :=
  let (l, off, pkg) := hbmParts base
  base / 2 ^ 49 == 0 && off % 64 == 0 && l == leaf && pkg == s.pkg && s.allAllotted vf leaf off n

/-- The check of CTXAREA for a member (R50, R73). -/
def State.ctxOk (s : State) (leaf : Nat) (m : Member) : Bool :=
  s.areaOk m.vf leaf m.dustBase m.dustLimit && decide (65536 ≤ m.dustLimit) && s.areaOk m.vf leaf m.saveBase (2 ^ 26)

/-- A member's launch area is mapped with RD and WR in the HBM of its leaf (R32): none where it is, else whether to wait. -/
def State.launchAreaStands (s : State) (leaf : Nat) (m : Member) : Option Bool :=
  if m.launchBase % 4096 ≠ 0 then some false else
  (List.range 8).findSome? fun i =>
    match s.walk leaf m.vf m.key needRw' (m.launchBase + 4096 * i) with
    | .mapped t => match t.at (m.launchBase + 4096 * i) with
      | .hbm l _ => if l = leaf then none else some false
      | _ => some false
    | .busy _ => some true
    | _ => some false
where
  needRw' : Need := { rd := true, wr := true, ex := false }

/-! The header (R25 to R28). -/

/-- The header's checks of HDRCHK; a dependent launch's HCRC is not checked (R48). -/
def hdrOk (h : BitVec 1024) (crc : Bool) : Bool :=
  bytesAt h 0 2 == 1 && bytesAt h 2 2 == 128 && bytesAt h 7 1 / 8 == 0 && bytesAt h 0x0B 1 == 0 && bytesAt h 0x69 15 == 0 && bytesAt h 0x7C 4 == 0 &&
  (!crc || (crc32c (fun i => BitVec.ofNat 8 (bytesAt h i 1)) 0x78).toNat == bytesAt h 0x78 4)

/-- FIELDS (R27, R28). NFIELDS outside 1 to 6, for which R25 names no cause, fails here too (DESIGN CHOICE; unsafe: hardware could report
HDRCHK). -/
def fieldsOk (h : BitVec 1024) : Bool :=
  let k := bytesAt h 9 1
  let f (n : Nat) : Nat := 0x10 + 8 * n
  let width (n : Nat) : Nat := bytesAt h (f n) 1
  let bind (n : Nat) : Nat := bytesAt h (f n + 1) 1
  let count (n : Nat) : Nat := bytesAt h (f n + 4) 4
  let used := List.range (min k 6)
  let bound (b : Nat) : Option Nat := used.find? fun n => bind n == b
  let atMost (b limit : Nat) : Bool := match bound b with
    | some n => decide (count n ≤ limit)
    | none => true
  decide (1 ≤ k) && decide (k ≤ 6) &&
  (List.range 6).all (fun n =>
    if n < k then decide (1 ≤ width n) && decide (width n ≤ 64) && bytesAt h (f n + 2) 2 == 0 && decide (1 ≤ bind n) && decide (bind n ≤ 5) &&
      decide (1 ≤ count n) && decide (count n ≤ 2 ^ width n) && used.all (fun m => m == n || bind m != bind n)
    else bytesAt h (f n) 8 == 0) &&
  decide ((used.map width).sum ≤ 64) &&
  (match bound 1 with
   | some n => count n == bytesAt h 4 2
   | none => decide (bytesAt h 4 2 ≤ 1)) &&
  atMost 2 8 && atMost 4 4 && atMost 3 (if (bound 2).isSome then 8 else 64)

def hSuper (h : BitVec 1024) : Bool := (bytesAt h 7 1).testBit 1
def hXip (h : BitVec 1024) : Bool := (bytesAt h 7 1).testBit 2
def hCodeOff (h : BitVec 1024) : Nat := bytesAt h 0x40 4
def hCodeLen (h : BitVec 1024) : Nat := bytesAt h 0x44 4
def hDictOff (h : BitVec 1024) : Nat := bytesAt h 0x48 4
def hNdict (h : BitVec 1024) : Nat := bytesAt h 0x4C 2
def hDictIdx (h : BitVec 1024) : Nat := bytesAt h 0x0A 1
def hEntry (h : BitVec 1024) : Nat := bytesAt h 0x4E 2
def hBhlOff (h : BitVec 1024) : Nat := bytesAt h 0x50 4
def hNbh (h : BitVec 1024) : Nat := bytesAt h 0x54 2
def hNlive (h : BitVec 1024) : Nat := bytesAt h 0x56 2
def hLiveOff (h : BitVec 1024) : Nat := bytesAt h 0x58 4
def hSupOff (h : BitVec 1024) : Nat := bytesAt h 0x5C 4
def hSupLen (h : BitVec 1024) : Nat := bytesAt h 0x60 4
def hCbtOff (h : BitVec 1024) : Nat := bytesAt h 0x64 4
def hNcbt (h : BitVec 1024) : Nat := bytesAt h 0x68 1
def hSafe (h : BitVec 1024) : Nat := bytesAt h 0x0C 4

/-- The sections of an image that hold bytes, the header first (R24). One of zero length, of which the rule does not speak, is held to
neither alignment nor overlap (DESIGN CHOICE; unsafe: hardware could refuse a launch for its offset). -/
def sections (h : BitVec 1024) : List (Nat × Nat) :=
  [(0, 128), (hCodeOff h, hCodeLen h), (hDictOff h, 49152 * hNdict h), (hBhlOff h, 4 * hNbh h), (hLiveOff h, 64 * min (hNlive h) 4096),
   (hCbtOff h, 16 * hNcbt h), (hSupOff h, if hSuper h then hSupLen h else 0)].filter fun x => x.2 != 0

/-- Do no two of some ranges overlap. -/
def apart : List (Nat × Nat) → Bool
  | [] => true
  | x :: t => t.all (fun y => !overlaps x.1 x.2 y.1 y.2) && apart t

/-- An entry of the circular-buffer table: its buffer and descriptor, if it is well formed (R26). -/
def cbtEntry (x : Nat) : Option (Nat × W64) :=
  let d : W64 := BitVec.ofNat 64 (x / 2 ^ 64)
  if x % 256 ≤ 31 ∧ x / 2 ^ 8 % 2 ^ 56 = 0 ∧ cbOk d ∧ cbProd d = 0 ∧ cbCons d = 0 ∧ cbFilled d = 0 then some (x % 256, d) else none

/-- The table's launch values: every entry is well formed and no buffer appears twice (R26). -/
def cbtOf (x : Nat) : Nat → Option (FMap W64)
  | 0 => some []
  | n + 1 =>
    match cbtOf x n, cbtEntry (x / 2 ^ (128 * n) % 2 ^ 128) with
    | some t, some (c, d) => if (FMap.find? t c).isSome then none else some (FMap.set t c d)
    | _, _ => none

/-- CODE, but for the tables that lie in the image (R25, R50). -/
def codeOk (h : BitVec 1024) : Bool :=
  hCodeLen h % 2 == 0 && (hXip h || decide (hCodeLen h ≤ 16384)) && decide (1 ≤ hNdict h) && decide (hNdict h ≤ 255) &&
  decide (hDictIdx h < hNdict h) && decide (hEntry h < hCodeLen h / 2) && (sections h).all (fun x => x.1 % 64 == 0) && apart (sections h) &&
  decide (hNcbt h ≤ 32) && (hNcbt h != 0 || hCbtOff h == 0)

/-- SAFEBOUND. -/
def safeOk (h : BitVec 1024) : Bool :=
  (hSafe h == 0 || (decide (1024 ≤ hSafe h) && decide (hSafe h ≤ 16777215))) && decide (1 ≤ hNlive h) && decide (hNlive h ≤ 4096)

/-- SUPER. -/
def superOk (h : BitVec 1024) : Bool :=
  (if hSuper h then hSupOff h != 0 && hSupLen h != 0 else hSupOff h == 0 && hSupLen h == 0) && decide (hSupLen h ≤ 16384)

/-- The buffer handles with merged modes and ranges (R30, R31), none where an entry or record is malformed. A handle in two
slots has its ranges one after another. -/
def handlesOf (bhl args : Nat) (n : Nat) : Option (List (BitVec 32 × Nat × Nat × Nat)) :=
  let l := (List.range n).map fun i =>
    let e := bhl / 2 ^ (32 * i) % 2 ^ 32
    let r := args / 2 ^ (192 * i) % 2 ^ 192
    let merged := (List.range n).foldl (fun m j =>
      if args / 2 ^ (192 * j) % 2 ^ 32 = r % 2 ^ 32 then m ||| (bhl / 2 ^ (32 * j) % 256) else m) 0
    let ok := decide (1 ≤ e % 256) && decide (e % 256 ≤ 3) && e / 2 ^ 16 == 0 && r % 2 ^ 32 != 0 && r / 2 ^ 32 % 2 ^ 32 == 0 && r / 2 ^ 128 != 0
    (ok, (BitVec.ofNat 32 r, merged, r / 2 ^ 64 % 2 ^ 64, r / 2 ^ 128))
  if l.all Prod.fst then some (l.map Prod.snd) else none

/-! The difference of a dependent launch (R47 to R49). -/

/-- Bytes of each configuration plane (R48). -/
def planeSize (unit : Nat) : Nat := [128, 256, 1024, 16, 1024].getD unit 0

/-- The records of a difference block, none where it is malformed (R47, R48). The fuel is its length. -/
def diffRecs : Nat → List Byte → Option (List DiffRec)
  | _, [] => some []
  | 0, _ => none
  | n + 1, l =>
    let len := leNat l 4 2
    let size := 16 + 8 * ((len + 7) / 8)
    let r : DiffRec := { unit := leNat l 0 2, off := leNat l 2 2, ucrc := leNat l 8 4, data := (l.drop 16).take len }
    if size ≤ l.length ∧ 1 ≤ len ∧ len ≤ 4096 ∧ r.unit ≤ 4 ∧ r.off + len ≤ planeSize r.unit ∧ leNat l 6 2 = 0 ∧ leNat l 12 4 = 0 ∧
        leNat l (16 + len) (size - 16 - len) = 0 then
      (diffRecs n (l.drop size)).map (r :: ·)
    else none

/-- Records that name one unit carry one UCRC (R47). -/
def diffOk (l : List DiffRec) : Bool := l.all fun a => l.all fun b => a.unit != b.unit || a.ucrc == b.ucrc

/-- A plane after the records of its unit (R48). -/
def diffed (l : List DiffRec) (unit plane : Nat) : Nat :=
  (l.filter fun r => r.unit == unit).foldl (fun x r =>
    let n := r.data.length
    mergeNat x (leNat r.data 0 n * 2 ^ (8 * r.off)) ((2 ^ (8 * n) - 1) * 2 ^ (8 * r.off))) plane

/-- The UCRC of a unit that records name. -/
def ucrcOf (l : List DiffRec) (unit : Nat) : Option Nat := (l.find? fun r => r.unit == unit).map DiffRec.ucrc

/-- Does a plane's CRC match its records' (R49). -/
def crcHolds (l : List DiffRec) (unit plane : Nat) : Bool :=
  match ucrcOf l unit with
  | none => true
  | some c => (crc32c (fun i => BitVec.ofNat 8 (plane / 2 ^ (8 * i))) (planeSize unit)).toNat == c

/-- The fetch and dictionary selection after a launch that is not dependent (R48). -/
def freshCfg3 (h : BitVec 1024) : BitVec 128 :=
  let bank := bytesAt h 7 1 % 2
  let d (b : Nat) : Nat := if b = bank then hDictIdx h else 0xFFFF
  BitVec.ofNat 128 (d 0 + d 1 * 2 ^ 16 + bank * 2 ^ 32 + hEntry h * 2 ^ 64)

/-- DICTB of a bank, START, RELOAD and ENTRY of a selection (R48). -/
def cfgDict (c : BitVec 128) (bank : Nat) : Nat := bytesAt c (2 * bank) 2
def cfgStart (c : BitVec 128) : Nat := bytesAt c 4 1 % 2
def cfgReload (c : BitVec 128) : Bool := (bytesAt c 4 1).testBit 1
def cfgEntry (c : BitVec 128) : Nat := bytesAt c 8 4

/-- The checks of a new selection (R48). -/
def cfg3Ok (h : BitVec 1024) (c : BitVec 128) : Bool :=
  (List.range 2).all (fun b => cfgDict c b == 0xFFFF || decide (cfgDict c b < hNdict h)) &&
  decide (cfgEntry c < if hXip h then hCodeLen h / 2 else 8192) && bytesAt c 4 1 / 4 == 0 && bytesAt c 5 3 == 0 && bytesAt c 12 4 == 0

/-- The region map of a core as unit 4's plane (R48). -/
def Core.mapPlane (c : Core) : Nat :=
  (List.range 64).foldl (fun x n => let r := c.regions.get n .reset
                                    x + (r.vbase.toNat + 2 ^ 64 * r.rattr.toNat) * 2 ^ (128 * n)) 0

/-- The knot registers of a core as unit 2's plane (R48). -/
def Core.knotPlane (c : Core) : Nat := (List.range 64).foldl (fun x n => x + (c.knots.get n 0).toNat * 2 ^ (128 * n)) 0

/-- Do a core's new planes pass (R48, R49). -/
def Core.planesPass (c : Core) (l : List DiffRec) : Bool :=
  let kn := diffed l 2 c.knotPlane
  let mp := diffed l 4 c.mapPlane
  crcHolds l 1 (diffed l 1 (c.trowelS.readNat 0 256)) && crcHolds l 2 kn && crcHolds l 4 mp &&
  (List.range 64).all fun n =>
    knotOk (BitVec.ofNat 128 (kn / 2 ^ (128 * n))) &&
    rattrOk (BitVec.ofNat 64 (mp / 2 ^ (128 * n))) (BitVec.ofNat 64 (mp / 2 ^ (128 * n + 64)))

/-- CFGCHK for the planes that the command processor holds itself (R48, R49). -/
def LaunchData.cfgPasses (x : LaunchData) : Bool :=
  crcHolds x.diff 0 x.header.toNat && crcHolds x.diff 3 x.cfg3.toNat && cfg3Ok x.header x.cfg3

/-- CFGCHK as the cores of a gang's member on a leaf answer it, where the member is out the cores of its context (R49). -/
def State.planesPass (s : State) (leaf gang : Nat) (diff : List DiffRec) : Bool :=
  if (s.leaf leaf).member.any fun m => m.gang == gang then (leafCores leaf).all fun k => (s.core k).planesPass diff
  else s.contexts.all fun p => p.2.member.gang != gang || p.2.leaf != 2 * s.pkg + leaf || (List.range 64).all fun n => (FMap.get p.2.cores n .reset).planesPass diff

/-- A member's verdict on a difference goes to the command processor (R49). -/
def State.cfgCheck (s : State) (leaf gang pid : Nat) (diff : List DiffRec) : State :=
  let ok := s.planesPass leaf gang diff
  (s.unpost (.cfgCheck leaf gang pid diff)).tell (pidPlace pid) fun l => .placeDone l pid (2 * s.pkg + leaf) ok

/-- The member field's descriptor of a header, with its place. -/
def memberField (h : BitVec 1024) : Option (Nat × Nat) :=
  ((List.range (bytesAt h 9 1)).find? fun n => bytesAt h (0x11 + 8 * n) 1 == 1).map fun n => (n, bytesAt h (0x10 + 8 * n) 8)

/-- NORES: does a dependent launch differ from what is resident (R47, R48). -/
def resident (old new : BitVec 1024) : Bool :=
  bytesAt old 4 2 == bytesAt new 4 2 && bytesAt old 6 1 == bytesAt new 6 1 && memberField old == memberField new

/-! The checks in order (R50, R481). -/

/-- Check, or fail with a cause. -/
def Consumed.need (s : State) (ok : Bool) (cause : BitVec 8) (k : Consumed) : Consumed := if ok then k else .fail s cause

/-- Check that ranges are mapped; an empty one is not checked. -/
def State.rangesMapped (s : State) (leaf vf : Nat) (l : List (Need × Nat × Nat)) : Option Bool :=
  l.findSome? fun r => if r.2.2 = 0 then none else s.cpMapped leaf vf r.1 r.2.1 r.2.2

/-- Read bytes that a head packet names and go on. -/
def Consumed.read (s : State) (leaf : Nat) (p : Pkt) (va n : Nat) (k : State → Nat → Consumed) : Consumed :=
  if n = 0 then k s 0 else
  match s.cpRead leaf p.vf (s.headPid p.vf p.queue) va n with
  | .done u x => k u x
  | .busy u => .ask u
  | .fail u => .fail u 0x02

/-- Read dictionaries of an image in turn. One that the launch is not checked for and that cannot be read is not loaded: its bank
keeps what it holds (R481; log 81). -/
def Consumed.dicts (leaf : Nat) (p : Pkt) (base : Nat) (k : State → FMap Mem → Consumed) : List Nat → FMap Mem → State → Consumed
  | [], acc, s => k s acc
  | d :: t, acc, s =>
    if (acc.find? d).isSome then Consumed.dicts leaf p base k t acc s
    else match s.cpRead leaf p.vf (s.headPid p.vf p.queue) (base + 49152 * d) 49152 with
      | .done u x => Consumed.dicts leaf p base k t (acc.set d (Mem.writeNat [] 0 49152 x)) u
      | .busy u => .ask u
      | .fail u => Consumed.dicts leaf p base k t acc u

/-- The sections that R481 checks in its second stage, at their addresses; one beyond its limits is skipped. -/
def stageTwo (image : Nat) (h : BitVec 1024) : List (Need × Nat × Nat) :=
  let sec (ok : Bool) (off n : Nat) : List (Need × Nat × Nat) := if ok then [(needRd, image + off, n)] else []
  sec (!hXip h && decide (hCodeLen h ≤ 16384) && hCodeLen h % 2 == 0) (hCodeOff h) (hCodeLen h) ++
  sec (decide (hDictIdx h < hNdict h) && decide (hNdict h ≤ 255)) (hDictOff h + 49152 * hDictIdx h) 49152 ++
  sec (decide (hNbh h ≤ 64)) (hBhlOff h) (4 * hNbh h) ++ sec (decide (hNlive h ≤ 4096)) (hLiveOff h) (64 * hNlive h) ++
  sec (decide (hNcbt h ≤ 32)) (hCbtOff h) (16 * hNcbt h) ++ sec (hSuper h && decide (hSupLen h ≤ 16384)) (hSupOff h) (hSupLen h)

/-- Live masks with no byte set among 42 to 63 (R414). -/
def liveOk (x n : Nat) : Bool := (List.range n).all fun i => x / 2 ^ (512 * i + 336) % 2 ^ 176 == 0

/-- A LAUNCH consumed while its gang's members are out begins the start exchange, whose reference time is the instant it is
consumed (R75); where another gang is still on the leaf, the hand-over begins it (R58). -/
def State.callExchange (s : State) (leaf : Nat) (g : Nat) : State :=
  let l := s.leaf leaf
  if l.member.isSome ∨ cellGang l.cell ≠ g then s
  else (s.placesNow leaf g).foldl (fun s place => s.tell place fun k => .exchange k g s.now) s

/-- The places of a gang's members on other packages. -/
def State.farPlaces (s : State) (leaf g : Nat) : List Nat := (s.placesNow leaf g).filter fun place => place / 2 != s.pkg

/-- What a place has answered of its member's areas for a head packet. -/
def Leaf.areaOf (l : Leaf) (head place : Nat) : Option (Bool × Bool) := (l.areas.find? fun a => a.1 == head && a.2.1 == place).bind fun a => a.2.2

/-- Other packages are asked, once for a head packet, how their members' areas stand (R32, R73). -/
def State.askAreas (s : State) (leaf g head : Nat) : State :=
  (s.farPlaces leaf g).foldl (fun s place =>
    if (s.leaf leaf).areas.any fun a => a.1 == head && a.2.1 == place then s
    else (s.onLeaf leaf fun l => { l with areas := l.areas ++ [(head, place, none)] }).tell place fun l => .areaCheck l g head (2 * s.pkg + leaf)) s

/-- A member's package answers whether the launch area is mapped, and whether the member needs no check of CTXAREA or passes it. -/
def State.areaCheck (s : State) (leaf g head place : Nat) : State :=
  match (s.cellsOf g).find? fun c => c.1 == leaf with
  | none => s
  | some c =>
    let m := s.memberNow leaf g c.2
    match s.launchAreaStands leaf m with
    | some true => s
    | r => (s.unpost (.areaCheck leaf g head place)).tell place fun l => .areaAnswer l head (2 * s.pkg + leaf) r.isNone (m.launched || s.ctxOk leaf m)

/-- The answer is noted, where the packet still waits for it. -/
def State.areaAnswer (s : State) (leaf head place : Nat) (mapped allotted : Bool) : State :=
  (s.unpost (.areaAnswer leaf head place mapped allotted)).onLeaf leaf fun l =>
    { l with areas := l.areas.map fun a => if a.1 = head ∧ a.2.1 = place then (head, place, some (mapped, allotted)) else a }

/-- The members' launch areas stand (R32, R481): those of this package are looked at, those of others asked for. -/
def Consumed.areas (s : State) (leaf : Nat) (p : Pkt) (cls : Nat) (k : Consumed) : Consumed :=
  match s.bound leaf p.vf cls with
  | none => k
  | some g =>
    let head := s.headPid p.vf p.queue
    Consumed.mapped s ((s.cellsOf g).findSome? fun c => s.launchAreaStands c.1 (s.memberNow c.1 g c.2)) <|
    let far := (s.farPlaces leaf g).map ((s.leaf leaf).areaOf head)
    if far.any Option.isNone then .ask (s.askAreas leaf g head)
    else if far.all (fun a => a.any Prod.fst) then k else .fail s 0x02

/-- CTXAREA at a gang's first launch, for the members here and as other packages answered (R50, R73). -/
def State.ctxPasses (s : State) (leaf g head : Nat) : Bool :=
  ((s.cellsOf g).all fun c => let m := s.memberNow c.1 g c.2
                              m.launched || s.ctxOk c.1 m) &&
  (s.farPlaces leaf g).all fun place => ((s.leaf leaf).areaOf head place).any Prod.snd

/-- The checks from STENCIL on, and the packet as it is admitted with its data. A predecessor that failed before it was read leaves
nothing to compare with (log 48). -/
def lastChecks (s : State) (leaf : Nat) (p : Pkt) (x : LaunchData) (handles : List (BitVec 32 × Nat × Nat × Nat)) (recs : Option (List DiffRec))
    (old : Option LaunchData) (oldGang : Nat) (dep predFailed : Bool) : Consumed :=
  Consumed.bind s leaf p.vf (bytesAt x.header 6 1) fun g =>
    let s := s.matrixRead leaf (s.gangRec g)
    Consumed.need s (s.hopsHold leaf (s.gangRec g) (s.placeNow leaf g)) 0x0C <|
    Consumed.need s (!dep || (p.at 0x30 8 % 8 == 0 && recs.isSome)) 0x0D <|
    Consumed.need s (!dep || (match old with
      | some o => resident o.header x.header && oldGang == g
      | none => predFailed)) 0x0E <|
    Consumed.need s (!predFailed) 0x10 <|
    Consumed.need s (dep || s.ctxPasses leaf g (s.headPid p.vf p.queue)) 0x12 <|
    let base := x.image + hDictOff x.header
    let ds := hDictIdx x.header :: ([cfgDict x.cfg3 0, cfgDict x.cfg3 1].filter fun d => decide (d < hNdict x.header))
    Consumed.dicts leaf p base (fun s d =>
      .letIn (s.callExchange leaf g) { p with gang := g, handles := handles, launch := some { x with dicts := d }, waits := (if dep then x.pred.toList else []) }) ds [] s

/-- GANG: GANGSIZE in range, and no more than the leaves that a gang of the function in this column has; where none stands there the
packet fails with STENCIL (R43, R50; log 47). -/
def State.gangFits (s : State) (leaf vf size : Nat) : Bool :=
  let gs := (s.leaf leaf).column.filter fun g => gVf (s.gangRec g) == vf
  decide (1 ≤ size) && decide (size ≤ 1986) && (gs.isEmpty || gs.any fun g => decide (size ≤ gSize (s.gangRec g)))

/-- The checks from ARGLEN to HANDLE. -/
def imageChecks (s : State) (leaf : Nat) (p : Pkt) (h : BitVec 1024) (k : State → LaunchData → List (BitVec 32 × Nat × Nat × Nat) → Consumed) : Consumed :=
  let image := p.at 0x18 8
  let arglen := p.at 0x28 4
  let nlive := min (hNlive h) 4096
  Consumed.need s (decide (arglen ≤ 4096) && decide (24 * hNbh h ≤ arglen)) 0x04 <|
  Consumed.need s (fieldsOk h) 0x05 <|
  Consumed.need s (s.gangFits leaf p.vf (bytesAt h 4 2)) 0x06 <|
  Consumed.need s (codeOk h) 0x07 <|
  Consumed.read s leaf p (image + hCbtOff h) (16 * hNcbt h) fun s cbt =>
  Consumed.need s (cbtOf cbt (hNcbt h)).isSome 0x07 <|
  Consumed.read s leaf p (image + hLiveOff h) (64 * nlive) fun s live =>
  Consumed.need s (liveOk live nlive) 0x07 <|
  Consumed.need s (safeOk h) 0x08 <|
  Consumed.need s (superOk h) 0x09 <|
  Consumed.need s (decide (hNbh h ≤ 64)) 0x0A <|
  Consumed.read s leaf p (image + hBhlOff h) (4 * hNbh h) fun s bhl =>
  Consumed.read s leaf p (p.at 0x20 8) arglen fun s args =>
  match handlesOf bhl args (hNbh h) with
  | none => .fail s 0x0A
  | some hs =>
    Consumed.read s leaf p (image + hCodeOff h) (if hXip h then 0 else hCodeLen h) fun s code =>
    Consumed.read s leaf p (image + hSupOff h) (if hSuper h then hSupLen h else 0) fun s sup =>
    k s { image := image, pred := none, header := h, cfg3 := freshCfg3 h, argBytes := leBytes arglen args
          args := (List.range (hNbh h)).map fun i => BitVec.ofNat 192 (args / 2 ^ (192 * i))
          bhl := (List.range (hNbh h)).map fun i => BitVec.ofNat 32 (bhl / 2 ^ (32 * i))
          live := (List.range nlive).map fun i => (i, BitVec.ofNat 512 (live / 2 ^ (512 * i)))
          code := Mem.writeNat [] 0 (if hXip h then 0 else hCodeLen h) code, dicts := [], cbt := (cbtOf cbt (hNcbt h)).getD []
          sup := Mem.writeNat [] 0 (if hSuper h then hSupLen h else 0) sup, diff := [] } hs

/-- The checks of a LAUNCH (R50, R481). -/
def launchConsumed (leaf vf : Nat) (s : State) (p : Pkt) : Consumed :=
  let dep := p.dep
  let arglen := p.at 0x28 4
  let difflen := if dep then p.at 0x38 4 else 0
  let pred := if dep then s.predOf leaf vf else none
  let old := pred.bind Pkt.launch
  let predFailed := pred.any fun q => match q.stage with
    | .failed _ | .refused _ => true
    | _ => false
  Consumed.need s (headOk p.bytes && p.type == 1 && p.at 0x2C 4 == 0 && p.at 0x3C 4 == 0) 0x01 <|
  Consumed.mapped s (s.rangesMapped leaf vf [(needRd, p.at 0x18 8, 128), (needRd, p.at 0x20 8, if arglen ≤ 4096 then arglen else 0), (needRd, p.at 0x30 8, difflen)]) <|
  Consumed.mapped s (s.sigStands leaf p) <|
  Consumed.read s leaf p (p.at 0x18 8) 128 fun s image =>
  Consumed.read s leaf p (p.at 0x30 8) difflen fun s diff =>
  let recs := (diffRecs difflen (leBytes difflen diff)).filter diffOk
  let h : BitVec 1024 := match old with
    | some o => BitVec.ofNat 1024 (diffed (recs.getD []) 0 o.header.toNat)
    | none => BitVec.ofNat 1024 image
  Consumed.need s (hdrOk h (!(dep && old.isSome))) 0x03 <|
  Consumed.mapped s (s.rangesMapped leaf vf (stageTwo (p.at 0x18 8) h)) <|
  Consumed.areas s leaf p (bytesAt h 6 1) <|
  imageChecks s leaf p h fun s x hs =>
    let x := match old with
      | some o => { x with pred := pred.map Pkt.pid, diff := recs.getD [], cfg3 := BitVec.ofNat 128 (diffed (recs.getD []) 3 o.cfg3.toNat) }
      | none => x
    lastChecks s leaf p x hs recs old ((pred.map Pkt.gang).getD 0) dep predFailed

/-- LAUNCH (R26 to R32, R37 to R50, R481): the head packet is consumed and checked; a type that no packet has fails here. -/
def execLaunch (leaf vf q : Nat) (s : State) : Host.Outcome State Fault Refusal :=
  .next (s.consume leaf vf q (.launch leaf vf q) (launchConsumed leaf vf))

end Sys2Proof.Machine
end

