-- ==== Sys2Proof/Machine/Packets.lean ====
section
/-! DEFINITION. Queue packets other than LAUNCH as they are consumed, the start of a packet, and what the command processor
does for it (R33 to R44, R46, R51, R227, R228, R331, R438 to R441, R444). -/

namespace Sys2Proof.Machine

/-! Queue registers (R33, R35). -/

/-- The order of the next doorbell write in the package. -/
def State.nextBell (s : State) : Nat :=
  s.vfs.foldl (fun m v => v.2.queues.foldl (fun m q => q.2.bells.foldl (fun m b => max m (b.1 + 1)) m) m) 1

/-- A queue after a doorbell write (R33): the bells that cover pending packets, a later tail's after an earlier one's. -/
def Queue.rung (x : Queue) (order tail : Nat) : Queue :=
  let n := 2 ^ x.logsz.toNat
  let pend (t : Nat) : Nat := (t + n - x.head.toNat) % n
  let old := pend x.tail.toNat
  let bells := if pend tail = old then x.bells else if old < pend tail then x.bells ++ [(order, tail)] else if pend tail = 0 then [] else [(order, tail)]
  { x with tail := BitVec.ofNat 32 tail, bells := bells }

/-- QTAIL_DOORBELL (R33). -/
def execQtailDoorbell (vf q : Nat) (tail : BitVec 32) (s : State) : Host.Outcome State Fault Refusal :=
  if 2 ^ (s.queue vf q).logsz.toNat ≤ tail.toNat then .next (s.onQueue vf q fun x => { x with dberr := true })
  else
    let n := s.nextBell
    .next ((s.onQueue vf q fun x => x.rung n tail.toNat).offer vf q)

/-- The failed packets of a queue belong to it no longer: those behind them may start (R35, R41). -/
def State.skipFailed (s : State) (vf q : Nat) : State :=
  let f (p : Pkt) : Pkt := match p.stage with
    | .failed _ | .refused _ => if p.vf = vf ∧ p.queue = q then { p with queue := 64 } else p
    | _ => p
  [0, 1].foldl (fun s l => s.onLeaf l fun x => { x with pkts := x.pkts.map f }) s

/-- SKIP of QSTAT (R35, R41): the failed packet of a halted queue is discarded, and the queue resumes. What CAUSE and INDEX read then
the rule does not say: they stay (DESIGN CHOICE; unsafe: hardware could clear them). -/
def State.qstatSkip (s : State) (vf q : Nat) : State :=
  if (s.queue vf q).halt then ((s.onQueue vf q fun x => { x with halt := false }).skipFailed vf q).offer vf q else s

/-- RESET of QSTAT (R35), while EN is 0. INDEX, which the rule does not name, stays (DESIGN CHOICE; unsafe as above). -/
def State.qstatReset (s : State) (vf q : Nat) : State :=
  if (s.queue vf q).en then s
  else (s.onQueue vf q fun x => { x with head := x.tail, halt := false, cause := 0, dberr := false, bells := [] }).skipFailed vf q

/-- QSTAT_SKIP (R35, R41). -/
def execQstatSkip (vf q : Nat) (s : State) : Host.Outcome State Fault Refusal := .next (s.qstatSkip vf q)

/-- QSTAT_RESET (R35). -/
def execQstatReset (vf q : Nat) (s : State) : Host.Outcome State Fault Refusal := .next (s.qstatReset vf q)

/-! Consumption of the other packets (R37, R38, R50, R481). -/

/-- The header's checks, BADPKT for what else a type forbids, then the ranges and the signal address. -/
def plainConsumed (leaf vf t : Nat) (ok : Pkt → Bool) (ranges : Pkt → List (Need × Nat × Nat)) (k : State → Pkt → Consumed) (s : State) (p : Pkt) : Consumed :=
  Consumed.need s (headOk p.bytes && p.type == t && ok p) 0x01 <|
  Consumed.mapped s (s.rangesMapped leaf vf (ranges p)) <|
  Consumed.mapped s (s.sigStands leaf p) <| k s p

/-- The form of a COPY's control block (R331). -/
def copyForm (b : BitVec 1024) : Nat := if ccOpf b = 0 then 0x20 else ccOpf b

/-- The block of a COPY without one: HCPY with EW 1 and COUNT0 = LEN (R331). -/
def linearBlock (p : Pkt) : BitVec 1024 :=
  BitVec.ofNat 1024 (p.at 0x18 8 + p.at 0x20 8 * 2 ^ 64 + 0x0202 * 2 ^ 128 + 2 ^ 160 + p.at 0x28 4 * 2 ^ 192 + 2 ^ 224 + 2 ^ 256 + 2 ^ 288)

/-- Does a block meet R327, R329 and R331; HFILL, which has no source, leaves SKIND 0 or holds 2 (log 16). -/
def copyBlockOk (b : BitVec 1024) : Bool :=
  let f := copyForm b
  let c := if f = 0x24 then b &&& ~~~(BitVec.ofNat 1024 (255 * 2 ^ 128)) else b
  decide (0x20 ≤ f) && decide (f ≤ 0x25) && ccDkind b == 2 && (ccSkind b == 2 || (f == 0x24 && ccSkind b == 0)) && ccBounds f c && (ccMisaligned f c).isNone

/-- A COPY's handles: none unless both are named (R39). -/
def copyHandles (p : Pkt) : List (BitVec 32 × Nat × Nat × Nat) :=
  let a := p.at 0x30 4
  let b := p.at 0x34 4
  let n := p.at 0x28 8
  if a = 0 ∨ b = 0 then []
  else if a = b then [(BitVec.ofNat 32 a, 3, p.at 0x18 8, n), (BitVec.ofNat 32 a, 3, p.at 0x20 8, n)]
  else [(BitVec.ofNat 32 a, 1, p.at 0x18 8, n), (BitVec.ofNat 32 b, 2, p.at 0x20 8, n)]

/-- The checks of a COPY (R39, R50, R331). -/
def copyConsumed (leaf vf : Nat) : State → Pkt → Consumed :=
  plainConsumed leaf vf 2 (fun p => p.at 0x38 8 != 0 || (decide (1 ≤ p.at 0x28 8) && decide (p.at 0x28 8 < 2 ^ 32)))
    (fun p => if p.at 0x38 8 = 0 then [] else [(needRd, p.at 0x38 8, 128)]) fun s p =>
    Consumed.read s leaf p (p.at 0x38 8) (if p.at 0x38 8 = 0 then 0 else 128) fun s x =>
    let b := if p.at 0x38 8 = 0 then linearBlock p else BitVec.ofNat 1024 x
    Consumed.need s (copyBlockOk b) 0x01 <|
    Consumed.bind s leaf vf 0 fun g => .letIn s { p with gang := g, handles := copyHandles p, block := b }

/-- COPY (R38, R39, R331): the head packet is consumed and checked. -/
def execCopy (leaf vf q : Nat) (s : State) : Host.Outcome State Fault Refusal :=
  .next (s.consume leaf vf q (.copy leaf vf q) (copyConsumed leaf vf))

/-- The checks of a WAITSIG (R37, R38). -/
def waitsigConsumed (leaf vf : Nat) : State → Pkt → Consumed :=
  plainConsumed leaf vf 3 (fun p => p.at 0x18 8 % 8 == 0 && decide (p.at 0x28 1 ≤ 3) && p.at 0x29 7 == 0 && p.at 0x38 8 == 0)
    (fun p => [(needRd, p.at 0x18 8, 8)]) fun s p => .letIn s p

/-- WAITSIG (R38, R39). -/
def execWaitsig (leaf vf q : Nat) (s : State) : Host.Outcome State Fault Refusal :=
  .next (s.consume leaf vf q (.waitsig leaf vf q) (waitsigConsumed leaf vf))

/-- SIGNAL (R38, R39). -/
def execSignalPacket (leaf vf q : Nat) (s : State) : Host.Outcome State Fault Refusal :=
  .next (s.consume leaf vf q (.signalPacket leaf vf q) (plainConsumed leaf vf 4 (fun p => p.at 0x18 40 == 0) (fun _ => []) fun s p => .letIn s p))

/-- METER (R38, R444). -/
def execMeter (leaf vf q : Nat) (s : State) : Host.Outcome State Fault Refusal :=
  .next (s.consume leaf vf q (.meter leaf vf q) (plainConsumed leaf vf 6 (fun _ => true) (fun _ => []) fun s p => .letIn s p))

/-- The pages of a CKPT's list with their destinations, none where an entry is malformed (R438). The number is that of the
entries still to read. -/
def ckptPages (x dest : Nat) : Nat → Option (List (Nat × Nat))
  | 0 => some []
  | n + 1 =>
    let e := x % 2 ^ 128
    let va := e % 2 ^ 64
    let npg := e / 2 ^ 64 % 2 ^ 32
    if va % 4096 ≠ 0 ∨ npg = 0 ∨ 2 ^ 20 < npg ∨ e / 2 ^ 96 ≠ 0 then none
    else (ckptPages (x / 2 ^ 128) (dest + 4096 * npg) n).map fun l => ((List.range npg).map fun i => (va + 4096 * i, dest + 4096 * i)) ++ l

/-- What stands against the pages of a CKPT: frozen pages lie in leaf HBM, and destinations in host memory or the pool
(R438). -/
def State.ckptStands (s : State) (leaf vf : Nat) (l : List (Nat × Nat)) : Option Bool :=
  l.findSome? fun p =>
    match s.cpPlace leaf vf needRd p.1, s.cpPlace leaf vf needWr p.2 with
    | .inr b, _ => some b
    | _, .inr b => some b
    | .inl (.hbm _ _), .inl (.host _) => none
    | .inl (.hbm _ _), .inl (.pool _) => none
    | _, _ => some false

/-- The checks of a CKPT (R438, R439). -/
def ckptConsumed (leaf vf : Nat) : State → Pkt → Consumed :=
  let n (p : Pkt) : Nat := p.at 0x20 4
  plainConsumed leaf vf 5 (fun p => p.at 0x18 8 % 16 == 0 && decide (1 ≤ n p) && decide (n p ≤ 65536) && p.at 0x24 4 == 0 && p.at 0x28 8 % 4096 == 0 && p.at 0x30 8 % 8 == 0)
    (fun p => [(needRd, p.at 0x18 8, 16 * n p)]) fun s p =>
    Consumed.read s leaf p (p.at 0x18 8) (16 * n p) fun s x =>
    match ckptPages x (p.at 0x28 8) (n p) with
    | none => .fail s 0x01
    | some l =>
      Consumed.mapped s (s.ckptStands leaf vf l) <|
      Consumed.bind s leaf vf 0 fun g => .letIn s { p with gang := g, pages := l }

/-- CKPT (R438, R439). -/
def execCkpt (leaf vf q : Nat) (s : State) : Host.Outcome State Fault Refusal :=
  .next (s.consume leaf vf q (.ckpt leaf vf q) (ckptConsumed leaf vf))

/-- A RESIZE's records: core (255 for every core), region, VBASE and RATTR; none where one is malformed (R227, R228). The
number is that of the records still to read. -/
def resizeRecs (x : Nat) : Nat → Option (List (Nat × Nat × W64 × W64))
  | 0 => some []
  | n + 1 =>
    let e := x % 2 ^ 192
    let core := e % 256
    let region := e / 256 % 256
    let vbase := BitVec.ofNat 64 (e / 2 ^ 64)
    let rattr := BitVec.ofNat 64 (e / 2 ^ 128)
    if (core < 64 ∨ core = 255) ∧ region < 64 ∧ e / 2 ^ 16 % 2 ^ 48 = 0 ∧ rattrOk vbase rattr then
      (resizeRecs (x / 2 ^ 192) n).map ((core, region, vbase, rattr) :: ·)
    else none

/-- The checks of a RESIZE (R227, R228). Its records are kept as its table. -/
def resizeConsumed (leaf vf : Nat) : State → Pkt → Consumed :=
  let n (p : Pkt) : Nat := p.at 0x20 2
  plainConsumed leaf vf 7 (fun p => decide (1 ≤ n p) && decide (n p ≤ 4096) && p.at 0x23 29 == 0)
    (fun p => [(needRd, p.at 0x18 8, 24 * n p)]) fun s p =>
    Consumed.read s leaf p (p.at 0x18 8) (24 * n p) fun s x =>
    Consumed.need s (resizeRecs x (n p)).isSome 0x01 <|
    Consumed.bind s leaf vf (p.at 0x22 1) fun g => .letIn s { p with gang := g, table := Mem.writeNat [] 0 (24 * n p) x }

/-- RESIZE (R227, R228). -/
def execResize (leaf vf q : Nat) (s : State) : Host.Outcome State Fault Refusal :=
  .next (s.consume leaf vf q (.resize leaf vf q) (resizeConsumed leaf vf))

/-! The start of a packet (R37, R40, R46, R60, R75, R228, R439). -/

/-- A CKPT whose MARK has been written holds this progress. -/
def ckptMarked : Nat := 4096

/-- Must a packet wait for an earlier one of its gang: a gang runs one launch at a time, RESIZE and LAUNCH wait for each other,
and a CKPT's mark comes before later work (R60, R228, R439). -/
def Pkt.behind (p q : Pkt) : Bool :=
  q.gang == p.gang && p.gang != 0 && decide (q.pid < p.pid) && !q.over &&
  match q.type with
  | 1 | 7 => p.type == 1 || p.type == 7 || p.type == 5
  | 5 => if p.type = 5 then true else (p.type == 1 || p.type == 2 || p.type == 7) && q.progress != ckptMarked && q.stage != .writing
  | _ => false

/-- May a packet start, its leaf's phase aside: in ring order, after what it waits for (R37, R40, R41, R44). -/
def State.mayStart (s : State) (leaf : Nat) (p : Pkt) : Bool :=
  p.waits.all (s.leaf leaf).complete && !s.barred p && !s.heldBack p &&
  !s.allPkts.any fun q => (q.vf == p.vf && q.queue == p.queue && decide (q.pid < p.pid) && q.stage == .waiting) || p.behind q ||
    (p.type == 6 && q.type == 6 && q.vf == p.vf && decide (q.pid < p.pid) && !q.over)

/-- A packet starts: L1 lines of the ranges it reads or writes are invalidated (R46). -/
def State.startPkt (s : State) (leaf : Nat) (p : Pkt) : State :=
  ((s.unpost (.packetStart leaf p.pid)).onPkt leaf p.pid fun p => { p with stage := .started, at_ := s.now, progress := 0, owed := [] }).rangesOf leaf p p.ranges true

/-- Has the predecessor of a launch failed or faulted (R49). -/
def State.predBad (s : State) (leaf : Nat) (x : LaunchData) : Bool :=
  x.pred.any fun n => (s.pkt leaf n).all fun q => q.stage != .done

/-- A difference goes to every member, whose verdicts the packet awaits (R49). -/
def State.askPlanes (s : State) (leaf : Nat) (p : Pkt) (x : LaunchData) : State :=
  let places := s.placesOf leaf
  places.foldl (fun s place => s.tell place fun l => .cfgCheck l p.gang p.pid x.diff) (s.onPkt leaf p.pid fun p => { p with progress := 1, owed := places })

/-- A LAUNCH starts while its gang runs and runs nothing (R60); a dependent one first finds its predecessor complete and, on every
member, its planes good (R47, R49). -/
def State.startLaunchPkt (s : State) (leaf : Nat) (p : Pkt) : State :=
  match p.launch, (s.leaf leaf).member with
  | some x, some m =>
    let ev := Ev.packetStart leaf p.pid
    if (s.leaf leaf).phase ≠ .run ∨ m.gang ≠ p.gang ∨ m.running.isSome then s
    else if s.predBad leaf x then (s.unpost ev).failPkt leaf p.pid 0x10 false
    else if x.pred.isSome && p.progress == 0 then s.askPlanes leaf p x
    else if x.pred.isSome && !p.owed.isEmpty then s
    else if x.pred.isSome && (p.bad || !x.cfgPasses) then (s.unpost ev).failPkt leaf p.pid 0x0F false
    else (s.startPkt leaf p).post (.launchGo leaf p.pid)
  | _, _ => s

/-- A started LAUNCH goes to every member once the L1 action of its start is done (R46), while the gang runs. -/
def State.launchGo (s : State) (leaf pid : Nat) : State :=
  let ev := Ev.launchGo leaf pid
  match s.pkt leaf pid, (s.leaf leaf).member with
  | some p, some m =>
    match p.launch with
    | none => s.unpost ev
    | some x =>
      if p.stage ≠ .started then s.unpost ev
      else if (s.leaf leaf).phase ≠ .run ∨ m.gang ≠ p.gang ∨ p.owed ≠ [] then s
      else (s.placesOf leaf).foldl (fun s place => s.tell place fun l => .startLaunch l m.gang pid x) (s.unpost ev)
  | some p, none => if p.stage = .started then s else s.unpost ev
  | none, _ => s.unpost ev

/-! METER (R444). -/

/-- A meter report but for its hash and signature. -/
def State.meterBody (s : State) (p : Pkt) : List Byte :=
  let v := s.vf p.vf
  leBytes 2 1 ++ leBytes 1 p.vf ++ leBytes 5 0 ++ leBytes 8 (v.reports + 1) ++ leBytes 8 s.now.toNat ++ leBytes 32 (p.at 0x20 32) ++
  ((List.range 13).flatMap fun n => leBytes 8 (v.meters.get n 0).toNat) ++ leBytes 48 v.prevHash.toNat

/-- A METER packet's report: the counters are sampled in the instant it is written (R444). -/
def State.meterReport (s : State) (leaf : Nat) (p : Pkt) : CpGot :=
  let body := s.meterBody p
  let hash := Config.sha384 body
  let hashed := body ++ leBytes 48 hash.toNat
  let all := hashed ++ leBytes 96 (Config.ecdsaP384 hashed).toNat
  (s.cpWrite leaf p.vf p.pid (s.pktKey p) (p.at 0x18 8) 352 (leNat all 0 352)).andThen fun u _ =>
    .done (u.onVf p.vf fun v => { v with reports := v.reports + 1, prevHash := hash }) 0

/-! PACKET_START. -/

/-- PACKET_START (R37 to R41, R44, R46): a consumed packet starts once it may; a METER waits for the management processor
(R456). -/
def execPacketStart (leaf pid : Nat) (s : State) : Host.Outcome State Fault Refusal :=
  match s.pkt leaf pid with
  | none => .next (s.unpost (.packetStart leaf pid))
  | some p =>
    if p.stage ≠ .waiting then .next (s.unpost (.packetStart leaf pid)) else
    if !s.mayStart leaf p || (p.type == 6 && s.mpDown) then .next s else
    match p.type with
    | 1 => .next (s.startLaunchPkt leaf p)
    | 2 => .next ((s.startPkt leaf p).post (.copyComplete leaf pid))
    | 3 => .next (((s.startPkt leaf p).post (.waitsigPoll leaf pid)).post (.waitto leaf pid))
    | 5 => .next ((s.startPkt leaf p).post (.ckptStart leaf pid))
    | 6 =>
      match s.meterReport leaf p with
      | .busy _ => .next s
      | .fail u => .next ((u.unpost (.packetStart leaf pid)).failPkt leaf pid 0x02 true)
      | .done u _ => .next ((u.startPkt leaf p).finishPkt leaf pid)
    | 7 => .next ((s.startPkt leaf p).post (.resizeApply leaf pid))
    | _ => .next ((s.startPkt leaf p).finishPkt leaf pid)

/-! WAITSIG (R39). -/

/-- COND of a WAITSIG (R38). -/
def condMet (cond x v : Nat) : Bool :=
  match cond with
  | 0 => decide (v ≤ x)
  | 1 => x == v
  | 2 => x != v
  | _ => decide (x < v)

/-- Is a packet started. -/
def Pkt.begun (p : Pkt) : Bool := p.stage == .started

/-- WAITSIG_POLL (R39): ADDR is read again. -/
def execWaitsigPoll (leaf pid : Nat) (s : State) : Host.Outcome State Fault Refusal :=
  let ev := Ev.waitsigPoll leaf pid
  match s.pkt leaf pid with
  | none => .next (s.unpost ev)
  | some p =>
    if !p.begun then .next (s.unpost ev) else
    let again (s : State) : State := s.onPkt leaf pid fun p => { p with progress := s.now.toNat }
    match s.cpRead leaf p.vf pid (p.at 0x18 8) 8 with
    | .busy u => .next (again u)
    | .fail u => .next ((u.unpost ev).failPkt leaf pid 0x02 true)
    | .done u x =>
      let u := u.forget leaf (.packet pid)
      if condMet (p.at 0x28 1) x (p.at 0x20 8) then .next ((u.unpost ev).finishPkt leaf pid) else .next (again u)

/-- WAITTO (R39): a WAITSIG's TIMEOUT has elapsed. -/
def execWaitto (leaf pid : Nat) (s : State) : Host.Outcome State Fault Refusal :=
  let ev := Ev.waitto leaf pid
  match s.pkt leaf pid with
  | none => .next (s.unpost ev)
  | some p =>
    if !p.begun || p.at 0x30 8 == 0 then .next (s.unpost ev)
    else if s.now.toNat < p.at_.toNat + p.at 0x30 8 then .next s
    else .next ((s.unpost ev).failPkt leaf pid 0x11 true)

/-! COPY (R326 to R331). -/

/-- Does an address lie with another member that the leaf cannot ask now. -/
def State.outOfReach (s : State) (leaf : Nat) (p : Pkt) (need : Need) (va : Nat) : Bool :=
  match s.cpPlace leaf p.vf need va with
  | .inl (.remote _ _) => !((s.leaf leaf).member.any fun m => m.gang == p.gang)
  | _ => false

/-- Move element n of a COPY (R326, R328); one whose gang has faulted and that only the gang could reach fails (log 43). -/
def State.copyElt (s : State) (leaf : Nat) (p : Pkt) (table : Mem) (n : Nat) : CpGot :=
  let b := p.block
  let f := copyForm b
  let w := ccEw b
  let from_ := addr64 (ccFrom f b table n)
  let dsts := addr64 (ccTo f b table n)
  if (f ≠ 0x24 ∧ s.outOfReach leaf p needRd from_) ∨ s.outOfReach leaf p needWr dsts then
    (if (s.faultedGangs.find? p.gang).isSome then .fail s else .busy s)
  else
  let read : CpGot := if f = 0x24 then .done s (ccFill b % 2 ^ (8 * w)) else s.cpRead leaf p.vf p.pid from_ w
  read.andThen fun u x => (u.cpWrite leaf p.vf p.pid (s.pktKey p) dsts w x).andThen fun u _ => .done (u.onVf p.vf fun v => v.meter 11 w) 0

/-- Do elements n and m lie in one aligned 64-byte unit of each side. -/
def copyUnit (b : BitVec 1024) (table : Mem) (n m : Nat) : Bool :=
  let f := copyForm b
  addr64 (ccFrom f b table n) / 64 == addr64 (ccFrom f b table m) / 64 && addr64 (ccTo f b table n) / 64 == addr64 (ccTo f b table m) / 64

/-- Elements moved at once from element n on. The fuel is the number of bytes in a unit. -/
def copyRun (b : BitVec 1024) (table : Mem) (n : Nat) : Nat → Nat
  | 0 => 0
  | k + 1 =>
    let r := copyRun b table n k
    if r = k ∧ n + k < ccTotal b ∧ copyUnit b table n (n + k) = true then k + 1 else r

/-- Move n elements in turn. -/
def State.copyElts (s : State) (leaf : Nat) (p : Pkt) (table : Mem) (from_ : Nat) : Nat → CpGot
  | 0 => .done s 0
  | n + 1 => (s.copyElts leaf p table from_ n).andThen fun s _ => s.copyElt leaf p table (from_ + n)

/-- The next unit of a COPY; its index table is read as it begins (R328). -/
def State.copyStep (s : State) (leaf : Nat) (p : Pkt) : CpGot :=
  let b := p.block
  let begin_ : CpGot := if p.progress = 0 ∧ ccIndexed (copyForm b) = true then s.cpRead leaf p.vf p.pid (ccIdx b) (4 * ccCount b 1) else .done s 0
  begin_.andThen fun s x =>
    let table := if p.progress = 0 then Mem.writeNat [] 0 (4 * ccCount b 1) x else p.table
    let n := max 1 (copyRun b table p.progress 64)
    (s.copyElts leaf p table p.progress n).andThen fun s _ =>
      .done ((s.forget leaf (.packet p.pid)).onPkt leaf p.pid fun q => { q with progress := p.progress + n, table := table }) (p.progress + n)

/-- COPY_COMPLETE (R39, R331): the COPY moves its next unit, and its work ends with the last. -/
def execCopyComplete (leaf pid : Nat) (s : State) : Host.Outcome State Fault Refusal :=
  let ev := Ev.copyComplete leaf pid
  match s.pkt leaf pid with
  | none => .next (s.unpost ev)
  | some p =>
    if !p.begun then .next (s.unpost ev)
    else if !p.owed.isEmpty then .next s
    else match s.copyStep leaf p with
      | .busy u => .next u
      | .fail u => .next ((u.unpost ev).failPkt leaf pid 0x02 true)
      | .done u n => if ccTotal p.block ≤ n then .next ((u.unpost ev).finishPkt leaf pid) else .next u

/-! RESIZE (R228). -/

/-- The write of a region's dirty lines at VBASE, at a member's leaf (R224, R228). -/
def State.regionBack (s : State) (core n : Nat) : Reach :=
  let r := s.region core n
  match r.dirtyBacked with
  | [] => .done s 0
  | ls =>
    match s.slotBytes core n with
    | (u, none) => .remote u
    | (_, some slot) =>
      let at_ (x i : Nat) : Nat := x * 2 ^ (512 * i)
      let data := ls.foldl (fun a i => a + at_ (s.regionLine core n slot i) i) 0
      let mask := ls.foldl (fun a i => a + at_ (2 ^ 512 - 1) i) 0
      match s.writeFor (4 * core) (.region core n) r.vbase.toNat r.backed data mask with
      | .done u _ => .done (u.countBytes (leafOfCore core) r.vbase.toNat (64 * ls.length)) 0
      | g => g

/-- A region is clean. -/
def State.cleanRegion (s : State) (core n : Nat) : State :=
  (s.setRegion core n { s.region core n with dirty := 0 }).forget (leafOfCore core) (.region core n)

/-- Is a write-back of a region of a leaf unacknowledged. -/
def State.regionsOut (s : State) (leaf : Nat) : Bool :=
  (s.leaf leaf).remotes.any fun r => match r.party with
    | .region _ _ => true
    | _ => false

/-- One record on one core of the member on a leaf. -/
def State.resizeOne (s : State) (core n : Nat) (vbase rattr : W64) : Reach :=
  match (s.ownRegion core n).regionBack core n with
  | .done u _ => .done ((u.cleanRegion core n).setRegion core n { u.region core n with vbase := vbase, rattr := rattr, state := .fresh, dirty := 0 }) 0
  | g => g

/-- Records in turn, on the cores each names. -/
def State.resizeAll (s : State) : List (Nat × Nat × W64 × W64) → Reach
  | [] => .done s 0
  | (core, n, vbase, rattr) :: t =>
    match s.resizeOne core n vbase rattr with
    | .done u _ => u.resizeAll t
    | g => g

/-- Records of a core number as those of a leaf's cores. -/
def spreadRecs (leaf : Nat) (l : List (Nat × Nat × W64 × W64)) : List (Nat × Nat × W64 × W64) :=
  l.flatMap fun r => if r.1 = 255 then (leafCores leaf).map fun c => (c, r.2) else [(64 * leaf + r.1, r.2)]

/-- A record in the context of a member that is out: nothing of it is dirty, and its leaf keeps no bytes for it. -/
def State.resizeSaved (s : State) (leaf g i : Nat) (l : List (Nat × Nat × W64 × W64)) : State :=
  let k := contextKey g i
  let c := s.savedOf leaf g i
  let put (cs : FMap Core) (r : Nat × Nat × W64 × W64) : FMap Core :=
    let o := cs.get (r.1 % 64) .reset
    cs.set (r.1 % 64) { o with regions := o.regions.set r.2.1 { Region.reset with vbase := r.2.2.1, rattr := r.2.2.2 } }
  let free (s : State) (r : Nat × Nat × W64 × W64) : State :=
    let x := s.region r.1 r.2.1
    if x.owner.any fun o => o.gang == g && o.member == i then s.setRegion r.1 r.2.1 { x with owner := none } else s
  l.foldl free { s with contexts := s.contexts.set k { c with cores := l.foldl put c.cores } }

/-- A gang fault with cause WBFAULT (R225, R402). -/
def State.wbFault (s : State) (leaf va : Nat) : State := s.gangFault leaf { plainFault 0x0A with addr := BitVec.ofNat 64 va }

/-- A RESIZE's records reach a member (R228): they wait for a busy page; a fault is a gang fault (R225). -/
def State.resizeMember (s : State) (leaf g pid : Nat) (recs : List (Nat × Nat × W64 × W64)) : State :=
  let ev := Ev.resizeMember leaf g pid recs
  let ack (s : State) : State := (s.unpost ev).tell (pidPlace pid) fun l => .packetAck l pid
  let l := spreadRecs leaf recs
  let away (s : State) : State :=
    match (s.contexts.filter fun (p : Nat × Saved) => p.2.member.gang == g && p.2.leaf == 2 * s.pkg + leaf).head?, (s.cellsOf g).find? fun c => c.1 == leaf with
    | some c, _ => ack (s.resizeSaved leaf g c.2.member.member l)
    | none, some c => ack (s.resizeSaved leaf g c.2 l)
    | none, none => ack s
  match (s.leaf leaf).member with
  | some m =>
    if m.gang ≠ g then away s
    else if (s.leaf leaf).phase ≠ .run then s
    else match s.resizeAll l with
      | .done u _ => if u.regionsOut leaf then u else ack u
      | .busy _ _ | .retry _ => s
      | .remote u => u
      | .nonres a _ | .invalid a | .lost a => ((s.unpost ev).wbFault leaf a)
  | none => away s

/-- RESIZE_APPLY (R228): the records go to every member, and the RESIZE completes when each has applied them. -/
def execResizeApply (leaf pid : Nat) (s : State) : Host.Outcome State Fault Refusal :=
  let ev := Ev.resizeApply leaf pid
  match s.pkt leaf pid with
  | none => .next (s.unpost ev)
  | some p =>
    if !p.begun then .next (s.unpost ev) else
    let n := p.at 0x20 2
    let places := s.placesNow leaf p.gang
    if p.progress = 0 then
      let recs := (resizeRecs (p.table.readNat 0 (24 * n)) n).getD []
      let s := s.onPkt leaf pid fun p => { p with progress := 1 + places.length }
      .next (places.foldl (fun s place => s.tell place fun l => .resizeMember l p.gang pid recs) s)
    else if p.progress = 1 then .next ((s.unpost ev).finishPkt leaf pid)
    else .next s

/-- A member has done what a packet asked of it. -/
def State.packetAck (s : State) (leaf pid : Nat) : State :=
  (s.unpost (.packetAck leaf pid)).onPkt leaf pid fun p => { p with progress := p.progress - 1 }

/-! CKPT (R438 to R441). -/

/-- Freeze pages of a function on a leaf (R439). -/
def State.freezePages (s : State) (leaf g pid vf : Nat) (pages : List Nat) : State :=
  let s := s.onLeaf leaf fun l => { l with frozen := l.frozen ++ pages.map fun n => (vf, n) }
  (s.unpost (.freezePages leaf g pid vf pages)).tell (pidPlace pid) fun l => .packetAck l pid

/-- A frozen page is free on a leaf (R440). -/
def State.thawPage (s : State) (leaf vf page : Nat) : State :=
  (s.unpost (.thawPage leaf vf page)).onLeaf leaf fun l => { l with frozen := l.frozen.erase (vf, page) }

/-- Frozen pages are free on every member. -/
def State.thaw (s : State) (leaf : Nat) (p : Pkt) (pages : List (Nat × Nat)) : State :=
  pages.foldl (fun s q => ((pidPlace p.pid) :: (s.placesNow leaf p.gang)).eraseDups.foldl (fun s place => s.tell place fun l => .thawPage l p.vf (q.1 / 4096)) s) s

/-- A CKPT fails: every page is unfrozen (R441). -/
def State.failCkpt (s : State) (leaf : Nat) (p : Pkt) : State :=
  let own (e : Ev) : Bool := match e with
    | .ckptPageDrain _ n _ | .ckptStart _ n => n == p.pid
    | _ => false
  ({ s with agenda := s.agenda.filter fun e => !own e }.thaw leaf p p.pages).failPkt leaf p.pid 0x02 true

/-- CKPT_START (R439): every listed page is frozen on every member, and then the mark is written. -/
def execCkptStart (leaf pid : Nat) (s : State) : Host.Outcome State Fault Refusal :=
  let ev := Ev.ckptStart leaf pid
  match s.pkt leaf pid with
  | none => .next (s.unpost ev)
  | some p =>
    if !p.begun then .next (s.unpost ev) else
    let places := (pidPlace pid :: s.placesNow leaf p.gang).eraseDups
    let drains (s : State) : State :=
      let s := (s.unpost ev).onPkt leaf pid fun p => { p with progress := ckptMarked }
      (p.pages.foldl (fun s q => s.post (.ckptPageDrain leaf pid (q.1 / 4096))) s).post (.ckptComplete leaf pid)
    if p.progress = 0 then
      let s := s.onPkt leaf pid fun p => { p with progress := 1 + places.length }
      .next (places.foldl (fun s place => s.tell place fun l => .freezePages l p.gang pid p.vf (p.pages.map fun q => q.1 / 4096)) s)
    else if p.progress ≠ 1 then .next s
    else if p.at 0x30 8 = 0 then .next (drains s)
    else match s.cpWrite leaf p.vf pid (s.pktKey p) (p.at 0x30 8) 8 (p.at 0x38 8) with
      | .done u _ => .next (drains u)
      | .busy u => .next u
      | .fail u => .next (u.failCkpt leaf p)

/-- CKPT_PAGE_DRAIN (R440, R441): a frozen page is copied to its destination and unfrozen. -/
def execCkptPageDrain (leaf pid page : Nat) (s : State) : Host.Outcome State Fault Refusal :=
  let ev := Ev.ckptPageDrain leaf pid page
  match s.pkt leaf pid with
  | none => .next (s.unpost ev)
  | some p =>
    match p.pages.find? fun q => q.1 / 4096 == page with
    | none => .next (s.unpost ev)
    | some q =>
      match (s.cpRead leaf p.vf pid q.1 4096).andThen fun s x => s.cpWrite leaf p.vf pid (s.pktKey p) q.2 4096 x with
      | .busy u => .next u
      | .fail u => .next (u.failCkpt leaf p)
      | .done u _ =>
        let u := (u.unpost ev).onPkt leaf pid fun p => { p with pages := p.pages.erase q }
        .next (u.thaw leaf p [q])

/-- CKPT_COMPLETE (R441): every page stands at its destination. -/
def execCkptComplete (leaf pid : Nat) (s : State) : Host.Outcome State Fault Refusal :=
  let ev := Ev.ckptComplete leaf pid
  match s.pkt leaf pid with
  | none => .next (s.unpost ev)
  | some p =>
    if !p.begun then .next (s.unpost ev)
    else if p.pages.isEmpty then .next ((s.unpost ev).finishPkt leaf pid) else .next s

/-! The activity forecast (R51). -/

/-- ACTFC_UPDATE (R51): the forecast's LEVEL is the implementation's (log 6). -/
def execActfcUpdate (leaf : Nat) (s : State) : Host.Outcome State Fault Refusal :=
  let (n, u) := s.fresh
  let pending := ((u.leaf leaf).pkts.filter fun p => p.stage == .waiting && (p.type == 1 || p.type == 2)).length
  let horizon := (u.leaf leaf).actfc.extractLsb' 8 8
  let x : W64 := BitVec.ofNat 64 ((Config.forecastLevel n).toNat + horizon.toNat * 2 ^ 8 + min pending 255 * 2 ^ 16 + u.now.toNat / 2 ^ 10 % 2 ^ 40 * 2 ^ 24)
  .next (u.onLeaf leaf fun l => { l with actfc := x })

end Sys2Proof.Machine
end

