-- ==== Sys2Proof/Machine/Fabric.lean ====
section
/-! DEFINITION. Packets arriving from the fabric: sequence, dustsheets, requests of other members, answers and resends
(R66, R71, R73, R74, R76, R357 to R363). -/

namespace Sys2Proof.Machine

/-! Counting and dropping (R66, R74, R443, R455). -/

/-- A member has accepted a packet (R66, R382). -/
def Member.countRecv (m : Member) (p : Packet) : Member :=
  let n := packetCount p
  let up (c : Coll) : Coll := if some (cbSeq c.cmd.block) = seqOf p.body then { c with recv := c.recv + n } else c
  let gone (d : W64 × Nat × Nat) : W64 × Nat × Nat := if some d.1 = seqOf p.body then (d.1, d.2.1, d.2.2 + n) else d
  { m with recv := m.recv + BitVec.ofNat 64 n, dropped := m.dropped.map gone, colls := m.colls.map fun (q : Nat × CollCtx) => (q.1, { q.2 with colls := q.2.colls.map up }) }

/-- Fabric bytes received count for the gang's function (R443). -/
def State.meterRecv (s : State) (p : Packet) : State :=
  if p.gang = 0 then s else s.onVf (gVf (s.gangRec p.gang)) fun v => v.meter 10 (wireBytes p)

/-- A packet with nobody to take it is dropped and counted (R74). -/
def State.misdeliver (s : State) (leaf : Nat) : State :=
  s.onLeaf leaf fun l => { l with err := { l.err with misdel := satInc l.err.misdel } }

/-! The dustsheet (R67, R73). -/

/-- n free bytes as one number: ciphertext, which the model does not compute (log 7). -/
def State.freeBytes (s : State) (n : Nat) : Nat × State :=
  ((List.range n).foldl (fun x i => x + (Config.freeByte (s.freeCount + i)).toNat * 256 ^ i) 0, { s with freeCount := s.freeCount + n })

/-- The flits of each packet of a message, its header flit included (R359). -/
def dustFlits (p : Packet) : List Nat := (List.range (packetCount p)).map fun i => 1 + min 63 (p.flits - 1 - 63 * i)

/-- A dustsheet's header: USED and NREC (R73). -/
def State.dustHeader (s : State) (leaf : Nat) (m : Member) : State :=
  s.hbmPut leaf m.dustBase 64 (m.dustUsed + (m.dust.map packetCount).sum * 2 ^ 64) m.key

/-- The record of the i-th packet of a message, at an offset of the dustsheet: its head, then its flits in ciphertext (R73). -/
def State.dustRecord (s : State) (leaf : Nat) (m : Member) (p : Packet) (i flits used : Nat) : State :=
  let (x, s) := s.freeBytes (64 * flits)
  let head := p.srcPkg + p.srcLeaf * 2 ^ 16 + flits * 2 ^ 24 + (p.seq + i) % 2 ^ 32 * 2 ^ 32 + s.now.toNat * 2 ^ 64
  s.hbmPut leaf (m.dustBase + 64 + used) (16 + 64 * flits) (head + x * 2 ^ 128) m.key

/-- The records of a message's packets from the i-th on, and the bytes then used; none where one would pass LIMIT (R73). -/
def State.dustAll (s : State) (leaf : Nat) (m : Member) (p : Packet) (i used : Nat) : List Nat → State × Option Nat
  | [] => (s, some used)
  | f :: t =>
    if m.dustLimit < 64 + used + 16 + 64 * f then (s, none)
    else (s.dustRecord leaf m p i f used).dustAll leaf m p (i + 1) (used + 16 + 64 * f) t

/-- A message enters the dustsheet, a record for each packet, or the gang aborts with DSFULL (R72, R73). -/
def State.toDust (s : State) (leaf : Nat) (m : Member) (p : Packet) : State :=
  match s.dustAll leaf m p 0 m.dustUsed (dustFlits p) with
  | (s, none) => s.gangFault leaf (plainFault 0x04)
  | (s, some used) =>
    let m := { m.countRecv p with dust := m.dust ++ [p], dustUsed := used }
    (s.onLeaf leaf fun l => { l with member := some m }).dustHeader leaf m

/-! Answers (R241, R287, R361, R362). -/

/-- A remote line or old value has come for a party. -/
def State.gotFor (s : State) (leaf : Nat) (party : Party) (vline : Nat) (x : BitVec 512) : State :=
  let s := s.onLeaf leaf fun l => { l with got := l.got ++ [(party, vline, x)] }
  match party with
  | .bundle who => s.postOnce (.dictldDone who)
  | _ => s

/-- A strand's remote store has completed or been refused (R225, R287, R362, R431). -/
def State.endSent (s : State) (leaf who txn : Nat) (refused : Bool) : State :=
  match (s.strand who).sent.find? fun x => x.txn == txn with
  | none => s
  | some x =>
    let s := s.onStrand who fun t =>
      { t with sent := t.sent.filter fun y => y.txn != txn,
               reports := t.reports ++ (if refused then [{ cause := WSFAULT, addr := BitVec.ofNat 64 x.va, dest := none }] else []) }
    if refused then s.redirty who x.kind
    else if x.kind == .signal then s.fireVf (s.keyVf leaf).2 vecKernelSignal else s

/-- The COLL of a context that has started and not ended. -/
def CollCtx.running (x : CollCtx) : Option Coll := x.colls.find? fun c => c.started && !c.done

/-- A COLL completes failed (R305, R333, R379): its token, its CWAITs and its record. -/
def State.failColl (s : State) (leaf ctx : Nat) (c : Coll) (cause : BitVec 8) : State :=
  let f (d : Coll) : Coll := if d.cmd.id = c.cmd.id then { d with started := true, done := true, fail := true, ccause := cause, nodes := [], sendsLeft := [] } else d
  let s := ((s.onMember leaf fun m => m.onColls ctx f).endWalk leaf (.coll ctx)).onLeaf leaf fun l => { l with remotes := l.remotes.filter fun r => r.party != .coll ctx }
  let s := s.onCore (coreOf c.cmd.who) fun k => k.record 5 (c.cmd.who % 4) cause.toNat c.cmd.addr
  ((s.endToken c.cmd.who c.cmd.id c.cmd.tp c.cmd.addr true).freeWaits leaf ctx).postOnce (.collStart leaf ctx)

/-- An owner has refused a party's request (R223, R316, R362). -/
def State.refused (s : State) (leaf : Nat) (r : Remote) : State :=
  match r.party with
  | .load who id => (s.unpost (.loadDataReturn who id .data)).post (.loadDataReturn who id .refused)
  | .store who _ => s.endSent leaf who r.txn true
  | .cmd q id =>
    match s.findCmd q id with
    | some c => s.failCmd q c fREMOTE
    | none => s
  | .region core n =>
    match (s.region core n).filling with
    | some party => (s.unpost (.regionFillComplete core n)).fillFails core n (64 * r.vline) party MEMXL fREMOTE
    | none => s.wbFault leaf (64 * r.vline)
  | .fetch who => s.lineFails (coreOf who) r.vline
  | .bundle who => (s.unpost (.dictldDone who)).onStrand who fun t => { t with hold := none, walk := some (.failed MEMXL (64 * r.vline)) }
  | .packet pid =>
    match headQueue pid with
    | none => s.failPkt leaf pid 0x02 true
    | some (vf, q) => if s.headPid vf q = pid ∧ s.pending vf q = true then s.refuseHead leaf vf q 0x02 else s
  | .coll ctx =>
    match (s.collCtx leaf ctx).running with
    | some c => s.failColl leaf ctx c 0x05
    | none => s
  | .push _ _ | .requeue _ => s

/-- A store or write has been acknowledged. -/
def State.acked (s : State) (leaf : Nat) (r : Remote) : State :=
  match r.party with
  | .store who _ => s.endSent leaf who r.txn false
  | .cmd q _ => s.postOnce (.commandComplete q)
  | _ => s

/-- The repeat of a command's request has been answered (R304, R316): the command goes on from its step; what has been fetched
beyond it, and what is still to come of that, is fetched afresh. -/
def State.retried (s : State) (leaf : Nat) (r : Remote) : State :=
  match r.party with
  | .cmd q id =>
    let fresh (x : Remote) : Bool := match x.pkt.body with
      | .read _ _ _ => x.party == r.party
      | _ => false
    let s := (s.forget leaf r.party).onLeaf leaf fun l => { l with remotes := l.remotes.filter fun x => !fresh x }
    match s.findCmd q id with
    | some c => (s.parkBit c false).postOnce (.commandStart q)
    | none => s
  | _ => s

/-- A read of a party has been answered. -/
def State.readBack (s : State) (leaf : Nat) (r : Remote) (x : BitVec 512) : State :=
  match r.party with
  | .cmd _ _ => if r.resent then s.retried leaf r else s.gotFor leaf r.party r.vline x
  | _ => s.gotFor leaf r.party r.vline x

/-- An answer has come: the request it answers is done. -/
def State.answered (s : State) (leaf gang : Nat) (b : PacketBody) : State :=
  let done (txn : Nat) (k : State → Remote → State) : State :=
    match (s.leaf leaf).remotes.find? fun r => r.txn == txn && r.pkt.gang == gang with
    | none => s
    | some r => k ((s.unpost (.remoteResend leaf txn)).onLeaf leaf fun l => { l with remotes := l.remotes.filter fun x => x.txn != txn || x.pkt.gang != gang }) r
  match b with
  | .readReply txn data => done txn fun s r => s.readBack leaf r (data.setWidth 512)
  | .atomicReply txn old => done txn fun s r => s.gotFor leaf r.party r.vline (old.setWidth 512)
  | .ack txn =>
    match (s.leaf leaf).remotes.find? fun r => r.txn == txn && r.pkt.gang == gang with
    | some r => (match r.party with
      | .coll ctx => s.postOnce (.collAck leaf ctx txn)
      | _ => done txn fun s r => (if r.resent then s.retried leaf r else s).acked leaf r)
    | none => s
  | .refusal txn => done txn fun s r => s.refused leaf r
  | _ => s

/-! Requests at the owner (R234, R256, R360 to R362, R440). -/

/-- The number under which an answer is recorded. -/
def answerKey (srcMember txn : Nat) : Nat := txn * 4096 + srcMember

/-- The transaction of a request. -/
def txnOf : PacketBody → Option Nat
  | .store t _ _ _ _ | .read t _ _ | .atomic t _ _ _ _ _ | .contribution t _ _ _ _ _ _ | .partials t _ _ _ | .deliver t _ _ _ _ _ => some t
  | _ => none

/-- Is a byte of a leaf's HBM in a page frozen for a function (R440). -/
def State.frozenAt (s : State) (leaf vf off : Nat) : Bool :=
  (s.leaf leaf).frozen.any fun f => f.1 == vf &&
    (match s.cpPlace leaf vf needRd (4096 * f.2) with
     | .inl (.hbm l o) => l == leaf && o / 4096 == off / 4096
     | _ => false)

/-- May the issuing member's function reach bytes of the owner's leaf (R362). -/
def State.mayReach (s : State) (vf leaf off n : Nat) : Bool := s.allAllotted vf leaf off n && !s.retired leaf off

/-- What the owner answers, with the flits of the answer; none while the access waits for a frozen page. -/
def State.serve (s : State) (leaf : Nat) (p : Packet) : Option (State × Nat × PacketBody) :=
  let vf := gVf (s.gangRec p.gang)
  match p.body with
  | .store txn off n data mask =>
    if !s.mayReach vf leaf off n then some (s, 1, .refusal txn)
    else if s.frozenAt leaf vf off then none
    else some ((s.hbmBits leaf off n data.toNat mask.toNat p.key).onVf vf fun v => v.meter 7 (64 * ((off + n + 63) / 64 - off / 64)), 1, .ack txn)
  | .read txn off n =>
    if !s.mayReach vf leaf off n then some (s, 1, .refusal txn)
    else
      let s := if s.keyOk leaf off (· == p.key) then s else s.keyMiss leaf
      some (s.onVf vf fun v => v.meter 6 64, 2, .readReply txn (BitVec.ofNat 4096 (s.hbmRead leaf off n (· == p.key))))
  | .atomic txn off op wide x q =>
    let z := if wide then 8 else 4
    if !s.mayReach vf leaf off z then some (s, 1, .refusal txn)
    else if s.frozenAt leaf vf off then none
    else
      let s := if s.keyOk leaf off (· == p.key) then s else s.keyMiss leaf
      let old := s.hbmRead leaf off z (· == p.key)
      let s := if op = 7 ∧ old ≠ q.toNat then s
        else (s.hbmBits leaf off z (atomicNew op (8 * z) old x.toNat q.toNat) (2 ^ (8 * z) - 1) p.key).onVf vf fun v => v.meter 7 64
      some (s.onVf vf fun v => v.meter 6 64, 2, .atomicReply txn (BitVec.ofNat 64 old))
  | _ => some (s, 1, .ack 0)

/-- Answer a request, and record the answer (R361). -/
def State.answer (s : State) (leaf : Nat) (p : Packet) (flits : Nat) (body : PacketBody) : State :=
  match (s.leaf leaf).member, txnOf p.body with
  | some m, some txn =>
    let s := s.onLeaf leaf fun l => { l with answers := l.answers ++ [(answerKey p.srcMember txn, s.packetTo leaf m p.srcMember flits body)] }
    s.inject leaf p.srcMember flits body
  | _, _ => s

/-- Does an earlier request of the same source wait on a leaf. -/
def State.requestBefore (s : State) (leaf : Nat) (p : Packet) : Bool :=
  let same (e : Ev) : Bool := match e with
    | .remoteRequest l q => l == leaf && q.srcPkg == p.srcPkg && q.srcLeaf == p.srcLeaf && q.gang == p.gang && decide (q.seq < p.seq)
    | _ => false
  s.agenda.any same

/-- A request reaches the member that owns the memory, which performs it, refuses it, or lets it wait (R285, R360, R362). -/
def State.performRequest (s : State) (leaf : Nat) (p : Packet) : State :=
  if (s.leaf leaf).member.isNone then s.unpost (.remoteRequest leaf p)
  else if (s.leaf leaf).freezeLeft ≠ 0 || s.requestBefore leaf p then s
  else match s.serve leaf p with
    | none => s
    | some (u, flits, body) => (u.unpost (.remoteRequest leaf p)).answer leaf p flits body

/-- REMOTE_REQUEST (R360 to R362): the owner performs or refuses an access of another member. -/
def execRemoteRequest (leaf : Nat) (p : Packet) (s : State) : Host.Outcome State Fault Refusal := .next (s.performRequest leaf p)

/-! Arrivals (R358, R363, R66, R67, R76). -/

/-- The recorded answer to a request that was accepted before (R361). -/
def Leaf.recorded (l : Leaf) (p : Packet) : Option Packet :=
  ((txnOf p.body).bind fun t => l.answers.find? fun a => a.1 == answerKey p.srcMember t).map Prod.snd

/-- A recorded answer is repeated under its own sequence number; one that was numbered for another place takes a new number there
(R358, R361; log 71). -/
def State.repeatAnswer (s : State) (leaf : Nat) (a : Packet) : State :=
  if a.seq < (s.leaf leaf).seqOut.get (s.seqKey leaf a.dstMember) 0 then
    let (u, ok) := s.depart (s.placeOf leaf a.dstMember) none a
    if ok then u.countSent leaf a else u
  else s.inject leaf a.dstMember a.flits a.body

/-- A packet reaches its consumer in the member (R76); a copy of one that was accepted before brings its recorded answer again, or
nothing while that is still to come (R361). -/
def State.consumePacket (s : State) (leaf : Nat) (p : Packet) : State :=
  match (s.leaf leaf).recorded p with
  | some a => s.repeatAnswer leaf a
  | none =>
    match p.body with
    | .store _ _ _ _ _ | .read _ _ _ | .atomic _ _ _ _ _ _ => s.postOnce (.remoteRequest leaf p)
    | .readReply _ _ | .atomicReply _ _ | .ack _ | .refusal _ => s.answered leaf p.gang p.body
    | .contribution _ _ _ _ _ _ _ | .partials _ _ _ _ | .deliver _ _ _ _ _ _ => s.postOnce (.contribution leaf p)
    | .arrive b n a => s.barKept leaf b n a
    | .barReply w x => s.barTold leaf w x

/-- A packet outside any gang: spills to a save area, dustsheet records and the reads of a save area (R73, R77). -/
def State.plainPacket (s : State) (leaf : Nat) (p : Packet) : State :=
  match p.body with
  | .store _ off n data mask => s.hbmBits leaf off n data.toNat mask.toNat p.key
  | .read txn off n =>
    let q : Packet := { p with srcPkg := s.pkg, srcLeaf := leaf, flits := 2, body := .readReply txn (BitVec.ofNat 4096 (s.hbmRead leaf off n (· == p.key))) }
    (s.depart (2 * p.srcPkg + p.srcLeaf) none q).1
  | b => s.answered leaf 0 b

/-- Does a packet take its place in its source leaf's sequence (R358): a router's packets do not. -/
def sequenced (p : Packet) : Bool := decide (p.srcMember < 2048) && decide (p.dstMember < 2048)

/-- A packet in its turn meets the member on the leaf (R67, R73 to R76). -/
def State.acceptPacket (s : State) (leaf : Nat) (p : Packet) : State :=
  match (s.leaf leaf).member with
  | none => s.misdeliver leaf
  | some m =>
    if m.gang ≠ p.gang ∨ m.member ≠ p.dstMember then s.misdeliver leaf
    else match (s.leaf leaf).phase with
      | .run | .preparing => (s.onMember leaf fun m => m.countRecv p).consumePacket leaf p
      | .prepared | .saving => s.toDust leaf m p
      | .resuming => s.onMember leaf fun m => { m.countRecv p with held := m.held ++ [p] }
      | .out | .faulted => s.misdeliver leaf

/-- Where a leaf counts the packets of a packet's source leaf and gang (R358). -/
def inKey (p : Packet) : Nat := seqKeyOf (2 * p.srcPkg + p.srcLeaf) p.gang

/-- A packet that came early and is next now arrives again (R358). -/
def State.nextEarly (s : State) (leaf key : Nat) : State :=
  let l := s.leaf leaf
  match l.early.find? fun q => inKey q == key && q.seq == l.seqIn.get key 0 with
  | none => s
  | some q => (s.onLeaf leaf fun l => { l with early := l.early.erase q }).post (.fabricPacketArrival leaf q)

/-- A gang's fault that a router sees is told to the gang's leader (R363, R402). -/
def State.routerFault (s : State) (g : Nat) (cause : BitVec 8) : State :=
  let h : FaultHead := { gang := g, member := 0xFFFF, cause := cause, tcause := 0, pkg := s.pkg, leaf := 0, core := 255, strand := 255, pc := 0, addr := 0, now := s.now, work := 0 }
  let places := ((s.trees.find? fun t => t.gang == g).map Tree.places).getD (s.placesNow 0 g)
  match places.head? with
  | some place => s.tell place fun l => .abort l true h
  | none => s

/-- What a router keeps for a gang (R66). -/
def State.routerGang (s : State) (g : Nat) : RouterGang := s.routerGangs.get g { sent := 0, recv := 0, emitted := false }

/-- A router has accepted a packet (R66). -/
def State.routerRecv (s : State) (p : Packet) : State :=
  let r := s.routerGang p.gang
  { s with routerGangs := s.routerGangs.set p.gang { r with recv := r.recv + BitVec.ofNat 64 (packetCount p) } }

/-- The router has injected a packet (R66, R382, R443). -/
def State.routerSent (s : State) (p : Packet) : State :=
  let r := s.routerGang p.gang
  let k := packetCount p
  let up (x : Tree) : Tree := if x.gang = p.gang ∧ seqOf p.body = some (BitVec.ofNat 64 (bytesAt x.block 0x38 8)) then { x with sent := x.sent + k } else x
  { s with routerGangs := s.routerGangs.set p.gang { r with sent := r.sent + BitVec.ofNat 64 k }, trees := s.trees.map up }.onVf (gVf (s.gangRec p.gang)) fun v =>
    v.meter 9 (wireBytes p)

/-- The router awaits no more answers for some packets. -/
def State.routerDone (s : State) (f : Packet → Bool) : State := { s with routerAsks := s.routerAsks.filter fun r => !f r.pkt }

/-- A packet of a gang's sequence reaches its member (R358, R361). -/
def State.inSequence (s : State) (leaf : Nat) (p : Packet) : State :=
  let next := (s.leaf leaf).seqIn.get (inKey p) 0
  if p.seq < next then s.acceptPacket leaf p
  else if next < p.seq then s.onLeaf leaf fun l => { l with early := l.early ++ [p] }
  else ((s.onLeaf leaf fun l => { l with seqIn := l.seqIn.set (inKey p) (next + packetCount p) }).acceptPacket leaf p).nextEarly leaf (inKey p)

/-- A packet reaches a leaf (R74, R358, R361, R363). -/
def State.arrivePacket (s : State) (leaf : Nat) (p : Packet) : State :=
  let s := s.meterRecv p
  if p.gang = 0 then (if opens p then s.plainPacket leaf p else s)
  else if !((s.leaf leaf).member.any fun m => m.gang == p.gang && m.member == p.dstMember) then s.misdeliver leaf
  else if !opens p then (s.onMember leaf fun m => m.countRecv p).gangFault leaf (plainFault 0x08)
  else if !sequenced p then s.acceptPacket leaf p
  else s.inSequence leaf p

/-- A packet on its way to another package is forwarded by this package's route 0 (R357). -/
def State.forward (s : State) (place : Nat) (p : Packet) : State :=
  let w := routeWord (s.route (place / 2)) 0
  if routeValid w then s.byPort { port := routePort w, via := routeVia w, pkg := place / 2, leaf := place % 2, pkt := p }
  else { s with linkerr := satInc s.linkerr }

/-- FABRIC_PACKET_ARRIVAL (R66, R67, R73 to R76, R357, R358, R360 to R363, R424): leaf 2 stands for the package's router, and a
number from 4 on for the place, 4 less, of another package. -/
def execFabricPacketArrival (leaf : Nat) (p : Packet) (s : State) : Host.Outcome State Fault Refusal :=
  let ev := Ev.fabricPacketArrival leaf p
  if 4 ≤ leaf then .next ((s.unpost ev).forward (leaf - 4) p)
  else if leaf = 2 then
    let s := (s.unpost ev).meterRecv p
    if opens p then .next (s.post (.contribution 2 p)) else .next ((s.routerRecv p).routerFault p.gang 0x08)
  else if (s.leaf leaf).freezeLeft ≠ 0 then
    .next ((s.unpost ev).onLeaf leaf fun l => { l with edge := l.edge ++ [p] })
  else .next ((s.unpost ev).arrivePacket leaf p)

/-! Resends (R361). -/

/-- A request's answer is due within this (R361). -/
def resendAfter : Nat := us 20

/-- Do the timers of remote requests run: not from PREPARED to GO (R361). -/
def State.timersRun (s : State) (leaf : Nat) : Bool := (s.leaf leaf).phase == .run || (s.leaf leaf).phase == .preparing

/-- A command one of whose requests is sent once more is parked: what has been fetched beyond its step is dropped (R304, R316). -/
def State.retryParks (s : State) (leaf : Nat) (r : Remote) : State :=
  match r.party with
  | .cmd q id =>
    match s.findCmd q id with
    | some c => (s.forget leaf r.party).parkBit c true
    | none => s
  | _ => s

/-- What the router sent and no acknowledgement has answered within 20 µs is sent once more, and the second time the gang faults; not from
PREPARED on, when the router has emitted its partials (R361, R375). -/
def State.routerResend (s : State) (txn : Nat) : State :=
  let ev := Ev.remoteResend 2 txn
  match s.routerAsks.find? fun r => r.txn == txn with
  | none => s.unpost ev
  | some r =>
    if (s.routerGang r.pkt.gang).emitted || decide (s.now.toNat < r.sentAt + resendAfter) then s
    else if r.resent then ((s.unpost ev).routerDone fun p => p.gang == r.pkt.gang).routerFault r.pkt.gang 0x07
    else
      let e := s.route (r.place / 2)
      let (u, ok) := s.depart r.place (some (nextRoute e (routeActive e))) r.pkt
      let u := if ok then u.routerSent r.pkt else u
      { u with routerAsks := u.routerAsks.map fun x => if x.txn = txn then { x with resent := true, sentAt := s.now.toNat } else x }

/-- REMOTE_RESEND (R304, R316, R361): the request is sent once more by the next route; the second time the gang faults. Leaf 2 stands for
the package's router. -/
def execRemoteResend (leaf txn : Nat) (s : State) : Host.Outcome State Fault Refusal :=
  if leaf = 2 then .next (s.routerResend txn) else
  let ev := Ev.remoteResend leaf txn
  match (s.leaf leaf).remotes.find? fun r => r.txn == txn with
  | none => .next (s.unpost ev)
  | some r =>
    if !s.timersRun leaf || decide (s.now.toNat < r.sentAt + resendAfter) then .next s
    else if r.resent then .next ((s.unpost ev).gangFault leaf (plainFault 0x07))
    else
      let place := if r.pkt.gang = 0 then r.place else s.placeOf leaf r.pkt.dstMember
      let e := s.route (place / 2)
      let (u, ok) := s.depart place (some (nextRoute e (routeActive e))) r.pkt
      let u := if ok && r.pkt.gang != 0 then u.countSent leaf r.pkt else u
      .next ((u.onLeaf leaf fun l => { l with remotes := l.remotes.map fun x => if x.txn = txn then { x with resent := true, sentAt := s.now.toNat } else x }).retryParks leaf r)

end Sys2Proof.Machine
end

