-- ==== Sys2Proof/Machine/CollEvents.lean ====
section
/-! DEFINITION. Collectives: the tree and its placement, combining nodes at members and at the package's router, chunks in
place, completion and aborts (R366 to R382). -/

namespace Sys2Proof.Machine

/-! The tree (R370, R373). -/

/-- The level of a tree's root: 2^L ranks (R370). -/
def cbLevels (b : CBlock) : Nat := ((List.range 12).find? fun l => decide (cbGroup b ≤ 2 ^ l)).getD 11

/-- The ranks present in a subtree, as bits. -/
def presentBits (b : CBlock) (lo hi : Nat) : Nat := 2 ^ min hi (cbGroup b) - 2 ^ min lo (cbGroup b)

/-- Is a subtree the whole tree. -/
def isRoot (b : CBlock) (lo hi : Nat) : Bool := lo == 0 && hi == 2 ^ cbLevels b

/-- The parent of a subtree. -/
def parentOf (lo hi : Nat) : Nat × Nat :=
  let n := hi - lo
  let a := lo - lo % (2 * n)
  (a, a + 2 * n)

/-- Where a node lies: the member of its lowest rank, or the router the placement names, as 2048 plus its package (R373). -/
def Tree.loc (t : Tree) (lo hi : Nat) : Nat :=
  match t.routers.find? fun r => r.1 == lo && r.2.1 == hi with
  | some r => 2048 + r.2.2
  | none => cbMember t.block lo

/-- The top of the nodes at one location that a subtree's value reaches (R372). The fuel is the number of levels. -/
def Tree.top (t : Tree) (loc : Nat) : Nat → Nat × Nat → Nat × Nat
  | 0, x => x
  | n + 1, x =>
    if isRoot t.block x.1 x.2 then x
    else
      let p := parentOf x.1 x.2
      if t.loc p.1 p.2 = loc then t.top loc n p else x

/-- The subtrees below a node at a location whose values go down to other locations, and the ranks of the location
itself (R374). The fuel is the node's level. -/
def Tree.fan (t : Tree) (loc : Nat) : Nat → Nat → List (Nat × Nat)
  | 0, lo => if lo < cbGroup t.block then [(lo, lo + 1)] else []
  | n + 1, lo =>
    if cbGroup t.block ≤ lo then []
    else if t.loc lo (lo + 2 ^ (n + 1)) ≠ loc then [(lo, lo + 2 ^ (n + 1))]
    else t.fan loc n lo ++ t.fan loc n (lo + 2 ^ n)

/-- Do two blocks name one collective (R375). -/
def sameColl (a b : CBlock) : Bool := bytesAt a 0 16 == bytesAt b 0 16 && bytesAt a 0x20 12 == bytesAt b 0x20 12

/-! Values (R371, R372). -/

/-- ROP. -/
def cbRedOp (b : CBlock) : RedOp :=
  match cbRop b with
  | 1 => .max
  | 2 => .min
  | _ => .add

/-- An element as it enters the tree: FP32 or INT32 bits (R371). -/
def cbEnter (b : CBlock) (x : Nat) : BitVec 32 :=
  let f := cbDtype b
  if f.isF then BitVec.ofNat 32 (fpRound .fp32 .rne false (fpDecode f x)) else BitVec.ofInt 32 (intDecode f x)

/-- An element as it leaves the root: rounded or wrapped once to DTYPE (R371). -/
def cbLeave (b : CBlock) (x : BitVec 32) : Nat :=
  let f := cbDtype b
  if f = .fp32 then x.toNat else if f.isF then fpRound f .rne false (fpDecode .fp32 x.toNat) else intWrap f x.toInt

/-- Op (R371). -/
def cbApply (b : CBlock) (x y : BitVec 32) : BitVec 32 :=
  if (cbDtype b).isF then BitVec.ofNat 32 (fpRound .fp32 .rne false ((cbRedOp b).fp (fpDecode .fp32 x.toNat) (fpDecode .fp32 y.toNat)))
  else BitVec.ofInt 32 ((cbRedOp b).int x.toInt y.toInt)

/-- Op of two chunks. -/
def cbCombine (b : CBlock) (x y : List (BitVec 32)) : List (BitVec 32) := List.zipWith (cbApply b) x y

/-- The value of a subtree from the values of some of its subtrees (R370, R371). The fuel is its level. -/
def cbValue (b : CBlock) (parts : List (Nat × Nat × List (BitVec 32))) : Nat → Nat → Option (List (BitVec 32))
  | n, lo =>
    match parts.find? fun p => p.1 == lo && p.2.1 == lo + 2 ^ n with
    | some p => some p.2.2
    | none =>
      match n with
      | 0 => none
      | k + 1 =>
        match cbValue b parts k lo, cbValue b parts k (lo + 2 ^ k) with
        | some x, some y => some (cbCombine b x y)
        | some x, none => if cbGroup b ≤ lo + 2 ^ k then some x else none
        | none, _ => none

/-- A contribution enters a node: in deterministic mode it is kept under its range, in arrival mode it is added to what the
node holds (R371, R372, R375). -/
def Node.add (b : CBlock) (n : Node) (lo hi bits : Nat) (x : List (BitVec 32)) : Node :=
  let parts := if cbArrival b then
      match n.parts with
      | (_, _, y) :: _ => [(n.lo, n.hi, cbCombine b y x)]
      | [] => [(n.lo, n.hi, x)]
    else n.parts ++ [(lo, hi, x)]
  let nan (x : BitVec 32) : Bool := (fpDecode .fp32 x.toNat).isNaN
  let made := match n.parts with
    | (_, _, y) :: _ => cbArrival b && (cbDtype b).isF && (List.range x.length).any fun i =>
      nan ((cbCombine b y x).getD i 0) && !nan (y.getD i 0) && !nan (x.getD i 0)
    | [] => false
  { n with bitmap := n.bitmap ||| bits, parts := parts, made := n.made || made }

/-- Has every rank of a node's subtree contributed. -/
def Node.full (b : CBlock) (n : Node) : Bool := n.bitmap == presentBits b n.lo n.hi

/-- A full node's value. -/
def Node.value (b : CBlock) (n : Node) : List (BitVec 32) :=
  if cbArrival b then (n.parts.head?.map fun p => p.2.2).getD []
  else (cbValue b n.parts (Nat.log2 (n.hi - n.lo)) n.lo).getD []

/-- A node whose value has gone onward. -/
def Node.spent (n : Node) : Node := { n with parts := [] }

/-- Has a combination made a NaN out of values that are none (R192, R379). -/
def Node.madeNaN (b : CBlock) (n : Node) : Bool :=
  let nan (x : BitVec 32) : Bool := (fpDecode .fp32 x.toNat).isNaN
  n.made || (!cbArrival b && (cbDtype b).isF && (List.range (n.value b).length).any fun i =>
    nan ((n.value b).getD i 0) && !n.parts.any fun p => nan (p.2.2.getD i 0))

/-! Extents (R368). -/

/-- Chunks of one block of COUNT elements. -/
def cbBlockChunks (b : CBlock) : Nat := (cbCount b + cbChunk b - 1) / cbChunk b

/-- The elements of a receive extent that chunk c takes from source rank k: first and past the last (R368). -/
def cbPiece (b : CBlock) (c k : Nat) : Nat × Nat := (max (c * cbChunk b) (k * cbCount b), min ((c + 1) * cbChunk b) ((k + 1) * cbCount b))

/-- Does a chunk take bytes from a source rank. -/
def cbHasPiece (b : CBlock) (c k : Nat) : Bool := decide ((cbPiece b c k).1 < (cbPiece b c k).2)

/-- The keys under which a rank reads its send extent: a chunk, with the block it belongs to where blocks go to different
ranks. -/
def cbKeys (b : CBlock) (rank : Nat) : List Nat :=
  match cbOp b with
  | 0 | 4 => List.range (cbBlockChunks b)
  | 1 => List.range (cbGroup b * cbBlockChunks b)
  | 3 => if rank = cbRoot b then List.range (cbBlockChunks b) else []
  | 2 => (List.range (cbChunks b rank)).filter fun c => cbHasPiece b c rank
  | _ => (List.range (cbGroup b * cbChunks b rank)).filter fun q => cbHasPiece b (q % cbChunks b rank) rank

/-- The first element of the send extent that a key reads, and how many. -/
def cbSlice (b : CBlock) (rank q : Nat) : Nat × Nat :=
  match cbOp b with
  | 1 =>
    let c := q % cbBlockChunks b
    (q / cbBlockChunks b * cbCount b + c * cbChunk b, min (cbChunk b) (cbCount b - c * cbChunk b))
  | 2 =>
    let p := cbPiece b q rank
    (p.1 - rank * cbCount b, p.2 - p.1)
  | 5 =>
    let p := cbPiece b (q % cbChunks b rank) rank
    (q / cbChunks b rank * cbCount b + (p.1 - rank * cbCount b), p.2 - p.1)
  | _ => (q * cbChunk b, min (cbChunk b) (cbCount b - q * cbChunk b))

/-- The chunk of the receive extent that a key stands for, and its first element there, for bytes from a source rank. -/
def cbTarget (b : CBlock) (q source : Nat) : Nat × Nat :=
  match cbOp b with
  | 1 => (q % cbBlockChunks b, q % cbBlockChunks b * cbChunk b)
  | 2 | 5 => (q, (cbPiece b q source).1)
  | _ => (q, q * cbChunk b)

/-! What one member holds (R368, R369, R373). -/

/-- The placement that a member holds for a SEQ whose COLL is not over here. -/
def Member.treeOf (m : Member) (q : W64) : Option Tree := m.trees.find? fun t => cbSeq t.block == q && !t.dropped

/-- Change one COLL. -/
def State.onColl (s : State) (leaf ctx : Nat) (c : Coll) (f : Coll → Coll) : State :=
  s.onMember leaf fun m => m.onColls ctx fun d => if d.cmd.id = c.cmd.id then f d else d

/-- A COLL as it now stands. -/
def State.collNow (s : State) (leaf ctx : Nat) (c : Coll) : Coll := ((s.collCtx leaf ctx).colls.find? fun d => d.cmd.id == c.cmd.id).getD c

/-- An aligned 8-byte write to the counter block (R369). -/
def State.ctrPut (s : State) (c : Coll) (off : Nat) (x : W64) : State :=
  s.localPut (coreOf c.cmd.who) (cbCtr c.cmd.block + off + ·) 8 x.toNat (2 ^ 64 - 1)

/-- The prefix word (R369). -/
def State.prefixPut (s : State) (leaf ctx : Nat) (c : Coll) : State :=
  let n := (s.collNow leaf ctx c).prefixOf
  s.ctrPut c 0 (BitVec.ofNat 64 (n + (cbSeq c.cmd.block).toNat % 2 ^ 32 * 2 ^ 32))

/-- The regions of a COLL's counter words. -/
def ctrRegions (c : Coll) : List Nat := regionSpan (cbCtr c.cmd.block) (8 + 8 * 16384)

/-- Chunk k is in place: its counter, the prefix word, and the CWAITs it frees (R369, R380). -/
def State.chunkIn (s : State) (leaf ctx : Nat) (c : Coll) (k : Nat) : State :=
  if (s.collNow leaf ctx c).inPlace.contains k then s else
  let s := (s.ctrPut c (8 + 8 * k) (cbSeq c.cmd.block)).onColl leaf ctx c fun d => { d with inPlace := d.inPlace ++ [k] }
  ((s.prefixPut leaf ctx c).freeWaits leaf ctx).postOnce (.collStart leaf ctx)

/-- Has a chunk every byte it takes (R368). -/
def Coll.whole (c : Coll) (k : Nat) : Bool :=
  let b := c.cmd.block
  if cbOp b = 2 ∨ cbOp b = 5 then (List.range (cbGroup b)).all fun r => !cbHasPiece b k r || c.pieces.contains (k, r) else true

/-- Bytes of a chunk, or of the piece of it that a rank sends, reach RECV; the chunk is then in place, or waits for its other
pieces (R288, R368, R369). -/
def State.chunkBytes (s : State) (leaf ctx : Nat) (c : Coll) (q source : Nat) (bytes : List Byte) : Reach :=
  let b := c.cmd.block
  let (k, elt) := cbTarget b q source
  let n := bytes.length
  match s.touchAll (coreOf c.cmd.who) (.coll ctx) ((regionSpan (cbCtr b) 8) ++ (regionSpan (cbCtr b + 8 + 8 * k) 8)) with
  | (u, false) => .remote u
  | (u, true) =>
    match u.writeFor c.cmd.who (.coll ctx) (cbRecv b + elt * cbWidth b) n (leNat bytes 0 n) (2 ^ (8 * n) - 1) with
    | .done u _ =>
      let u := u.onColl leaf ctx c fun d => { d with pieces := if cbOp b = 2 ∨ cbOp b = 5 then d.pieces ++ [(k, source)] else d.pieces }
      .done (if (u.collNow leaf ctx c).whole k then u.chunkIn leaf ctx c k else u) 0
    | g => g

/-- Send something of a COLL to another member or to a router; its acknowledgement is awaited (R360, R379). -/
def State.collSend (s : State) (leaf ctx dst q n : Nat) (body : Nat → PacketBody) : State :=
  s.ask leaf dst (1 + flitsOf n) (.coll ctx) q body

/-- Bytes of a result for some subtrees or ranks: those of this member are written, the others are sent (R374). -/
def State.deliverAll (s : State) (leaf ctx me : Nat) (c : Coll) (t : Tree) (q source : Nat) (bytes : List Byte) (dsts : List (Nat × Nat)) : Reach :=
  let own := dsts.any fun x => t.loc x.1 x.2 == me
  let send (s : State) : State := (dsts.filter fun x => t.loc x.1 x.2 != me).foldl (fun s x =>
    s.collSend leaf ctx (t.loc x.1 x.2) q bytes.length fun n => .deliver n (cbSeq c.cmd.block) q x.1 x.2 bytes) s
  if own then
    match s.chunkBytes leaf ctx c q source bytes with
    | .done u _ => .done (send u) 0
    | g => g
  else .done (send s) 0

/-- Where the root's value of a key goes (R374). -/
def rootTo (t : Tree) (loc q : Nat) : List (Nat × Nat) :=
  let b := t.block
  match cbOp b with
  | 0 => t.fan loc (cbLevels b) 0
  | 1 => let r := q / cbBlockChunks b
         [(r, r + 1)]
  | _ => [(cbRoot b, cbRoot b + 1)]

/-- A chunk's values as bytes of DTYPE. -/
def cbBytes (b : CBlock) (l : List (BitVec 32)) : List Byte := l.flatMap fun x => leBytes (cbWidth b) (cbLeave b x)

/-- A subtree's value at this member goes on: to the result where it is the root's, into this member's node, or up
(R370 to R375). bits names the ranks it covers. -/
def State.rise (s : State) (leaf ctx me : Nat) (c : Coll) (t : Tree) (q lo hi bits : Nat) (x : List (BitVec 32)) : Reach :=
  let b := t.block
  if isRoot b lo hi && bits == presentBits b lo hi then s.deliverAll leaf ctx me c t q 0 (cbBytes b x) (rootTo t me q)
  else
    let at_ := if bits = presentBits b lo hi then parentOf lo hi else (lo, hi)
    let loc := t.loc at_.1 at_.2
    if loc ≠ me then
      .done (s.collSend leaf ctx loc q (4 * x.length) fun n => .contribution n (cbSeq b) q lo hi bits x) 0
    else
      let top := t.top me 12 at_
      let old : Node := ((s.collNow leaf ctx c).nodes.find? fun n => n.chunk == q && n.lo == top.1).getD
        { gang := ((s.leaf leaf).member.map Member.gang).getD 0, seq := cbSeq b, chunk := q, lo := top.1, hi := top.2, bitmap := 0, parts := [], made := false }
      if old.bitmap &&& bits ≠ 0 then .done s 0 else
      let new := old.add b lo hi bits x
      let keep (n : Node) (s : State) : State := s.onColl leaf ctx c fun d => { d with nodes := (d.nodes.filter fun m => !(m.chunk == q && m.lo == n.lo)) ++ [n] }
      if !new.full b then .done (keep new s) 0
      else
        let s := s.onCore (coreOf c.cmd.who) fun k => if new.madeNaN b && c.cmd.notes == 0 then k.record 1 (c.cmd.who % 4) 0 c.cmd.addr else k
        let s := s.onColl leaf ctx c fun d => { d with cmd := { d.cmd with notes := if new.madeNaN b then 1 else d.cmd.notes } }
        if isRoot b top.1 top.2 then
          match s.deliverAll leaf ctx me c t q 0 (cbBytes b (new.value b)) (rootTo t me q) with
          | .done u _ => .done (keep new.spent u) 0
          | g => g
        else
          let p := parentOf top.1 top.2
          .done (keep new.spent (s.collSend leaf ctx (t.loc p.1 p.2) q (4 * x.length) fun n =>
            .contribution n (cbSeq b) q top.1 top.2 (presentBits b top.1 top.2) (new.value b))) 0

/-- Is a context's COLL parked on a page (R304, R396). -/
def State.collParked (s : State) (leaf ctx : Nat) : Bool := (s.leaf leaf).walks.any fun w => w.parked && w.party == .coll ctx

/-- What an access of a COLL meets: it parks on a page that is busy or, with the page asked for, not resident; or it fails the COLL
with XL (R304, R316, R379, R396). -/
def State.collReach (s : State) (leaf ctx : Nat) (c : Coll) (need : Need) (r : Reach) (k : State → Nat → State) : State :=
  match r with
  | .done u x => k u x
  | .remote u => u
  | .retry _ => s
  | .busy va line => s.parkOn leaf (.coll ctx) need va line
  | .nonres va line => (s.parkOn leaf (.coll ctx) need va line).requestPage leaf va need.wr line
  | .invalid _ | .lost _ => s.failColl leaf ctx c 0x01

/-! COLL_START: the steps of a collective at a member (R368, R369, R374, R379). -/

/-- A COLL starts: the prefix word is written, and the root's leaf is asked for the placement (R369, R373, R375, R379). -/
def State.beginColl (s : State) (leaf ctx : Nat) (m : Member) (c : Coll) : State :=
  let b := c.cmd.block
  let rank := (cbRank b m.member).getD 0
  let twin := m.colls.any fun x => x.2.colls.any fun d => d.started && !d.done && d.cmd.id != c.cmd.id && cbSeq d.cmd.block == cbSeq b
  let clash := (m.treeOf (cbSeq b)).any fun t => !sameColl t.block b
  if c.cmd.depFailed then s.failColl leaf ctx c 0x03
  else if !c.cmd.deps.isEmpty || m.unreleased.contains (cbSeq b) then s
  else if twin || clash then s.gangFault leaf (plainFault 0x09)
  else match s.touchAll (coreOf c.cmd.who) (.coll ctx) (regionSpan (cbCtr b) 8) with
    | (u, false) => u
    | (u, true) =>
      let u := (u.onColl leaf ctx c fun d => { d with started := true, sendsLeft := cbKeys b rank }).prefixPut leaf ctx c
      if (m.treeOf (cbSeq b)).isSome then u
      else u.tellMember leaf (cbMember b (cbRootRank b)) fun l => .placementRequest l m.gang m.member b

/-- Does a rank of OP 4 that receives nothing have its parent node at its own member, which then takes its contribution at once
(R368). -/
def Coll.parentHere (c : Coll) (me : Nat) (t : Tree) (rank : Nat) : Bool :=
  let b := c.cmd.block
  cbOp b == 4 && rank != cbRoot b && !isRoot b rank (rank + 1) && t.loc (parentOf rank (rank + 1)).1 (parentOf rank (rank + 1)).2 == me

/-- The regions of the prefix word and of a chunk's counter. -/
def ctrSpan (b : CBlock) (k : Nat) : List Nat := regionSpan (cbCtr b) 8 ++ regionSpan (cbCtr b + 8 + 8 * k) 8

/-- The next part of a COLL's send extent is read and sent on (R289, R374, R379). -/
def State.sendNext (s : State) (leaf ctx : Nat) (m : Member) (c : Coll) (t : Tree) (q : Nat) : State :=
  let b := c.cmd.block
  let rank := (cbRank b m.member).getD 0
  let (elt, n) := cbSlice b rank q
  let w := cbWidth b
  s.collReach leaf ctx c needRd (s.readFor c.cmd.who (.coll ctx) false (cbSend b + elt * w) (n * w)) fun u x =>
    let u := u.forget leaf (.coll ctx)
    let bytes := leBytes (n * w) x
    let sent (r : Reach) : State := s.collReach leaf ctx c needWr r fun u _ => (u.onColl leaf ctx c fun d => { d with sendsLeft := d.sendsLeft.erase q }).postOnce (.collStart leaf ctx)
    if cbReduces b then
      let entered := (List.range n).map fun i => cbEnter b (x / 2 ^ (8 * w * i) % 2 ^ (8 * w))
      let up (u : State) : Reach := u.rise leaf ctx m.member c t q rank (rank + 1) (2 ^ rank) entered
      if c.parentHere m.member t rank then
        match u.touchAll (coreOf c.cmd.who) (.coll ctx) (ctrSpan b q) with
        | (v, false) => v
        | (v, true) => sent (match up v with
          | .done v x => .done (v.chunkIn leaf ctx c q) x
          | g => g)
      else sent (up u)
    else
      let key := if cbOp b = 5 then q % cbChunks b rank else q
      let dsts := if cbOp b = 5 then [(q / cbChunks b rank, q / cbChunks b rank + 1)] else (List.range (cbGroup b)).map fun r => (r, r + 1)
      let plain : Tree := { t with routers := [] }
      let others := dsts.filter fun r => plain.loc r.1 r.2 != m.member
      let send (u : State) : State := others.foldl (fun u r => u.collSend leaf ctx (plain.loc r.1 r.2) q bytes.length fun k => .deliver k (cbSeq b) key rank (rank + 1) bytes) u
      if others.length = dsts.length then sent (.done (send u) 0)
      else sent (match u.chunkBytes leaf ctx c key rank bytes with
        | .done u _ => .done (send u) 0
        | g => g)

/-- The top nodes of a reducing collective that lie at a member, each once (R373). -/
def Tree.topsAt (t : Tree) (loc : Nat) : List (Nat × Nat) :=
  let levels := cbLevels t.block
  let all := (List.range levels).flatMap fun l => (List.range (2 ^ (levels - 1 - l))).map fun i => (i * 2 ^ (l + 1), (i + 1) * 2 ^ (l + 1))
  ((all.filter fun x => decide (x.1 < cbGroup t.block) && t.loc x.1 x.2 == loc).map fun x => t.top loc 12 x).eraseDups

/-- Has every node at a location finished its part of every chunk (R379). -/
def nodesDone (t : Tree) (loc : Nat) (nodes : List Node) : Bool :=
  !cbReduces t.block || (cbKeys t.block 0).all fun q => (t.topsAt loc).all fun x =>
    nodes.any fun n => n.chunk == q && n.lo == x.1 && n.full t.block && n.parts.isEmpty

/-- Is a COLL over at this member (R379). -/
def State.collOver (s : State) (leaf ctx : Nat) (m : Member) (c : Coll) (t : Tree) : Bool :=
  let b := c.cmd.block
  let rank := (cbRank b m.member).getD 0
  c.sendsLeft.isEmpty && c.inPlace.length == cbChunks b rank && nodesDone t m.member c.nodes &&
  !(s.leaf leaf).remotes.any fun r => r.party == .coll ctx

/-- A COLL completes (R379). -/
def State.endColl (s : State) (leaf ctx : Nat) (c : Coll) : State :=
  let s := s.onColl leaf ctx c fun d => { d with done := true }
  let s := s.onMember leaf fun m => { m with trees := m.trees.map fun t => if cbSeq t.block = cbSeq c.cmd.block then { t with dropped := true } else t }
  ((s.endToken c.cmd.who c.cmd.id c.cmd.tp c.cmd.addr false).freeWaits leaf ctx).postOnce (.collStart leaf ctx)

/-- COLL_START (R368, R369, R373, R374, R379): the first COLL of a context that is not over starts, makes its next step, or
completes. -/
def execCollStart (leaf ctx : Nat) (s : State) : Host.Outcome State Fault Refusal :=
  let ev := Ev.collStart leaf ctx
  match (s.leaf leaf).member, (s.collCtx leaf ctx).open_.head? with
  | some m, some c =>
    if !s.enginesRun leaf || s.collParked leaf ctx then .next s
    else if !c.started then .next (s.beginColl leaf ctx m c)
    else match m.treeOf (cbSeq c.cmd.block) with
      | none => .next s
      | some t =>
        match c.sendsLeft with
        | q :: _ => .next (s.sendNext leaf ctx m c t q)
        | [] => if s.collOver leaf ctx m c t then .next ((s.unpost ev).endColl leaf ctx c) else .next s
  | _, _ => .next (s.unpost ev)

/-! Placement (R373, R375). -/

/-- Chunk buffer bytes (R18, R373). -/
def chunkBuffer : Nat := 2 ^ 26

/-- Bytes a router node reserves: two chunks of partials and bitmaps (R373). -/
def nodeRoom (b : CBlock) (lo hi : Nat) : Nat := 2 * (cbChunk b * 4 + 8 * ((hi - lo + 63) / 64))

/-- Has a collective completed at this package's router. -/
def State.treeOver (s : State) (t : Tree) : Bool :=
  t.dropped || nodesDone t (2048 + s.pkg) (s.nodes.filter fun n => n.gang == t.gang && n.seq == cbSeq t.block)

/-- Chunk buffer bytes that collectives have reserved. -/
def State.roomUsed (s : State) : Nat :=
  (s.trees.filter fun t => !s.treeOver t).foldl (fun a t => t.routers.foldl (fun a r => if r.2.2 = s.pkg then a + nodeRoom t.block r.1 r.2.1 else a) a) 0

/-- Has this package's router an enrolled slot for a gang (R366). -/
def State.enrolled (s : State) (g : Nat) : Bool := s.rkslots.any fun k => k.2.enrolled && k.2.gang.toNat == g

/-- The nodes that the root's leaf places at routers, by range (R373): at this package's router those whose parent's ranks all lie on
this package, so that no other router is on their routes; which others are placed, and at which package's router, depends on the
enrolled bits of other packages and is free (log 17). -/
def State.routerNodes (s : State) (leaf g : Nat) (b : CBlock) : List (Nat × Nat × Nat) :=
  let here (lo hi : Nat) : Bool := (List.range (min hi (cbGroup b) - lo)).all fun i => s.placeOf leaf (cbMember b (lo + i)) / 2 == s.pkg
  let levels := cbLevels b
  let all := (List.range levels).flatMap fun l => (List.range (2 ^ (levels - 1 - l))).map fun i => (i * 2 ^ (l + 1), (i + 1) * 2 ^ (l + 1))
  if !cbInnet b || !cbReduces b || !s.enrolled g then [] else
  (all.foldl (fun (a : Nat × List (Nat × Nat × Nat)) x =>
    let p := if isRoot b x.1 x.2 then x else parentOf x.1 x.2
    let room := a.1 + nodeRoom b x.1 x.2
    let mine := decide (x.1 < cbGroup b) && decide (room ≤ chunkBuffer)
    if here p.1 p.2 then (if mine then (room, a.2 ++ [(x.1, x.2, s.pkg)]) else a)
    else match Config.nodePlace g (cbSeq b) x.1 x.2 with
      | none => a
      | some k => if k % 1024 ≠ s.pkg then (a.1, a.2 ++ [(x.1, x.2, k % 1024)]) else if mine then (room, a.2 ++ [(x.1, x.2, s.pkg)]) else a)
    (s.roomUsed, [])).2

/-- PLACEMENT_REQUEST (R373, R375): the root's leaf places the nodes once for a SEQ. -/
def execPlacementRequest (leaf gang member : Nat) (block : BitVec 1024) (s : State) : Host.Outcome State Fault Refusal :=
  let s := s.unpost (.placementRequest leaf gang member block)
  match (s.leaf leaf).member with
  | none => .next s
  | some m =>
    if m.gang ≠ gang then .next s else
    match m.treeOf (cbSeq block) with
    | some t => .next (if sameColl t.block block then s else s.gangFault leaf (plainFault 0x09))
    | none =>
      if (m.collOf (cbSeq block)).any fun c => c.2.done && sameColl c.2.cmd.block block then .next s else
      let rs := s.routerNodes leaf gang block
      let dsts := (List.range (cbGroup block)).map (cbMember block) ++ (rs.map fun r => 2048 + r.2.2).eraseDups
      let t : Tree := { gang := gang, block := block, routers := rs, places := [], sent := 0, recv := 0, dropped := false }
      let used := (rs.map fun r => 2048 + r.2.2).eraseDups
      let s := s.onMember leaf fun m => { m with trees := m.trees ++ [t] }
      let s := if used.isEmpty then s else s.tellMember leaf 0 fun l => .routersUsed l gang used
      .next ((dsts.filter (· != m.member)).foldl (fun s d => s.tellMember leaf d fun l => .placement l gang block rs) s)

/-- The gang's leader learns of routers that combine for it, whose counts it asks for from then on (R66, R70). -/
def State.routersUsed (s : State) (leaf gang : Nat) (l : List Nat) : State :=
  (s.unpost (.routersUsed leaf gang l)).onMember leaf fun m => if m.gang = gang then { m with routers := (m.routers ++ l).eraseDups } else m

/-- PLACEMENT (R373, R375): a member or the router takes the placement of a collective. -/
def execPlacement (leaf gang : Nat) (block : BitVec 1024) (routers : List (Nat × Nat × Nat)) (s : State) : Host.Outcome State Fault Refusal :=
  let ev := Ev.placement leaf gang block routers
  let q := cbSeq block
  let t : Tree := { gang := gang, block := block, routers := routers, places := [], sent := 0, recv := 0, dropped := false }
  if leaf = 2 then
    let places := ((([0, 1].filterMap fun l => (s.leaf l).member.bind fun m => if m.gang = gang then some (s.placesOf l) else none)).head?).getD (s.placesNow 0 gang)
    let s := s.unpost ev
    if s.trees.any fun x => x.gang == gang && cbSeq x.block == q && !s.treeOver x && !sameColl x.block block then .next (s.routerFault gang 0x09)
    else .next { s with trees := (s.trees.filter fun x => !(x.gang == gang && cbSeq x.block == q)) ++ [{ t with places := places }],
                        nodes := s.nodes.filter fun n => !(n.gang == gang && n.seq == q) }
  else match (s.leaf leaf).member with
    | none => .next (s.unpost ev)
    | some m =>
      let s := s.unpost ev
      if m.gang ≠ gang then .next s
      else if ((m.collOf q).any fun c => c.2.started && !c.2.done && !sameColl c.2.cmd.block block) || (m.treeOf q).any fun x => !sameColl x.block block then .next (s.gangFault leaf (plainFault 0x09))
      else .next (s.onMember leaf fun m => { m with trees := (m.trees.filter fun x => cbSeq x.block != q) ++ [t] })

/-! Contributions and results at a member (R71, R374, R375). -/

/-- Acknowledge a contribution or a value. -/
def State.ackTo (s : State) (leaf : Nat) (p : Packet) : State :=
  match txnOf p.body with
  | some n => s.answer leaf p 1 (.ack n)
  | none => s

/-- What came to this member only to be sent back: a router's partial, or a contribution that the router passed on unchanged, as the
contributions it stands for, each with the place of the node that it belongs to (R71, R376). None where the packet is for a node of
this member. -/
def Member.sendsBack (m : Member) (p : Packet) (q : W64) : Option (List (Nat × Nat × Nat × Nat × List (BitVec 32))) :=
  let at_ (t : Tree) (lo hi bits : Nat) : Nat :=
    let x := if bits = presentBits t.block lo hi then parentOf lo hi else (lo, hi)
    t.loc x.1 x.2
  match p.body, m.trees.find? fun t => cbSeq t.block == q with
  | .contribution _ _ _ lo hi bits x, some t => if at_ t lo hi bits = m.member then none else some [(at_ t lo hi bits, lo, hi, bits, x)]
  | .partials _ _ _ ps, some t => some (ps.map fun y => (at_ t y.1 y.2.1 y.2.2.1, y))
  | _, _ => none

/-- The chunk that a packet of a collective is of. -/
def chunkOf : PacketBody → Nat
  | .contribution _ _ k _ _ _ _ | .partials _ _ k _ | .deliver _ _ k _ _ _ => k
  | _ => 0

/-- A contribution or a value reaches this member's part of a collective. -/
def State.memberGets (s : State) (leaf : Nat) (p : Packet) (m : Member) (q : W64) : State :=
  let ev := Ev.contribution leaf p
  if m.dropped.any fun d => d.1 == q then s.unpost ev
  else match m.sendsBack p q with
  | some l =>
    if !s.enginesRun leaf || (s.leaf leaf).phase ≠ .run then s
    else
      let k := chunkOf p.body
      l.foldl (fun s y => s.collSend leaf (((m.collOf q).map Prod.fst).getD 0) y.1 k (4 * y.2.2.2.2.length) fun n =>
        .contribution n q k y.2.1 y.2.2.1 y.2.2.2.1 y.2.2.2.2) ((s.unpost ev).ackTo leaf p)
  | none =>
  match m.collOf q, m.treeOf q with
    | some (ctx, c), some t =>
      if c.done then (s.unpost ev).ackTo leaf p
      else if !c.started || !s.enginesRun leaf || s.collParked leaf ctx then s
      else
        let took (need : Need) (r : Reach) : State := s.collReach leaf ctx c need r fun u _ => ((u.unpost ev).ackTo leaf p).postOnce (.collStart leaf ctx)
        match p.body with
        | .contribution _ _ k lo hi bits x => took needWr (s.rise leaf ctx m.member c t k lo hi bits x)
        | .deliver _ _ k lo hi bytes =>
          if cbOp t.block = 0 then took needWr (s.deliverAll leaf ctx m.member c t k 0 bytes (t.fan m.member (Nat.log2 (hi - lo)) lo))
          else took needWr (s.chunkBytes leaf ctx c k lo bytes)
        | _ => s.unpost ev
    | some (_, c), none => if c.done then (s.unpost ev).ackTo leaf p else s
    | none, _ => s

/-! The package's router (R66, R71, R366, R373, R375). -/

/-- Does a packet of the router await an acknowledgement (R361, R375): what it emits at PREPARED and passes on from then on does not. -/
def State.awaited (s : State) (p : Packet) : Bool :=
  !(s.routerGang p.gang).emitted && match p.body with
    | .contribution _ _ _ _ _ _ _ | .deliver _ _ _ _ _ _ => true
    | _ => false

/-- The router sends a packet of a gang; make gives its body by the number of its transaction. -/
def State.routerSend (s : State) (t : Tree) (dst n : Nat) (make : Nat → PacketBody) : State :=
  let key := gKey (s.gangRec t.gang)
  let body := make s.routerTxn
  let p : Packet := { gang := t.gang, key := key, srcPkg := s.pkg, srcLeaf := 0, srcMember := 2048 + s.pkg, dstMember := dst, seq := 0, flits := 1 + flitsOf n,
                      nonce := 0, under := sealKeyOf t.gang key body, tagOk := true, body := body }
  let place := t.places.getD dst 0
  let (u, ok) := s.depart place none p
  let u := if ok then u.routerSent p else u
  if !s.awaited p then u else
  let r : RouterAsk := { txn := s.routerTxn, place := place, pkt := p, sentAt := s.now.toNat, resent := false }
  State.post { u with routerTxn := s.routerTxn + 1, routerAsks := u.routerAsks ++ [r] } (.remoteResend 2 r.txn)

/-- The lowest rank among some bits. -/
def lowestRank (bits : Nat) : Nat := ((List.range 2048).find? bits.testBit).getD 0

/-- A value goes down from the router (R374). -/
def State.routerDeliver (s : State) (t : Tree) (k : Nat) (bytes : List Byte) (dsts : List (Nat × Nat)) : State :=
  dsts.foldl (fun s x => s.routerSend t (t.loc x.1 x.2) bytes.length fun n => .deliver n (cbSeq t.block) k x.1 x.2 bytes) s

/-- Chunks in progress at a router node (R373). -/
def State.routerBusy (s : State) (t : Tree) (lo k : Nat) : Bool :=
  decide (2 ≤ (s.nodes.filter fun n => n.gang == t.gang && n.seq == cbSeq t.block && n.lo == lo && n.chunk != k && !n.parts.isEmpty).length)

/-- A contribution reaches a router node: it is combined, passed on unchanged after the router has emitted its partials, or
waits for room; none while it waits (R71, R373, R375). -/
def State.routerAdd (s : State) (t : Tree) (k lo hi bits : Nat) (x : List (BitVec 32)) : Option State :=
  let b := t.block
  let me := 2048 + s.pkg
  if (s.routerGang t.gang).emitted then some (s.routerSend t (cbMember b (lowestRank bits)) (4 * x.length) fun n => .contribution n (cbSeq b) k lo hi bits x)
  else
    let at_ := if bits = presentBits b lo hi then parentOf lo hi else (lo, hi)
    let top := t.top me 12 at_
    let same (n : Node) : Bool := n.gang == t.gang && n.seq == cbSeq b && n.chunk == k && n.lo == top.1
    let old : Node := (s.nodes.find? same).getD { gang := t.gang, seq := cbSeq b, chunk := k, lo := top.1, hi := top.2, bitmap := 0, parts := [], made := false }
    if old.bitmap &&& bits ≠ 0 then some s
    else if old.parts.isEmpty && s.routerBusy t top.1 k then none
    else
      let new := old.add b lo hi bits x
      let keep (n : Node) (s : State) : State := { s with nodes := (s.nodes.filter fun m => !same m) ++ [n] }
      if !new.full b then some (keep new s)
      else if isRoot b top.1 top.2 then some (keep new.spent (s.routerDeliver t k (cbBytes b (new.value b)) (rootTo t me k)))
      else
        let p := parentOf top.1 top.2
        some (keep new.spent (s.routerSend t (t.loc p.1 p.2) (4 * x.length) fun n => .contribution n (cbSeq b) k top.1 top.2 (presentBits b top.1 top.2) (new.value b)))

/-- A packet of a collective reaches the router, which counts it in RECV as it takes it (R66, R71, R382). -/
def State.routerGets (s : State) (p : Packet) : State :=
  let ev := Ev.contribution 2 p
  match seqOf p.body with
  | none =>
    let s := (s.unpost ev).routerRecv p
    match p.body with
    | .ack n => { s with routerAsks := s.routerAsks.filter fun r => r.txn != n }
    | _ => s
  | some q =>
    match s.trees.find? fun t => t.gang == p.gang && cbSeq t.block == q with
    | none => s
    | some t =>
      let got (s : State) : State := { s.routerRecv p with trees := s.trees.map fun x => if x.gang = p.gang ∧ cbSeq x.block = q then { x with recv := x.recv + packetCount p } else x }
      let ack (s : State) : State := match txnOf p.body with
        | some n => s.routerSend t p.srcMember 0 fun _ => .ack n
        | none => s
      if t.dropped then got (s.unpost ev)
      else match p.body with
        | .contribution _ _ k lo hi bits x =>
          (match s.routerAdd t k lo hi bits x with
           | some u => ack (got (u.unpost ev))
           | none => s)
        | .deliver _ _ k lo hi bytes => ack (got ((s.unpost ev).routerDeliver t k bytes (t.fan (2048 + s.pkg) (Nat.log2 (hi - lo)) lo)))
        | _ => s.unpost ev

/-- CONTRIBUTION (R71, R372 to R375): a contribution or a value reaches its node or member. -/
def execContribution (leaf : Nat) (p : Packet) (s : State) : Host.Outcome State Fault Refusal :=
  if leaf = 2 then .next (s.routerGets p)
  else match (s.leaf leaf).member, seqOf p.body with
    | some m, some q => if m.gang = p.gang then .next (s.memberGets leaf p m q) else .next (s.unpost (.contribution leaf p))
    | _, _ => .next (s.unpost (.contribution leaf p))

/-- COLL_ACK (R368, R379): a contribution or a value of this member has been acknowledged; at a rank of OP 4 that receives
nothing, its chunk is then in place. -/
def execCollAck (leaf ctx txn : Nat) (s : State) : Host.Outcome State Fault Refusal :=
  let ev := Ev.collAck leaf ctx txn
  match (s.leaf leaf).remotes.find? fun r => r.txn == txn && r.party == .coll ctx, (s.leaf leaf).member with
  | some r, some m =>
    match (s.collCtx leaf ctx).running with
    | none => .next (((s.unpost ev).unpost (.remoteResend leaf txn)).onLeaf leaf fun l => { l with remotes := l.remotes.erase r })
    | some c =>
      let b := c.cmd.block
      let mine := match r.pkt.body with
        | .contribution _ _ _ lo hi _ _ => some lo == cbRank b m.member && hi == lo + 1
        | _ => false
      let done (s : State) : State := (((s.unpost ev).unpost (.remoteResend leaf txn)).onLeaf leaf fun l => { l with remotes := l.remotes.erase r }).postOnce (.collStart leaf ctx)
      if mine && cbOp b == 4 && cbRank b m.member != some (cbRoot b) then
        match s.touchAll (coreOf c.cmd.who) (.coll ctx) (ctrSpan b r.vline) with
        | (u, false) => .next u
        | (u, true) => .next ((done u).chunkIn leaf ctx c r.vline)
      else .next (done s)
  | _, _ => .next (s.unpost ev)

/-! Aborts (R382). -/

/-- ABORT_NOTICE (R382): a member or the router drops a collective, and acknowledges. -/
def execAbortNotice (leaf gang member : Nat) (seq : W64) (s : State) : Host.Outcome State Fault Refusal :=
  let s := s.unpost (.abortNotice leaf gang member seq)
  if leaf = 2 then
    let mine (t : Tree) : Bool := t.gang == gang && cbSeq t.block == seq
    let place := ((s.trees.find? mine).bind fun t => t.places[member]?).getD 0
    let s := { s with trees := s.trees.map (fun t => if mine t then { t with dropped := true } else t),
                      nodes := s.nodes.filter fun n => !(n.gang == gang && n.seq == seq) }
    .next ((s.routerDone fun p => p.gang == gang && seqOf p.body == some seq).tell place fun l => .abortAck l gang (2048 + s.pkg) seq)
  else match (s.leaf leaf).member with
    | none => .next s
    | some m =>
      if m.gang ≠ gang then .next s else
      let c := m.collOf seq
      let counts : W64 × Nat × Nat := (seq, (c.map fun x => x.2.sent).getD 0, (c.map fun x => x.2.recv).getD 0)
      let u := s.onMember leaf fun m => { m with unreleased := m.unreleased ++ [seq], dropped := m.dropped ++ [counts], trees := m.trees.map fun t => if cbSeq t.block = seq then { t with dropped := true } else t }
      let u := match c with
        | some (ctx, d) => if d.done then u else u.dropColl leaf ctx d
        | none => u
      .next (u.tellMember leaf member fun l => .abortAck l gang m.member seq)

/-- The acknowledgement of an abort notice reaches the aborting member. -/
def State.abortAcked (s : State) (leaf gang member : Nat) (seq : W64) : State :=
  let s := s.unpost (.abortAck leaf gang member seq)
  match (s.leaf leaf).member with
  | none => s
  | some m =>
    match m.collOf seq with
    | some (ctx, c) => if m.gang = gang then s.onColl leaf ctx c fun d => { d with abortAcks := d.abortAcks ++ [member] } else s
    | none => s

/-- A member or the router is asked for its counts of a collective's packets; member names who asks. -/
def State.collCounted (s : State) (leaf gang member : Nat) (seq : W64) : State :=
  let s := s.unpost (.collCountReq leaf gang member seq)
  if leaf = 2 then
    match s.trees.find? fun t => t.gang == gang && cbSeq t.block == seq with
    | some t => s.tell (t.places.getD member 0) fun l => .collCount l gang (2048 + s.pkg) seq t.sent t.recv
    | none => s
  else match (s.leaf leaf).member with
    | none => s
    | some m =>
      if m.gang ≠ gang then s else
      let d := (m.dropped.find? fun d => d.1 == seq).getD (seq, 0, 0)
      s.tellMember leaf member fun l => .collCount l gang m.member seq d.2.1 d.2.2

/-- A release notice goes to everyone, and the tokens of CABORT complete (R382). -/
def State.endAbort (s : State) (leaf ctx : Nat) (m : Member) (c : Coll) : State :=
  let seq := cbSeq c.cmd.block
  let s := (m.partners c.cmd.block).foldl (fun s d => s.tellMember leaf d fun l => .releaseNotice l m.gang seq) s
  let s := s.onColl leaf ctx c fun d => { d with abortAt := none, abortTp := [] }
  c.abortTp.foldl (fun s x => s.endToken x.2.1 x.1 x.2.2 c.cmd.addr false) s

/-- Counts of a collective's packets reach the aborting member: it ends the abort at a round whose sums are equal (R382). -/
def State.countGot (s : State) (leaf gang member : Nat) (seq : W64) (sent recv : Nat) : State :=
  let s := s.unpost (.collCount leaf gang member seq sent recv)
  match (s.leaf leaf).member with
  | none => s
  | some m =>
    match m.collOf seq with
    | none => s
    | some (ctx, c) =>
      if m.gang ≠ gang || c.abortTp.isEmpty then s else
      let counts := (c.counts.filter fun x => x.1 != member) ++ [(member, sent, recv)]
      let s := s.onColl leaf ctx c fun d => { d with counts := counts }
      let sum (f : Nat × Nat × Nat → Nat) : Nat := (counts.map f).sum
      if counts.length = (m.partners c.cmd.block).length ∧ sum (fun x => x.2.1) = sum (fun x => x.2.2) then s.endAbort leaf ctx m c else s

/-- The time of an abort's next round: 2 microseconds after the last (R382); a COLL's step holds it. -/
def Coll.nextRound (c : Coll) : Nat := c.cmd.step + us 2

/-- Has VOTEDL passed since the abort notice was sent. -/
def State.abortLate (s : State) (leaf : Nat) (c : Coll) : Bool := c.abortAt.any fun t => decide (t.toNat + us (s.leaf leaf).active.votedl ≤ s.now.toNat)

/-- CABORT_COUNT_ROUND (R382): the aborting member asks for the counts, or the gang faults with FABLOST. -/
def execCabortCountRound (leaf ctx : Nat) (s : State) : Host.Outcome State Fault Refusal :=
  let ev := Ev.cabortCountRound leaf ctx
  match (s.leaf leaf).member, (s.collCtx leaf ctx).colls.find? fun c => !c.abortTp.isEmpty with
  | some m, some c =>
    let dsts := m.partners c.cmd.block
    if s.abortLate leaf c then .next ((s.unpost ev).gangFault leaf (plainFault 0x07))
    else if !(dsts.all c.abortAcks.contains) || decide (s.now.toNat < c.nextRound) || !s.enginesRun leaf then .next s
    else
      let s := s.onColl leaf ctx c fun d => { d with counts := [], cmd := { d.cmd with step := s.now.toNat } }
      .next (dsts.foldl (fun s d => s.tellMember leaf d fun l => .collCountReq l m.gang m.member (cbSeq c.cmd.block)) s)
  | _, _ => .next (s.unpost ev)

/-- RELEASE_NOTICE (R382): a later COLL may use the SEQ. -/
def execReleaseNotice (leaf gang : Nat) (seq : W64) (s : State) : Host.Outcome State Fault Refusal :=
  let s := s.unpost (.releaseNotice leaf gang seq)
  if leaf = 2 then .next { s with trees := s.trees.filter fun t => !(t.gang == gang && cbSeq t.block == seq) }
  else .next (s.onMember leaf fun m =>
    if m.gang = gang then
      { m with unreleased := m.unreleased.filter (· != seq), dropped := m.dropped.filter (fun d => d.1 != seq),
               trees := m.trees.filter fun t => !(cbSeq t.block == seq && t.dropped) }
    else m)

/-! Partials at a switch (R71, R376). -/

/-- The completed subtrees of a node's ranks, largest first, each with its range and value (R71, R376). The fuel is the level. -/
def completed (b : CBlock) (parts : List (Nat × Nat × List (BitVec 32))) : Nat → Nat → List (Nat × Nat × List (BitVec 32))
  | n, lo =>
    match cbValue b parts n lo with
    | some x => [(lo, lo + 2 ^ n, x)]
    | none =>
      match n with
      | 0 => []
      | k + 1 => completed b parts k lo ++ completed b parts k (lo + 2 ^ k)

/-- What a node holds of an incomplete chunk: in deterministic mode each completed subtree's value with its own range, in arrival mode
its one value with the node's bitmap (R71, R376). -/
def Node.partials (b : CBlock) (n : Node) : List (Nat × Nat × Nat × List (BitVec 32)) :=
  if cbArrival b then n.parts.map fun p => (p.1, p.2.1, n.bitmap, p.2.2)
  else (completed b n.parts (Nat.log2 (n.hi - n.lo)) n.lo).map fun p => (p.1, p.2.1, presentBits b p.1 p.2.1, p.2.2)

/-- At PREPARED the router emits the partial that it holds of each incomplete chunk of a gang as one packet, to the member of the
chunk's lowest-rank contributor, and combines nothing more (R71, R376). -/
def State.emitPartials (s : State) (g : Nat) : State :=
  let held := s.nodes.filter fun n => n.gang == g && !n.parts.isEmpty
  let s := held.foldl (fun s n =>
    match s.trees.find? fun t => t.gang == g && cbSeq t.block == n.seq with
    | none => s
    | some t =>
      let ps := n.partials t.block
      s.routerSend t (cbMember t.block (lowestRank n.bitmap)) (ps.map fun p => 4 * p.2.2.2.length).sum fun i => .partials i n.seq n.chunk ps) s
  let r := s.routerGang g
  ({ s with nodes := s.nodes.filter (fun n => !(n.gang == g && !n.parts.isEmpty)), routerGangs := s.routerGangs.set g { r with emitted := true } }).routerDone
    fun p => p.gang == g

/-- The router combines again for a gang whose members have been told to hand their leaves on (R71). -/
def State.combineAgain (s : State) (g : Nat) : State :=
  { s with routerGangs := s.routerGangs.map fun (p : Nat × RouterGang) => if p.1 = g then (p.1, { p.2 with emitted := false }) else p }

end Sys2Proof.Machine
end

