-- ==== Sys2Proof/Machine/Tasks.lean ====
section
/-! DEFINITION. The start of a launch at a member, the dispatcher, tasks, and the completion of a member and of a gang (R26 to
R32, R47 to R49, R79, R81, R85, R127, R398, R399, R434 to R437). -/

namespace Sys2Proof.Machine

/-! The start of a launch at a member (R26, R32, R48, R85, R127). -/

/-- The stream area filled with 0xFFFE (R85). -/
def emptyStream : Nat := pack 16 (fun _ => 0xFFFE) 8192

/-- The code stream of a launch in its area: the image's, then 0xFFFE (R85). -/
def LaunchData.stream (x : LaunchData) : Nat :=
  let n := if hXip x.header then 0 else hCodeLen x.header
  mergeNat emptyStream (x.code.readNat 0 n) (2 ^ (8 * n) - 1)

/-- A bank with a code stream, a dictionary of the image, or both. -/
def LaunchData.loadBank (x : LaunchData) (istore : Mem) (bank : Nat) (code : Bool) : Mem :=
  let base := 65536 * bank
  let m := if code then istore.writeNat base 0x4000 x.stream else istore
  match x.dicts.find? (cfgDict x.cfg3 bank) with
  | some d => m.writeNat (base + 0x4000) 49152 (d.readNat 0 49152)
  | none => m

/-- The instruction store at a launch: the header's bank is filled and the other is zero (R85); a dependent launch loads what
its selection names and keeps the rest (R48). -/
def LaunchData.istoreOf (x : LaunchData) (old : Mem) : Mem :=
  let b := cfgStart x.cfg3
  if x.pred.isNone then x.loadBank [] b true else x.loadBank (x.loadBank old b (cfgReload x.cfg3)) (1 - b) false

/-- A strand at a launch (R26, R127). -/
def LaunchData.strandOf (x : LaunchData) : Strand := { Strand.reset with cbs := x.cbt, bank := cfgStart x.cfg3 == 1 }

/-- The region records of a dependent launch's unit 4 on one core: the entries whose bytes change (R48). -/
def State.mapChanges (s : State) (x : LaunchData) (core : Nat) : List (Nat × Nat × W64 × W64) :=
  let old := (s.core core).mapPlane
  let new := diffed x.diff 4 old
  (List.range 64).filterMap fun n =>
    if old / 2 ^ (128 * n) % 2 ^ 128 = new / 2 ^ (128 * n) % 2 ^ 128 then none
    else some (core, n, BitVec.ofNat 64 (new / 2 ^ (128 * n)), BitVec.ofNat 64 (new / 2 ^ (128 * n + 64)))

/-- A core's Trowel table and knot registers after a difference (R47, R48). -/
def Core.configured (c : Core) (x : LaunchData) : Core :=
  let kn := diffed x.diff 2 c.knotPlane
  { c with trowelS := (if (ucrcOf x.diff 1).isSome then Mem.writeNat [] 0 256 (diffed x.diff 1 (c.trowelS.readNat 0 256)) else c.trowelS),
           knots := (if (ucrcOf x.diff 2).isSome then (List.range 64).map fun n => (n, BitVec.ofNat 128 (kn / 2 ^ (128 * n))) else c.knots) }

/-- The pages of the supervisor section's copy: from base + 4,096 on (R32, R407). -/
def State.supPagesOf (s : State) (leaf : Nat) (m : Member) : List Phys :=
  (List.range 4).map fun i =>
    match s.cpPlace leaf m.vf needRd (m.launchBase + 4096 * (i + 1)) with
    | .inl p => p
    | .inr _ => .hbm leaf 0

/-- A member as a launch starts on it. -/
def Member.launch (m : Member) (x : LaunchData) (pid : Nat) (pages : List Phys) : Member :=
  { m with image := x.image, header := x.header, args := x.args, bhl := x.bhl, live := x.live, cfg3 := x.cfg3, supPages := pages,
           running := some pid, launched := true, nextWork := 0, workLeft := true, aborts := [], unread := [], complete := false, mdones := [] }

/-- The copies into the launch area, past the lines of it that L1s hold (R32). -/
def State.launchCopies (s : State) (leaf : Nat) (m : Member) (x : LaunchData) : CpGot :=
  let s := s.cleanRange leaf [(m.launchBase, 32768)] true
  let n := x.argBytes.length
  let sup := if hSuper x.header then hSupLen x.header else 0
  let put (s : State) (a n v : Nat) : CpGot := if n = 0 then .done s 0 else s.cpWrite leaf m.vf 0 m.key a n v
  (put s m.launchBase n (leNat x.argBytes 0 n)).andThen fun s _ => put s (m.launchBase + 4096) sup (x.sup.readNat 0 sup)

/-- A launch starts at the member on a leaf, its copies made. -/
def State.launched (s : State) (leaf pid : Nat) (m : Member) (x : LaunchData) : State :=
  let pages := s.supPagesOf leaf m
  let s := (leafCores leaf).foldl (fun s k => s.onCore k fun c => { (c.configured x) with istore := x.istoreOf c.istore }) s
  let s := (leafStrands leaf).foldl (fun s w => s.setStrand w x.strandOf) s
  ((s.onMember leaf fun m => m.launch x pid pages).post (.taskDispatch leaf)).post (.memberComplete leaf)

/-- A LAUNCH starts at one member (R32, R48, R85): it waits until the member runs and its last launch is over, across
a switch too. -/
def State.startLaunch (s : State) (leaf gang pid : Nat) (x : LaunchData) : State :=
  let ev := Ev.startLaunch leaf gang pid x
  match (s.leaf leaf).member with
  | none => if (s.faultedGangs.find? gang).isSome then s.unpost ev else s
  | some m =>
    if (s.faultedGangs.find? gang).isSome then s.unpost ev
    else if m.gang ≠ gang || !s.enginesRun leaf || m.running.isSome then s
    else
      let recs := if x.pred.isSome && (ucrcOf x.diff 4).isSome then (leafCores leaf).flatMap (s.mapChanges x) else []
      match s.resizeAll recs with
      | .remote u => u
      | .retry _ | .busy _ _ => s
      | .nonres a _ | .invalid a | .lost a => (s.unpost ev).wbFault leaf a
      | .done u _ =>
        match u.launchCopies leaf m x with
        | .done u _ => (u.unpost ev).launched leaf pid m x
        | .busy _ => s
        | .fail _ => (s.unpost ev).failPkt (pid % 2) pid 0x02 true

/-! The dispatcher (R27, R28, R79). -/

/-- The fields of a header, field 0 first: lowest bit, BIND and COUNT. -/
def Member.fields (m : Member) : List (Nat × Nat × Nat) := (List.range m.nfields).map fun n => (m.fieldLo n, m.fieldBind n, m.fieldCount n)

/-- Work identifiers of one member. -/
def Member.workCount (m : Member) : Nat := m.fields.foldl (fun a f => if f.2.1 = 1 then a else a * f.2.2) 1

/-- The k-th work identifier of a member in ascending order, and the values of its fields by BIND (R27, R79). -/
def workAt (member : Nat) : List (Nat × Nat × Nat) → Nat → Nat × List (Nat × Nat)
  | [], _ => (0, [])
  | (lo, bind, count) :: t, k =>
    if bind = 1 then
      let r := workAt member t k
      (r.1 + member * 2 ^ lo, r.2)
    else
      let r := workAt member t (k / count)
      (r.1 + k % count * 2 ^ lo, (bind, k % count) :: r.2)

/-- Tasks of a strand: those queued and the running one (R79). -/
def Strand.load (t : Strand) : Nat := t.tasks.length + (if t.running.isSome then 1 else 0)

/-- The first of some units with the fewest tasks. -/
def State.least (s : State) (strandsOf : Nat → List Nat) : List Nat → Option Nat
  | [] => none
  | u :: t =>
    let load (u : Nat) : Nat := ((strandsOf u).map fun w => (s.strand w).load).sum
    match s.least strandsOf t with
    | none => some u
    | some v => if load u ≤ load v then some u else some v

/-- The strand that a work identifier's task goes to: its fields' values, and the least loaded unit at a free level (R28,
R79). -/
def State.taskStrand (s : State) (leaf : Nat) (vals : List (Nat × Nat)) : Nat :=
  let field (b : Nat) : Option Nat := (vals.find? fun v => v.1 == b).map Prod.snd
  let ofCore (c : Nat) : List Nat := (List.range 4).map (256 * leaf + 4 * c + ·)
  let cores (k : Nat) : List Nat := (List.range 8).map (8 * k + ·)
  let core := match field 2, field 3 with
    | some k, some c => 8 * k + c
    | none, some c => c
    | k, none =>
      let k := k.getD ((s.least (fun k => (cores k).flatMap ofCore) (List.range 8)).getD 0)
      (s.least ofCore (cores k)).getD 0
  match field 4 with
  | some n => 256 * leaf + 4 * core + n
  | none => (s.least (fun w => [w]) (ofCore core)).getD 0

/-- Places of a task queue (R79). -/
def taskPlaces : Nat := 8

/-- Does a ready requeued task of a strand wait for a place (R79, R399). -/
def Member.readyFor (m : Member) (who : Nat) : Bool := m.pool.any fun e => e.who == who && !e.waiting

/-- TASK_DISPATCH (R79): the next work identifier's task goes to its strand's queue, or waits for a place. -/
def execTaskDispatch (leaf : Nat) (s : State) : Host.Outcome State Fault Refusal :=
  let ev := Ev.taskDispatch leaf
  match (s.leaf leaf).member with
  | none => .next (s.unpost ev)
  | some m =>
    if !m.workLeft then .next (s.unpost ev)
    else if m.workCount ≤ m.nextWork then .next ((s.unpost ev).onMember leaf fun m => { m with workLeft := false })
    else if (s.leaf leaf).phase ≠ .run || (s.leaf leaf).freezeLeft ≠ 0 then .next s
    else
      let (work, vals) := workAt m.member m.fields m.nextWork
      let who := s.taskStrand leaf vals
      if taskPlaces ≤ (s.strand who).tasks.length || m.readyFor who then .next s
      else
        let s := s.onStrand who fun t => { t with tasks := t.tasks ++ [{ work := BitVec.ofNat 64 work }] }
        .next ((s.onMember leaf fun m => { m with nextWork := m.nextWork + 1 }).postOnce (.taskStart who))

/-! Tasks (R81, R398, R399, R434). -/

/-- ENTRY of the launch being run (R25, R48). -/
def Member.entry (m : Member) : Nat := cfgEntry m.cfg3

/-- A strand takes the first task of its queue (R81): it issues from ENTRY, decoded by R82. -/
def Strand.begin_ (t : Strand) (entry : Nat) : Strand :=
  match t.tasks with
  | [] => t
  | a :: l => { t with running := some a, tasks := l, workid := a.work, pc := entry, inRun := false, pend := none, ibuf := [], next := none,
                       issued := [], failed := [] }

/-- A ready requeued task of a strand goes to the head of its queue where it has a free place (R399); strands stalled on a
full pool try again. -/
def State.requeue (s : State) (who : Nat) : State :=
  let leaf := leafOf who
  match ((s.leaf leaf).member.map Member.pool).bind fun l => l.find? fun e => e.who == who && !e.waiting with
  | none => s
  | some e =>
    if taskPlaces ≤ (s.strand who).tasks.length then s else
    let s := (s.onMember leaf fun m => { m with pool := m.pool.filter fun d => d.id != e.id }).onStrand who fun t => { t with tasks := e.task :: t.tasks }
    (leafStrands leaf).foldl (fun s w => if (s.strand w).abortWait.isSome then s.postOnce (.taskStart w) else s) s

/-- An abort that found the requeue pool full is made once an entry is free (R398). -/
def State.retryAbort (s : State) (who : Nat) : State :=
  match (s.strand who).abortWait with
  | some w => (s.onStrand who fun t => { t with abortWait := none }).abortTask who w
  | none => s

/-- TASK_START (R81, R399): the strand takes its next task, a ready requeued one first. -/
def execTaskStart (who : Nat) (s : State) : Host.Outcome State Fault Refusal :=
  let ev := Ev.taskStart who
  match s.memberOf who with
  | none => .next (s.unpost ev)
  | some m =>
    if !s.strandActs who then .next s else
    let s := ((s.unpost ev).retryAbort who).requeue who
    let t := s.strand who
    if t.running.isSome || t.tasks.isEmpty then .next s
    else .next (((s.onStrand who fun t => t.begin_ m.entry).postOnce (.bundleFetch who)).requeue who)

/-- A task has retired (R434): its identifier is in no queue, and its strand goes on. -/
def State.retire (s : State) (who : Nat) : State :=
  let leaf := leafOf who
  let work := (s.strand who).workid.toNat
  let s := s.onStrand who fun t => { t with running := none, retiring := false, ibuf := [], issued := [], failed := [] }
  (s.onMember leaf fun m => { m with aborts := m.aborts.erase work }).postOnce (.taskStart who)

/-- TASK_RETIRE (R434): the loads of the task have returned; a report held by then is raised at the TEND bundle in place of
retirement (R260). -/
def execTaskRetire (who : Nat) (s : State) : Host.Outcome State Fault Refusal :=
  let ev := Ev.taskRetire who
  let t := s.strand who
  if !t.retiring then .next (s.unpost ev)
  else if !s.strandActs who || !t.loads.isEmpty || !t.waits.isEmpty then .next s
  else match t.reports with
    | [] => .next ((s.unpost ev).retire who)
    | r :: l =>
      let syl := rawSyllable (s.located who).raw .b
      .next (((s.unpost ev).onStrand who fun t => { t with retiring := false, reports := l }).takeTrap who r.cause .b false (some r.addr) syl)

/-! Completion of a member and of its gang (R435 to R437). -/

/-- Have every task and command of a member ended (R435). -/
def State.memberIdle (s : State) (leaf : Nat) (m : Member) : Bool :=
  !m.workLeft && m.pool.isEmpty && (leafStrands leaf).all (fun w => (s.strand w).running.isNone && (s.strand w).tasks.isEmpty && (s.strand w).abortWait.isNone) &&
  (leafQueues leaf).all (fun q => (s.cmds q).isEmpty) && m.colls.all fun p => p.2.open_.isEmpty && p.2.waits.isEmpty && p.2.colls.all fun c => c.abortTp.isEmpty

/-- Write back every region of some cores and leave each clean (R224). -/
def State.writeBackAll (s : State) : List (Nat × Nat) → Reach
  | [] => .done s 0
  | (core, n) :: t =>
    match s.regionBack core n with
    | .done u _ => (u.cleanRegion core n).writeBackAll t
    | g => g

/-- The regions of a leaf that a launch has dirtied, and whose bytes its member holds or its save area keeps (R224). -/
def State.dirtyRegions (s : State) (leaf : Nat) (m : Member) : List (Nat × Nat) :=
  (leafCores leaf).flatMap fun c => ((s.core c).regions.filter fun r => r.2.dirty != 0 && (r.2.state == .saved || r.2.owner.any fun o => o.same m.owner)).map fun r => (c, r.1)

/-- A failed completion that nothing has read when the member completes (R437). -/
def unreadFault (u : Nat × Nat × Nat) : FaultInfo :=
  { cause := 0x01, tcause := 0x0F, who := some u.1, core := some (coreOf u.1), pc := u.2.2, addr := 0, work := 0 }

/-- MEMBER_COMPLETE (R224, R225, R435, R437): once every task and command has ended and the regions have been written back, the
member sends MDONE. -/
def execMemberComplete (leaf : Nat) (s : State) : Host.Outcome State Fault Refusal :=
  let ev := Ev.memberComplete leaf
  match (s.leaf leaf).member with
  | none => .next (s.unpost ev)
  | some m =>
    if m.running.isNone || m.complete then .next (s.unpost ev)
    else if !s.enginesRun leaf || !s.memberIdle leaf m then .next s
    else match s.writeBackAll (s.dirtyRegions leaf m) with
      | .remote u => .next u
      | .retry _ | .busy _ _ => .next s
      | .nonres a _ | .invalid a | .lost a => .next ((s.unpost ev).wbFault leaf a)
      | .done u _ =>
        if u.regionsOut leaf then .next u
        else match m.unread with
          | f :: _ => .next ((u.unpost ev).gangFault leaf (unreadFault f))
          | [] => .next (((u.unpost ev).onMember leaf fun m => { m with complete := true }).tell (u.placeOf leaf 0) fun l => .mdone l m.gang m.member)

/-- MDONE (R436): the leader counts the members that have completed; with the last, the gang has completed, and its command
processor and members are told. -/
def execMdone (leaf gang member : Nat) (s : State) : Host.Outcome State Fault Refusal :=
  let ev := Ev.mdone leaf gang member
  match s.leafHolding gang 0 with
  | none => if (s.contexts.find? (contextKey gang 0)).isSome then .next s else .next (s.unpost ev)
  | some k =>
    if k ≠ leaf then .next ((s.unpost ev).post (.mdone k gang member)) else
    let s := (s.unpost ev).onMember leaf fun m => { m with mdones := m.mdones ++ [member] }
    match (s.leaf leaf).member with
    | none => .next s
    | some m =>
      match m.running with
      | none => .next s
      | some pid =>
        if (List.range m.size).all m.mdones.contains then
          .next ((pidPlace pid :: s.placesOf leaf).eraseDups.foldl (fun s place => s.tell place fun l => .launchOver l gang) s)
        else .next s

/-- A gang's launch is over (R436): its packet completes, and its members here may take another. -/
def State.launchOver (s : State) (leaf gang : Nat) : State :=
  let idle (m : Member) : Member := if m.gang = gang then { m with running := none, mdones := [] } else m
  let s := (s.unpost (.launchOver leaf gang)).onMember leaf idle
  let s := { s with contexts := s.contexts.map fun (p : Nat × Saved) => if p.2.leaf = 2 * s.pkg + leaf then (p.1, { p.2 with member := idle p.2.member }) else p }
  match (s.leaf leaf).pkts.find? fun p => p.gang == gang && p.type == 1 && p.stage == .started with
  | some p => s.finishPkt leaf p.pid
  | none => s

end Sys2Proof.Machine
end

