-- ==== Sys2Proof/Machine/Switch.lean ====
section
/-! DEFINITION. The vote that takes a gang off its leaves, capture and replay, the start exchange that brings it back, and the
hand-over of a leaf (R53, R58 to R60, R66 to R78, R417 to R423). -/

namespace Sys2Proof.Machine

/-! Where messages of a gang go. -/

/-- A Plumb lane message to a package's router. -/
def State.tellRouter (s : State) (router : Nat) (m : Nat → Ev) : State :=
  if router = 2048 + s.pkg then s.post (m 2) else s.emit (.plumb (2 * (router - 2048)) (m 2))

/-- The places of a gang's members: where its leader's record names them, or where they stand. -/
def State.membersAt (s : State) (leaf gang : Nat) : List Nat :=
  match (s.leaf leaf).leaders.find? fun r => r.gang == gang with
  | some r => r.places
  | none =>
    match (s.leaf leaf).member with
    | some m => if m.gang = gang then s.placesOf leaf else s.placesNow leaf gang
    | none => s.placesNow leaf gang

/-- The record of a gang's leader on a leaf. -/
def Leaf.leader (l : Leaf) (gang : Nat) : Option Leader := l.leaders.find? fun r => r.gang == gang

/-- Put a leader's record, in place of the gang's earlier one. -/
def Leaf.setLeader (l : Leaf) (r : Leader) : Leaf := { l with leaders := (l.leaders.filter fun x => x.gang != r.gang) ++ [r] }

/-- Forget a gang's leader record. -/
def Leaf.dropLeader (l : Leaf) (gang : Nat) : Leaf := { l with leaders := l.leaders.filter fun x => x.gang != gang }

/-! Names that depend on the leaf (R63): a context is portable. -/

/-- A strand's number on a leaf. -/
def whoOn (leaf who : Nat) : Nat := 256 * leaf + who % 256

/-- A core's number on a leaf. -/
def coreOn (leaf core : Nat) : Nat := 64 * leaf + core % 64

/-- A queue's number on a leaf. -/
def queueOn (leaf q : Nat) : Nat := queueOfContext leaf (contextQueue q)

/-- A party's name on a leaf. -/
def Party.on (leaf : Nat) : Party → Party
  | .bundle w => .bundle (whoOn leaf w)
  | .store w i => .store (whoOn leaf w) i
  | .fetch w => .fetch (whoOn leaf w)
  | .region c n => .region (coreOn leaf c) n
  | .cmd q i => .cmd (queueOn leaf q) i
  | .push c i => .push (coreOn leaf c) i
  | .load w i => .load (whoOn leaf w) i
  | .requeue i => .requeue i
  | .coll c => .coll c
  | .packet p => .packet p

/-- A command on a leaf; its rows have landed by then. -/
def Cmd.on (leaf : Nat) (c : Cmd) : Cmd := { c with who := whoOn leaf c.who, landAt := 0 }

/-- A collective on a leaf. -/
def Coll.on (leaf : Nat) (c : Coll) : Coll :=
  { c with cmd := c.cmd.on leaf, abortTp := c.abortTp.map fun x => (x.1, whoOn leaf x.2.1, x.2.2) }

/-- A collective context on a leaf. -/
def CollCtx.on (leaf : Nat) (x : CollCtx) : CollCtx :=
  { colls := x.colls.map (Coll.on leaf), waits := x.waits.map fun w => { w with who := whoOn leaf w.who } }

/-- A member on a leaf. -/
def Member.on (leaf : Nat) (m : Member) : Member :=
  { m with pool := m.pool.map (fun e => { e with who := whoOn leaf e.who }), unread := m.unread.map (fun u => (whoOn leaf u.1, u.2)),
           colls := m.colls.map fun (p : Nat × CollCtx) => (p.1, p.2.on leaf) }

/-- A record of a replay buffer on a leaf. -/
def Replay.on (leaf : Nat) (r : Replay) : Replay := { r with who := whoOn leaf r.who, push := r.push.map fun p => { p with who := whoOn leaf p.who } }

/-- A core on a leaf, but for what belongs to the place: local store, its tags and the engine map. -/
def Core.on (leaf : Nat) (c : Core) : Core :=
  { c with replay := c.replay.map (Replay.on leaf), pushes := c.pushes.map fun p => { p with who := whoOn leaf p.who } }

/-! The start exchange (R75 to R77). -/

/-- A gang's exchange begins at a member (R75): its record returns to the leaf; the leader waits for every READY. The header
of a dustsheet is zero at a gang's first launch (R76). -/
def State.beginExchange (s : State) (leaf g i : Nat) (ref : W64) : State :=
  let c := s.savedOf leaf g i
  let m : Member := { (c.member.on leaf) with placement := s.placesNow leaf g, dust := c.member.held ++ c.member.dust, held := [] }
  let s := if m.launched then s else s.hbmPut leaf m.dustBase 64 0 m.key
  let s := s.onLeaf leaf fun l =>
    { l with member := some m, phase := .resuming, refTime := ref, tlb := [], walks := [], got := [],
             remotes := c.remotes.map (fun r => { r with party := r.party.on leaf }), answers := c.answers }
  let s := s.onVf m.vf fun v => v.meter 12 ((s.leaf leaf).active.slotLen / 1024)
  let s := if i ≠ 0 then s else s.onLeaf leaf fun l => l.setLeader
    { gang := g, phase := .starting, size := m.size, places := m.placement, routers := [], start := ref, round := 0, readys := [], replies := [], dones := [] }
  s.post (.restoreComplete leaf)

/-- Is a LAUNCH of a gang consumed and not over (R75). -/
def State.launchWaits (s : State) (g : Nat) : Bool := s.allPkts.any fun p => p.gang == g && p.type == 1 && !p.over

/-- A leaf is free in a slot (R58, R60, R75): the gang of its cell begins its exchange where it has a launch running or
consumed; every member is told, since one that
has not started its launch yet does not know of it. -/
def State.handOver (s : State) (leaf : Nat) : State :=
  let l := s.leaf leaf
  let g := cellGang l.cell
  let i := cellMember l.cell
  if l.member.isSome || g == 0 || (s.faultedGangs.find? g).isSome then s
  else
    let s := if s.launchWaits g then (s.placesNow leaf g).foldl (fun s place => s.tell place fun k => .exchange k g l.slotStart) s else s
    if (s.savedOf leaf g i).member.running.isSome then s.beginExchange leaf g i l.slotStart else s

/-- The message that a LAUNCH begins a gang's exchange (R75): not where one is running since before the slot. -/
def State.exchange (s : State) (leaf gang : Nat) (ref : W64) : State :=
  let ev := Ev.exchange leaf gang ref
  let l := s.leaf leaf
  if cellGang l.cell ≠ gang || (s.faultedGangs.find? gang).isSome then s.unpost ev
  else match l.member with
    | some m => if m.gang = gang then s.unpost ev else s
    | none =>
      let s := s.unpost ev
      if (s.savedOf leaf gang (cellMember l.cell)).member.running.isSome then s else s.beginExchange leaf gang (cellMember l.cell) ref

/-- A region of an earlier leaf still tagged to a member is written to its slot, and left there with no owner (R77). -/
def State.spillFrom (s : State) (core n : Nat) (m : Member) : State :=
  match (s.region core n).owner with
  | some o => if o.same m.owner && !o.dead then (s.spill core n o).setRegion core n { s.region core n with owner := none, dirty := 0 } else s
  | none => s

/-- The regions of an earlier leaf of this package, spilled. -/
def State.spillLeaf (s : State) (leaf : Nat) (m : Member) : State :=
  (leafCores leaf).foldl (fun s c => ((s.core c).regions.map Prod.fst).foldl (fun s n => s.spillFrom c n m) s) s

/-- A region entry on resumption (R77): revalidated where its bytes are still the member's on the same leaf, else filled from
the save area; the owner's name is the place's. -/
def Region.resumed (saved place : Region) (m : Member) (same : Bool) : Region :=
  let mine := same && place.owner.any fun o => o.same m.owner && !o.dead
  { saved with owner := place.owner, filling := none, fillParked := false, since := 0,
               state := if saved.state = .held ∧ mine = false then .saved else saved.state }

/-- A core's regions on resumption. -/
def Core.regionsResumed (saved place : Core) (m : Member) (same : Bool) : FMap Region :=
  (List.range 64).filterMap fun n =>
    let r := (saved.regions.get n .reset).resumed (place.regions.get n .reset) m same
    if r = Region.reset then none else some (n, r)

/-- A core on resumption: what belongs to the place stays. -/
def Core.resumed (saved place : Core) (leaf : Nat) (m : Member) (same : Bool) : Core :=
  { (saved.on leaf) with local_ := place.local_, engmap := place.engmap, regions := saved.regionsResumed place m same }

/-- A member's context returns to its leaf (R63, R75, R77, R420), and a launch that waits for it with it. -/
def State.restore (s : State) (leaf : Nat) (m : Member) : State :=
  let k := contextKey m.gang m.member
  let c := s.savedOf leaf m.gang m.member
  let same := c.leaf == 2 * s.pkg + leaf
  let s := if !same && c.leaf / 2 == s.pkg then s.spillLeaf (c.leaf % 2) m else s
  let c := s.savedOf leaf m.gang m.member
  let s := c.strands.foldl (fun s (p : Nat × Strand) => s.setStrand (256 * leaf + p.1) p.2) s
  let s := (List.range 64).foldl (fun s n => s.onCore (64 * leaf + n) fun place => (FMap.get c.cores n .reset).resumed place leaf m same) s
  let s := c.queues.foldl (fun s (p : Nat × List Cmd) => s.setCmds (queueOfContext leaf p.1) (p.2.map (Cmd.on leaf))) s
  let s := s.onLeaf leaf fun l => { l with cmdSeq := max l.cmdSeq c.cmdSeq }
  { (s.onVf m.vf fun v => v.meter 6 imageSize) with
      contexts := s.contexts.erase k
      agenda := s.agenda.map fun e => match e with
        | .startLaunch l g pid x => if g = m.gang ∧ c.leaf = 2 * s.pkg + l then .startLaunch leaf g pid x else e
        | _ => e }

/-- A message asks for the context of a member that is to resume on another package (R63, R77): once it is saved here, the
regions still tagged to the member are spilled, and it goes to the place that asks (log 45). -/
def State.contextCall (s : State) (gang member place : Nat) : State :=
  let ev := Ev.contextCall gang member place
  let k := contextKey gang member
  match s.contexts.find? k with
  | none => if [0, 1].any fun l => (s.leaf l).member.any fun m => m.gang == gang && m.member == member then s else s.unpost ev
  | some c =>
    let u := if c.leaf / 2 = s.pkg then (s.unpost ev).spillLeaf (c.leaf % 2) c.member else s.unpost ev
    ({ u with contexts := u.contexts.erase k }).tell place fun l => .contextHere l ((u.contexts.find? k).getD c)

/-- The context of a member that ran on another package last has come (R63; log 45). -/
def State.contextHere (s : State) (leaf : Nat) (c : Saved) : State :=
  let s := s.unpost (.contextHere leaf c)
  { s with contexts := s.contexts.set (contextKey c.member.gang c.member.member) c }

/-- RESTORE_COMPLETE (R75, R405, R453, R454): the context is back, the spills are done, and the member sends READY; a leaf
that is not up sends none. -/
def execRestoreComplete (leaf : Nat) (s : State) : Host.Outcome State Fault Refusal :=
  let ev := Ev.restoreComplete leaf
  match (s.leaf leaf).member with
  | none => .next (s.unpost ev)
  | some m =>
    let owed := (s.savedOf leaf m.gang m.member).owed
    if !s.leafUp leaf then .next s
    else if owed ≠ 0 then .next ((s.unpost ev).gangFault leaf (plainFault owed))
    else .next (((s.unpost ev).restore leaf m).tell (s.placeOf leaf 0) fun l => .ready l m.gang m.member)

/-- READY (R75): with the last one the leader sends GO. -/
def execReady (leaf gang member : Nat) (s : State) : Host.Outcome State Fault Refusal :=
  let ev := Ev.ready leaf gang member
  match (s.leaf leaf).leader gang with
  | none => .next (if cellGang (s.leaf leaf).cell = gang then s else s.unpost ev)
  | some r =>
    let s := s.unpost ev
    if r.phase ≠ .starting then .next s else
    let r := { r with readys := r.readys ++ [member] }
    if (List.range r.size).all r.readys.contains then
      .next (r.places.foldl (fun s place => s.tell place fun l => .go l gang) (s.onLeaf leaf fun l => l.setLeader { r with phase := .idle }))
    else .next (s.onLeaf leaf fun l => l.setLeader r)

/-! GO (R76, R419). -/

/-- A strand's clocks count from GO, and it issues again. -/
def Strand.released (t : Strand) (clk : Nat) : Strand := { t.clocks (· + clk) with stop := .none }

/-- A store back in its place in program order. -/
def insertStore (l : List StoreEntry) (e : StoreEntry) : List StoreEntry :=
  l.filter (fun d => decide (d.id < e.id)) ++ e :: l.filter fun d => decide (e.id < d.id)

/-- A record of a replay buffer is re-injected (R419): its results land, its push arrives, its stores leave, at the clocks
they would have had. -/
def State.reinject (s : State) (clk : Nat) (r : Replay) : State :=
  let s := s.onStrand r.who fun t =>
    { t with flights := (if r.lands.isEmpty then t.flights else t.flights ++ [{ id := t.flightSeq, due := clk + r.after, load := r.load, lands := r.lands }]),
             flightSeq := t.flightSeq + 1, stores := r.stores.foldl insertStore t.stores }
  match r.push with
  | none => s
  | some p =>
    match neighbour (coreOf r.who) p.dir with
    | none => s
    | some c => s.onCore c fun x => { x with pushes := x.pushes ++ [{ p with due := clk + r.after }] }

/-- The replay buffer of a core is re-injected, and is empty (R419). -/
def State.replayCore (s : State) (core clk : Nat) : State :=
  ((s.core core).replay.foldl (fun s r => s.reinject clk r) s).onCore core fun c => { c with replay := [] }

/-- What a restored strand goes on with. -/
def State.rearmStrand (s : State) (w : Nat) : State :=
  let t := s.strand w
  let on (b : Bool) (e : Ev) (s : State) : State := if b then s.postOnce e else s
  let waits : Bool := match t.trail with
    | some (.waitt _) => true
    | _ => false
  let s := t.stores.foldl (fun s e => s.postOnce (.storePerform w e.id)) s
  let s := t.waits.foldl (fun s e => s.postOnce (.localPerform w e.id)) s
  on t.running.isSome (.bundleFetch w) <| on t.retiring (.taskRetire w) <| on waits (.waittExpiry w) <| on t.trapReq.isSome (.trapEntry w) <|
  on (t.running.isNone && !t.tasks.isEmpty || t.abortWait.isSome) (.taskStart w) s

/-- What a restored member's engines, collectives and requests go on with. -/
def State.rearmMember (s : State) (leaf : Nat) (m : Member) : State :=
  let s := (leafQueues leaf).foldl (fun s q =>
    let s := if (s.cmds q).isEmpty then s else s.postOnce (.commandStart q)
    ((s.cmds q).filter Cmd.over).foldl (fun s _ => s.post (.commandComplete q)) s) s
  let s := (leafCores leaf).foldl (fun s c => ((s.core c).pushes.filter Push.waiting).foldl (fun s p => s.postOnce (.xputLand c p.id)) s) s
  let s := m.colls.foldl (fun s (p : Nat × CollCtx) =>
    let s := if p.2.open_.isEmpty then s else s.postOnce (.collStart leaf p.1)
    if p.2.colls.any fun c => !c.abortTp.isEmpty then s.postOnce (.cabortCountRound leaf p.1) else s) s
  let s := (s.leaf leaf).remotes.foldl (fun s r => s.postOnce (.remoteResend leaf r.txn)) s
  let s := m.pool.foldl (fun s e => if e.waiting then s.wakeTask leaf e else s.postOnce (.taskStart e.who)) s
  let s := if m.workLeft then s.postOnce (.taskDispatch leaf) else s
  if m.running.isSome && !m.complete then s.postOnce (.memberComplete leaf) else s

/-- STARTTO (R59, R75): no GO within VOTEDL of the exchange's reference time. -/
def execStartto (leaf : Nat) (s : State) : Host.Outcome State Fault Refusal :=
  let l := s.leaf leaf
  if l.phase = .resuming ∧ l.refTime.toNat + us l.active.votedl ≤ s.now.toNat then .next (s.gangFault leaf (plainFault 0x06)) else .next s

/-! The vote (R66 to R71). -/

/-- Does an armed shadow take effect before a leaf's slot ends, or as it ends (R58). -/
def Leaf.shadowNext (l : Leaf) : Bool := l.arm && decide (l.shadow.frame0.toNat ≤ l.boundary.toNat)

/-- The next boundary of a leaf: its slot's end, or the armed shadow's first frame if that comes first (R58). -/
def Leaf.nextBoundary (l : Leaf) : Nat := if l.shadowNext then l.shadow.frame0.toNat else l.boundary.toNat

/-- The frame and the slot that begin at a leaf's next boundary. -/
def Leaf.nextSlot (l : Leaf) : BitVec 64 × Nat := if l.shadowNext then (l.shadow.frame0, 0) else (l.active.frame0, (l.slotNow + 1) % l.active.nslot)

/-- The cell of a leaf from a pod time on, no later than its slot after the present one. -/
def Leaf.cellFrom (l : Leaf) (t : Nat) : BitVec 32 :=
  if !l.inForce && !l.shadowNext then 0
  else if t < l.nextBoundary then l.cell
  else (if l.shadowNext then l.shadowCells else l.cells).get l.nextSlot.2 0

/-- Does a member of a gang change its place at the next boundary of a leaf that holds one of the gang (R53): this package's
cells say so of its leaves, the pod manager's plan of the others (log 14). -/
def State.gangMoves (s : State) (leaf : Nat) (m : Member) : Bool :=
  let l := s.leaf leaf
  (List.range m.size).any fun i =>
    let now := s.placeOf leaf i
    match [0, 1].find? fun k => let c := (s.leaf k).cellFrom l.nextBoundary; cellGang c == m.gang && cellMember c == i with
    | some k => now != 2 * s.pkg + k
    | none => now / 2 == s.pkg || now != Config.memberPlace m.gang i l.nextSlot.1.toNat l.nextSlot.2

/-- The boundary at which the member on a leaf gives it up (R53, R66): one that has passed, or the next one, where any member of
the gang changes its place. -/
def State.switchAt (s : State) (leaf : Nat) : Option Nat :=
  let l := s.leaf leaf
  match l.member with
  | none => none
  | some m =>
    if !l.inForce then none
    else if cellGang l.cell ≠ m.gang then some l.slotStart.toNat
    else if s.gangMoves leaf m then some l.nextBoundary else none

/-- Is a member's switch due to begin: NOW has reached T − LEAD (R67). -/
def State.prepareDue (s : State) (leaf : Nat) : Option Nat :=
  let l := s.leaf leaf
  match s.switchAt leaf with
  | some t => if l.phase = .run ∧ t ≤ s.now.toNat + us l.active.lead then some (t - us l.active.lead) else none
  | none => none

/-- A stop is pending for a strand; a waiting safe point takes it at once (R243). -/
def Strand.askStop (t : Strand) : Strand :=
  match t.trail, t.trailSafe with
  | some _, some n => { t with stop := .stopped n }
  | _, _ => { t with stop := .pending }

/-- The routers that count for a gang: those its collectives' nodes lie at (R66). -/
def Member.countingRouters (m : Member) : List Nat := (m.routers ++ m.trees.flatMap fun (t : Tree) => t.routers.map fun (r : Nat × Nat × Nat) => 2048 + r.2.2).eraseDups

/-- A member whose switch is due to begin enters PREPARING (R67): strands run on to their next SAFE; the leader begins to
count. -/
def State.prepare (s : State) (leaf : Nat) : State :=
  match s.prepareDue leaf, (s.leaf leaf).member with
  | some t, some m =>
    let s := s.onLeaf leaf fun l => { l with phase := .preparing, refTime := BitVec.ofNat 64 t }
    let s := (leafStrands leaf).foldl (fun s w => s.onStrand w Strand.askStop) s
    let s := if m.member ≠ 0 then s else s.onLeaf leaf fun l => l.setLeader
      { gang := m.gang, phase := .counting, size := m.size, places := s.placesOf leaf, routers := m.countingRouters, start := BitVec.ofNat 64 t, round := 0,
        readys := [], replies := [], dones := [] }
    s.post (.memberPrepared leaf)
  | _, _ => s

/-- PREPARE_START (R67). -/
def execPrepareStart (leaf : Nat) (s : State) : Host.Outcome State Fault Refusal := .next (s.prepare leaf)

/-- A dustsheet record reaches its consumer, which acts on it at once where it can (R76). -/
def State.recordIn (s : State) (leaf : Nat) (p : Packet) : State :=
  let s := s.consumePacket leaf p
  match (s.leaf leaf).member, seqOf p.body with
  | some m, some q => s.memberGets leaf p m q
  | _, _ => if s.agenda.contains (.remoteRequest leaf p) then s.performRequest leaf p else s

/-- GO (R53, R66, R67, R75, R76, R419): the dustsheet is re-injected in record order, then the packets held since; replay contents
go back, and the strands issue; a switch already due to begin begins in the same clock. -/
def execGo (leaf gang : Nat) (s : State) : Host.Outcome State Fault Refusal :=
  let s := s.unpost (.go leaf gang)
  let l := s.leaf leaf
  match l.member with
  | none => .next s
  | some m =>
    if m.gang ≠ gang || l.phase ≠ .resuming then .next s else
    let clk := l.clk
    let s := s.onLeaf leaf fun l =>
      { l with phase := .run, member := some { m with dust := [], dustUsed := 0, held := [] },
               remotes := l.remotes.map fun r => { r with sentAt := s.now.toNat - r.sentAt } }
    let s := (leafStrands leaf).foldl (fun s w => if (s.strands.find? w).isSome then s.onStrand w fun t => t.released clk else s) s
    let s := (leafCores leaf).foldl (fun s c => (s.onCore c fun x => x.clocks (· + clk) (clk - ·)).replayCore c clk) s
    let s := (leafStrands leaf).foldl State.rearmStrand s
    let s := s.rearmMember leaf m
    let s := s.hbmPut leaf m.dustBase 64 0 m.key
    .next (((m.dust ++ m.held).foldl (fun s p => s.recordIn leaf p) s).prepare leaf)

/-! Capture (R68, R417, R418). -/

/-- Has a strand stopped for a switch. -/
def Strand.halted (t : Strand) : Bool :=
  match t.stop with
  | .stopped _ | .captured => true
  | _ => false

/-- Is PREPDL over with strands still to capture (R68): in a clock in which the leaf is not frozen. -/
def State.captureDue (s : State) (leaf : Nat) : Bool :=
  let l := s.leaf leaf
  l.phase == .preparing && l.freezeLeft == 0 && decide (l.refTime.toNat + us l.active.prepdl ≤ s.now.toNat) &&
  (leafStrands leaf).any fun w => !(s.strand w).halted

/-- Bytes of a record of the replay buffer (R418). -/
def Replay.size (r : Replay) : Nat :=
  64 + (if r.push.isSome || r.lands.any (fun x => match x with
    | .v _ _ => true
    | .k _ _ => true
    | _ => false) then 512 else 0) + (r.stores.map StoreEntry.len).sum

/-- Bytes of a core's replay buffer (R418). -/
def replayRoom : Nat := 16384

/-- Is a buffered store one to another member's memory or the pool, not yet sent (R294). -/
def State.farStore (s : State) (who : Nat) (e : StoreEntry) : Bool :=
  s.storeRemote who e || (match s.xlate (leafOf who) needWr e.va with
    | .mapped t => (match t.at e.va with
      | .pool _ => true
      | _ => false)
    | _ => false)

/-- A strand's state is captured: results in flight and far stores go to its core's replay buffer (R417). -/
def State.captureStrand (s : State) (w : Nat) : State :=
  let t := s.strand w
  if t.halted then s else
  let clk := (s.leaf (leafOf w)).clk
  let far := t.stores.filter (s.farStore w)
  let rs := (t.flights.map fun f => { who := w, after := f.due - clk, load := f.load, lands := f.lands, push := none, stores := [] : Replay }) ++
    far.map fun e => { who := w, after := 0, load := false, lands := [], push := none, stores := [{ e with stage := .buffered, lines := [] }] }
  let s := s.onCore (coreOf w) fun c => { c with replay := c.replay ++ rs }
  s.onStrand w fun t => { t with stop := .captured, flights := [], stores := t.stores.filter fun e => !far.contains e }

/-- A push as a replay buffer holds it. -/
def Push.record (p : Push) (clk : Nat) : Replay :=
  { who := p.who, after := p.due - clk, load := false, lands := [], push := some p, stores := [] }

/-- Pushes that wait at a core go to its own replay buffer (R482). -/
def State.saveWaiting (s : State) (core : Nat) : State :=
  let clk := (s.leaf (leafOfCore core)).clk
  s.onCore core fun c => { c with pushes := c.pushes.filter (fun p => !p.waiting), replay := c.replay ++ (c.pushes.filter Push.waiting).map fun p => p.record clk }

/-- Pushes on their way to a core go back to the replay buffer of the core they left (R417); those that wait there to its own
(R482). -/
def State.capturePushes (s : State) (core : Nat) : State :=
  let clk := (s.leaf (leafOfCore core)).clk
  let s := s.saveWaiting core
  let go := (s.core core).pushes
  let s := s.onCore core fun c => { c with pushes := [] }
  go.foldl (fun s p => s.onCore (coreOf p.who) fun c => { c with replay := c.replay ++ [p.record clk] }) s

/-- Does a core's replay buffer hold more than its room (R418). -/
def State.replayOver (s : State) (leaf : Nat) : Bool :=
  (leafCores leaf).any fun c => decide (replayRoom < ((s.core c).replay.map Replay.size).sum)

/-- PREPDL_CAPTURE (R68, R417, R418): every strand that has not stopped is captured on every core at once; a buffer that does
not hold its core's records is a gang fault. -/
def execPrepdlCapture (leaf : Nat) (s : State) : Host.Outcome State Fault Refusal :=
  if !s.captureDue leaf then .next s else
  let s := (leafStrands leaf).foldl State.captureStrand s
  let s := (leafCores leaf).foldl State.capturePushes s
  if s.replayOver leaf then .next (s.gangFault leaf (plainFault 0x05)) else .next s

/-! PREPARED (R67, R71, R294). -/

/-- Has a strand nothing to run (R435). -/
def Strand.idle (t : Strand) : Bool := t.running.isNone && t.tasks.isEmpty && t.abortWait.isNone

/-- Is a member ready to be PREPARED (R67, R241, R294): every strand has stopped or has nothing to run, its loads have landed,
and those that stopped at a SAFE have no buffered store and no local access that waits for a FENCE. -/
def State.preparedNow (s : State) (leaf : Nat) : Bool :=
  (leafStrands leaf).all (fun w =>
    let t := s.strand w
    (t.halted || t.idle) && t.loads.isEmpty && t.flights.isEmpty && (t.stop == .captured || t.stores.isEmpty && t.waits.isEmpty)) &&
  !(s.timers.any fun e => match e.2.2 with
    | .eventLatchSet w => leafOf w == leaf
    | _ => false) &&
  !(s.agenda.any fun e => match e with
    | .eventLatchSet w => leafOf w == leaf
    | .collAck l _ _ => l == leaf
    | .startLaunch l g _ _ => l == leaf && (s.leaf leaf).member.any fun m => m.gang == g
    | _ => false)

/-- Packets that a member has accepted and not yet acted on; they are acted on first at GO. -/
def State.unacted (s : State) (leaf : Nat) (m : Member) : List Packet :=
  s.agenda.filterMap fun e => match e with
    | .contribution l p => if l = leaf ∧ p.gang = m.gang then some p else none
    | .remoteRequest l p => if l = leaf ∧ p.gang = m.gang then some p else none
    | _ => none

/-- MEMBER_PREPARED (R66, R67, R71, R482): injection stops, arrivals go to the dustsheet, and the package's router emits its
partials. Pushes that still wait at a core are saved in its replay buffer. Timers of requests stand until GO (R361). -/
def execMemberPrepared (leaf : Nat) (s : State) : Host.Outcome State Fault Refusal :=
  let ev := Ev.memberPrepared leaf
  match (s.leaf leaf).member with
  | none => .next (s.unpost ev)
  | some m =>
    if (s.leaf leaf).phase ≠ .preparing then .next (s.unpost ev)
    else if !s.preparedNow leaf || (s.leaf leaf).freezeLeft ≠ 0 then .next s
    else
      let held := s.unacted leaf m
      let s := (leafCores leaf).foldl State.saveWaiting (s.unpost ev)
      if s.replayOver leaf then .next (s.gangFault leaf (plainFault 0x05)) else
      let s := { s with agenda := s.agenda.filter fun e => match e with
        | .contribution l p => !(l == leaf && p.gang == m.gang)
        | .remoteRequest l p => !(l == leaf && p.gang == m.gang)
        | _ => true }
      let s := s.onLeaf leaf fun l =>
        { l with phase := .prepared, member := some { m with held := held },
                 remotes := l.remotes.map fun r => { r with sentAt := s.now.toNat - r.sentAt } }
      .next (if (s.routerGang m.gang).emitted || !s.enrolled m.gang then s else s.emitPartials m.gang)

/-! Counting (R70). -/

/-- The time of a leader's next round (R70). -/
def Leader.nextRound (r : Leader) : Nat := r.start.toNat + us (2 * (r.round + 1))

/-- The leader on a leaf whose next round is due. -/
def State.roundDue (s : State) (leaf : Nat) : Option Leader :=
  (s.leaf leaf).leaders.find? fun r => r.phase == .counting && decide (r.nextRound ≤ s.now.toNat)

/-- VOTE_ROUND (R70): COUNTREQ goes to every member and counting router. -/
def execVoteRound (leaf : Nat) (s : State) : Host.Outcome State Fault Refusal :=
  match s.roundDue leaf with
  | none => .next s
  | some r =>
    let n := r.round + 1
    let r := { r with routers := (r.routers ++ ((s.leaf leaf).member.map Member.countingRouters).getD []).eraseDups }
    let s := s.onLeaf leaf fun l => l.setLeader { r with round := n, replies := [] }
    let s := r.places.foldl (fun s place => s.tell place fun l => .countreq l r.gang n) s
    .next (r.routers.foldl (fun s k => s.tellRouter k fun l => .countreq l r.gang n) s)

/-- The place of the leader of a gang that a router counts for. -/
def State.leaderPlace (s : State) (gang : Nat) : Nat :=
  (((s.trees.find? fun t => t.gang == gang).map Tree.places).getD (s.placesNow 0 gang)).headD 0

/-- COUNTREQ (R66, R67, R71): a member or the router replies with its counts; a router on whose package the gang has no member emits its
partials first. -/
def execCountreq (leaf gang round : Nat) (s : State) : Host.Outcome State Fault Refusal :=
  let s := s.unpost (.countreq leaf gang round)
  if leaf = 2 then
    let here := [0, 1].any fun l => (s.leaf l).member.any fun m => m.gang == gang
    let s := if here || (s.routerGang gang).emitted || !s.enrolled gang then s else s.emitPartials gang
    let r := s.routerGang gang
    .next (s.tell (s.leaderPlace gang) fun l => .count l gang (2048 + s.pkg) round r.emitted r.sent r.recv)
  else match (s.leaf leaf).member with
    | none => .next s
    | some m =>
      if m.gang ≠ gang then .next s
      else .next (s.tell (s.placeOf leaf 0) fun l => .count l gang m.member round ((s.leaf leaf).phase == .prepared) m.sent m.recv)

/-- COUNT (R70): with every reply to the round in, all PREPARED and the sums equal, the leader sends COMMIT. -/
def execCount (leaf gang member round : Nat) (prepared : Bool) (sent recv : W64) (s : State) : Host.Outcome State Fault Refusal :=
  let s := s.unpost (.count leaf gang member round prepared sent recv)
  match (s.leaf leaf).leader gang with
  | none => .next s
  | some r =>
    if r.phase ≠ .counting || r.round ≠ round then .next s else
    let r := { r with replies := (r.replies.filter fun x => x.member != member) ++ [{ member := member, prepared := prepared, sent := sent, recv := recv }] }
    let total (f : CountReply → W64) : W64 := r.replies.foldl (fun a x => a + f x) 0
    let all := (List.range r.size ++ r.routers).all fun m => r.replies.any fun x => x.member == m && x.prepared
    if all && total CountReply.sent == total CountReply.recv then
      let s := r.places.foldl (fun s place => s.tell place fun l => .commit l gang) (s.onLeaf leaf fun l => l.setLeader { r with phase := .committing })
      .next (r.routers.foldl (fun s k => s.tellRouter k fun l => .commit l gang) s)
    else .next (s.onLeaf leaf fun l => l.setLeader r)

/-! What a gang fault leaves (R60, R72, R377, R402, R403). -/

/-- A bitmap entry of a leader's report: bit k is rank a + k of the node's range (R377, R403). -/
def nodeEntry (b : CBlock) (chunk pkg kind ctx bits bmw : Nat) : List Byte :=
  leBytes 4 chunk ++ leBytes 4 (cbSeq b).toNat ++ leBytes 2 pkg ++ leBytes 1 kind ++ leBytes 1 ctx ++ leBytes 4 0 ++
  leBytes (8 * bmw) bits

/-- The members of a gang that are on this package, on a leaf or out. -/
def State.membersHere (s : State) (g : Nat) : List Member :=
  (([0, 1].filterMap fun l => (s.leaf l).member) ++ s.contexts.map fun p => p.2.member).filter fun m => m.gang == g

/-- The reducing collectives of a gang that are in progress, as this package knows them, each with its tree. -/
def State.treesOf (s : State) (g : Nat) : List Tree :=
  let all := (s.membersHere g).flatMap Member.trees ++ s.trees.filter fun t => t.gang == g
  (all.filter fun t => !t.dropped && cbReduces t.block).foldl (fun l t => if l.any fun x => cbSeq x.block == cbSeq t.block then l else l ++ [t]) []

/-- The nodes of a tree, each by its range: in deterministic mode those of every level, in arrival mode the one that those of a location
merge into (R370, R372). -/
def Tree.nodes (t : Tree) : List (Nat × Nat) :=
  let levels := cbLevels t.block
  let all := ((List.range levels).flatMap fun l => (List.range (2 ^ (levels - 1 - l))).map fun i => (i * 2 ^ (l + 1), (i + 1) * 2 ^ (l + 1))).filter
    fun x => decide (x.1 < cbGroup t.block)
  if cbArrival t.block then (all.map fun x => t.top (t.loc x.1 x.2) 12 x).eraseDups else all

/-- The contributor bitmap of a node for a chunk, by rank (R375, R377): from the records of this package, or what another package's node
holds, which is free (log 43). -/
def State.bitmapOf (s : State) (t : Tree) (q : Nat) (x : Nat × Nat) : Nat :=
  let loc := t.loc x.1 x.2
  let top := t.top loc 12 x
  let mask := presentBits t.block x.1 x.2
  let find (l : List Node) : Nat := ((l.find? fun n => n.gang == t.gang && n.seq == cbSeq t.block && n.chunk == q && n.lo == top.1).map Node.bitmap).getD 0
  if loc = 2048 + s.pkg then find s.nodes &&& mask
  else match (s.membersHere t.gang).find? fun m => m.member == loc with
    | some m => find (m.colls.flatMap fun p => p.2.colls.flatMap Coll.nodes) &&& mask
    | none => Config.farBitmap t.gang (cbSeq t.block) q x.1 x.2 &&& mask

/-- The entries of the leader's report: each node and each chunk that it has not finished (R377, R403). -/
def State.faultEntries (s : State) (m : Member) (bmw : Nat) : List (List Byte) :=
  (s.treesOf m.gang).flatMap fun t =>
    let ctx := (((s.membersHere m.gang).findSome? fun n => n.collOf (cbSeq t.block)).map Prod.fst).getD 0
    t.nodes.flatMap fun x =>
      let loc := t.loc x.1 x.2
      let pkg := if 2048 ≤ loc then loc - 2048 else m.placement.getD loc 0 / 2
      (cbKeys t.block 0).filterMap fun q =>
        let bits := s.bitmapOf t q x
        if bits = presentBits t.block x.1 x.2 then none
        else some (nodeEntry t.block q pkg (if 2048 ≤ loc then 1 else 0) ctx (bits / 2 ^ x.1) bmw)

/-- A member's report; the leader's alone carries entries (R403). -/
def State.report (s : State) (m : Member) (h : FaultHead) : List Byte :=
  let bmw := ((s.treesOf m.gang).map fun t => bitmapWords t.block).foldl max 0
  let es := if m.member = 0 then s.faultEntries m bmw else []
  reportHead h es.length bmw ++ es.flatten

/-- A gang's packets on a leaf after its fault: those that wait for the gang fail with STENCIL, the earliest last, and the launch being
run halts its queue with CAUSE 0 (R60, R402; log 43). -/
def State.failPackets (s : State) (leaf gang : Nat) : State :=
  let mine := (s.leaf leaf).pkts.filter fun p => p.gang == gang
  let s := (mine.filter fun p => p.stage == .waiting).foldr (fun p s => s.failPkt leaf p.pid 0x0B false) s
  (mine.filter fun p => p.stage == .started && p.type == 1).foldl (fun s p => s.failPkt leaf p.pid 0 true) s

/-- Sequence numbers of a faulted gang are of no use: its next launch is its first (R60, R358). -/
def Leaf.forgetSeqs (l : Leaf) (g : Nat) : Leaf :=
  { l with seqIn := l.seqIn.filter (fun p => p.1 % 65536 != g), seqOut := l.seqOut.filter (fun p => p.1 % 65536 != g), early := l.early.filter fun p => p.gang != g }

/-- The router forgets the collectives of a gang with no member left on a leaf of this package. -/
def State.forgetTrees (s : State) (g : Nat) : State :=
  if [0, 1].any fun l => (s.leaf l).member.any fun m => m.gang == g then s
  else { s.routerDone fun p => p.gang == g with trees := s.trees.filter (fun t => t.gang != g), nodes := s.nodes.filter (fun n => n.gang != g), routerGangs := s.routerGangs.erase g }

/-- The gang's fault reaches a leaf (R72, R402, R403): the context of the member that holds it is saved and marked faulted, its report is
written, and the leaf is free; a member that is out has its saved context marked and its report written. -/
def State.faultMember (s : State) (leaf : Nat) (h : FaultHead) : State :=
  let s := { s with faultedGangs := s.faultedGangs.set h.gang 1, gangsWritten := s.gangsWritten.erase h.gang }
  let s := match (s.leaf leaf).member.filter fun m => m.gang == h.gang with
    | some m =>
      let s := s.flushLeaf leaf
      let s := match s.contexts.find? (contextKey m.gang m.member) with
        | some c => s.markContext leaf (contextKey m.gang m.member) { c with faulted := true }
        | none => s.keepContext leaf (s.contextOf leaf m true)
      (s.putReport m.vf (s.report m h)).vacate leaf true
    | none =>
      let mine (p : Nat × Saved) : Bool := p.2.member.gang == h.gang && p.2.leaf == 2 * s.pkg + leaf && !p.2.faulted
      let u := (s.contexts.filter mine).foldl (fun (s : State) (p : Nat × Saved) => (s.writeHead leaf { p.2 with faulted := true }).putReport p.2.member.vf (s.report p.2.member h)) s
      { u with contexts := u.contexts.map fun (p : Nat × Saved) => if mine p then (p.1, { p.2 with faulted := true }) else p }
  (([0, 1].foldl (fun (s : State) (l : Nat) => s.failPackets l h.gang) s).onLeaf leaf fun l => l.forgetSeqs h.gang).forgetTrees h.gang

/-! COMMIT, DONE and ABORT (R67, R70, R72, R78). -/

/-- COMMIT (R67, R71, R78): no packet of the gang remains, so the router may combine for it again; every L1 line of the leaf is written back and invalidated; the save of the context begins. -/
def execCommit (leaf gang : Nat) (s : State) : Host.Outcome State Fault Refusal :=
  let s := (s.unpost (.commit leaf gang)).combineAgain gang
  match (s.leaf leaf).member with
  | none => .next s
  | some m =>
    if m.gang ≠ gang || (s.leaf leaf).phase ≠ .prepared then .next s
    else .next (((s.flushLeaf leaf).onLeaf leaf fun l => { l with phase := .saving }).post (.contextSaved leaf))

/-- CONTEXT_SAVED (R58, R67, R77, R420): DONE goes to the leader, and the leaf is handed on; a leaf given up before the boundary
waits for it. -/
def execContextSaved (leaf : Nat) (s : State) : Host.Outcome State Fault Refusal :=
  let s := s.unpost (.contextSaved leaf)
  match (s.leaf leaf).member with
  | none => .next s
  | some m =>
    if (s.leaf leaf).phase ≠ .saving then .next s else
    let c := s.contextOf leaf m false
    let s := s.keepContext leaf c
    let s := ((s.onVf m.vf fun v => v.meter 7 imageSize).tell (s.placeOf leaf 0) fun l => .done l m.gang m.member).vacate leaf false
    let l := s.leaf leaf
    .next (if l.nextBoundary ≤ l.refTime.toNat + us l.active.lead then s else s.handOver leaf)

/-- DONE (R70): with the last one the switch is over. -/
def execDone (leaf gang member : Nat) (s : State) : Host.Outcome State Fault Refusal :=
  let s := s.unpost (.done leaf gang member)
  match (s.leaf leaf).leader gang with
  | none => .next s
  | some r =>
    if r.phase ≠ .committing then .next s else
    let r := { r with dones := r.dones ++ [member] }
    if (List.range r.size).all r.dones.contains then .next (s.onLeaf leaf fun l => l.dropLeader gang) else .next (s.onLeaf leaf fun l => l.setLeader r)

/-- The leader aborts its gang: every member is told (R70, R72). -/
def State.abortGang (s : State) (leaf : Nat) (h : FaultHead) : State :=
  (s.membersAt leaf h.gang).foldl (fun s place => s.tell place fun l => .abort l false h) (s.onLeaf leaf fun l => l.dropLeader h.gang)

/-- ABORT (R67, R70, R72, R402): at the leader, lead, it goes on to every member; at a member the gang faults, and the leaf
passes to the next cell's gang. -/
def execAbort (leaf : Nat) (lead : Bool) (head : FaultHead) (s : State) : Host.Outcome State Fault Refusal :=
  let s := s.unpost (.abort leaf lead head)
  if lead then
    if (s.faultedGangs.find? head.gang).isSome then .next s else .next (s.abortGang leaf head)
  else
    .next (((s.faultMember leaf head).onLeaf leaf fun l => l.dropLeader head.gang).handOver leaf)

/-- A vote on a leaf that is past VOTEDL (R70, R72). -/
def State.voteLate (s : State) (leaf : Nat) : Option Leader :=
  (s.leaf leaf).leaders.find? fun r =>
    (r.phase == .counting || r.phase == .committing) && decide (r.start.toNat + us (s.leaf leaf).active.votedl ≤ s.now.toNat)

/-- VOTEDL_EXPIRY (R70, R72): the leader aborts the gang with VOTETO. -/
def execVotedlExpiry (leaf : Nat) (s : State) : Host.Outcome State Fault Refusal :=
  match s.voteLate leaf with
  | none => .next s
  | some r =>
    let h : FaultHead := { gang := r.gang, member := 0xFFFF, cause := 0x03, tcause := 0, pkg := s.pkg, leaf := leaf, core := 255, strand := 255, pc := 0, addr := 0,
                           now := s.now, work := 0 }
    .next (s.abortGang leaf h)

end Sys2Proof.Machine
end

