-- ==== Sys2Proof/Machine/Stencil.lean ====
section
/-! DEFINITION. Arming and applying a stencil, and the beginning of a slot (R54 to R60). -/

namespace Sys2Proof.Machine

/-! Arming (R58, R62). -/

/-- Is a cell one that a shadow may hold (R56 to R58, R235). -/
def State.cellOk (s : State) (c : BitVec 32) : Bool :=
  let r := s.gangRec (cellGang c)
  c.toNat / 2 ^ 27 == 0 && (cellGang c == 0 || (r != 0 && gKey r != 0 && decide (cellMember c < gSize r)))

/-- Where the members of a gang would stand in a slot of the shadow: the cell's member here, one that the other leaf's armed
shadow of the same frame names there, the others as the pod manager's plan has them (log 14). -/
def State.shadowPlace (s : State) (leaf slot member : Nat) : Nat :=
  let l := s.leaf leaf
  let o := s.leaf (1 - leaf)
  let c := l.shadowCells.get slot 0
  let d := o.shadowCells.get slot 0
  if cellMember c = member then 2 * s.pkg + leaf
  else if o.arm ∧ o.shadow.frame0 = l.shadow.frame0 ∧ cellGang d = cellGang c ∧ cellMember d = member then 2 * s.pkg + (1 - leaf)
  else Config.memberPlace (cellGang c) member l.shadow.frame0.toNat slot

/-- Is a gang running, as this package knows: a member holds a leaf here, or is out with its launch in progress. -/
def State.gangRunning (s : State) (g : Nat) : Bool :=
  ([0, 1].any fun l => (s.leaf l).member.any fun m => m.gang == g) ||
  s.contexts.any fun (p : Nat × Saved) => p.2.member.gang == g && p.2.member.running.isSome && !p.2.faulted

/-- Does the shadow keep the hop matrix of every running gang in every slot that it gives the gang (R58, R62). -/
def State.shadowHops (s : State) (leaf : Nat) : Bool :=
  let l := s.leaf leaf
  (List.range l.shadow.nslot).all fun i =>
    let g := cellGang (l.shadowCells.get i 0)
    g == 0 || !s.gangRunning g || s.hopsHold leaf (s.gangRec g) (s.shadowPlace leaf i)

/-- The hop matrices that an arming reads. -/
def State.matricesRead (s : State) (leaf : Nat) : State :=
  let gs := (((List.range (s.leaf leaf).shadow.nslot).map fun i => cellGang ((s.leaf leaf).shadowCells.get i 0)).filter fun g => g != 0 && s.gangRunning g).eraseDups
  gs.foldl (fun s g => s.matrixRead leaf (s.gangRec g)) s

/-- May the shadow be armed (R58). -/
def State.shadowOk (s : State) (leaf : Nat) : Bool :=
  let l := s.leaf leaf
  let x := l.shadow
  decide (us (2 * x.votedl + x.lead) ≤ x.slotLen) && decide (x.prepdl < x.lead) && decide (x.prepdl < x.votedl) &&
  decide (s.now.toNat + us x.lead ≤ x.frame0.toNat) && (List.range x.nslot).all (fun i => s.cellOk (l.shadowCells.get i 0)) && s.shadowHops leaf

/-- STENCIL_ARM (R54, R55, R58, R456): the shadow is armed, or refused with STERR; the write is ignored while the management
processor reloads. -/
def execStencilArm (leaf : Nat) (s : State) : Host.Outcome State Fault Refusal :=
  if s.mpDown then .next s else
  let ok := s.shadowOk leaf
  .next ((s.matricesRead leaf).onLeaf leaf fun l => { l with arm := ok, sterr := !ok })

/-! Slots (R58, R60, R75). -/

/-- Is the armed shadow due. -/
def State.applyDue (s : State) (leaf : Nat) : Bool := (s.leaf leaf).arm && decide ((s.leaf leaf).shadow.frame0.toNat ≤ s.now.toNat)

/-- Is a slot over, with no shadow that takes effect before its end. -/
def State.slotDue (s : State) (leaf : Nat) : Bool :=
  let l := s.leaf leaf
  l.inForce && decide (l.boundary.toNat ≤ s.now.toNat) && !(l.arm && decide (l.shadow.frame0.toNat ≤ l.boundary.toNat))

/-- A gang's fault mark clears (R60): its record has been written since, and its next launch is its first. -/
def State.clearFault (s : State) (g : Nat) : State :=
  if (s.gangsWritten.find? g).isSome && s.gangRec g != 0 then
    { s with faultedGangs := s.faultedGangs.erase g, contexts := s.contexts.filter fun p => p.2.member.gang != g }
  else s

/-- A slot has begun: a member that holds the leaf holds it in this slot too, a free leaf is handed over, and packets may be
consumed. -/
def State.slotBegun (s : State) (leaf : Nat) : State :=
  let s := match (s.leaf leaf).member with
    | some m => s.onVf m.vf fun v => v.meter 12 ((s.leaf leaf).active.slotLen / 1024)
    | none => s
  (s.handOver leaf).offerAll

/-- STENCIL_APPLY (R54, R58, R60): the shadow takes effect at STFRAME0. -/
def execStencilApply (leaf : Nat) (s : State) : Host.Outcome State Fault Refusal :=
  if !s.applyDue leaf then .next s else
  let s := (s.faultedGangs.map Prod.fst).foldl State.clearFault s
  let s := s.onLeaf leaf fun l =>
    { l with active := l.shadow, cells := l.shadowCells, arm := false, inForce := true, slotNow := 0, slotStart := l.shadow.frame0,
             boundary := l.shadow.frame0 + BitVec.ofNat 64 l.shadow.slotLen }
  .next (s.slotBegun leaf)

/-- SLOT_BEGIN (R58, R60, R75). -/
def execSlotBegin (leaf : Nat) (s : State) : Host.Outcome State Fault Refusal :=
  if !s.slotDue leaf then .next s else
  let s := s.onLeaf leaf fun l =>
    { l with slotNow := (l.slotNow + 1) % l.active.nslot, slotStart := l.boundary, boundary := l.boundary + BitVec.ofNat 64 l.active.slotLen }
  .next (s.slotBegun leaf)

end Sys2Proof.Machine
end

