-- ==== Sys2Proof/Machine/Ptp.lean ====
section
/-! DEFINITION. Pod time: IEEE 1588 messages on the Plumb lanes, the servo of NOW, and LOCK (R384 to R386). -/

namespace Sys2Proof.Machine

/-! PTCFG (R385). -/

def State.ptEn (s : State) : Bool := s.ptcfg.getLsbD 0
def State.ptGm (s : State) : Bool := s.ptcfg.getLsbD 1
def State.upPort (s : State) : Nat := (s.ptcfg.extractLsb' 2 5).toNat
def State.logSync (s : State) : BitVec 8 := s.ptcfg.extractLsb' 8 8

/-- Ports of the Keuri router (R18). -/
def keuriPorts : Nat := 32

/-- A second in NOW units (R264). -/
def nowPerSecond : Nat := 1000000 * Config.nowPerMicrosecond

/-- The sync interval in NOW units (R385): 2 to the power LOGSYNC seconds; a number outside −10 to −3 names no interval. -/
def State.syncEvery (s : State) : Option Nat :=
  let n := s.logSync.toInt
  if -10 ≤ n ∧ n ≤ -3 then some (nowPerSecond / 2 ^ (-n).toNat) else none

/-- Does a launch run on the package (R264, R384). -/
def State.launchRuns (s : State) : Bool := [0, 1].any fun l => (s.leaf l).member.any fun m => m.running.isSome

/-! The estimate and LOCK (R384, R386). -/

/-- Ten nanoseconds in NOW units (R386). -/
def tenNs : Int := 10240

/-- The difference of two NOW values, signed. -/
def nowDiff (a b : W64) : Int := (a - b).toInt

/-- An offset estimate (R384 to R386): NOW is slewed by it, or stepped as the package gains LOCK with no launch running. An
estimate beyond OFFSET's 32 bits leaves that field's value free (log 5). -/
def State.estimate (s : State) (x : Int) : State :=
  let small : Bool := decide (-tenNs ≤ x) && decide (x ≤ tenNs)
  let big : Bool := decide (x < -2 * tenNs) || decide (2 * tenNs < x)
  let good := if small then s.goodSyncs + 1 else 0
  let s := if -2 ^ 31 ≤ x ∧ x < 2 ^ 31 then { s with offset := BitVec.ofInt 32 x }
    else
      let (w, s) := s.freeWord
      { s with offset := w.setWidth 32 }
  let s := { s with goodSyncs := good, slew := -90 * x }
  if s.lock && big then { s with lock := false, unlocked := true, goodSyncs := 0 }.firePf vecTime
  else if !s.lock && decide (16 ≤ good) then
    if s.launchRuns then { s with lock := true } else { s with lock := true, now := s.now - BitVec.ofInt 64 x, slew := 0 }
  else s

/-! Sync and Follow_Up. -/

/-- Kinds of message. -/
def kSync : Nat := 0
def kFollowUp : Nat := 1
def kPdelayReq : Nat := 2
def kPdelayResp : Nat := 3
def kPdelayRespFollowUp : Nat := 4

/-- Does the servo take messages of a port: the one toward the grandmaster (R384, R385). -/
def State.fromUp (s : State) (port : Nat) : Bool := s.ptEn && !s.ptGm && port == s.upPort

/-- SYNC (R384): its arrival is timestamped at the lane; its origin comes with the Follow_Up. -/
def execSync (port : Nat) (_origin arrival : W64) (s : State) : Host.Outcome State Fault Refusal :=
  if s.fromUp port then .next { s with syncAt := arrival } else .next s

/-- FOLLOW_UP (R384): the offset is estimated from the Sync's origin, the correction and the link's delay. -/
def execFollowUp (port : Nat) (origin correction : W64) (s : State) : Host.Outcome State Fault Refusal :=
  if s.fromUp port then .next (s.estimate (nowDiff s.syncAt (origin + correction + s.linkDelay.get port 0))) else .next s

/-- SYNC_INTERVAL (R384, R385): the grandmaster, and every boundary clock on its other ports, sends Sync and Follow_Up; the
grandmaster's own offset is 0. -/
def execSyncInterval (s : State) : Host.Outcome State Fault Refusal :=
  if !s.ptEn then .next (s.unpost .syncInterval)
  else if (match s.syncEvery with
    | some _ => decide (s.now.toNat < s.syncNext.toNat)
    | none => false) then .next s
  else
    let ports := (List.range keuriPorts).filter fun p => s.link p == .up && (s.ptGm || p != s.upPort)
    let s := ports.foldl (fun s p => (s.emit (.ptp kSync p s.now)).emit (.ptp kFollowUp p s.now)) s
    let s := { s with syncNext := s.now + BitVec.ofNat 64 (s.syncEvery.getD 0) }
    .next (if s.ptGm then s.estimate 0 else s)

/-! Path delay, peer to peer on each link (R384). -/

/-- PDELAY_REQ_INTERVAL (R384): a measurement begins with Pdelay_Req on a link. -/
def execPdelayReqInterval (port : Nat) (s : State) : Host.Outcome State Fault Refusal :=
  if !s.ptEn then .next (s.unpost (.pdelayReqInterval port))
  else if s.link port ≠ .up then .next s
  else .next ({ s with pdelayT1 := s.pdelayT1.set port s.now }.emit (.ptp kPdelayReq port s.now))

/-- PDELAY_REQ (R384): it is answered with its receipt time, and with the time of the answer. -/
def execPdelayReq (port : Nat) (arrival : W64) (s : State) : Host.Outcome State Fault Refusal :=
  .next ((s.emit (.ptp kPdelayResp port arrival)).emit (.ptp kPdelayRespFollowUp port s.now))

/-- PDELAY_RESP (R384). -/
def execPdelayResp (port : Nat) (reqReceipt arrival : W64) (s : State) : Host.Outcome State Fault Refusal :=
  .next { s with pdelayT2 := s.pdelayT2.set port reqReceipt, pdelayT4 := s.pdelayT4.set port arrival }

/-- PDELAY_RESP_FOLLOW_UP (R384): half the time of the exchange that the peer did not hold is the link's delay. -/
def execPdelayRespFollowUp (port : Nat) (respOrigin : W64) (s : State) : Host.Outcome State Fault Refusal :=
  let round := nowDiff (s.pdelayT4.get port 0) (s.pdelayT1.get port 0) - nowDiff respOrigin (s.pdelayT2.get port 0)
  .next { s with linkDelay := s.linkDelay.set port (BitVec.ofInt 64 (round / 2)) }

end Sys2Proof.Machine
end

