-- ==== Sys2Proof/Machine/Keys.lean ====
section
/-! DEFINITION. Buffer shares, the SPDM responder and the key slots of the router (R364 to R366). -/

namespace Sys2Proof.Machine

/-! Buffer shares (R364). -/

/-- RESV of a key ID (R364). -/
def State.resv (s : State) (key : Nat) : BitVec 6 := s.kbshare.get key 4

/-- Key IDs (R19). -/
def keyIds : Nat := 256

/-- KBSHARE_WRITE (R364): a write that would bring the sum above 8,192 is ignored. -/
def execKbshareWrite (key : Nat) (value : W64) (s : State) : Host.Outcome State Fault Refusal :=
  let x : BitVec 6 := value.setWidth 6
  let sum := ((List.range keyIds).map fun k => if k = key then x.toNat else (s.resv k).toNat).sum
  if key < keyIds ∧ sum ≤ 8192 then .next { s with kbshare := s.kbshare.set key x } else .next s

/-! SPDM (R365). -/

/-- Kinds of SPDM response: the request's step in the sequence, INSTALL's, and the refusal of a request out of turn. -/
def spdmRefused : Nat := 255
def spdmInstalled : Nat := 9

/-- Answer a request that may come in some phases; one out of turn is refused, and nothing changes. -/
def State.spdmStep (s : State) (kind : Nat) (ok : Bool) (next : SpdmPhase) (body : List Byte) : State :=
  if ok then { s with spdm := next }.emit (.spdm kind body) else s.emit (.spdm spdmRefused [])

/-- GET_VERSION (R365): it begins the sequence. -/
def execGetVersion (s : State) : Host.Outcome State Fault Refusal := .next (s.spdmStep 0 true .version [])

/-- GET_CAPABILITIES (R365). -/
def execGetCapabilities (s : State) : Host.Outcome State Fault Refusal := .next (s.spdmStep 1 (s.spdm == .version) .capabilities [])

/-- NEGOTIATE_ALGORITHMS (R365). -/
def execNegotiateAlgorithms (s : State) : Host.Outcome State Fault Refusal := .next (s.spdmStep 2 (s.spdm == .capabilities) .algorithms [])

/-- GET_DIGESTS (R365). -/
def execGetDigests (s : State) : Host.Outcome State Fault Refusal := .next (s.spdmStep 3 (s.spdm == .algorithms) .digests [])

/-- GET_CERTIFICATE (R365). -/
def execGetCertificate (s : State) : Host.Outcome State Fault Refusal := .next (s.spdmStep 4 (s.spdm == .digests) .certificate [])

/-- RKSLOT as a register reads it (R366). -/
def KeySlot.reg (k : KeySlot) : W64 := k.gang.zeroExtend 64 ||| (if k.enrolled then 0x10000 else 0) ||| (if k.revoke then 0x20000 else 0)

/-- A key slot of the router. -/
def State.slotOf (s : State) (n : Nat) : KeySlot := s.rkslots.get n .reset

/-- Key slots of a router (R366). -/
def keySlots : Nat := 64

/-- What the three measurements are taken over (R365): the firmware image; the route entries and KBSHARE values; the key slot
table. -/
def State.measured (s : State) : List (List Byte) :=
  [s.flash.map fun c => c.2,
   (s.routes.flatMap fun r => leBytes 2 r.1 ++ leBytes 64 r.2.toNat) ++ (List.range keyIds).map fun k => (s.resv k).setWidth 8,
   (List.range keySlots).flatMap fun n => leBytes 8 (s.slotOf n).reg.toNat]

/-- GET_MEASUREMENTS (R365): indexes 1 to 3. -/
def execGetMeasurements (s : State) : Host.Outcome State Fault Refusal :=
  .next (s.spdmStep 5 (s.spdm == .certificate) .measured (s.measured.flatMap fun b => leBytes 48 (Config.sha384 b).toNat))

/-- KEY_EXCHANGE (R365). -/
def execKeyExchange (s : State) : Host.Outcome State Fault Refusal := .next (s.spdmStep 6 (s.spdm == .measured) .keyed [])

/-- FINISH (R365): the secure session is open. -/
def execFinish (s : State) : Host.Outcome State Fault Refusal := .next (s.spdmStep 7 (s.spdm == .keyed) .session [])

/-! Key slots (R366). -/

/-- Replace a key slot. -/
def State.setSlot (s : State) (n : Nat) (k : KeySlot) : State := { s with rkslots := s.rkslots.set n k }

/-- INSTALL (R365, R366, R456): within a session, into a free slot; a gang that holds a slot has its key replaced once no
combining state remains; while the management processor reloads, the request waits. -/
def execInstall (gang slot : Nat) (key : BitVec 256) (s : State) : Host.Outcome State Fault Refusal :=
  if s.mpDown then .next s
  else if s.spdm ≠ .session then .next (s.emit (.spdm spdmRefused []))
  else match List.find? (fun (k : Nat × KeySlot) => k.2.enrolled && k.2.gang.toNat == gang) s.rkslots with
    | some (n, k) => .next (((s.setSlot n { k with next := some key }).postOnce (.keySlotClear n)).emit (.spdm spdmInstalled []))
    | none =>
      if keySlots ≤ slot ∨ (s.slotOf slot).enrolled = true ∨ gang = 0 ∨ 2 ^ 16 ≤ gang then .next (s.emit (.spdm spdmRefused []))
      else .next ((s.setSlot slot { gang := BitVec.ofNat 16 gang, enrolled := true, key := key, revoke := false, next := none }).emit (.spdm spdmInstalled []))

/-- REVOKE (R366): the slot is cleared once the router holds no combining state for its gang. -/
def execRevoke (slot : Nat) (s : State) : Host.Outcome State Fault Refusal :=
  if keySlots ≤ slot ∨ (s.slotOf slot).enrolled = false then .next s
  else .next ((s.setSlot slot { s.slotOf slot with revoke := true }).postOnce (.keySlotClear slot))

/-- Does the router hold combining state for a gang, or a placement of a collective already issued (R366). -/
def State.combining (s : State) (gang : Nat) : Bool :=
  (s.nodes.any fun n => n.gang == gang && !n.parts.isEmpty) || s.trees.any fun t => t.gang == gang && !s.treeOver t

/-- KEY_SLOT_CLEAR (R366): a deferred revocation or replacement takes effect. -/
def execKeySlotClear (slot : Nat) (s : State) : Host.Outcome State Fault Refusal :=
  let ev := Ev.keySlotClear slot
  let k := s.slotOf slot
  if !k.revoke && k.next.isNone then .next (s.unpost ev)
  else if s.combining k.gang.toNat then .next s
  else if k.revoke then .next ((s.unpost ev).setSlot slot .reset)
  else .next ((s.unpost ev).setSlot slot { k with key := k.next.getD k.key, next := none })

end Sys2Proof.Machine
end

