-- ==== Sys2Proof/Machine/PoolEvents.lean ====
section
/-! DEFINITION. Pool regions and shares as the host sets them, back-invalidation, link loss and orphans (R268 to R277). -/

namespace Sys2Proof.Machine

/-- Pool regions (R268). -/
def poolRegionCount : Nat := 64

/-- The first aperture address and the first beyond it (R268). -/
def apertureBase : Nat := 0x800000000000
def apertureEnd : Nat := 0x1000000000000

/-- A region's registers. -/
def State.poolReg (s : State) (n : Nat) : PoolRegion := s.poolRegions.get n .reset

/-- Replace a region's registers. -/
def State.setPoolReg (s : State) (n : Nat) (r : PoolRegion) : State := { s with poolRegions := s.poolRegions.set n r }

/-- Does a region hold an aperture address. -/
def PoolRegion.holds (r : PoolRegion) (a : Nat) : Bool := decide (r.base.toNat ≤ a) && decide (a < r.base.toNat + r.size.toNat * 2 ^ 30)

/-- Is a line of the line cache, listed by key ID and line, an orphan of a region: only an enabled region has any (R269, R275). -/
def PoolRegion.orphaned (r : PoolRegion) (p : Nat × PoolLine) : Bool := r.en && p.2.state == .orphan && r.holds (64 * (p.1 / 256))

/-- The orphaned lines of a region (R275). -/
def State.orphans (s : State) (n : Nat) : List (Nat × PoolLine) := s.poolLines.filter (s.poolReg n).orphaned

/-! Setting (R269, R271). -/

/-- Do two ranges of aperture addresses overlap. -/
def PoolRegion.meets (a b : PoolRegion) : Bool :=
  decide (a.base.toNat < b.base.toNat + b.size.toNat * 2 ^ 30) && decide (b.base.toNat < a.base.toNat + a.size.toNat * 2 ^ 30)

/-- May a region be enabled (R269). -/
def State.regionFits (s : State) (n : Nat) (r : PoolRegion) : Bool :=
  r.size != 0 && decide (apertureBase ≤ r.base.toNat) && decide (r.base.toNat + r.size.toNat * 2 ^ 30 ≤ apertureEnd) &&
  s.poolRegions.all fun p => p.1 == n || !p.2.en || !p.2.meets r

/-- POOL_REGION_ENABLE (R269): a write to PRCFG. While EN is 1 it changes only EN. -/
def execPoolRegionEnable (n : Nat) (value : W64) (s : State) : Host.Outcome State Fault Refusal :=
  let r := s.poolReg n
  let en := value.getLsbD 0
  if r.en then
    if en || !(s.orphans n).isEmpty then .next s else .next (s.setPoolReg n { r with en := false, state := 0 })
  else
    let r := { r with port := value.extractLsb' 1 2, key := value.extractLsb' 8 8, size := value.extractLsb' 16 18 }
    if !en then .next (s.setPoolReg n r)
    else if s.regionFits n r then .next (s.setPoolReg n { r with en := true, state := 1, cfgerr := false })
    else .next (s.setPoolReg n { r with cfgerr := true })

/-- A write to PRBASE (R269): bits [29:0] are stored as 0; while EN is 1 nothing changes. -/
def State.setPrbase (s : State) (n : Nat) (value : W64) : State :=
  let r := s.poolReg n
  if r.en then s else s.setPoolReg n { r with base := value >>> 30 <<< 30 }

/-- PRSTAT as it reads (R269). -/
def State.prstat (s : State) (n : Nat) : W64 :=
  let r := s.poolReg n
  BitVec.ofNat 64 (r.state.toNat + r.cfgerr.toNat * 2 ^ 2 + r.trans.toNat * 2 ^ 3 + r.tcount.toNat * 2 ^ 16 + (s.orphans n).length % 2 ^ 20 * 2 ^ 32)

/-- The offset of PRSTAT of a region (R269). -/
def prstatOffset (n : Nat) : Nat := 0x3010 + 0x20 * n

/-- PRSTAT_READ (R269): the read clears TCOUNT. -/
def execPrstatRead (n : Nat) (s : State) : Host.Outcome State Fault Refusal :=
  .next ((s.emit (.readData 0 (prstatOffset n) (s.prstat n))).setPoolReg n { s.poolReg n with tcount := 0 })

/-- PLCSHARE_WRITE (R271): a write that would bring the sum above 2,048 is ignored. -/
def execPlcshareWrite (key : Nat) (value : W64) (s : State) : Host.Outcome State Fault Refusal :=
  let x : BitVec 12 := value.setWidth 12
  let sum := ((List.range keyIds).map fun k => if k = key then x.toNat else (s.plcshare.get k 0).toNat).sum
  if key < keyIds ∧ sum ≤ 2048 then .next { s with plcshare := s.plcshare.set key x } else .next s

/-! Orphans (R275, R276). -/

/-- Free the orphaned lines of a region. -/
def State.freeOrphans (s : State) (n : Nat) : State :=
  { s with poolLines := s.poolLines.filter fun p => !(s.poolReg n).orphaned p }

/-- The record of an orphaned line (R276). -/
def dumpRecord (line : Nat) (l : PoolLine) : List Byte :=
  leBytes 8 (64 * line) ++ leBytes 8 0 ++ leBytes 64 (Config.poolCipher l.key (64 * line) l.data).toNat

/-- Write bytes to host memory. -/
def State.hostPut (s : State) (a : Nat) (l : List Byte) : State :=
  (List.range l.length).foldl (fun s i => { s with host := s.host.write (a + i) (l.getD i 0) })
    s |>.wakeLines ((List.range ((a + l.length + 63) / 64 - a / 64)).map fun i => (Phys.host (a + 64 * i)).lineKey)

/-- DUMP (R276): one record for each orphaned line, then the lines are free. -/
def execDump (n : Nat) (s : State) : Host.Outcome State Fault Refusal :=
  .next ((s.hostPut (s.poolReg n).dump.toNat ((s.orphans n).flatMap fun p => dumpRecord (p.1 / 256) p.2)).freeOrphans n)

/-- DROP (R269): the lines are free, unwritten. -/
def execDrop (n : Nat) (s : State) : Host.Outcome State Fault Refusal := .next (s.freeOrphans n)

/-! Back-invalidation (R272). -/

/-- The lines of the line cache, under any key ID, that hold a line of a device. -/
def State.slotsOf (s : State) (line : Nat) : List (Nat × PoolLine) := s.poolLines.filter fun p => p.1 / 256 == line

/-- Must a BISnp of a line wait: an atomic in progress holds it, or the region's link is being retrained (R272, R275). -/
def State.bisnpWaits (s : State) (line : Nat) : Bool :=
  (s.slotsOf line).any (fun p => p.2.busy) || s.poolRegions.any fun p => p.2.en && p.2.holds (64 * line) && p.2.state == 2

/-- What a device then holds where the host that asked for a line has written it: what it wrote enciphered, unless it wrote nothing
(R270). -/
def State.poolTaken (s : State) (line : Nat) (data : BitVec 512) : State :=
  if s.pool.readNat (64 * line) 64 = data.toNat then s
  else { s with pool := s.pool.writeNat (64 * line) 64 data.toNat, poolClear := s.poolClear.erase line }

/-- BISNP (R272): the line is written back where it is M and leaves the cache; the device then holds what the host that asked
for it wrote. An orphan's device no longer answers. -/
def execBisnp (line : Nat) (data : BitVec 512) (s : State) : Host.Outcome State Fault Refusal :=
  if s.bisnpWaits line || (s.slotsOf line).any (fun p => p.2.state == .orphan) then .next s
  else .next (((s.slotsOf line).foldl (fun s p => s.poolEvict p.1) s).poolTaken line data)

/-! Link loss (R275, R277). -/

/-- How long RETRY may last, in NOW units (R275). -/
def retryLimit : Nat := us 40

/-- POOL_LINK_LOSS (R275): the region enters RETRY. -/
def execPoolLinkLoss (n : Nat) (s : State) : Host.Outcome State Fault Refusal :=
  let r := s.poolReg n
  if r.state = 1 then .next (s.setPoolReg n { r with state := 2, retryAt := s.now }) else .next s

/-- Has RETRY of a region lasted its time. -/
def PoolRegion.late (r : PoolRegion) (now : W64) : Bool := r.state == 2 && decide (r.retryAt.toNat + retryLimit ≤ now.toNat)

/-- POOL_RETRY_SUCCESS (R275): within 40 µs the loss was transient. -/
def execPoolRetrySuccess (n : Nat) (s : State) : Host.Outcome State Fault Refusal :=
  let r := s.poolReg n
  if r.state = 2 ∧ r.late s.now = false then .next (s.setPoolReg n { r with state := 1, trans := true, tcount := satInc r.tcount }) else .next s

/-- An atomic in flight may have performed before the region was lost (R275): which is free (log 4). -/
def State.maybePerform (s : State) (who : Nat) (e : LoadEntry) : State :=
  match e.kind, e.lines with
  | .atomic op wide x q, (l, .pool a) :: _ =>
    if s.poolOwned (s.keyVf (leafOf who)).1 (a / 64) then
      let (yes, s) := s.choose [true, false]
      if yes = some true then (s.atomicAt who e op wide x q l (.pool a)).1 else s
    else s
  | _, _ => s

/-- A load or atomic in flight to a region that is lost ends (R275). -/
def State.loseAccess (s : State) (r : PoolRegion) (who : Nat) (e : LoadEntry) : State :=
  if e.lines.any fun p => match p.2 with
    | .pool a => r.holds a
    | _ => false
  then (s.maybePerform who e).loseLoad who e POOLLOST else s

/-- Does a buffered store go to a region, as its translation stands (R250, R275). -/
def State.storesTo (s : State) (r : PoolRegion) (who : Nat) (e : StoreEntry) : Bool :=
  match e.part 64 with
  | none => false
  | some p => match s.xlate (leafOf who) needWr p.va with
    | .mapped x => match x.at p.va with
      | .pool a => r.holds a
      | _ => false
    | _ => false

/-- A strand's accesses to a region that is lost: loads and atomics in flight end, and buffered stores fault (R275). -/
def State.loseStrand (s : State) (r : PoolRegion) (who : Nat) (t : Strand) : State :=
  let lost := t.stores.filter (s.storesTo r who)
  lost.foldl (fun s e => s.faultStore who e) (t.loads.foldl (fun s e => s.loseAccess r who e) s)

/-- A line of a lost region: dropped, or orphaned where it is M (R275). -/
def PoolLine.lose (l : PoolLine) : Option PoolLine :=
  match l.state with
  | .shared | .exclusive => none
  | .modified | .orphan => some { l with state := .orphan, busy := false }

/-- POOL_RETRY_EXPIRY (R275): the loss is lasting, and the region turns LOST. -/
def execPoolRetryExpiry (n : Nat) (s : State) : Host.Outcome State Fault Refusal :=
  let r := s.poolReg n
  if !r.late s.now then .next s else
  let s := s.strands.foldl (fun s p => s.loseStrand r p.1 p.2) s
  let s := s.setPoolReg n { r with state := 3 }
  .next { s with poolLines := s.poolLines.filterMap fun (p : Nat × PoolLine) =>
            if r.holds (64 * (p.1 / 256)) then p.2.lose.map fun l => (p.1, l) else some p }

end Sys2Proof.Machine
end

