-- ==== Sys2Proof/Machine/Errors.lean ====
section
/-! DEFINITION. Link faults, storage errors, the leaf freeze, core failure, and lines that L1 gives up (R285, R359,
R404 to R406, R424, R454, R455). -/

namespace Sys2Proof.Machine

/-! Keuri links (R359, R454, R455). -/

/-- FLIT_CRC_ERROR (R359): the sending port replays the flit below the packet layer; a program sees only delay. -/
def execFlitCrcError (_port : Nat) (s : State) : Host.Outcome State Fault Refusal := .next s

/-- A port begins to retrain; it must end within 100 µs (R454). -/
def State.retrain (s : State) (port : Nat) (again : Bool) : State :=
  { s with links := s.links.set port .retraining, linkTry := s.linkTry.set port { again := again, since := s.now } }

/-- LINK_DOWN (R454). -/
def execLinkDown (port : Nat) (s : State) : Host.Outcome State Fault Refusal :=
  if s.link port = .up then .next (s.retrain port false) else .next s

/-- The packets that wait for a port leave by it, in order (R454). -/
def State.releasePort (s : State) (port : Nat) : State :=
  let mine := s.portWait.filter fun x => x.port == port
  mine.foldl State.byPort { s with portWait := s.portWait.filter fun x => x.port != port }

/-- A retraining has ended: a first success is a transient fault, a failure a lasting one (R454, R455). -/
def State.retrained (s : State) (port : Nat) (ok : Bool) : State :=
  let again := (s.linkTry.get port { again := false, since := 0 }).again
  let s := { s with linkTry := s.linkTry.erase port }
  if ok then
    let s := { s with links := s.links.set port .up, linktr := if again then s.linktr else satInc s.linktr }
    s.releasePort port
  else { s with links := s.links.set port .down }.firePf vecError

/-- LINK_RETRAIN_END (R454). -/
def execLinkRetrainEnd (port : Nat) (ok : Bool) (s : State) : Host.Outcome State Fault Refusal :=
  if s.link port = .retraining then .next (s.retrained port ok) else .next s

/-- Has a port retrained for 100 µs (R454). -/
def State.linkLate (s : State) (port : Nat) : Bool :=
  s.link port == .retraining && decide ((s.linkTry.get port { again := false, since := 0 }).since.toNat + us 100 ≤ s.now.toNat)

/-- LINKDN_DOWN_CLEAR (R455): each port lasting down whose bit is written 1 retrains once. -/
def execLinkdnDownClear (bits : BitVec 32) (s : State) : Host.Outcome State Fault Refusal :=
  .next ((List.range keuriPorts).foldl (fun s n => if bits.getLsbD n && s.link n == .down then s.retrain n true else s) s)

/-! The leaf freeze (R424). -/

/-- A freeze of 40 clocks begins in the next clock, or after the one in progress. freezeLeft is one more than the frozen
clocks still to come, 0 while there is none. -/
def Leaf.freeze (l : Leaf) : Leaf := { l with freezeLeft := if l.freezeLeft = 0 then 41 else l.freezeLeft + 40 }

/-- A correctable error is counted and freezes its leaf (R424, R455). -/
def State.correctable (s : State) (leaf : Nat) : State :=
  s.onLeaf leaf fun l => { l.freeze with err := { l.err with ce := satInc l.err.ce } }

/-- CORRECTABLE_ERROR (R424). -/
def execCorrectableError (leaf _unit : Nat) (s : State) : Host.Outcome State Fault Refusal := .next (s.correctable leaf)

/-- FREEZE_END (R424): what has waited at the leaf's edge is delivered, in the order it came. -/
def execFreezeEnd (leaf : Nat) (s : State) : Host.Outcome State Fault Refusal :=
  if (s.leaf leaf).freezeLeft ≠ 0 then .next s else
  let held := (s.leaf leaf).edge
  .next (held.foldl (fun s p => s.arrivePacket leaf p) ((s.unpost (.freezeEnd leaf)).onLeaf leaf fun l => { l with edge := [] }))

/-! Uncorrectable errors and lasting faults (R405, R406, R454). -/

/-- A lasting fault of a leaf sets LAST, and the error vector fires as it sets (R454, R455). -/
def State.lasting (s : State) (leaf : Nat) : State :=
  if (s.leaf leaf).err.last then s else (s.onLeaf leaf fun l => { l with err := { l.err with last := true } }).firePf vecError

/-- CORE_FAILURE (R405, R454). -/
def execCoreFailure (leaf core : Nat) (s : State) : Host.Outcome State Fault Refusal :=
  .next ((s.lasting leaf).gangFault leaf { plainFault 0x0C with core := some core })

/-- Retired-page registers of a leaf (R406). -/
def retiredPages : Nat := 64

/-- A page of a leaf's HBM is retired; a 65th is a lasting fault of the leaf (R406, R454). -/
def State.retire4K (s : State) (leaf off : Nat) : State :=
  let l := s.leaf leaf
  if l.retired off then s
  else if retiredPages ≤ l.retpg.length then (s.lasting leaf).gangFault leaf (plainFault 0x0C)
  else s.onLeaf leaf fun l => { l with retpg := l.retpg.set l.retpg.length (BitVec.ofNat 28 (off / 4096)) }

/-- A member that is out faults with UCLS at its next start exchange (R405). -/
def State.oweFault (s : State) (o : Owner) : State :=
  { s with contexts := s.contexts.map fun (p : Nat × Saved) => if p.1 = contextKey o.gang o.member then (p.1, { p.2 with owed := 0x0B }) else p }

/-- An error in a local store region (R405): its owner faults with UCLS, now if it holds the leaf, else at its next start
exchange; the region's tag names a dead owner. -/
def State.regionError (s : State) (leaf core n : Nat) : State :=
  let c := 64 * leaf + core
  let r := s.region c n
  match r.owner with
  | none => s
  | some o =>
    let s := s.setRegion c n { r with owner := some { o with dead := true } }
    match (s.leaf leaf).member with
    | some m =>
      if o.same m.owner then s.gangFault leaf { plainFault 0x0B with core := some core, addr := BitVec.ofNat 64 (16384 * n) }
      else s.oweFault o
    | none => s.oweFault o

/-- An error in an L1 line (R405): a clean line is dropped and counts as correctable, a dirty one is UCL1. -/
def State.l1Error (s : State) (leaf core line : Nat) : State :=
  let c := 64 * leaf + core
  match (s.core c).l1.find? line with
  | none => s
  | some l =>
    let s := s.dropLine c line
    if l.isDirty then s.gangFault leaf { plainFault 0x0D with core := some core, addr := BitVec.ofNat 64 (64 * l.vlines.headD 0) } else s.correctable leaf

/-- The kinds of storage of R405, as UNCORRECTABLE_ERROR numbers them, and an HBM read whose second attempt succeeds (R454). -/
def ueLocal : Nat := 0
def ueCore : Nat := 1
def ueL1 : Nat := 2
def ueHbm : Nat := 3
def uePool : Nat := 4
def ueTable : Nat := 5
def ueReread : Nat := 6

/-- UNCORRECTABLE_ERROR (R396, R404, R405, R406, R454). addr is 64 core + region for local store, the core for core state,
2^48 core + line for L1, an offset in the leaf's HBM, an aperture address, or where a walker read a table entry. -/
def execUncorrectableError (leaf unit addr : Nat) (s : State) : Host.Outcome State Fault Refusal :=
  if unit = ueLocal then .next (s.regionError leaf (addr / 64 % 64) (addr % 64))
  else if unit = ueCore then .next (s.gangFault leaf { plainFault 0x0C with core := some (addr % 64) })
  else if unit = ueL1 then .next (s.l1Error leaf (addr / 2 ^ 48 % 64) (addr % 2 ^ 48))
  else if unit = ueHbm then .next (s.retire4K leaf addr)
  else if unit = uePool then .next { s with poolBad := (addr / 4096) :: s.poolBad.filter (· != addr / 4096) }
  else if unit = ueTable then
    let root := ((s.vf (s.keyVf leaf).2)).ptroot
    let s := if root.getLsbD 1 then s else s.retire4K (if root.getLsbD 2 then 1 else 0) addr
    .next (s.gangFault leaf { plainFault 0x0E with addr := BitVec.ofNat 64 addr })
  else if unit = ueReread then .next (s.onLeaf leaf fun l => { l with err := { l.err with hbmtr := satInc l.err.hbmtr } })
  else .next s

/-- L1_EVICT (R285): the L1 writes a line back of its own accord, and keeps or drops it. -/
def execL1Evict (core line : Nat) (s : State) : Host.Outcome State Fault Refusal :=
  if (s.leaf (leafOfCore core)).freezeLeft ≠ 0 then .next s else
  let (keep, s) := (s.cleanLine core line).choose [true, false]
  .next (if keep = some true then s else s.dropLine core line)

/-! What a read returns (R455). -/

/-- ERRLEAF as it reads. -/
def ErrLeaf.reg (e : ErrLeaf) : W64 := BitVec.ofNat 64 (e.ce.toNat + e.hbmtr.toNat * 2 ^ 16 + e.misdel.toNat * 2 ^ 32 + e.keymis.toNat * 2 ^ 48 + e.last.toNat * 2 ^ 63)

/-- ERRLEAF_READ (R455): the counters are cleared, LAST stays. -/
def execErrleafRead (leaf offset : Nat) (s : State) : Host.Outcome State Fault Refusal :=
  if offset ≠ 0x0830 + 8 * leaf ∨ 2 ≤ leaf then .fault .noSuchRegister else
  .next ((s.emit (.readData 0 offset (s.leaf leaf).err.reg)).onLeaf leaf fun l => { l with err := { ErrLeaf.reset with last := l.err.last } })

/-- Is a reload of the management processor under way: MPRST reads 1 (R455, R456). -/
def State.mprst (s : State) : Bool := s.agenda.contains .mpReloaded

/-- ERRPKG as it reads. -/
def State.errpkg (s : State) : W64 := BitVec.ofNat 64 (s.linkerr.toNat + s.linktr.toNat * 2 ^ 16 + s.mphb.toNat * 2 ^ 32 + s.mprst.toNat * 2 ^ 48)

/-- ERRPKG_READ (R455). -/
def execErrpkgRead (offset : Nat) (s : State) : Host.Outcome State Fault Refusal :=
  if offset ≠ 0x0840 then .fault .noSuchRegister else
  .next { s.emit (.readData 0 0x0840 s.errpkg) with linkerr := 0, linktr := 0 }

/-- LINKDN as it reads. -/
def State.linkdn (s : State) : W64 :=
  BitVec.ofNat 64 (pack 1 (fun n => if s.link n == .down then 1 else 0) keuriPorts + pack 1 (fun n => if s.link n == .noPeer then 1 else 0) keuriPorts * 2 ^ 32)

end Sys2Proof.Machine
end

