-- ==== Sys2Proof/Machine/Power.lean ====
section
/-! DEFINITION. Start-up, minimal mode, the management processor, and power states (R13, R64, R449 to R456). -/

namespace Sys2Proof.Machine

/-! Starts (R449 to R451). -/

/-- A start's first steps follow power-on (R449): what lies outside the package stays, all else is as after reset. -/
def State.powerUp (s : State) : State :=
  { State.reset with flash := s.flash, host := s.host, pool := s.pool, poolClear := s.poolClear, inbox := s.inbox, out := s.out, pkg := s.pkg, freeCount := s.freeCount }

/-- What a function keeps over a start without power-on: its meters and reports (R442, R444). -/
def Vf.metersOnly (v : Vf) : Vf := { Vf.reset with meters := v.meters, reports := v.reports, prevHash := v.prevHash }

/-- A start without power-on (R449, R451): HBM, the meters, retired pages, pod time and the count of starts stay (R406, R442;
log 18). -/
def State.newStart (s : State) : State :=
  { s.powerUp with
    hbm := s.hbm, hbmKeys := s.hbmKeys, vfs := s.vfs.map fun (p : Nat × Vf) => (p.1, p.2.metersOnly)
    leaves := s.leaves.map fun (p : Nat × Leaf) => (p.1, { Leaf.reset with retpg := p.2.retpg, sealCount := p.2.sealCount })
    now := s.now, nowFrac := s.nowFrac, mpNext := s.mpNext, watts := s.watts, tj := s.tj, starts := s.starts, bootCause := s.bootCause }

/-- POWER_ON (R449). -/
def execPowerOn (s : State) : Host.Outcome State Fault Refusal := .next s.powerUp

/-- RESTART (R450, R451). -/
def execRestart (s : State) : Host.Outcome State Fault Refusal := .next s.newStart

/-- Minimal mode is entered (R451): no leaf is offered and no queue is served. -/
def State.enterMinimal (s : State) (cause : BitVec 8) : State :=
  { s with minimal := true, starting := false, isReady := false, bootCause := cause, leafOk := 0, agenda := [], timers := [] }

/-- Steps 2 and 3 of a start (R449, R451): the image is read and checked, measured, and begun. -/
def State.authenticate (s : State) : State :=
  let s := s.unpost .authenticate
  let v := Config.imageVerdict s.flash % 4
  if v = 0 then { s with startAt := s.now, fwver := Config.imageVersion s.flash }.post (.bringUp 2)
  else s.enterMinimal (BitVec.ofNat 8 v)

/-- Does READY fail to be set within 2 s of step 3 (R449). -/
def State.readyLate (s : State) : Bool := s.starting && s.agenda.contains (.bringUp 2) && decide (s.startAt.toNat + us 2000000 ≤ s.now.toNat)

/-- READY_TIMEOUT (R449, R451): a third failed start enters minimal mode; another runs the next start. -/
def execReadyTimeout (s : State) : Host.Outcome State Fault Refusal :=
  if !s.readyLate then .next s
  else if 2 ≤ s.starts.toNat then .next (s.enterMinimal 0x04)
  else .next { s.newStart with starts := s.starts + 1 }

/-- A core's ENGMAP as boot binds its units (R64): which survive is free, one scalar unit, one vector unit and one Hawk
instance at least, and each logical Hawk engine has a surviving instance. -/
def State.bindCore (s : State) (core : Nat) : State :=
  let (sca, s) := s.choose [1, 2, 3]
  let (vec, s) := s.choose [1, 2, 3]
  let (hawk, s) := s.choose ((List.range 15).map (· + 1))
  let ok := hawk.getD 15
  let (hmap, s) := s.choose ((List.range 256).filter fun m => (List.range 4).all fun e => ok.testBit (m / 4 ^ e % 4))
  s.onCore core fun c => { c with engmap := BitVec.ofNat 64 (sca.getD 3 + vec.getD 3 * 4 + ok * 16 + hmap.getD 0xE4 * 2 ^ 16) }

/-- The cores of a cluster have one set of Hawk instances (R64). -/
def State.bindCluster (s : State) (core : Nat) : State :=
  let h := (s.core core).engmap
  (List.range 7).foldl (fun s i => s.onCore (core + 1 + i) fun c =>
    { c with engmap := BitVec.ofNat 64 (c.engmap.toNat % 16 + h.toNat / 16 * 16) }) s

/-- Step 4 for one leaf (R13, R449): its HBM trains and its cores are tested and bound,
which leaves 0 to 4 spares (R22), or it is not offered; which is free (log 67). -/
def State.bringLeaf (s : State) (leaf : Nat) : State :=
  let (ok, s) := s.choose [true, false]
  let (sp, s) := s.choose [0, 1, 2, 3, 4]
  let s := (leafCores leaf).foldl State.bindCore s
  let s := (List.range 8).foldl (fun s k => s.bindCluster (64 * leaf + 8 * k)) s
  { s with leafOk := setBit s.leafOk leaf (ok.getD true), spares := s.spares.set leaf (if ok = some false then 0 else sp.getD 0) }.onLeaf leaf fun l => { l with training := false }

/-- Step 4 for the Keuri ports (R449, R455): each has a partner, or none. -/
def State.bringPorts (s : State) : State :=
  (List.range keuriPorts).foldl (fun s n =>
    let (x, s) := s.choose [LinkState.up, .noPeer]
    { s with links := s.links.set n (x.getD .up) }) s

/-- Steps 4 and 5 (R449, R451): the package's, or those that a leaf runs alone as it leaves OFF (R453). -/
def State.bringUp (s : State) (leaf : Nat) : State :=
  let s := s.unpost (.bringUp leaf)
  if leaf < 2 then s.bringLeaf leaf
  else { ((s.bringLeaf 0).bringLeaf 1).bringPorts with isReady := true, starting := false, starts := 0, bootCause := 0 }.offerAll

/-! The management processor (R455, R456). -/

/-- Does the management processor run its image. -/
def State.mpRuns (s : State) : Bool := !s.mpDown && !s.minimal && (s.isReady || s.agenda.contains (.bringUp 2))

/-- MPRST (R456): the image is loaded again while leaves and command processors run on. -/
def execMprst (s : State) : Host.Outcome State Fault Refusal :=
  if s.minimal || s.starting then .next s else .next ({ s with mpDown := true, isReady := false }.postOnce .mpReloaded)

/-- The reload has ended (R456): READY sets again, or CAUSE is MPFAIL, STARTS counts it and the processor stays halted. -/
def State.mpReloaded (s : State) : State :=
  let s := s.unpost .mpReloaded
  if Config.imageVerdict s.flash % 4 = 0 then { s with mpDown := false, isReady := true, fwver := Config.imageVersion s.flash }
  else { s with bootCause := 0x05, starts := satInc s.starts }

/-- A millisecond in NOW units. -/
def millisecond : Nat := us 1000

/-- Is the next millisecond's heartbeat due. -/
def State.beatDue (s : State) : Bool := decide (s.mpNext.toNat ≤ s.now.toNat)

/-- The temperature at which THWARN sets (R452). -/
def warnAt : BitVec 8 := 95

/-- THWARN (R452, R453): the bit sets, and the power vector fires. -/
def execThwarn (s : State) : Host.Outcome State Fault Refusal :=
  .next ({ s with thwarnBit := true, tj := if s.tj.toNat < warnAt.toNat then warnAt else s.tj }.unpost .thwarn |>.firePf vecPower)

/-- MP_HEARTBEAT (R455): MPHB advances while the processor runs; power and temperature are measured anew (R452; log 6). -/
def execMpHeartbeat (s : State) : Host.Outcome State Fault Refusal :=
  if !s.beatDue then .next s else
  let (n, s) := s.fresh
  let s := { s with mphb := if s.mpRuns then s.mphb + 1 else s.mphb, mpNext := s.mpNext + BitVec.ofNat 64 millisecond,
                    watts := Config.powerWatts n, tj := Config.freeByte n }
  .next (if warnAt.toNat ≤ s.tj.toNat ∧ s.thwarnBit = false then s.postOnce .thwarn else s)

/-- THERMAL_TRIP (R453): power is removed. -/
def execThermalTrip (s : State) : Host.Outcome State Fault Refusal := .next { s with powered := false, agenda := [], timers := [] }

/-! Power states (R452, R453). -/

/-- A PWRCTL value as it is stored (R452). -/
def pwrStored (value : W64) : W64 :=
  let st := (value.extractLsb' 0 2).toNat
  let clk := (value.extractLsb' 8 7).toNat
  BitVec.ofNat 64 ((if st = 3 then 0 else st) + (if 40 ≤ clk ∧ clk ≤ 90 then clk else 90) * 256)

/-- PWRCTL_WRITE (R453): the write is held pending, and replaces one that is. -/
def execPwrctlWrite (leaf : Nat) (value : W64) (s : State) : Host.Outcome State Fault Refusal :=
  .next (s.onLeaf leaf fun l => { l with pwrPend := some (pwrStored value) })

/-- May a pending write apply: no member holds the leaf (R453). -/
def State.pwrDue (s : State) (leaf : Nat) : Bool := (s.leaf leaf).pwrPend.isSome && (s.leaf leaf).member.isNone

/-- Every region of a leaf whose tag names a live owner is spilled (R77, R453). -/
def State.spillLive (s : State) (leaf : Nat) : State :=
  (leafCores leaf).foldl (fun s c => (s.core c).regions.foldl (fun s r => match r.2.owner with
    | some o => if o.dead then s else s.spill c r.1 o
    | none => s) s) s

/-- A leaf loses power: its cores keep nothing, its HBM refreshes itself (R452). -/
def State.leafOff (s : State) (leaf : Nat) : State :=
  let s := s.spillLive leaf
  { s with cores := s.cores.filter fun p => leafOfCore p.1 != leaf }

/-- PWRCTL_APPLY (R453): a leaf that leaves OFF is brought up first. -/
def execPwrctlApply (leaf : Nat) (s : State) : Host.Outcome State Fault Refusal :=
  match (s.leaf leaf).pwrPend with
  | none => .next s
  | some x =>
    if (s.leaf leaf).member.isSome then .next s else
    let was := s.pwrState leaf
    let s := s.onLeaf leaf fun l => { l with pwrctl := x, pwrPend := none }
    let off := s.pwrState leaf == 2
    if off then .next (if was = 2 then s else s.leafOff leaf)
    else if was = 2 then .next ((s.onLeaf leaf fun l => { l with training := true }).postOnce (.bringUp leaf))
    else .next s

/-! The flash write window (R450, R451). -/

/-- Where the window begins in BAR 2 (R450). -/
def flashWindow : Nat := 0x100000

/-- FLASH_WRITE_WINDOW (R450, R451): eight bytes of a new image, in minimal mode with FLASHEN set. -/
def execFlashWriteWindow (offset : Nat) (value : W64) (s : State) : Host.Outcome State Fault Refusal :=
  if offset < flashWindow then .fault .noSuchRegister
  else if s.minimal && s.flashen then .next { s with flash := s.flash.writeNat (offset - flashWindow) 8 value.toNat }
  else .next s

end Sys2Proof.Machine
end

