-- ==== Sys2Proof/Machine/Registers.lean ====
section
/-! DEFINITION. The register maps of BAR 0 as the host reads and writes them, the HBM window, translation invalidation and
the buffer counters (R6, R7, R22, R33 to R35, R51, R54 to R57, R64, R235, R237, R269, R271, R357, R364, R366, R385, R387,
R391, R395, R400, R403, R406, R442, R450, R452, R455). Function 0 is the physical function's management window, function
v + 1 virtual function v. -/

namespace Sys2Proof.Machine

/-! Invalidation (R395). -/

/-- The bytes that a SIZE code names; none for 5 and 6. -/
def invSize : Nat → Option Nat
  | 0 => some (2 ^ 12) | 1 => some (2 ^ 16) | 2 => some (2 ^ 21) | 3 => some (2 ^ 25) | 4 => some (2 ^ 30) | 7 => some (2 ^ 48)
  | _ => none

/-- Do n bytes at an address meet the range a function is invalidating. -/
def State.inInv (s : State) (vf va n : Nat) : Bool :=
  let v := s.vf vf
  match invSize v.tlbSize.toNat with
  | none => false
  | some z => overlaps va n (v.tlbPage * 4096 / z * z) z

/-- Every cached translation of the range is dropped. -/
def State.dropTlb (s : State) (vf : Nat) : State :=
  [0, 1].foldl (fun s l => s.onLeaf l fun x => { x with tlb := x.tlb.filter fun e => !(e.vf == vf && s.inInv vf e.base e.size) }) s

/-- TLBINV (R395). -/
def execTlbinv (vf : Nat) (value : W64) (s : State) : Host.Outcome State Fault Refusal :=
  let size := (value.extractLsb' 0 3).toNat
  if (s.vf vf).tlbBusy || (invSize size).isNone then .next s else
  let s := s.onVf vf fun v => { v with tlbBusy := true, tlbSize := BitVec.ofNat 3 size, tlbPage := (value.extractLsb' 12 36).toNat }
  .next ((s.dropTlb vf).postOnce (.tlbinvDone vf))

/-- Is the function's member on a leaf. -/
def State.holds (s : State) (vf leaf : Nat) : Bool := (s.leaf leaf).member.any fun m => m.vf == vf

/-- Have the accesses that a leaf has translated in the range performed, or been acknowledged (R395). -/
def State.invQuiet (s : State) (vf leaf : Nat) : Bool :=
  (s.leaf leaf).freezeLeft == 0 &&
  (!s.holds vf leaf ||
    ((leafStrands leaf).all fun w =>
       (s.strand w).loads.all (fun e => !s.inInv vf e.va e.len) && (s.strand w).stores.all (fun e => e.lines.isEmpty || !s.inInv vf e.va e.len) && (s.strand w).sent.all fun x => !s.inInv vf x.part x.len) &&
    (s.leaf leaf).remotes.all fun r => !s.inInv vf (64 * r.vline) 64)

/-- The L1 lines of a leaf in the range are cleaned and dropped (R285, R395). -/
def State.invL1 (s : State) (vf leaf : Nat) : State :=
  if !s.holds vf leaf then s else
  (leafCores leaf).foldl (fun s c => (s.core c).l1.foldl (fun s p =>
    if p.2.vlines.any fun v => s.inInv vf (64 * v) 64 then (s.cleanLine c p.1).dropLine c p.1 else s) s) s

/-- TLBINV_DONE (R395): BUSY clears once its conditions hold on both leaves. -/
def execTlbinvDone (vf : Nat) (s : State) : Host.Outcome State Fault Refusal :=
  if !(s.vf vf).tlbBusy then .next (s.unpost (.tlbinvDone vf))
  else if !(s.invQuiet vf 0 && s.invQuiet vf 1) then .next s
  else
    let s := (((s.unpost (.tlbinvDone vf)).invL1 vf 0).invL1 vf 1).dropTlb vf
    .next (s.onVf vf fun v => { v with tlbBusy := false })

/-! Buffer counters (R237). -/

/-- The counter of a buffer counter's offset: pair b at 0x8000 + 16 b, OTHER at 0x9000. -/
def bufCounter (offset : Nat) : Option Nat :=
  if offset % 8 = 0 ∧ 0x8000 ≤ offset ∧ offset < 0x9010 then some ((offset - 0x8000) / 8) else none

/-- BUFBYTES_READ (R237): the counter is read and cleared. -/
def execBufbytesRead (vf offset : Nat) (s : State) : Host.Outcome State Fault Refusal :=
  match bufCounter offset with
  | none => .fault .noSuchRegister
  | some k =>
    if s.minimal then .next s else
    .next ((s.emit (.readData (vf + 1) offset ((s.vf vf).bufs.get k 0))).onVf vf fun v => { v with bufs := v.bufs.set k 0 })

/-- FUNCTION_RESET (R237, R442): the buffer counters are cleared, and the meters are not. -/
def execFunctionReset (vf : Nat) (s : State) : Host.Outcome State Fault Refusal :=
  .next (s.onVf vf fun v => { v with bufs := [] })

/-! The HBM window (R235). -/

/-- Bytes of the window, and the number under which its reads are answered: BAR 4 of the physical function. -/
def windowSize : Nat := 2 ^ 20
def windowFn : Nat := 256

/-- HBM_WINDOW_ACCESS (R234, R235): eight bytes under key ID 0. -/
def execHbmWindowAccess (offset : Nat) (write : Bool) (value : W64) (s : State) : Host.Outcome State Fault Refusal :=
  if windowSize < offset + 8 then .fault .noSuchRegister
  else if s.minimal then .next s
  else
    let leaf := (s.hbmwin.extractLsb' 0 1).toNat
    let off := (s.hbmwin.extractLsb' 20 18).toNat * windowSize + offset
    if write then .next (s.hbmWrite leaf off 8 value.toNat 255 0)
    else
      let s := if s.keyOk leaf off (· == 0) then s else s.keyMiss leaf
      .next (s.emit (.readData windowFn offset (BitVec.ofNat 64 (s.hbmRead leaf off 8 (· == 0)))))

/-! Reading a register (R6, R7). -/

/-- SPARE of a leaf (R22): what the last boot left unbound, the part's number after reset. -/
def State.spare (s : State) (leaf : Nat) : Nat := (s.spares.get leaf (Config.partSpare leaf)).toNat % 5

/-- PKGID (R22). -/
def State.pkgid (s : State) : W64 :=
  BitVec.ofNat 64 (0xA51C + Config.partStep.toNat * 2 ^ 16 + (if s.minimal then 0 else s.leafOk.toNat) * 2 ^ 20 + 64 * 2 ^ 24 + 8 * 2 ^ 32 +
    s.spare 0 * 2 ^ 36 + s.spare 1 * 2 ^ 39 + s.minimal.toNat * 2 ^ 42)

/-- BOOTSTAT (R450). -/
def State.bootstat (s : State) : W64 := BitVec.ofNat 64 (s.starts.toNat + s.isReady.toNat * 2 ^ 2 + s.bootCause.toNat * 2 ^ 8 + s.fwver.toNat * 2 ^ 16)

/-- PWRSTAT (R452). -/
def State.pwrstat (s : State) : W64 :=
  BitVec.ofNat 64 (s.watts.toNat + s.tj.toNat * 2 ^ 16 + (s.leaf 0).pwrPend.isSome.toNat * 2 ^ 24 + (s.leaf 1).pwrPend.isSome.toNat * 2 ^ 25 + s.thwarnBit.toNat * 2 ^ 26)

/-- STCTL (R55). -/
def Leaf.stctl (l : Leaf) : W64 := BitVec.ofNat 64 (l.arm.toNat + l.inForce.toNat * 2 + l.sterr.toNat * 4)

/-- QCFG (R34). -/
def Queue.cfg (q : Queue) : W64 := BitVec.ofNat 64 (q.en.toNat + q.logsz.toNat * 2 + q.prio.toNat * 2 ^ 6 + q.proc.toNat * 2 ^ 9)

/-- QSTAT (R35). -/
def Queue.stat (q : Queue) : W64 := BitVec.ofNat 64 (q.halt.toNat + q.dberr.toNat * 2 ^ 3 + q.cause.toNat * 2 ^ 8 + q.index.toNat * 2 ^ 16)

/-- A ring's CFG register (R400, R403). -/
def Ring.cfg (r : Ring) : W64 := BitVec.ofNat 64 (r.en.toNat + r.logsz.toNat * 2)

/-- PRCFG (R269). -/
def PoolRegion.cfg (r : PoolRegion) : W64 := BitVec.ofNat 64 (r.en.toNat + r.port.toNat * 2 + r.key.toNat * 2 ^ 8 + r.size.toNat * 2 ^ 16)

/-- PTSTAT (R385). -/
def State.ptstat (s : State) : W64 := BitVec.ofNat 64 (s.lock.toNat + s.unlocked.toNat * 2 + s.offset.toNat * 2 ^ 16)

/-- The index of an offset in an array of n registers at a base, stride bytes apart; none outside it. -/
def regIndex (base stride n offset : Nat) : Option Nat :=
  if base ≤ offset ∧ offset < base + stride * n ∧ (offset - base) % stride = 0 then some ((offset - base) / stride) else none

/-- The index and the offset within of an array of n blocks at a base, stride bytes apart. -/
def regBlock (base stride n offset : Nat) : Option (Nat × Nat) :=
  if base ≤ offset ∧ offset < base + stride * n then some ((offset - base) / stride, (offset - base) % stride) else none

/-- The registers of the management window (R6): where an offset lies. -/
inductive PfReg where
  | pkgid | actfc (leaf : Nat) | stencil (leaf reg : Nat) | engmap (core : Nat) | bootstat | bootctl | pwrctl (leaf : Nat) | pwrstat
  | errleaf (leaf : Nat) | errpkg | linkdn | hbmwin | rkslot (n : Nat) | kbshare (x : Nat) | ptcfg | ptstat | pool (n reg : Nat)
  | plcshare (x : Nat) | vfallot (word : Nat) | retpg (leaf n : Nat) | cell (leaf slot : Nat) | route (dst word : Nat) | gang (g half : Nat)
deriving DecidableEq, Repr

/-- The register of the management window at an offset. -/
def pfReg (o : Nat) : Option PfReg :=
  if o = 0 then some .pkgid
  else if o = 0x0800 then some .bootstat
  else if o = 0x0808 then some .bootctl
  else if o = 0x0820 then some .pwrstat
  else if o = 0x0840 then some .errpkg
  else if o = 0x0848 then some .linkdn
  else if o = 0x0850 then some .hbmwin
  else if o = 0x2000 then some .ptcfg
  else if o = 0x2008 then some .ptstat
  else
    ((regIndex 0x0040 8 2 o).map .actfc).orElse fun _ =>
    ((regBlock 0x0200 0x40 2 o).bind fun p => if p.2 % 8 = 0 ∧ p.2 < 0x20 then some (.stencil p.1 (p.2 / 8)) else none).orElse fun _ =>
    ((regIndex 0x0400 8 128 o).map .engmap).orElse fun _ =>
    ((regIndex 0x0810 8 2 o).map .pwrctl).orElse fun _ =>
    ((regIndex 0x0830 8 2 o).map .errleaf).orElse fun _ =>
    ((regIndex 0x1000 8 keySlots o).map .rkslot).orElse fun _ =>
    ((regIndex 0x1800 8 keyIds o).map .kbshare).orElse fun _ =>
    ((regBlock 0x3000 0x20 poolRegionCount o).bind fun p => if p.2 % 8 = 0 then some (.pool p.1 (p.2 / 8)) else none).orElse fun _ =>
    ((regIndex 0x3800 8 keyIds o).map .plcshare).orElse fun _ =>
    ((regIndex 0x5000 8 1024 o).map .vfallot).orElse fun _ =>
    ((regIndex 0x7000 8 128 o).map fun i => .retpg (i / 64) (i % 64)).orElse fun _ =>
    ((regBlock 0x10000 0x1000 2 o).bind fun p => if p.2 % 4 = 0 then some (.cell p.1 (p.2 / 4)) else none).orElse fun _ =>
    ((regBlock 0x20000 64 993 o).bind fun p => if p.2 % 4 = 0 then some (.route p.1 (p.2 / 4)) else none).orElse fun _ =>
    (regIndex 0x40000 8 131072 o).map fun i => .gang (i / 2) (i % 2)

/-- What a read of a management register answers (R6): PWRCTL its last write, applied or pending (R453); a cell zeros in its
reserved bits, which arming alone sees as they were written (R56, R58). -/
def State.readPf (s : State) : PfReg → W64
  | .pkgid => s.pkgid
  | .actfc l => (s.leaf l).actfc
  | .stencil l 0 => (s.leaf l).shadow.frame0
  | .stencil l 1 => (s.leaf l).shadow.cfg
  | .stencil l 2 => (s.leaf l).shadow.slot
  | .stencil l _ => (s.leaf l).stctl
  | .engmap c => (s.core c).engmap
  | .bootstat => s.bootstat
  | .bootctl => if s.flashen then 2 else 0
  | .pwrctl l => (s.leaf l).pwrPend.getD (s.leaf l).pwrctl
  | .pwrstat => s.pwrstat
  | .errleaf l => (s.leaf l).err.reg
  | .errpkg => s.errpkg
  | .linkdn => s.linkdn
  | .hbmwin => s.hbmwin
  | .rkslot n => (s.slotOf n).reg
  | .kbshare x => (s.resv x).setWidth 64
  | .ptcfg => s.ptcfg
  | .ptstat => s.ptstat
  | .pool n 0 => (s.poolReg n).base
  | .pool n 1 => (s.poolReg n).cfg
  | .pool n 2 => s.prstat n
  | .pool n _ => (s.poolReg n).dump
  | .plcshare x => (s.plcshare.get x 0).setWidth 64
  | .vfallot w => s.allot.get w 0
  | .retpg l n => match (s.leaf l).retpg.find? n with
    | some p => BitVec.ofNat 64 (1 + p.toNat * 4096)
    | none => 0
  | .cell l n => (((s.leaf l).shadowCells.get n 0).setWidth 27).setWidth 64
  | .route d i => ((s.route d).extractLsb' (32 * i) 32).setWidth 64
  | .gang g h => ((s.gangRec g).extractLsb' (64 * h) 64)

/-- The registers of a virtual function's BAR 0. -/
inductive VfReg where
  | ptroot | tlbinv | tlbstat | prq (reg : Nat) | gfr (reg : Nat) | pweight (p : Nat) | queue (q reg : Nat) | buf (k : Nat) | meter (n : Nat)
deriving DecidableEq, Repr

/-- The register of a virtual function's BAR 0 at an offset. -/
def vfReg (o : Nat) : Option VfReg :=
  if o = 0x0100 then some .ptroot
  else if o = 0x0108 then some .tlbinv
  else if o = 0x0110 then some .tlbstat
  else
    ((regIndex 0x0120 8 4 o).map .prq).orElse fun _ =>
    ((regIndex 0x0140 8 4 o).map .gfr).orElse fun _ =>
    ((regIndex 0x0800 8 16 o).map .pweight).orElse fun _ =>
    ((regBlock 0x1000 0x40 64 o).bind fun p => if p.2 % 8 = 0 ∧ p.2 ≤ 0x20 then some (.queue p.1 (p.2 / 8)) else none).orElse fun _ =>
    ((bufCounter o).map .buf).orElse fun _ => (regIndex 0xA000 8 13 o).map .meter

/-- A ring's registers in order: BASE, CFG, TAIL, HEAD. -/
def Ring.reg (r : Ring) : Nat → W64
  | 0 => r.base
  | 1 => r.cfg
  | 2 => r.tail.setWidth 64
  | _ => r.head.setWidth 64

/-- What a read of a virtual function's register answers (R6). -/
def State.readVf (s : State) (vf : Nat) : VfReg → W64
  | .ptroot => (s.vf vf).ptroot
  | .tlbinv => 0
  | .tlbstat => if (s.vf vf).tlbBusy then 1 else 0
  | .prq i => (s.vf vf).prq.reg i
  | .gfr i => (s.vf vf).gfr.reg i
  | .pweight p => ((s.vf vf).weights.get p 1).setWidth 64
  | .queue q 0 => (s.queue vf q).base
  | .queue q 1 => (s.queue vf q).cfg
  | .queue q 2 => (s.queue vf q).tail.setWidth 64
  | .queue q 3 => (s.queue vf q).head.setWidth 64
  | .queue q _ => (s.queue vf q).stat
  | .buf k => (s.vf vf).bufs.get k 0
  | .meter n => (s.vf vf).meters.get n 0

/-! Writing a register (R6, R7). -/

/-- STCFG as it is stored (R55). -/
def stcfgStored (v : W64) : W64 :=
  let f (off n d : Nat) : Nat := let x := (v.extractLsb' off n).toNat
                                 if x = 0 then d else x
  let n := (v.extractLsb' 0 11).toNat
  BitVec.ofNat 64 ((if n = 0 ∨ 1024 < n then 1 else n) + f 16 16 40 * 2 ^ 16 + f 32 16 10 * 2 ^ 32 + f 48 16 200 * 2 ^ 48)

/-- A write to a leaf's stencil registers (R54, R55): they set the shadow; ARM arms it, STERR is W1C. -/
def State.writeStencil (s : State) (leaf reg : Nat) (v : W64) : Host.Outcome State Fault Refusal :=
  let put (f : Stencil → Stencil) : Host.Outcome State Fault Refusal := .next (s.onLeaf leaf fun l => { l with shadow := f l.shadow })
  match reg with
  | 0 => put fun x => { x with frame0 := v }
  | 1 => put fun x => { x with cfg := stcfgStored v }
  | 2 => put fun x => { x with slot := (v.extractLsb' 0 40).setWidth 64 }
  | _ =>
    let s := if v.getLsbD 2 then s.onLeaf leaf fun l => { l with sterr := false } else s
    if v.getLsbD 0 then execStencilArm leaf s else .next s

/-- A write to PTCFG (R385): with EN the package's messages begin. -/
def State.writePtcfg (s : State) (v : W64) : State :=
  let s := { s with ptcfg := v &&& 0xFF7F }
  if s.ptEn then (List.range keuriPorts).foldl (fun s p => s.postOnce (.pdelayReqInterval p)) (s.postOnce .syncInterval) else s

/-- A write to PRSTAT (R269): CFGERR and TRANS are W1C, DUMP and DROP W1S. A write of both to 1 dumps first, which leaves DROP no
line: the rule gives no order (DESIGN CHOICE; unsafe: hardware could drop the lines unwritten). -/
def State.writePrstat (s : State) (n : Nat) (v : W64) : Host.Outcome State Fault Refusal :=
  let r := s.poolReg n
  let s := s.setPoolReg n { r with cfgerr := r.cfgerr && !v.getLsbD 2, trans := r.trans && !v.getLsbD 3 }
  if v.getLsbD 52 then execDump n s else if v.getLsbD 53 then execDrop n s else .next s

/-- A write to a word of a route entry (R357): reserved bits stay 0; word 9 holds ACTIVE. -/
def State.writeRoute (s : State) (d i : Nat) (v : W64) : State :=
  let keep : Nat := if i ≤ 8 then 0x03FF003F else if i = 9 then 0xF else 0
  let e := (s.route d).toNat
  let old := e / 2 ^ (32 * i) % 2 ^ 32
  { s with routes := s.routes.set d (BitVec.ofNat 512 (e - old * 2 ^ (32 * i) + (v.toNat &&& keep) * 2 ^ (32 * i))) }

/-- A write to half of a gang's record (R57, R60): reserved bits stay 0. -/
def State.writeGang (s : State) (g h : Nat) (v : W64) : State :=
  let e := (s.gangRec g).toNat
  let keep : Nat := if h = 0 then 0xFFFF00FFFFFFFFFF else 0xFFFFFFFF
  let old := e / 2 ^ (64 * h) % 2 ^ 64
  { s with gangs := s.gangs.set g (BitVec.ofNat 128 (e - old * 2 ^ (64 * h) + (v.toNat &&& keep) * 2 ^ (64 * h))), gangsWritten := s.gangsWritten.set g 1 }

/-- A write to BOOTCTL (R450). -/
def State.writeBootctl (s : State) (v : W64) : Host.Outcome State Fault Refusal :=
  let s := { s with flashen := v.getLsbD 1 }
  if v.getLsbD 0 then execRestart s else .next s

/-- A write to a register of the management window. -/
def State.writePf (s : State) (r : PfReg) (v : W64) : Host.Outcome State Fault Refusal :=
  match r with
  | .stencil l i => s.writeStencil l i v
  | .bootctl => s.writeBootctl v
  | .pwrctl l => execPwrctlWrite l v s
  | .pwrstat => .next (if v.getLsbD 26 then { s with thwarnBit := false } else s)
  | .errpkg => if v.getLsbD 48 then execMprst s else .next s
  | .linkdn => execLinkdnDownClear (v.setWidth 32) s
  | .hbmwin => .next { s with hbmwin := v &&& 0x3FFFF00001 }
  | .rkslot n => if v.getLsbD 17 then execRevoke n s else .next s
  | .kbshare x => execKbshareWrite x v s
  | .ptcfg => .next (s.writePtcfg v)
  | .ptstat => .next (if v.getLsbD 1 then { s with unlocked := false } else s)
  | .pool n 0 => .next (s.setPrbase n v)
  | .pool n 1 => execPoolRegionEnable n v s
  | .pool n 2 => s.writePrstat n v
  | .pool n _ => .next (s.setPoolReg n { s.poolReg n with dump := v })
  | .plcshare x => execPlcshareWrite x v s
  | .vfallot w => .next { s with allot := s.allot.set w v }
  | .cell l n => .next (s.onLeaf l fun x => { x with shadowCells := x.shadowCells.set n (v.setWidth 32) })
  | .route d i => .next (s.writeRoute d i v)
  | .gang g h => .next (s.writeGang g h v)
  | .pkgid | .actfc _ | .engmap _ | .bootstat | .errleaf _ | .retpg _ _ => .next s

/-- A ring's CFG as it is stored: EN, and LOGSZ within its bounds (R400, R403). -/
def Ring.setCfg (r : Ring) (lo hi : Nat) (v : W64) : Ring :=
  let n := (v.extractLsb' 1 5).toNat
  { r with en := v.getLsbD 0, logsz := BitVec.ofNat 5 (if lo ≤ n ∧ n ≤ hi then n else lo) }

/-- A ring's HEAD: an index beyond the ring is ignored (R400). -/
def Ring.setHead (r : Ring) (v : W64) : Ring := if 2 ^ r.logsz.toNat ≤ v.toNat % 2 ^ 32 then r else { r with head := v.setWidth 32 }

/-- A write to a ring's registers. -/
def Ring.setReg (r : Ring) (lo hi i : Nat) (v : W64) : Ring :=
  match i with
  | 0 => { r with base := v }
  | 1 => r.setCfg lo hi v
  | 2 => r
  | _ => r.setHead v

/-- A write to the page-request ring's registers: requests held are written as far as the ring now has room (R400). -/
def State.writePrq (s : State) (vf i : Nat) (v : W64) : State :=
  let r := (s.vf vf).prq.setReg 4 12 i v
  let (r, h, adv) := Ring.flush 16 fitOne r.held.length r s.host false
  let s := { s.onVf vf (fun x => { x with prq := r }) with host := h }
  if adv then s.fireVf vf vecPageRequest else s

/-- A write to the gang fault report ring's registers (R403). -/
def State.writeGfr (s : State) (vf i : Nat) (v : W64) : State :=
  let r := (s.vf vf).gfr.setReg 6 16 i v
  let (r, h, adv) := Ring.flush 64 fitReport r.held.length r s.host false
  let s := { s.onVf vf (fun x => { x with gfr := r }) with host := h }
  if adv then s.fireVf vf vecGangFault else s

/-- QCFG written (R34): LOGSZ stays while EN is 1. -/
def Queue.setCfg (q : Queue) (v : W64) : Queue :=
  let n := (v.extractLsb' 1 5).toNat
  { q with en := v.getLsbD 0, prio := v.extractLsb' 6 3, proc := v.extractLsb' 9 4,
           logsz := if q.en then q.logsz else BitVec.ofNat 5 (if 4 ≤ n ∧ n ≤ 16 then n else 4) }

/-- A write to QSTAT (R35): a write with SKIP and RESET does both. -/
def State.writeQstat (s : State) (vf q : Nat) (v : W64) : Host.Outcome State Fault Refusal :=
  let s := if v.getLsbD 3 then s.onQueue vf q fun x => { x with dberr := false } else s
  let s := if v.getLsbD 1 then s.qstatSkip vf q else s
  .next (if v.getLsbD 2 then s.qstatReset vf q else s)

/-- A write to a register of a virtual function's BAR 0. -/
def State.writeVf (s : State) (vf : Nat) (r : VfReg) (v : W64) : Host.Outcome State Fault Refusal :=
  match r with
  | .ptroot => .next (s.onVf vf fun x => { x with ptroot := v &&& 0xFFFFFFFFFF007 })
  | .tlbinv => execTlbinv vf v s
  | .prq i => .next (s.writePrq vf i v)
  | .gfr i => .next (s.writeGfr vf i v)
  | .pweight p => .next (s.onVf vf fun x => { x with weights := x.weights.set p (if v.setWidth 8 = (0 : BitVec 8) then 1 else v.setWidth 8) })
  | .queue q 0 => .next (s.onQueue vf q fun x => if x.en then x else { x with base := v })
  | .queue q 1 => .next ((s.onQueue vf q fun x => x.setCfg v).offer vf q)
  | .queue q 2 => execQtailDoorbell vf q (v.setWidth 32) s
  | .queue q 4 => s.writeQstat vf q v
  | .queue _ _ | .tlbstat | .buf _ | .meter _ => .next s

/-- Virtual functions (R19). -/
def vfCount : Nat := 128

/-- REGISTER_WRITE (R6, R7): fields change by their access codes. In minimal mode only the management window works (R451). -/
def execRegisterWrite (fn offset : Nat) (value : W64) (s : State) : Host.Outcome State Fault Refusal :=
  if fn = 0 then
    match pfReg offset with
    | some r => s.writePf r value
    | none => .fault .noSuchRegister
  else if vfCount < fn then .fault .noSuchRegister
  else
    match vfReg offset with
    | some r => if s.minimal then .next s else s.writeVf (fn - 1) r value
    | none => .fault .noSuchRegister

end Sys2Proof.Machine
end

