-- ==== Sys2Proof/Machine/Scalar.lean ====
section
/-! DEFINITION. The scalar map: integer arithmetic, compares into predicates, immediates and work-identifier fields
(R161 to R171). None of them traps on a register's value (R161). -/

namespace Sys2Proof.Machine

/-- Write a scalar register when the bundle commits. -/
def writeS (d : BitVec 6) (x : W64) : Plan := .reg fun t => t.wrS d x

/-- Write a predicate when the bundle commits. -/
def writeP (d : BitVec 6) (b : Bool) : Plan := .reg fun t => t.wrP d b

/-- D from A and B. -/
def scalar2 (g : W64 → W64 → W64) (o : Rrr) (s : State) : Plan := writeS o.d (g (s.me.rdS o.a) (s.me.rdS o.b))

/-- D from A. -/
def scalar1 (g : W64 → W64) (o : Rr) (s : State) : Plan := writeS o.d (g (s.me.rdS o.a))

/-- D from A and IMM16. -/
def scalarI (g : W64 → BitVec 16 → W64) (o : Rri) (s : State) : Plan := writeS o.d (g (s.me.rdS o.a) o.imm)

/-- Predicate D from A and B. -/
def compare2 (g : W64 → W64 → Bool) (o : Rrr) (s : State) : Plan := writeP o.d (g (s.me.rdS o.a) (s.me.rdS o.b))

/-- Predicate D from A and SExt(IMM16) (R169). -/
def compareI (g : Int → Int → Bool) (o : Rri) (s : State) : Plan :=
  writeP o.d (g (s.me.rdS o.a).toInt o.imm.toInt)

/-- Predicate D from predicates A and B. -/
def predicate2 (g : Bool → Bool → Bool) (o : Rrr) (s : State) : Plan := writeP o.d (g (s.me.rdP o.a) (s.me.rdP o.b))

/-- Shift count: bits 5:0 (R163). -/
def count6 (b : W64) : Nat := b.toNat % 64

/-- MULH (R163). -/
def mulHigh (a b : W64) : W64 := wrap64 (a.toInt * b.toInt / 2 ^ 64)

/-- MULHU (R163). -/
def mulHighU (a b : W64) : W64 := BitVec.ofNat 64 (a.toNat * b.toNat / 2 ^ 64)

/-- DIV (R164). -/
def divS (a b : W64) : W64 :=
  if b = 0 then BitVec.allOnes 64
  else if a.toInt = -2 ^ 63 ∧ b.toInt = -1 then a
  else wrap64 (Int.tdiv a.toInt b.toInt)

/-- DIVU (R164). -/
def divUns (a b : W64) : W64 := if b = 0 then BitVec.allOnes 64 else BitVec.ofNat 64 (a.toNat / b.toNat)

/-- REM (R164). -/
def remS (a b : W64) : W64 :=
  if b = 0 then a
  else if a.toInt = -2 ^ 63 ∧ b.toInt = -1 then 0
  else wrap64 (a.toInt - b.toInt * Int.tdiv a.toInt b.toInt)

/-- REMU (R164). -/
def remUns (a b : W64) : W64 := if b = 0 then a else BitVec.ofNat 64 (a.toNat - b.toNat * (a.toNat / b.toNat))

/-- Number of one bits among the low n. -/
def ones (a : Nat) (n : Nat) : Nat := ((List.range n).filter fun i => a.testBit i).length

/-- A with bit i moved to bit 63 − i (R166). -/
def brev64 (a : W64) : W64 := BitVec.ofNat 64 (pack 1 (fun i => a.toNat / 2 ^ (63 - i)) 64)

/-- A with byte j moved to byte 7 − j (R166). -/
def bswap64 (a : W64) : W64 := BitVec.ofNat 64 (pack 8 (fun j => a.toNat / 2 ^ (8 * (7 - j))) 8)

/-- The first bit and the width of a chunk of a wide immediate (R168). -/
def chunk (sel : BitVec 2) : Nat × Nat := if sel = 0 then (0, 24) else if sel = 1 then (24, 24) else (48, 16)

/-- MOVI (R168). -/
def moviValue (sel : BitVec 2) (imm : BitVec 24) : W64 :=
  if sel = 0 then sext imm
  else if sel = 1 then wrap64 (imm.toInt * 2 ^ 24)
  else BitVec.ofNat 64 (imm.toNat % 2 ^ 16 * 2 ^ 48)

/-- MOVK (R168). -/
def movkValue (d : W64) (sel : BitVec 2) (imm : BitVec 24) : W64 :=
  let (lo, n) := chunk sel
  let m : W64 := BitVec.ofNat 64 ((2 ^ n - 1) * 2 ^ lo)
  (d &&& ~~~m) ||| BitVec.ofNat 64 (imm.toNat % 2 ^ n * 2 ^ lo)

/-- NOP (R105). -/
def planNop (_s : State) : Plan := .go id

/-- NOP issued alone. -/
def execNop (s : State) : Host.Outcome State Fault Refusal := alone .nop planNop s

/-- ADD (R163). -/
def planAdd (o : Rrr) (s : State) : Plan := scalar2 (· + ·) o s

/-- ADD issued alone. -/
def execAdd (o : Rrr) (s : State) : Host.Outcome State Fault Refusal :=
  alone (.add o) (planAdd o) s

/-- SUB (R163). -/
def planSub (o : Rrr) (s : State) : Plan := scalar2 (· - ·) o s

/-- SUB issued alone. -/
def execSub (o : Rrr) (s : State) : Host.Outcome State Fault Refusal :=
  alone (.sub o) (planSub o) s

/-- MUL (R163). -/
def planMul (o : Rrr) (s : State) : Plan := scalar2 (· * ·) o s

/-- MUL issued alone. -/
def execMul (o : Rrr) (s : State) : Host.Outcome State Fault Refusal :=
  alone (.mul o) (planMul o) s

/-- MULH (R163). -/
def planMulh (o : Rrr) (s : State) : Plan := scalar2 mulHigh o s

/-- MULH issued alone. -/
def execMulh (o : Rrr) (s : State) : Host.Outcome State Fault Refusal :=
  alone (.mulh o) (planMulh o) s

/-- MULHU (R163). -/
def planMulhu (o : Rrr) (s : State) : Plan := scalar2 mulHighU o s

/-- MULHU issued alone. -/
def execMulhu (o : Rrr) (s : State) : Host.Outcome State Fault Refusal :=
  alone (.mulhu o) (planMulhu o) s

/-- DIV (R164). -/
def planDiv (o : Rrr) (s : State) : Plan := scalar2 divS o s

/-- DIV issued alone. -/
def execDiv (o : Rrr) (s : State) : Host.Outcome State Fault Refusal :=
  alone (.div o) (planDiv o) s

/-- DIVU (R164). -/
def planDivu (o : Rrr) (s : State) : Plan := scalar2 divUns o s

/-- DIVU issued alone. -/
def execDivu (o : Rrr) (s : State) : Host.Outcome State Fault Refusal :=
  alone (.divu o) (planDivu o) s

/-- REM (R164). -/
def planRem (o : Rrr) (s : State) : Plan := scalar2 remS o s

/-- REM issued alone. -/
def execRem (o : Rrr) (s : State) : Host.Outcome State Fault Refusal :=
  alone (.rem o) (planRem o) s

/-- REMU (R164). -/
def planRemu (o : Rrr) (s : State) : Plan := scalar2 remUns o s

/-- REMU issued alone. -/
def execRemu (o : Rrr) (s : State) : Host.Outcome State Fault Refusal :=
  alone (.remu o) (planRemu o) s

/-- AND (R163). -/
def planAndS (o : Rrr) (s : State) : Plan := scalar2 (· &&& ·) o s

/-- AND issued alone. -/
def execAndS (o : Rrr) (s : State) : Host.Outcome State Fault Refusal :=
  alone (.andS o) (planAndS o) s

/-- OR (R163). -/
def planOrS (o : Rrr) (s : State) : Plan := scalar2 (· ||| ·) o s

/-- OR issued alone. -/
def execOrS (o : Rrr) (s : State) : Host.Outcome State Fault Refusal :=
  alone (.orS o) (planOrS o) s

/-- XOR (R163). -/
def planXorS (o : Rrr) (s : State) : Plan := scalar2 (· ^^^ ·) o s

/-- XOR issued alone. -/
def execXorS (o : Rrr) (s : State) : Host.Outcome State Fault Refusal :=
  alone (.xorS o) (planXorS o) s

/-- ANDN (R163). -/
def planAndn (o : Rrr) (s : State) : Plan := scalar2 (fun a b => a &&& ~~~b) o s

/-- ANDN issued alone. -/
def execAndn (o : Rrr) (s : State) : Host.Outcome State Fault Refusal :=
  alone (.andn o) (planAndn o) s

/-- SHL (R163). -/
def planShl (o : Rrr) (s : State) : Plan := scalar2 (fun a b => a <<< count6 b) o s

/-- SHL issued alone. -/
def execShl (o : Rrr) (s : State) : Host.Outcome State Fault Refusal :=
  alone (.shl o) (planShl o) s

/-- SHR (R163). -/
def planShr (o : Rrr) (s : State) : Plan := scalar2 (fun a b => a >>> count6 b) o s

/-- SHR issued alone. -/
def execShr (o : Rrr) (s : State) : Host.Outcome State Fault Refusal :=
  alone (.shr o) (planShr o) s

/-- SAR (R163). -/
def planSar (o : Rrr) (s : State) : Plan := scalar2 (fun a b => a.sshiftRight (count6 b)) o s

/-- SAR issued alone. -/
def execSar (o : Rrr) (s : State) : Host.Outcome State Fault Refusal :=
  alone (.sar o) (planSar o) s

/-- ROL (R163). -/
def planRol (o : Rrr) (s : State) : Plan := scalar2 (fun a b => a.rotateLeft (count6 b)) o s

/-- ROL issued alone. -/
def execRol (o : Rrr) (s : State) : Host.Outcome State Fault Refusal :=
  alone (.rol o) (planRol o) s

/-- MIN (R163). -/
def planMin (o : Rrr) (s : State) : Plan := scalar2 (fun a b => if b.slt a then b else a) o s

/-- MIN issued alone. -/
def execMin (o : Rrr) (s : State) : Host.Outcome State Fault Refusal :=
  alone (.min o) (planMin o) s

/-- MAX (R163). -/
def planMax (o : Rrr) (s : State) : Plan := scalar2 (fun a b => if a.slt b then b else a) o s

/-- MAX issued alone. -/
def execMax (o : Rrr) (s : State) : Host.Outcome State Fault Refusal :=
  alone (.max o) (planMax o) s

/-- MINU (R163). -/
def planMinu (o : Rrr) (s : State) : Plan := scalar2 (fun a b => if b.ult a then b else a) o s

/-- MINU issued alone. -/
def execMinu (o : Rrr) (s : State) : Host.Outcome State Fault Refusal :=
  alone (.minu o) (planMinu o) s

/-- MAXU (R163). -/
def planMaxu (o : Rrr) (s : State) : Plan := scalar2 (fun a b => if a.ult b then b else a) o s

/-- MAXU issued alone. -/
def execMaxu (o : Rrr) (s : State) : Host.Outcome State Fault Refusal :=
  alone (.maxu o) (planMaxu o) s

/-- SEL (R165). -/
def planSel (o : Rrrr) (s : State) : Plan := writeS o.d (if s.me.rdP o.c then s.me.rdS o.a else s.me.rdS o.b)

/-- SEL issued alone. -/
def execSel (o : Rrrr) (s : State) : Host.Outcome State Fault Refusal :=
  alone (.sel o) (planSel o) s

/-- SHADD (R165). -/
def planShadd (o : Rrrr) (s : State) : Plan := writeS o.d ((s.me.rdS o.a) <<< o.c.toNat + s.me.rdS o.b)

/-- SHADD issued alone. -/
def execShadd (o : Rrrr) (s : State) : Host.Outcome State Fault Refusal :=
  alone (.shadd o) (planShadd o) s

/-- CLZ (R166). -/
def planClz (o : Rr) (s : State) : Plan := scalar1 (fun a => BitVec.ofNat 64 (leadRun a.toNat 0 64)) o s

/-- CLZ issued alone. -/
def execClz (o : Rr) (s : State) : Host.Outcome State Fault Refusal :=
  alone (.clz o) (planClz o) s

/-- CTZ (R166). -/
def planCtz (o : Rr) (s : State) : Plan := scalar1 (fun a => BitVec.ofNat 64 (leadRun (brev64 a).toNat 0 64)) o s

/-- CTZ issued alone. -/
def execCtz (o : Rr) (s : State) : Host.Outcome State Fault Refusal :=
  alone (.ctz o) (planCtz o) s

/-- POPC (R166). -/
def planPopc (o : Rr) (s : State) : Plan := scalar1 (fun a => BitVec.ofNat 64 (ones a.toNat 64)) o s

/-- POPC issued alone. -/
def execPopc (o : Rr) (s : State) : Host.Outcome State Fault Refusal :=
  alone (.popc o) (planPopc o) s

/-- BREV (R166). -/
def planBrev (o : Rr) (s : State) : Plan := scalar1 brev64 o s

/-- BREV issued alone. -/
def execBrev (o : Rr) (s : State) : Host.Outcome State Fault Refusal :=
  alone (.brev o) (planBrev o) s

/-- BSWAP (R166). -/
def planBswap (o : Rr) (s : State) : Plan := scalar1 bswap64 o s

/-- BSWAP issued alone. -/
def execBswap (o : Rr) (s : State) : Host.Outcome State Fault Refusal :=
  alone (.bswap o) (planBswap o) s

/-- ADDI (R167). -/
def planAddi (o : Rri) (s : State) : Plan := scalarI (fun a i => a + sext i) o s

/-- ADDI issued alone. -/
def execAddi (o : Rri) (s : State) : Host.Outcome State Fault Refusal :=
  alone (.addi o) (planAddi o) s

/-- MULI (R167). -/
def planMuli (o : Rri) (s : State) : Plan := scalarI (fun a i => a * sext i) o s

/-- MULI issued alone. -/
def execMuli (o : Rri) (s : State) : Host.Outcome State Fault Refusal :=
  alone (.muli o) (planMuli o) s

/-- ANDI (R167). -/
def planAndi (o : Rri) (s : State) : Plan := scalarI (fun a i => a &&& sext i) o s

/-- ANDI issued alone. -/
def execAndi (o : Rri) (s : State) : Host.Outcome State Fault Refusal :=
  alone (.andi o) (planAndi o) s

/-- ORI (R167). -/
def planOri (o : Rri) (s : State) : Plan := scalarI (fun a i => a ||| zext i) o s

/-- ORI issued alone. -/
def execOri (o : Rri) (s : State) : Host.Outcome State Fault Refusal :=
  alone (.ori o) (planOri o) s

/-- XORI (R167). -/
def planXori (o : Rri) (s : State) : Plan := scalarI (fun a i => a ^^^ zext i) o s

/-- XORI issued alone. -/
def execXori (o : Rri) (s : State) : Host.Outcome State Fault Refusal :=
  alone (.xori o) (planXori o) s

/-- SHLI (R167). -/
def planShli (o : Rri) (s : State) : Plan := scalarI (fun a i => a <<< i.toNat) o s

/-- SHLI issued alone. -/
def execShli (o : Rri) (s : State) : Host.Outcome State Fault Refusal :=
  alone (.shli o) (planShli o) s

/-- SHRI (R167). -/
def planShri (o : Rri) (s : State) : Plan := scalarI (fun a i => a >>> i.toNat) o s

/-- SHRI issued alone. -/
def execShri (o : Rri) (s : State) : Host.Outcome State Fault Refusal :=
  alone (.shri o) (planShri o) s

/-- SARI (R167). -/
def planSari (o : Rri) (s : State) : Plan := scalarI (fun a i => a.sshiftRight i.toNat) o s

/-- SARI issued alone. -/
def execSari (o : Rri) (s : State) : Host.Outcome State Fault Refusal :=
  alone (.sari o) (planSari o) s

/-- A field of a work identifier (R171). -/
def widField (m : Member) (work : W64) (n : Nat) : W64 :=
  if m.nfields ≤ n then 0 else BitVec.ofNat 64 (work.toNat / 2 ^ m.fieldLo n % 2 ^ m.fieldWidth n)

/-- WIDF (R171). -/
def planWidf (o : Widf) (s : State) : Plan :=
  writeS o.d (match s.memberOf s.cur with
    | some m => widField m s.me.workid o.n.toNat
    | none => 0)

/-- WIDF issued alone. -/
def execWidf (o : Widf) (s : State) : Host.Outcome State Fault Refusal :=
  alone (.widf o) (planWidf o) s

/-- CMPEQ (R169). -/
def planCmpeq (o : Rrr) (s : State) : Plan := compare2 (· == ·) o s

/-- CMPEQ issued alone. -/
def execCmpeq (o : Rrr) (s : State) : Host.Outcome State Fault Refusal :=
  alone (.cmpeq o) (planCmpeq o) s

/-- CMPNE (R169). -/
def planCmpne (o : Rrr) (s : State) : Plan := compare2 (· != ·) o s

/-- CMPNE issued alone. -/
def execCmpne (o : Rrr) (s : State) : Host.Outcome State Fault Refusal :=
  alone (.cmpne o) (planCmpne o) s

/-- CMPLT (R169). -/
def planCmplt (o : Rrr) (s : State) : Plan := compare2 BitVec.slt o s

/-- CMPLT issued alone. -/
def execCmplt (o : Rrr) (s : State) : Host.Outcome State Fault Refusal :=
  alone (.cmplt o) (planCmplt o) s

/-- CMPLTU (R169). -/
def planCmpltu (o : Rrr) (s : State) : Plan := compare2 BitVec.ult o s

/-- CMPLTU issued alone. -/
def execCmpltu (o : Rrr) (s : State) : Host.Outcome State Fault Refusal :=
  alone (.cmpltu o) (planCmpltu o) s

/-- CMPLE (R169). -/
def planCmple (o : Rrr) (s : State) : Plan := compare2 BitVec.sle o s

/-- CMPLE issued alone. -/
def execCmple (o : Rrr) (s : State) : Host.Outcome State Fault Refusal :=
  alone (.cmple o) (planCmple o) s

/-- CMPLEU (R169). -/
def planCmpleu (o : Rrr) (s : State) : Plan := compare2 BitVec.ule o s

/-- CMPLEU issued alone. -/
def execCmpleu (o : Rrr) (s : State) : Host.Outcome State Fault Refusal :=
  alone (.cmpleu o) (planCmpleu o) s

/-- CMPEQI (R169). -/
def planCmpeqi (o : Rri) (s : State) : Plan := compareI (fun a i => decide (a = i)) o s

/-- CMPEQI issued alone. -/
def execCmpeqi (o : Rri) (s : State) : Host.Outcome State Fault Refusal :=
  alone (.cmpeqi o) (planCmpeqi o) s

/-- CMPNEI (R169). -/
def planCmpnei (o : Rri) (s : State) : Plan := compareI (fun a i => decide (a ≠ i)) o s

/-- CMPNEI issued alone. -/
def execCmpnei (o : Rri) (s : State) : Host.Outcome State Fault Refusal :=
  alone (.cmpnei o) (planCmpnei o) s

/-- CMPLTI (R169). -/
def planCmplti (o : Rri) (s : State) : Plan := compareI (fun a i => decide (a < i)) o s

/-- CMPLTI issued alone. -/
def execCmplti (o : Rri) (s : State) : Host.Outcome State Fault Refusal :=
  alone (.cmplti o) (planCmplti o) s

/-- CMPGEI (R169). -/
def planCmpgei (o : Rri) (s : State) : Plan := compareI (fun a i => decide (i ≤ a)) o s

/-- CMPGEI issued alone. -/
def execCmpgei (o : Rri) (s : State) : Host.Outcome State Fault Refusal :=
  alone (.cmpgei o) (planCmpgei o) s

/-- PAND (R170). -/
def planPand (o : Rrr) (s : State) : Plan := predicate2 (· && ·) o s

/-- PAND issued alone. -/
def execPand (o : Rrr) (s : State) : Host.Outcome State Fault Refusal :=
  alone (.pand o) (planPand o) s

/-- POR (R170). -/
def planPor (o : Rrr) (s : State) : Plan := predicate2 (· || ·) o s

/-- POR issued alone. -/
def execPor (o : Rrr) (s : State) : Host.Outcome State Fault Refusal :=
  alone (.por o) (planPor o) s

/-- PXOR (R170). -/
def planPxor (o : Rrr) (s : State) : Plan := predicate2 (· != ·) o s

/-- PXOR issued alone. -/
def execPxor (o : Rrr) (s : State) : Host.Outcome State Fault Refusal :=
  alone (.pxor o) (planPxor o) s

/-- PANDN (R170). -/
def planPandn (o : Rrr) (s : State) : Plan := predicate2 (fun a b => a && !b) o s

/-- PANDN issued alone. -/
def execPandn (o : Rrr) (s : State) : Host.Outcome State Fault Refusal :=
  alone (.pandn o) (planPandn o) s

/-- MOVI (R168). -/
def planMovi (o : Ri24) (_s : State) : Plan := writeS o.d (moviValue o.sel o.imm)

/-- MOVI issued alone. -/
def execMovi (o : Ri24) (s : State) : Host.Outcome State Fault Refusal :=
  alone (.movi o) (planMovi o) s

/-- MOVK (R168). -/
def planMovk (o : Ri24) (s : State) : Plan := writeS o.d (movkValue (s.me.rdS o.d) o.sel o.imm)

/-- MOVK issued alone. -/
def execMovk (o : Ri24) (s : State) : Host.Outcome State Fault Refusal :=
  alone (.movk o) (planMovk o) s

end Sys2Proof.Machine
end

