-- ==== Sys2Proof/Machine/Dispatch.lean ====
section
/-! DEFINITION. One arm per instruction. -/

namespace Sys2Proof.Machine

/-- What an instruction does to a state. -/
def exec (i : Instr) (s : State) : Host.Outcome State Fault Refusal :=
  match i with
  | .nop => Sys2Proof.Machine.execNop s
  | .add o => Sys2Proof.Machine.execAdd o s
  | .sub o => Sys2Proof.Machine.execSub o s
  | .mul o => Sys2Proof.Machine.execMul o s
  | .mulh o => Sys2Proof.Machine.execMulh o s
  | .mulhu o => Sys2Proof.Machine.execMulhu o s
  | .div o => Sys2Proof.Machine.execDiv o s
  | .divu o => Sys2Proof.Machine.execDivu o s
  | .rem o => Sys2Proof.Machine.execRem o s
  | .remu o => Sys2Proof.Machine.execRemu o s
  | .andS o => Sys2Proof.Machine.execAndS o s
  | .orS o => Sys2Proof.Machine.execOrS o s
  | .xorS o => Sys2Proof.Machine.execXorS o s
  | .andn o => Sys2Proof.Machine.execAndn o s
  | .shl o => Sys2Proof.Machine.execShl o s
  | .shr o => Sys2Proof.Machine.execShr o s
  | .sar o => Sys2Proof.Machine.execSar o s
  | .rol o => Sys2Proof.Machine.execRol o s
  | .min o => Sys2Proof.Machine.execMin o s
  | .max o => Sys2Proof.Machine.execMax o s
  | .minu o => Sys2Proof.Machine.execMinu o s
  | .maxu o => Sys2Proof.Machine.execMaxu o s
  | .sel o => Sys2Proof.Machine.execSel o s
  | .shadd o => Sys2Proof.Machine.execShadd o s
  | .clz o => Sys2Proof.Machine.execClz o s
  | .ctz o => Sys2Proof.Machine.execCtz o s
  | .popc o => Sys2Proof.Machine.execPopc o s
  | .brev o => Sys2Proof.Machine.execBrev o s
  | .bswap o => Sys2Proof.Machine.execBswap o s
  | .addi o => Sys2Proof.Machine.execAddi o s
  | .muli o => Sys2Proof.Machine.execMuli o s
  | .andi o => Sys2Proof.Machine.execAndi o s
  | .ori o => Sys2Proof.Machine.execOri o s
  | .xori o => Sys2Proof.Machine.execXori o s
  | .shli o => Sys2Proof.Machine.execShli o s
  | .shri o => Sys2Proof.Machine.execShri o s
  | .sari o => Sys2Proof.Machine.execSari o s
  | .widf o => Sys2Proof.Machine.execWidf o s
  | .cmpeq o => Sys2Proof.Machine.execCmpeq o s
  | .cmpne o => Sys2Proof.Machine.execCmpne o s
  | .cmplt o => Sys2Proof.Machine.execCmplt o s
  | .cmpltu o => Sys2Proof.Machine.execCmpltu o s
  | .cmple o => Sys2Proof.Machine.execCmple o s
  | .cmpleu o => Sys2Proof.Machine.execCmpleu o s
  | .cmpeqi o => Sys2Proof.Machine.execCmpeqi o s
  | .cmpnei o => Sys2Proof.Machine.execCmpnei o s
  | .cmplti o => Sys2Proof.Machine.execCmplti o s
  | .cmpgei o => Sys2Proof.Machine.execCmpgei o s
  | .pand o => Sys2Proof.Machine.execPand o s
  | .por o => Sys2Proof.Machine.execPor o s
  | .pxor o => Sys2Proof.Machine.execPxor o s
  | .pandn o => Sys2Proof.Machine.execPandn o s
  | .movi o => Sys2Proof.Machine.execMovi o s
  | .movk o => Sys2Proof.Machine.execMovk o s
  | .vadd o => Sys2Proof.Machine.execVadd o s
  | .vsub o => Sys2Proof.Machine.execVsub o s
  | .vmul o => Sys2Proof.Machine.execVmul o s
  | .vmin o => Sys2Proof.Machine.execVmin o s
  | .vmax o => Sys2Proof.Machine.execVmax o s
  | .vadds o => Sys2Proof.Machine.execVadds o s
  | .vsubs o => Sys2Proof.Machine.execVsubs o s
  | .vmulh o => Sys2Proof.Machine.execVmulh o s
  | .vdot4 o => Sys2Proof.Machine.execVdot4 o s
  | .vabs o => Sys2Proof.Machine.execVabs o s
  | .vneg o => Sys2Proof.Machine.execVneg o s
  | .fmaFp32 o => Sys2Proof.Machine.execFmaFp32 o s
  | .fmaBf16 o => Sys2Proof.Machine.execFmaBf16 o s
  | .fmaFp16 o => Sys2Proof.Machine.execFmaFp16 o s
  | .fmsFp32 o => Sys2Proof.Machine.execFmsFp32 o s
  | .fmsBf16 o => Sys2Proof.Machine.execFmsBf16 o s
  | .fmsFp16 o => Sys2Proof.Machine.execFmsFp16 o s
  | .fnmaFp32 o => Sys2Proof.Machine.execFnmaFp32 o s
  | .fnmaBf16 o => Sys2Proof.Machine.execFnmaBf16 o s
  | .fnmaFp16 o => Sys2Proof.Machine.execFnmaFp16 o s
  | .vcmpeq o => Sys2Proof.Machine.execVcmpeq o s
  | .vcmpne o => Sys2Proof.Machine.execVcmpne o s
  | .vcmplt o => Sys2Proof.Machine.execVcmplt o s
  | .vcmple o => Sys2Proof.Machine.execVcmple o s
  | .kand o => Sys2Proof.Machine.execKand o s
  | .kor o => Sys2Proof.Machine.execKor o s
  | .kxor o => Sys2Proof.Machine.execKxor o s
  | .kandn o => Sys2Proof.Machine.execKandn o s
  | .vand o => Sys2Proof.Machine.execVand o s
  | .vor o => Sys2Proof.Machine.execVor o s
  | .vxor o => Sys2Proof.Machine.execVxor o s
  | .vandn o => Sys2Proof.Machine.execVandn o s
  | .vnot o => Sys2Proof.Machine.execVnot o s
  | .vshl o => Sys2Proof.Machine.execVshl o s
  | .vshr o => Sys2Proof.Machine.execVshr o s
  | .vsar o => Sys2Proof.Machine.execVsar o s
  | .vshls o => Sys2Proof.Machine.execVshls o s
  | .vshrs o => Sys2Proof.Machine.execVshrs o s
  | .vsars o => Sys2Proof.Machine.execVsars o s
  | .vcvt o => Sys2Proof.Machine.execVcvt o s
  | .vcvtw o => Sys2Proof.Machine.execVcvtw o s
  | .vcvtn o => Sys2Proof.Machine.execVcvtn o s
  | .vperm o => Sys2Proof.Machine.execVperm o s
  | .vslideup o => Sys2Proof.Machine.execVslideup o s
  | .vslidedn o => Sys2Proof.Machine.execVslidedn o s
  | .vbcast o => Sys2Proof.Machine.execVbcast o s
  | .vmov o => Sys2Proof.Machine.execVmov o s
  | .vsel o => Sys2Proof.Machine.execVsel o s
  | .vmvs o => Sys2Proof.Machine.execVmvs o s
  | .vsplati o => Sys2Proof.Machine.execVsplati o s
  | .vsplitVpart o => Sys2Proof.Machine.execVsplitVpart o s
  | .vexp2 o => Sys2Proof.Machine.execVexp2 o s
  | .vlog2 o => Sys2Proof.Machine.execVlog2 o s
  | .vrecip o => Sys2Proof.Machine.execVrecip o s
  | .vrsqrt o => Sys2Proof.Machine.execVrsqrt o s
  | .vtanh o => Sys2Proof.Machine.execVtanh o s
  | .vsilu o => Sys2Proof.Machine.execVsilu o s
  | .vtag o => Sys2Proof.Machine.execVtag o s
  | .qacc o => Sys2Proof.Machine.execQacc o s
  | .qadd o => Sys2Proof.Machine.execQadd o s
  | .qmax o => Sys2Proof.Machine.execQmax o s
  | .qmin o => Sys2Proof.Machine.execQmin o s
  | .qdrn o => Sys2Proof.Machine.execQdrn o s
  | .ldl o => Sys2Proof.Machine.execLdl o s
  | .stl o => Sys2Proof.Machine.execStl o s
  | .ldls o => Sys2Proof.Machine.execLdls o s
  | .stls o => Sys2Proof.Machine.execStls o s
  | .cbpush o => Sys2Proof.Machine.execCbpush o s
  | .cbpop o => Sys2Proof.Machine.execCbpop o s
  | .lld o => Sys2Proof.Machine.execLld o s
  | .lst o => Sys2Proof.Machine.execLst o s
  | .lsgath o => Sys2Proof.Machine.execLsgath o s
  | .lsscat o => Sys2Proof.Machine.execLsscat o s
  | .gld o => Sys2Proof.Machine.execGld o s
  | .glds o => Sys2Proof.Machine.execGlds o s
  | .gst o => Sys2Proof.Machine.execGst o s
  | .gsts o => Sys2Proof.Machine.execGsts o s
  | .gldacq o => Sys2Proof.Machine.execGldacq o s
  | .gstrel o => Sys2Proof.Machine.execGstrel o s
  | .gldacqv o => Sys2Proof.Machine.execGldacqv o s
  | .gstrelv o => Sys2Proof.Machine.execGstrelv o s
  | .pref o => Sys2Proof.Machine.execPref o s
  | .ldlu o => Sys2Proof.Machine.execLdlu o s
  | .xput o => Sys2Proof.Machine.execXput o s
  | .aadd o => Sys2Proof.Machine.execAadd o s
  | .amin o => Sys2Proof.Machine.execAmin o s
  | .amax o => Sys2Proof.Machine.execAmax o s
  | .aand o => Sys2Proof.Machine.execAand o s
  | .aor o => Sys2Proof.Machine.execAor o s
  | .axor o => Sys2Proof.Machine.execAxor o s
  | .aswap o => Sys2Proof.Machine.execAswap o s
  | .acas o => Sys2Proof.Machine.execAcas o s
  | .fence o => Sys2Proof.Machine.execFence o s
  | .drain o => Sys2Proof.Machine.execDrain o s
  | .twait o => Sys2Proof.Machine.execTwait o s
  | .sev o => Sys2Proof.Machine.execSev o s
  | .wfe => Sys2Proof.Machine.execWfe s
  | .bar o => Sys2Proof.Machine.execBar o s
  | .waitt o => Sys2Proof.Machine.execWaitt o s
  | .rdnow o => Sys2Proof.Machine.execRdnow o s
  | .rmap o => Sys2Proof.Machine.execRmap o s
  | .runmap o => Sys2Proof.Machine.execRunmap o s
  | .rflush o => Sys2Proof.Machine.execRflush o s
  | .lsta o => Sys2Proof.Machine.execLsta o s
  | .lswap o => Sys2Proof.Machine.execLswap o s
  | .lmm o => Sys2Proof.Machine.execLmm o s
  | .lmms o => Sys2Proof.Machine.execLmms o s
  | .lzero o => Sys2Proof.Machine.execLzero o s
  | .lepi o => Sys2Proof.Machine.execLepi o s
  | .tcfg o => Sys2Proof.Machine.execTcfg o s
  | .tcfgd o => Sys2Proof.Machine.execTcfgd o s
  | .tgo o => Sys2Proof.Machine.execTgo o s
  | .tstat o => Sys2Proof.Machine.execTstat o s
  | .hcpy o => Sys2Proof.Machine.execHcpy o s
  | .hstr o => Sys2Proof.Machine.execHstr o s
  | .htrn o => Sys2Proof.Machine.execHtrn o s
  | .hgath o => Sys2Proof.Machine.execHgath o s
  | .hfill o => Sys2Proof.Machine.execHfill o s
  | .hscat o => Sys2Proof.Machine.execHscat o s
  | .kset o => Sys2Proof.Machine.execKset o s
  | .kget o => Sys2Proof.Machine.execKget o s
  | .spld o => Sys2Proof.Machine.execSpld o s
  | .spswap o => Sys2Proof.Machine.execSpswap o s
  | .spev o => Sys2Proof.Machine.execSpev o s
  | .spdx o => Sys2Proof.Machine.execSpdx o s
  | .spgr o => Sys2Proof.Machine.execSpgr o s
  | .spref o => Sys2Proof.Machine.execSpref o s
  | .coll o => Sys2Proof.Machine.execColl o s
  | .cwait o => Sys2Proof.Machine.execCwait o s
  | .ctest o => Sys2Proof.Machine.execCtest o s
  | .cabort o => Sys2Proof.Machine.execCabort o s
  | .br o => Sys2Proof.Machine.execBr o s
  | .bri o => Sys2Proof.Machine.execBri o s
  | .call o => Sys2Proof.Machine.execCall o s
  | .ret o => Sys2Proof.Machine.execRet o s
  | .banksw o => Sys2Proof.Machine.execBanksw o s
  | .loop o => Sys2Proof.Machine.execLoop o s
  | .mloop o => Sys2Proof.Machine.execMloop o s
  | .safe o => Sys2Proof.Machine.execSafe o s
  | .tend => Sys2Proof.Machine.execTend s
  | .yield => Sys2Proof.Machine.execYield s
  | .trap o => Sys2Proof.Machine.execTrap o s
  | .eret => Sys2Proof.Machine.execEret s
  | .mfs o => Sys2Proof.Machine.execMfs o s
  | .mts o => Sys2Proof.Machine.execMts o s
  | .stqrd o => Sys2Proof.Machine.execStqrd o s
  | .ifence => Sys2Proof.Machine.execIfence s
  | .dictchk o => Sys2Proof.Machine.execDictchk o s
  | .dictld o => Sys2Proof.Machine.execDictld o s
  | .signal o => Sys2Proof.Machine.execSignal o s
  | .bundleFetch who => Sys2Proof.Machine.execBundleFetch who s
  | .fetchLineFill core line => Sys2Proof.Machine.execFetchLineFill core line s
  | .trapEntry who => Sys2Proof.Machine.execTrapEntry who s
  | .resultLand who id => Sys2Proof.Machine.execResultLand who id s
  | .loadDataReturn who id reply => Sys2Proof.Machine.execLoadDataReturn who id reply s
  | .storePerform who id => Sys2Proof.Machine.execStorePerform who id s
  | .xputLand core id => Sys2Proof.Machine.execXputLand core id s
  | .eventLatchSet who => Sys2Proof.Machine.execEventLatchSet who s
  | .waittExpiry who => Sys2Proof.Machine.execWaittExpiry who s
  | .safeovr who => Sys2Proof.Machine.execSafeovr who s
  | .dictchkHoldEnd who => Sys2Proof.Machine.execDictchkHoldEnd who s
  | .dictldDone who => Sys2Proof.Machine.execDictldDone who s
  | .taskDispatch leaf => Sys2Proof.Machine.execTaskDispatch leaf s
  | .taskStart who => Sys2Proof.Machine.execTaskStart who s
  | .taskRetire who => Sys2Proof.Machine.execTaskRetire who s
  | .regionFillComplete core region => Sys2Proof.Machine.execRegionFillComplete core region s
  | .commandStart queue => Sys2Proof.Machine.execCommandStart queue s
  | .commandComplete queue => Sys2Proof.Machine.execCommandComplete queue s
  | .monitorWake leaf line => Sys2Proof.Machine.execMonitorWake leaf line s
  | .rewalkTimer leaf party => Sys2Proof.Machine.execRewalkTimer leaf party s
  | .walkComplete leaf party => Sys2Proof.Machine.execWalkComplete leaf party s
  | .qtailDoorbell vf q tail => Sys2Proof.Machine.execQtailDoorbell vf q tail s
  | .qstatSkip vf q => Sys2Proof.Machine.execQstatSkip vf q s
  | .qstatReset vf q => Sys2Proof.Machine.execQstatReset vf q s
  | .launch leaf vf q => Sys2Proof.Machine.execLaunch leaf vf q s
  | .copy leaf vf q => Sys2Proof.Machine.execCopy leaf vf q s
  | .waitsig leaf vf q => Sys2Proof.Machine.execWaitsig leaf vf q s
  | .signalPacket leaf vf q => Sys2Proof.Machine.execSignalPacket leaf vf q s
  | .ckpt leaf vf q => Sys2Proof.Machine.execCkpt leaf vf q s
  | .meter leaf vf q => Sys2Proof.Machine.execMeter leaf vf q s
  | .resize leaf vf q => Sys2Proof.Machine.execResize leaf vf q s
  | .packetStart leaf pid => Sys2Proof.Machine.execPacketStart leaf pid s
  | .waitsigPoll leaf pid => Sys2Proof.Machine.execWaitsigPoll leaf pid s
  | .waitto leaf pid => Sys2Proof.Machine.execWaitto leaf pid s
  | .copyComplete leaf pid => Sys2Proof.Machine.execCopyComplete leaf pid s
  | .completionSignalRetry leaf pid => Sys2Proof.Machine.execCompletionSignalRetry leaf pid s
  | .resizeApply leaf pid => Sys2Proof.Machine.execResizeApply leaf pid s
  | .actfcUpdate leaf => Sys2Proof.Machine.execActfcUpdate leaf s
  | .stencilArm leaf => Sys2Proof.Machine.execStencilArm leaf s
  | .stencilApply leaf => Sys2Proof.Machine.execStencilApply leaf s
  | .slotBegin leaf => Sys2Proof.Machine.execSlotBegin leaf s
  | .restoreComplete leaf => Sys2Proof.Machine.execRestoreComplete leaf s
  | .ready leaf gang member => Sys2Proof.Machine.execReady leaf gang member s
  | .go leaf gang => Sys2Proof.Machine.execGo leaf gang s
  | .startto leaf => Sys2Proof.Machine.execStartto leaf s
  | .prepareStart leaf => Sys2Proof.Machine.execPrepareStart leaf s
  | .memberPrepared leaf => Sys2Proof.Machine.execMemberPrepared leaf s
  | .prepdlCapture leaf => Sys2Proof.Machine.execPrepdlCapture leaf s
  | .voteRound leaf => Sys2Proof.Machine.execVoteRound leaf s
  | .countreq leaf gang round => Sys2Proof.Machine.execCountreq leaf gang round s
  | .count leaf gang member round prepared sent recv => Sys2Proof.Machine.execCount leaf gang member round prepared sent recv s
  | .commit leaf gang => Sys2Proof.Machine.execCommit leaf gang s
  | .contextSaved leaf => Sys2Proof.Machine.execContextSaved leaf s
  | .done leaf gang member => Sys2Proof.Machine.execDone leaf gang member s
  | .abort leaf lead head => Sys2Proof.Machine.execAbort leaf lead head s
  | .votedlExpiry leaf => Sys2Proof.Machine.execVotedlExpiry leaf s
  | .memberComplete leaf => Sys2Proof.Machine.execMemberComplete leaf s
  | .mdone leaf gang member => Sys2Proof.Machine.execMdone leaf gang member s
  | .fabricPacketArrival leaf p => Sys2Proof.Machine.execFabricPacketArrival leaf p s
  | .remoteRequest leaf p => Sys2Proof.Machine.execRemoteRequest leaf p s
  | .remoteResend leaf txn => Sys2Proof.Machine.execRemoteResend leaf txn s
  | .flitCrcError port => Sys2Proof.Machine.execFlitCrcError port s
  | .linkDown port => Sys2Proof.Machine.execLinkDown port s
  | .linkRetrainEnd port ok => Sys2Proof.Machine.execLinkRetrainEnd port ok s
  | .linkdnDownClear bits => Sys2Proof.Machine.execLinkdnDownClear bits s
  | .collStart leaf ctx => Sys2Proof.Machine.execCollStart leaf ctx s
  | .placementRequest leaf gang member block => Sys2Proof.Machine.execPlacementRequest leaf gang member block s
  | .placement leaf gang block routers => Sys2Proof.Machine.execPlacement leaf gang block routers s
  | .contribution leaf p => Sys2Proof.Machine.execContribution leaf p s
  | .collAck leaf ctx txn => Sys2Proof.Machine.execCollAck leaf ctx txn s
  | .abortNotice leaf gang member seq => Sys2Proof.Machine.execAbortNotice leaf gang member seq s
  | .cabortCountRound leaf ctx => Sys2Proof.Machine.execCabortCountRound leaf ctx s
  | .releaseNotice leaf gang seq => Sys2Proof.Machine.execReleaseNotice leaf gang seq s
  | .sync port origin arrival => Sys2Proof.Machine.execSync port origin arrival s
  | .followUp port origin correction => Sys2Proof.Machine.execFollowUp port origin correction s
  | .pdelayReq port arrival => Sys2Proof.Machine.execPdelayReq port arrival s
  | .pdelayResp port reqReceipt arrival => Sys2Proof.Machine.execPdelayResp port reqReceipt arrival s
  | .pdelayRespFollowUp port respOrigin => Sys2Proof.Machine.execPdelayRespFollowUp port respOrigin s
  | .syncInterval => Sys2Proof.Machine.execSyncInterval s
  | .getVersion => Sys2Proof.Machine.execGetVersion s
  | .getCapabilities => Sys2Proof.Machine.execGetCapabilities s
  | .negotiateAlgorithms => Sys2Proof.Machine.execNegotiateAlgorithms s
  | .getDigests => Sys2Proof.Machine.execGetDigests s
  | .getCertificate => Sys2Proof.Machine.execGetCertificate s
  | .getMeasurements => Sys2Proof.Machine.execGetMeasurements s
  | .keyExchange => Sys2Proof.Machine.execKeyExchange s
  | .finish => Sys2Proof.Machine.execFinish s
  | .install gang slot key => Sys2Proof.Machine.execInstall gang slot key s
  | .revoke slot => Sys2Proof.Machine.execRevoke slot s
  | .keySlotClear slot => Sys2Proof.Machine.execKeySlotClear slot s
  | .kbshareWrite key value => Sys2Proof.Machine.execKbshareWrite key value s
  | .poolRegionEnable region value => Sys2Proof.Machine.execPoolRegionEnable region value s
  | .dump region => Sys2Proof.Machine.execDump region s
  | .drop region => Sys2Proof.Machine.execDrop region s
  | .prstatRead region => Sys2Proof.Machine.execPrstatRead region s
  | .plcshareWrite key value => Sys2Proof.Machine.execPlcshareWrite key value s
  | .ownershipGrant line => Sys2Proof.Machine.execOwnershipGrant line s
  | .bisnp line data => Sys2Proof.Machine.execBisnp line data s
  | .poolLinkLoss region => Sys2Proof.Machine.execPoolLinkLoss region s
  | .poolRetrySuccess region => Sys2Proof.Machine.execPoolRetrySuccess region s
  | .poolRetryExpiry region => Sys2Proof.Machine.execPoolRetryExpiry region s
  | .tlbinv vf value => Sys2Proof.Machine.execTlbinv vf value s
  | .tlbinvDone vf => Sys2Proof.Machine.execTlbinvDone vf s
  | .uncorrectableError leaf unit addr => Sys2Proof.Machine.execUncorrectableError leaf unit addr s
  | .correctableError leaf unit => Sys2Proof.Machine.execCorrectableError leaf unit s
  | .freezeEnd leaf => Sys2Proof.Machine.execFreezeEnd leaf s
  | .coreFailure leaf core => Sys2Proof.Machine.execCoreFailure leaf core s
  | .ckptStart leaf pid => Sys2Proof.Machine.execCkptStart leaf pid s
  | .ckptPageDrain leaf pid page => Sys2Proof.Machine.execCkptPageDrain leaf pid page s
  | .ckptComplete leaf pid => Sys2Proof.Machine.execCkptComplete leaf pid s
  | .bufbytesRead vf offset => Sys2Proof.Machine.execBufbytesRead vf offset s
  | .errleafRead leaf offset => Sys2Proof.Machine.execErrleafRead leaf offset s
  | .errpkgRead offset => Sys2Proof.Machine.execErrpkgRead offset s
  | .hbmWindowAccess offset write value => Sys2Proof.Machine.execHbmWindowAccess offset write value s
  | .powerOn => Sys2Proof.Machine.execPowerOn s
  | .readyTimeout => Sys2Proof.Machine.execReadyTimeout s
  | .restart => Sys2Proof.Machine.execRestart s
  | .mprst => Sys2Proof.Machine.execMprst s
  | .mpHeartbeat => Sys2Proof.Machine.execMpHeartbeat s
  | .pwrctlWrite leaf value => Sys2Proof.Machine.execPwrctlWrite leaf value s
  | .pwrctlApply leaf => Sys2Proof.Machine.execPwrctlApply leaf s
  | .thwarn => Sys2Proof.Machine.execThwarn s
  | .thermalTrip => Sys2Proof.Machine.execThermalTrip s
  | .registerWrite fn offset value => Sys2Proof.Machine.execRegisterWrite fn offset value s
  | .l1Evict core line => Sys2Proof.Machine.execL1Evict core line s
  | .functionReset vf => Sys2Proof.Machine.execFunctionReset vf s
  | .flashWriteWindow offset value => Sys2Proof.Machine.execFlashWriteWindow offset value s
  | .pdelayReqInterval port => Sys2Proof.Machine.execPdelayReqInterval port s

end Sys2Proof.Machine
end

