-- ==== Sys2Proof/Machine/Plans.lean ====
section
/-! DEFINITION. The plan of every syllable: what a syllable of a bundle does, for bundles of several. The events have
none. -/

namespace Sys2Proof.Machine

/-- A syllable's plan. -/
def planOf (i : Instr) : State → Plan :=
  match i with
  | .nop => planNop
  | .add o => planAdd o
  | .sub o => planSub o
  | .mul o => planMul o
  | .mulh o => planMulh o
  | .mulhu o => planMulhu o
  | .div o => planDiv o
  | .divu o => planDivu o
  | .rem o => planRem o
  | .remu o => planRemu o
  | .andS o => planAndS o
  | .orS o => planOrS o
  | .xorS o => planXorS o
  | .andn o => planAndn o
  | .shl o => planShl o
  | .shr o => planShr o
  | .sar o => planSar o
  | .rol o => planRol o
  | .min o => planMin o
  | .max o => planMax o
  | .minu o => planMinu o
  | .maxu o => planMaxu o
  | .sel o => planSel o
  | .shadd o => planShadd o
  | .clz o => planClz o
  | .ctz o => planCtz o
  | .popc o => planPopc o
  | .brev o => planBrev o
  | .bswap o => planBswap o
  | .addi o => planAddi o
  | .muli o => planMuli o
  | .andi o => planAndi o
  | .ori o => planOri o
  | .xori o => planXori o
  | .shli o => planShli o
  | .shri o => planShri o
  | .sari o => planSari o
  | .widf o => planWidf o
  | .cmpeq o => planCmpeq o
  | .cmpne o => planCmpne o
  | .cmplt o => planCmplt o
  | .cmpltu o => planCmpltu o
  | .cmple o => planCmple o
  | .cmpleu o => planCmpleu o
  | .cmpeqi o => planCmpeqi o
  | .cmpnei o => planCmpnei o
  | .cmplti o => planCmplti o
  | .cmpgei o => planCmpgei o
  | .pand o => planPand o
  | .por o => planPor o
  | .pxor o => planPxor o
  | .pandn o => planPandn o
  | .movi o => planMovi o
  | .movk o => planMovk o
  | .vadd o => planVadd o
  | .vsub o => planVsub o
  | .vmul o => planVmul o
  | .vmin o => planVmin o
  | .vmax o => planVmax o
  | .vadds o => planVadds o
  | .vsubs o => planVsubs o
  | .vmulh o => planVmulh o
  | .vdot4 o => planVdot4 o
  | .vabs o => planVabs o
  | .vneg o => planVneg o
  | .fmaFp32 o => planFmaFp32 o
  | .fmaBf16 o => planFmaBf16 o
  | .fmaFp16 o => planFmaFp16 o
  | .fmsFp32 o => planFmsFp32 o
  | .fmsBf16 o => planFmsBf16 o
  | .fmsFp16 o => planFmsFp16 o
  | .fnmaFp32 o => planFnmaFp32 o
  | .fnmaBf16 o => planFnmaBf16 o
  | .fnmaFp16 o => planFnmaFp16 o
  | .vcmpeq o => planVcmpeq o
  | .vcmpne o => planVcmpne o
  | .vcmplt o => planVcmplt o
  | .vcmple o => planVcmple o
  | .kand o => planKand o
  | .kor o => planKor o
  | .kxor o => planKxor o
  | .kandn o => planKandn o
  | .vand o => planVand o
  | .vor o => planVor o
  | .vxor o => planVxor o
  | .vandn o => planVandn o
  | .vnot o => planVnot o
  | .vshl o => planVshl o
  | .vshr o => planVshr o
  | .vsar o => planVsar o
  | .vshls o => planVshls o
  | .vshrs o => planVshrs o
  | .vsars o => planVsars o
  | .vcvt o => planVcvt o
  | .vcvtw o => planVcvtw o
  | .vcvtn o => planVcvtn o
  | .vperm o => planVperm o
  | .vslideup o => planVslideup o
  | .vslidedn o => planVslidedn o
  | .vbcast o => planVbcast o
  | .vmov o => planVmov o
  | .vsel o => planVsel o
  | .vmvs o => planVmvs o
  | .vsplati o => planVsplati o
  | .vsplitVpart o => planVsplitVpart o
  | .vexp2 o => planVexp2 o
  | .vlog2 o => planVlog2 o
  | .vrecip o => planVrecip o
  | .vrsqrt o => planVrsqrt o
  | .vtanh o => planVtanh o
  | .vsilu o => planVsilu o
  | .vtag o => planVtag o
  | .qacc o => planQacc o
  | .qadd o => planQadd o
  | .qmax o => planQmax o
  | .qmin o => planQmin o
  | .qdrn o => planQdrn o
  | .ldl o => planLdl o
  | .stl o => planStl o
  | .ldls o => planLdls o
  | .stls o => planStls o
  | .cbpush o => planCbpush o
  | .cbpop o => planCbpop o
  | .lld o => planLld o
  | .lst o => planLst o
  | .lsgath o => planLsgath o
  | .lsscat o => planLsscat o
  | .gld o => planGld o
  | .glds o => planGlds o
  | .gst o => planGst o
  | .gsts o => planGsts o
  | .gldacq o => planGldacq o
  | .gstrel o => planGstrel o
  | .gldacqv o => planGldacqv o
  | .gstrelv o => planGstrelv o
  | .pref o => planPref o
  | .ldlu o => planLdlu o
  | .xput o => planXput o
  | .aadd o => planAadd o
  | .amin o => planAmin o
  | .amax o => planAmax o
  | .aand o => planAand o
  | .aor o => planAor o
  | .axor o => planAxor o
  | .aswap o => planAswap o
  | .acas o => planAcas o
  | .fence o => planFence o
  | .drain o => planDrain o
  | .twait o => planTwait o
  | .sev o => planSev o
  | .wfe => planWfe
  | .bar o => planBar o
  | .waitt o => planWaitt o
  | .rdnow o => planRdnow o
  | .rmap o => planRmap o
  | .runmap o => planRunmap o
  | .rflush o => planRflush o
  | .lsta o => planLsta o
  | .lswap o => planLswap o
  | .lmm o => planLmm o
  | .lmms o => planLmms o
  | .lzero o => planLzero o
  | .lepi o => planLepi o
  | .tcfg o => planTcfg o
  | .tcfgd o => planTcfgd o
  | .tgo o => planTgo o
  | .tstat o => planTstat o
  | .hcpy o => planHcpy o
  | .hstr o => planHstr o
  | .htrn o => planHtrn o
  | .hgath o => planHgath o
  | .hfill o => planHfill o
  | .hscat o => planHscat o
  | .kset o => planKset o
  | .kget o => planKget o
  | .spld o => planSpld o
  | .spswap o => planSpswap o
  | .spev o => planSpev o
  | .spdx o => planSpdx o
  | .spgr o => planSpgr o
  | .spref o => planSpref o
  | .coll o => planColl o
  | .cwait o => planCwait o
  | .ctest o => planCtest o
  | .cabort o => planCabort o
  | .br o => planBr o
  | .bri o => planBri o
  | .call o => planCall o
  | .ret o => planRet o
  | .banksw o => planBanksw o
  | .loop o => planLoop o
  | .mloop o => planMloop o
  | .safe o => planSafe o
  | .tend => planTend
  | .yield => planYield
  | .trap o => planTrap o
  | .eret => planEret
  | .mfs o => planMfs o
  | .mts o => planMts o
  | .stqrd o => planStqrd o
  | .ifence => planIfence
  | .dictchk o => planDictchk o
  | .dictld o => planDictld o
  | .signal o => planSignal o
  | _ => fun s => .stall s

end Sys2Proof.Machine
end

