-- ==== Sys2Proof/Machine/Agenda.lean ====
section
/-! DEFINITION. What each event of the agenda does, and which events have come to their time (R39, R51, R54, R58, R67 to R70,
R75, R191, R255, R265, R275, R361, R382, R385, R416, R424, R449 to R455). -/

namespace Sys2Proof.Machine

/-- An event comes about. -/
def runEv (e : Ev) (s : State) : Host.Outcome State Fault Refusal :=
  match e with
  | .bundleFetch who => execBundleFetch who s
  | .trapEntry who => execTrapEntry who s
  | .resultLand who id => execResultLand who id s
  | .loadDataReturn who id reply => execLoadDataReturn who id reply s
  | .storePerform who id => execStorePerform who id s
  | .localPerform who id => execLocalPerform who id s
  | .xputLand core id => execXputLand core id s
  | .eventLatchSet who => execEventLatchSet who s
  | .waittExpiry who => execWaittExpiry who s
  | .safeovr who => execSafeovr who s
  | .dictchkHoldEnd who => execDictchkHoldEnd who s
  | .dictldDone who => execDictldDone who s
  | .taskDispatch leaf => execTaskDispatch leaf s
  | .taskStart who => execTaskStart who s
  | .taskRetire who => execTaskRetire who s
  | .regionFillComplete core region => execRegionFillComplete core region s
  | .fetchLineFill core line => execFetchLineFill core line s
  | .commandStart q => execCommandStart q s
  | .commandComplete q => execCommandComplete q s
  | .monitorWake leaf line => execMonitorWake leaf line s
  | .rewalkTimer leaf party => execRewalkTimer leaf party s
  | .walkComplete leaf party => execWalkComplete leaf party s
  | .launch leaf vf q => execLaunch leaf vf q s
  | .copy leaf vf q => execCopy leaf vf q s
  | .waitsig leaf vf q => execWaitsig leaf vf q s
  | .signalPacket leaf vf q => execSignalPacket leaf vf q s
  | .ckpt leaf vf q => execCkpt leaf vf q s
  | .meter leaf vf q => execMeter leaf vf q s
  | .resize leaf vf q => execResize leaf vf q s
  | .packetStart leaf pid => execPacketStart leaf pid s
  | .waitsigPoll leaf pid => execWaitsigPoll leaf pid s
  | .waitto leaf pid => execWaitto leaf pid s
  | .copyComplete leaf pid => execCopyComplete leaf pid s
  | .completionSignalRetry leaf pid => execCompletionSignalRetry leaf pid s
  | .resizeApply leaf pid => execResizeApply leaf pid s
  | .actfcUpdate leaf => execActfcUpdate leaf s
  | .stencilApply leaf => execStencilApply leaf s
  | .slotBegin leaf => execSlotBegin leaf s
  | .restoreComplete leaf => execRestoreComplete leaf s
  | .ready leaf gang member => execReady leaf gang member s
  | .go leaf gang => execGo leaf gang s
  | .startto leaf => execStartto leaf s
  | .prepareStart leaf => execPrepareStart leaf s
  | .memberPrepared leaf => execMemberPrepared leaf s
  | .prepdlCapture leaf => execPrepdlCapture leaf s
  | .voteRound leaf => execVoteRound leaf s
  | .countreq leaf gang round => execCountreq leaf gang round s
  | .count leaf gang member round prepared sent recv => execCount leaf gang member round prepared sent recv s
  | .commit leaf gang => execCommit leaf gang s
  | .contextSaved leaf => execContextSaved leaf s
  | .done leaf gang member => execDone leaf gang member s
  | .abort leaf lead head => execAbort leaf lead head s
  | .votedlExpiry leaf => execVotedlExpiry leaf s
  | .memberComplete leaf => execMemberComplete leaf s
  | .mdone leaf gang member => execMdone leaf gang member s
  | .fabricPacketArrival leaf p => execFabricPacketArrival leaf p s
  | .remoteRequest leaf p => execRemoteRequest leaf p s
  | .remoteResend leaf txn => execRemoteResend leaf txn s
  | .collStart leaf ctx => execCollStart leaf ctx s
  | .placementRequest leaf gang member block => execPlacementRequest leaf gang member block s
  | .placement leaf gang block routers => execPlacement leaf gang block routers s
  | .contribution leaf p => execContribution leaf p s
  | .collAck leaf ctx txn => execCollAck leaf ctx txn s
  | .abortNotice leaf gang member seq => execAbortNotice leaf gang member seq s
  | .cabortCountRound leaf ctx => execCabortCountRound leaf ctx s
  | .releaseNotice leaf gang seq => execReleaseNotice leaf gang seq s
  | .ownershipGrant line => execOwnershipGrant line s
  | .poolRetryExpiry region => execPoolRetryExpiry region s
  | .tlbinvDone vf => execTlbinvDone vf s
  | .freezeEnd leaf => execFreezeEnd leaf s
  | .ckptStart leaf pid => execCkptStart leaf pid s
  | .ckptPageDrain leaf pid page => execCkptPageDrain leaf pid page s
  | .ckptComplete leaf pid => execCkptComplete leaf pid s
  | .pwrctlApply leaf => execPwrctlApply leaf s
  | .keySlotClear slot => execKeySlotClear slot s
  | .syncInterval => execSyncInterval s
  | .thwarn => execThwarn s
  | .pdelayReqInterval port => execPdelayReqInterval port s
  | .readyTimeout => execReadyTimeout s
  | .restart => execRestart s
  | .mpHeartbeat => execMpHeartbeat s
  | .exchange leaf gang ref => .next (s.exchange leaf gang ref)
  | .startLaunch leaf gang pid x => .next (s.startLaunch leaf gang pid x)
  | .cleanRanges leaf gang pid ranges drop => .next (s.cleanRanges leaf gang pid ranges drop)
  | .placeDone leaf pid place ok => .next (s.placeDone leaf pid place ok)
  | .cfgCheck leaf gang pid diff => .next (s.cfgCheck leaf gang pid diff)
  | .launchGo leaf pid => .next (s.launchGo leaf pid)
  | .areaCheck leaf gang head place => .next (s.areaCheck leaf gang head place)
  | .areaAnswer leaf head place mapped allotted => .next (s.areaAnswer leaf head place mapped allotted)
  | .launchOver leaf gang => .next (s.launchOver leaf gang)
  | .routersUsed leaf gang l => .next (s.routersUsed leaf gang l)
  | .contextCall gang member place => .next (s.contextCall gang member place)
  | .contextHere leaf c => .next (s.contextHere leaf c)
  | .abortAck leaf gang member seq => .next (s.abortAcked leaf gang member seq)
  | .collCountReq leaf gang member seq => .next (s.collCounted leaf gang member seq)
  | .collCount leaf gang member seq sent recv => .next (s.countGot leaf gang member seq sent recv)
  | .resizeMember leaf gang pid recs => .next (s.resizeMember leaf gang pid recs)
  | .freezePages leaf gang pid vf pages => .next (s.freezePages leaf gang pid vf pages)
  | .packetAck leaf pid => .next (s.packetAck leaf pid)
  | .thawPage leaf vf page => .next (s.thawPage leaf vf page)
  | .authenticate => .next s.authenticate
  | .bringUp leaf => .next (s.bringUp leaf)
  | .mpReloaded => .next s.mpReloaded
  | .linkLate port => .next (if s.linkLate port then s.retrained port false else s)
  | .l1Evict core line => execL1Evict core line s

/-! Events whose time has come. -/

/-- Has a packet's next look at its flag come (R39): a microsecond after the last. -/
def State.pollDue (s : State) (leaf pid : Nat) : Bool :=
  match s.pkt leaf pid with
  | some p => decide (p.progress + us 1 ≤ s.now.toNat)
  | none => true

/-- Has a WAITSIG's TIMEOUT elapsed, or no more to say (R39). -/
def State.waittoDue (s : State) (leaf pid : Nat) : Bool :=
  match s.pkt leaf pid with
  | some p => !p.begun || p.at 0x30 8 == 0 || decide (p.at_.toNat + p.at 0x30 8 ≤ s.now.toNat)
  | none => true

/-- Has an answer's time passed (R361). -/
def State.resendDue (s : State) (leaf txn : Nat) : Bool :=
  if leaf = 2 then
    match s.routerAsks.find? fun r => r.txn == txn with
    | some r => !(s.routerGang r.pkt.gang).emitted && decide (r.sentAt + resendAfter ≤ s.now.toNat)
    | none => true
  else match (s.leaf leaf).remotes.find? fun r => r.txn == txn with
  | some r => s.timersRun leaf && decide (r.sentAt + resendAfter ≤ s.now.toNat)
  | none => true

/-- Is an abort's next round due, or VOTEDL over (R382). -/
def State.abortRoundDue (s : State) (leaf ctx : Nat) : Bool :=
  match (s.leaf leaf).member, (s.collCtx leaf ctx).colls.find? fun c => !c.abortTp.isEmpty with
  | some m, some c =>
    s.abortLate leaf c || ((m.partners c.cmd.block).all c.abortAcks.contains && decide (c.nextRound ≤ s.now.toNat) && s.enginesRun leaf)
  | _, _ => true

/-- Has a WAITT come to its target in a clock that is not frozen (R265, R424). -/
def State.waittDue (s : State) (who : Nat) : Bool :=
  match (s.strand who).trail with
  | some (.waitt t) => s.enginesRun (leafOf who) && decide (t.toNat ≤ s.now.toNat)
  | _ => true

/-- Is a parked party's next walk due, or its walk over (R401). -/
def State.rewalkDue (s : State) (leaf id : Nat) : Bool := ((s.leaf leaf).waiter id).all fun w => w.late s.now

/-- Is it time for an event of the agenda whose clock or pod time the spec fixes. -/
def State.isDue (s : State) : Ev → Bool
  | .waittExpiry who => s.waittDue who
  | .safeovr _ | .thwarn => true
  | .taskStart who => s.strandActs who
  | .taskRetire who => s.strandActs who && (s.strand who).retiring && (s.strand who).loads.isEmpty && (s.strand who).waits.isEmpty
  | .waitsigPoll leaf pid => s.pollDue leaf pid
  | .waitto leaf pid => s.waittoDue leaf pid
  | .remoteResend leaf txn => s.resendDue leaf txn
  | .rewalkTimer leaf id => s.rewalkDue leaf id
  | .cabortCountRound leaf ctx => s.abortRoundDue leaf ctx
  | .freezeEnd leaf => (s.leaf leaf).freezeLeft == 0
  | .syncInterval => s.syncEvery.isSome && decide (s.syncNext.toNat ≤ s.now.toNat)
  | _ => false

/-- The order in which pushes that arrive in one clock land (R255). -/
def landOrder : List Dir := [.north, .east, .south, .west]

/-- A push that has come to its clock (R255). -/
def State.duePush (s : State) : Option Ev :=
  s.cores.findSome? fun p =>
    let leaf := leafOfCore p.1
    if s.enginesRun leaf then
      landOrder.findSome? fun d => (p.2.pushes.find? fun x => x.dir == d && !x.waiting && decide (x.due ≤ (s.leaf leaf).clk)).map fun x => .xputLand p.1 x.id
    else none

/-- A result in flight that has come to its clock (R191). -/
def State.dueFlight (s : State) : Option Ev :=
  s.strands.findSome? fun p =>
    let leaf := leafOf p.1
    if s.enginesRun leaf then (p.2.flights.find? fun f => decide (f.due ≤ (s.leaf leaf).clk)).map fun f => .resultLand p.1 f.id
    else none

/-- Is a leaf's forecast to be made anew: a microsecond after its STAMP (R51). -/
def State.forecastDue (s : State) (leaf : Nat) : Bool :=
  s.isReady && decide (1000 ≤ (s.now.toNat / 2 ^ 10 + 2 ^ 40 - (s.leaf leaf).actfc.toNat / 2 ^ 24) % 2 ^ 40)

/-- An event of a leaf that pod time brings (R51, R54, R58, R67, R68, R70, R72, R75, R453). -/
def State.dueLeaf (s : State) (leaf : Nat) : Option Ev :=
  let l := s.leaf leaf
  if s.pwrDue leaf then some (.pwrctlApply leaf)
  else if s.applyDue leaf then some (.stencilApply leaf)
  else if s.slotDue leaf then some (.slotBegin leaf)
  else if (s.prepareDue leaf).isSome then some (.prepareStart leaf)
  else if s.captureDue leaf then some (.prepdlCapture leaf)
  else if (s.voteLate leaf).isSome then some (.votedlExpiry leaf)
  else if (s.roundDue leaf).isSome then some (.voteRound leaf)
  else if l.phase = .resuming ∧ l.refTime.toNat + us l.active.votedl ≤ s.now.toNat then some (.startto leaf)
  else if s.forecastDue leaf then some (.actfcUpdate leaf)
  else none

/-- An event of the package that pod time brings (R275, R449, R454, R455). -/
def State.duePackage (s : State) : Option Ev :=
  if s.readyLate then some .readyTimeout
  else if s.beatDue then some .mpHeartbeat
  else match List.find? (fun (p : Nat × PoolRegion) => p.2.late s.now) s.poolRegions with
    | some p => some (.poolRetryExpiry p.1)
    | none => (List.find? (fun (p : Nat × LinkState) => s.linkLate p.1) s.links).map fun p => .linkLate p.1

/-- The first timer of a leaf's clock that has come. -/
def State.dueTimer (s : State) : Option (Nat × Nat × Ev) := s.timers.find? fun e => decide (e.2.1 ≤ (s.leaf e.1).clk)

/-- What must come about before anything else: pushes and results that land, timers, events that pod time brings, and events of the
agenda whose time has come. -/
def State.overdue (s : State) : Option (Ev × State) :=
  match s.duePush.orElse fun _ => s.dueFlight with
  | some e => some (e, s)
  | none =>
    match s.dueTimer with
    | some e => some (e.2.2, { s with timers := s.timers.erase e })
    | none =>
      match s.duePackage.orElse fun _ => (s.dueLeaf 0).orElse fun _ => (s.dueLeaf 1).orElse fun _ => s.agenda.find? s.isDue with
      | some e => some (e, s)
      | none => none

/-! What the outside does. -/

/-- Must an arrival wait (R272, R275, R456): INSTALL while the management processor reloads, a BISnp of a line it may not take. -/
def State.mustWait (s : State) : Arrival → Bool
  | .act (.install _ _ _) => s.mpDown
  | .act (.bisnp line _) => s.bisnpWaits line
  | _ => false

/-- The first arrival that need not wait, and the arrivals without it. -/
def State.nextOf (s : State) : List Arrival → Option (Arrival × List Arrival)
  | [] => none
  | a :: t =>
    if s.mustWait a then
      match s.nextOf t with
      | some (b, u) => some (b, a :: u)
      | none => none
    else some (a, t)

/-- The lines that the L1s of the package hold: any may be given up at any moment (R285). -/
def State.evictable (s : State) : List Ev := s.cores.flatMap fun c => c.2.l1.map fun l => .l1Evict c.1 l.1

end Sys2Proof.Machine
end

