-- ==== Sys2Proof/Machine/Schedule.lean ====
section
/-! DEFINITION. Which strand of a core issues, and what it issues (R80, R82 to R101). -/

namespace Sys2Proof.Machine

/-- May a strand issue at all: its leaf runs its member, the strand has a task, and nothing holds it (R53, R67, R184,
R243, R401, R424, R428, R429). -/
def State.canIssue (s : State) (who : Nat) : Bool :=
  let l := s.leaf (leafOf who)
  let t := s.strand who
  l.member.isSome && (l.phase == .run || l.phase == .preparing) && l.clocked && l.freezeLeft == 0 && t.running.isSome &&
  (t.stop == .none || t.stop == .pending) && t.trail.isNone && t.hold.isNone && t.trapReq.isNone && !t.retiring && t.abortWait.isNone &&
  match (s.core (coreOf who)).half with
  | some (w, c) => w == who && decide (c < l.clk)
  | none => true

/-- The syllables of a bundle that are not NOP, for the strand cur; one that does not decode is bad (R102, R110). Such a one is
no branch syllable, whatever its opcode: in a delay bundle it raises ILLINST and not DELAYBR (log 78). -/
def State.works (s : State) (f : Fetched) : List Work :=
  allSlots.filterMap fun sl =>
    let raw := rawSyllable f.raw sl
    match decodeSyllable sl.cls raw with
    | .error _ => some { slot := sl, guard := true, bad := true, syl := raw, instr := .nop, plan := fun _ => .go id }
    | .ok y =>
      if y.instr = .nop then none
      else some { slot := sl, guard := s.me.rdP y.pred != y.sense, bad := false, syl := raw, instr := y.instr, plan := planOf y.instr }

/-- What a strand would do in this clock. -/
inductive Turn where
  | idle
  | refetch
  | fill (line : Nat)
  | fetchTrap (cause : BitVec 8) (addr : W64)
  | one (slot : Slot) (i : Instr)
  | bundle (f : Fetched) (ws : List Work)

/-- What the strand cur would do in this clock. -/
def State.turnOf (s : State) : Turn :=
  if !s.canIssue s.cur then .idle
  else if s.me.refetch ≠ 0 then .refetch else
  match s.bundleAt s.cur s.me.pc s.me.inRun with
  | .miss l => .fill l
  | .bundle f =>
    match f.cause with
    | some c => .fetchTrap c f.causeAddr
    | none =>
      match s.works f with
      | [w] => if w.guard && !w.bad then .one w.slot w.instr else .bundle f [w]
      | ws => .bundle f ws

/-- Is the strand cur ready: its next bundle could issue in this clock (R80). -/
def State.ready (s : State) : Bool :=
  match s.turnOf with
  | .idle | .fill _ => false
  | .refetch | .fetchTrap _ _ => true
  | .one sl i =>
    let s := { s with slot := sl }
    let f := s.located s.cur
    let s := s.ripe f
    match s.verdict f [{ slot := sl, guard := true, bad := false, syl := 0, instr := i, plan := planOf i }] with
    | .stall _ => false
    | _ => true
  | .bundle f ws =>
    match (s.ripe f).verdict f ws with
    | .stall _ => false
    | _ => true

/-- Make a strand the one an instruction is executed for. -/
def State.as (s : State) (who : Nat) : State := { s with cur := who }

/-- The ready strands of a core, by number. -/
def State.readyOf (s : State) (core : Nat) : List Nat :=
  (List.range 4).filter fun n => (s.as (4 * core + n)).ready

/-- Of some strands of a core, the one that last stopped issuing first; ties to the lower number (R80). -/
def longest (c : Core) : List Nat → Option Nat
  | [] => none
  | n :: t =>
    match longest c t with
    | none => some n
    | some m => if c.stoppedAt.get n 0 ≤ c.stoppedAt.get m 0 then some n else some m

/-- The strand of a core that takes this clock's issue, given the ready ones (R80, R430). -/
def Core.pick (c : Core) (ready : List Nat) : Nat :=
  let others := ready.filter (· != c.issuing)
  let due := c.yielded || others.any fun n => 4 ≤ c.waits.get n 0
  if ready.contains c.issuing && !due then c.issuing
  else (longest c others).getD c.issuing

/-- The arbiter after its choice (R80). -/
def Core.arbited (c : Core) (ready : List Nat) (clk : Nat) : Core :=
  let n := c.pick ready
  if n = c.issuing then
    { c with yielded := false,
             waits := if ready.contains n then (ready.filter (· != n)).map fun m => (m, c.waits.get m 0 + 1) else c.waits }
  else { c with yielded := false, issuing := n, waits := (ready.filter (· != n)).map fun m => (m, 1), stoppedAt := c.stoppedAt.set c.issuing clk }

/-- What a strand that cannot issue starts in this clock: the fill of its fetch line, or what its stalled bundle starts
(R91, R221, R393). -/
def State.startStalled (s : State) (who : Nat) : State :=
  let s := s.as who
  match s.turnOf with
  | .idle | .refetch | .fetchTrap _ _ => s
  | .fill l => s.askLine (coreOf who) l
  | .one sl i =>
    let f := s.located who
    let s := { s with slot := sl }
    s.issue f [{ slot := sl, guard := true, bad := false, syl := rawSyllable f.raw sl, instr := i, plan := planOf i }]
  | .bundle f ws => s.issue f ws

/-- The core's clock up to its issue: the arbiter chooses, and the other strands that cannot issue start what they wait
for (R80). -/
def State.arbited (s : State) (core : Nat) : State :=
  let ready := s.readyOf core
  let s := s.onCore core fun c => c.arbited ready (s.leaf (leafOfCore core)).clk
  let n := (s.core core).issuing
  let stalled := (List.range 4).filter fun m => m != n && !ready.contains m && s.canIssue (4 * core + m)
  (stalled.foldl (fun s m => s.startStalled (4 * core + m)) s).as (4 * core + n)

/-! Clocks (R5, R264, R384, R416, R424, R452). -/

/-- CLK of a leaf (R452). -/
def Leaf.clkRate (l : Leaf) : Nat := (l.pwrctl.extractLsb' 8 7).toNat

/-- The rate of the clock that one tick is: CLK 90, 2.25 GHz. -/
def tickRate : Nat := 90

/-- Does a leaf's clock run (R452): in RUN, once it has been brought up. -/
def Leaf.runs (l : Leaf) : Bool := l.pwrctl.extractLsb' 0 2 == 0 && !l.training

/-- A tick passes at a leaf: at its core clock's edges its clock advances, or a frozen clock passes (R424). -/
def Leaf.tick (l : Leaf) : Leaf :=
  if !l.runs then { l with clocked := false } else
  let n := l.clkAcc + l.clkRate
  if n < tickRate then { l with clkAcc := n, clocked := false }
  else if l.freezeLeft ≤ 1 then { l with clkAcc := n - tickRate, clocked := true, clk := l.clk + 1, freezeLeft := 0 }
  else { l with clkAcc := n - tickRate, clocked := false, freezeLeft := l.freezeLeft - 1 }

/-- Does a strand's safe-point counter count the clock that has passed: not one stalled on a region's fill (R69), nor one of a waiting
safe point (R243). -/
def State.countsSafe (s : State) (who : Nat) : Bool :=
  let t := s.strand who
  let l := s.leaf (leafOf who)
  s.enginesRun (leafOf who) && l.clocked && t.running.isSome && !t.halted && t.trailSafe.isNone && !(t.fillAt.any (· + 1 == l.clk))

/-- A clock of a strand between safe points: as the bound is first passed, SAFEOVR comes about (R416). -/
def State.safeTick (s : State) (who : Nat) : State :=
  if !s.countsSafe who then s else
  let n := (s.strand who).safeCount.toNat + 1
  let s := s.onStrand who fun t => { t with safeCount := satInc t.safeCount }
  match s.memberOf who with
  | some m => if n = m.safeMax + 1 then s.post (.safeovr who) else s
  | none => s

/-- The most that NOW is slewed in one tick, in 1/90 units: 2 to the power −14 of the 40,960 that a tick is (R384). -/
def slewMost : Int := 2

/-- NOW advances by a tick (R264), slewed toward the estimate (R384). -/
def State.tickNow (s : State) : State :=
  let d := max (-slewMost) (min slewMost s.slew)
  let n := (s.nowFrac + Config.nowPerClockTimesClk + d).toNat
  { s with now := s.now + BitVec.ofNat 64 (n / tickRate), nowFrac := n % tickRate, slew := s.slew - d }

/-- A leaf's tick, with the end of a freeze (R424). -/
def State.tickLeaf (s : State) (leaf : Nat) : State :=
  let ends := (s.leaf leaf).freezeLeft == 1
  let s := s.onLeaf leaf Leaf.tick
  if ends && (s.leaf leaf).freezeLeft == 0 then s.postOnce (.freezeEnd leaf) else s

/-- One tick passes. -/
def State.tick (s : State) : State :=
  let s := (({ s with clk := s.clk + 1, turn := 0 }.tickNow).tickLeaf 0).tickLeaf 1
  s.strands.foldl (fun s p => if p.2.running.isSome then s.safeTick p.1 else s) s

end Sys2Proof.Machine
end

