-- ==== Sys2Proof/Machine/Step.lean ====
section
/-! DEFINITION. One step of the package: an event that is due; else the bundle of the core whose turn it is; else one event of
the agenda, one thing that the outside does, or the next tick. -/

namespace Sys2Proof.Machine

/-- A clock of the issuing strand in which IFENCE's refetch goes on (R427). -/
def Strand.refetched (t : Strand) : Strand := { t with refetch := t.refetch - 1 }

/-- The turn of a core in this clock (R80). -/
def coreStep (s : State) : Host.Outcome State Fault Refusal :=
  let s := { s.arbited s.turn with turn := s.turn + 1 }
  match s.turnOf with
  | .idle => .next s
  | .refetch => .next (s.onMe Strand.refetched)
  | .fill l => .next (s.askLine (coreOf s.cur) l)
  | .fetchTrap c a => .next (s.takeTrap s.cur c .s0 true (if c = FETCHXL then some a else none) 0)
  | .one sl i => exec i { s with slot := sl }
  | .bundle f ws => .next (s.issue f ws)

/-- What the outside has done comes about; a message waits on the agenda until it is acted on. -/
def arrive (a : Arrival) (s : State) : Host.Outcome State Fault Refusal :=
  match a with
  | .act i => exec i s
  | .message e => runEv e (s.post e)
  | .hostWrite u x => .next (s.hostWrite u x)

/-- An event of the agenda comes about; a step of an engine takes its place in the clock that comes next, after the pushes that arrive
then and before the bundles (R284). -/
def State.eventNow (s : State) (e : Ev) : Host.Outcome State Fault Refusal :=
  match e with
  | .commandStart q => .next { s with timers := s.timers ++ [(queueLeaf q, (s.leaf (queueLeaf q)).clk + 1, e)] }
  | e => runEv e s

/-- One event of the agenda, the next thing the outside has done, a line that an L1 gives up, or the next tick; which of them
is free (log 4). -/
def eventStep (s : State) : Host.Outcome State Fault Refusal :=
  let (n, s) := s.fresh
  let evs := s.agenda ++ s.evictable
  let k := Config.freeChoice n % (evs.length + 2)
  match evs[k]? with
  | some e => s.eventNow e
  | none =>
    if k = evs.length then .next s.tick
    else match s.nextOf s.inbox with
      | some (a, l) => arrive a { s with inbox := l }
      | none => .next s.tick

/-- A step of a package without power (R453): what is done to it is lost, until POWER_ON. -/
def darkStep (s : State) : Host.Outcome State Fault Refusal :=
  match s.inbox with
  | [] => .next s
  | .act .powerOn :: l => exec .powerOn { s with inbox := l }
  | _ :: l => .next { s with inbox := l }

/-- The cores of the package. -/
def coreCount : Nat := 128

/-- One step. -/
def step (s : State) : Host.Outcome State Fault Refusal :=
  if !s.powered then darkStep s
  else match s.overdue with
    | some (e, u) => runEv e u
    | none => if s.turn < coreCount then coreStep s else eventStep s

/-- The launch header's fields that a strand's instructions read, for withFetchWord: GANGSIZE, NDICT and NLIVE 1. -/
def loadedHeader : BitVec 1024 := BitVec.ofNat 1024 (2 ^ 32 + 2 ^ (8 * 0x4C) + 2 ^ (8 * 0x56))

/-- A member for withFetchWord: gang 1, member 0 of one, running a launch. -/
def loadedMember : Member :=
  { gang := 1, member := 0, vf := 0, cls := 0, size := 1, key := 0, sent := 0, recv := 0, dustBase := 0, dustLimit := 0, saveBase := 0,
    launchBase := 0, image := 0, header := loadedHeader, args := [], bhl := [], live := [], cfg3 := 0, supPages := [], running := some 0,
    launched := true, nextWork := 0, workLeft := false, pool := [], aborts := [], unread := [], barriers := [], colls := [], trees := [],
    routers := [], unreleased := [], dropped := [], complete := false, mdones := [], txnSeq := 0, dust := [], dustUsed := 0, held := [], placement := [0] }

/-- Leaf 0 runs a member, and strand 0 of core 0 a task whose next bundle is at address 0. -/
def State.loaded (s : State) : State :=
  (s.onLeaf 0 fun l => { l with member := some loadedMember, phase := .run, clocked := true, freezeLeft := 0 }).onStrand 0 fun t =>
    { t with pc := 0, inRun := false, running := some { work := 0 }, ibuf := [], bank := false, super := false, pend := none, refetch := 0 }

/-- Place a bundle as dictionary entry 0 of strand 0 of core 0, with code unit 0 naming it, and let that strand issue next
(log 10). -/
def State.withFetchWord (s : State) (_nbits w : Nat) : State :=
  let s := s.loaded.onCore 0 fun c => { c with issuing := 0, istore := (c.istore.writeNat 0 2 0).writeNat 0x4000 48 w }
  { s with turn := 0, agenda := [], timers := [], powered := true }

end Sys2Proof.Machine
end

