-- ==== Sys2Proof/Safety.lean ====
section
/-! DEFINITION. What a safe run is, and the words in which claims speak of a bundle that issues alone: when nothing stands
between it and its commit, and what it leaves unchanged. -/

namespace Sys2Proof.Machine

/-- Every byte memory of a core is in canonical form. -/
def Core.memWf (c : Core) : Bool :=
  c.local_.wf && c.istore.wf && c.planeA.bytes.wf && c.planeS.bytes.wf && c.coefA.wf && c.coefS.wf &&
  c.trowelA.wf && c.trowelS.wf

/-- Every byte memory of the package, those of saved contexts among them, is in canonical form. -/
def State.memWf (s : State) : Bool :=
  s.hbm.wf && s.host.wf && s.pool.wf && s.flash.wf && (s.cores.all fun c => c.2.memWf) &&
  s.contexts.all fun x => x.2.cores.all fun c => c.2.memWf

/-- A step that does not stop. -/
def State.goesOn (s : State) : Prop := ∃ t, step s = .next t

/-! A bundle of one syllable. -/

/-- The bundle that the strand cur issues next. -/
def State.here (s : State) : Fetched := s.located s.cur

/-- The strand after a bundle that holds no branch syllable, ends no loop body and follows no branch syllable: issue goes to
the bundle's successor (R83, R93). -/
def Strand.moved (t : Strand) (f : Fetched) : Strand :=
  { t with pc := f.addr + f.len, inRun := f.runs, ibuf := t.ibuf.filter fun g => g.addr != f.addr || g.inRun != f.inRun,
           last := f.addr }

/-- The state after the strand cur has issued a bundle that changed its registers alone. -/
def State.wrote (s : State) (t : Strand) : State := s.setStrand s.cur (t.moved s.here)

/-- Nothing holds up a bundle that holds the one syllable i: it is well-formed (R110), no register that it names is the
destination of a result in flight (R191, R241) or of an access whose fault is held (R241), no acquire of the strand is in flight
where it is a memory syllable (R253), and its vector unit is free (R191). -/
structure State.Unheld (s : State) (i : Instr) : Prop where
  wf : i.wf = true
  late : s.me.late = []
  next : s.me.next = none
  trapReq : s.me.trapReq = none
  goesOn : s.me.retiring = false
  regs : ∀ r ∈ readRegs s.me i ++ writeRegs s.me i, s.me.busyReg r = false
  reports : ∀ p ∈ s.me.reports, ∀ d, p.dest = some d → d ∉ readRegs s.me i ++ writeRegs s.me i
  order : s.slot = .m → ∀ e ∈ s.me.loads, e.kind ≠ .acquire
  unit : s.slot = .v0 ∨ s.slot = .v1 → (s.core (coreOf s.cur)).vbusy.get ((s.core (coreOf s.cur)).unitOf s.slot) 0 ≤ s.clkHere

/-- Nothing stands between it and its commit, and issue goes on to its successor: it is no delay bundle (R95) and no end bundle
(R177). -/
structure State.Clear (s : State) (i : Instr) : Prop extends State.Unheld s i where
  pend : s.me.pend = none
  body0 : s.me.atEnd s.here false = false
  body1 : s.me.atEnd s.here true = false

/-- The trap a bundle of the strand cur takes at its slot (R408, R410). -/
def State.trapHere (s : State) (cause : BitVec 8) (addr : Option W64) : TrapReq :=
  { cause := cause, slot := s.slot, fetch := false, addr := addr, syl := rawSyllable s.here.raw s.slot, pc := s.me.pc, pend := s.me.pend }

/-- The strand cur with a trap taken, its entry still to come (R408). -/
def State.trapped (s : State) (cause : BitVec 8) (addr : Option W64) : State :=
  s.setStrand s.cur { s.me with walk := none, trapReq := some (s.trapHere cause addr) }

/-! What is left unchanged. -/

/-- Every byte of a core's stores reads as before: local memory, instruction store, planes, coefficient sets and descriptor
banks. -/
def Core.SameBytes (c d : Core) : Prop :=
  ∀ a, d.local_.read a = c.local_.read a ∧ d.istore.read a = c.istore.read a ∧ d.planeA.bytes.read a = c.planeA.bytes.read a ∧
    d.planeS.bytes.read a = c.planeS.bytes.read a ∧ d.coefA.read a = c.coefA.read a ∧ d.coefS.read a = c.coefS.read a ∧
    d.trowelA.read a = c.trowelA.read a ∧ d.trowelS.read a = c.trowelS.read a

/-- Every byte of HBM, host memory, the pool and the flash reads as before. -/
def State.SameGlobal (s t : State) : Prop :=
  ∀ a, t.hbm.read a = s.hbm.read a ∧ t.host.read a = s.host.read a ∧ t.pool.read a = s.pool.read a ∧ t.flash.read a = s.flash.read a

/-- Every byte of memory reads as before. -/
def State.SameBytes (s t : State) : Prop := s.SameGlobal t ∧ ∀ c, (s.core c).SameBytes (t.core c)

/-- Every strand but cur is unchanged. -/
def State.SameOthers (s t : State) : Prop := ∀ w, w ≠ s.cur → t.strand w = s.strand w

/-- Nothing but the strand cur is changed: no other strand, no core, leaf, function or queue, no memory, nothing of the
Scrim die. -/
def State.OnlyMe (s t : State) : Prop := t = s.setStrand s.cur t.me

/-- The strand with results in flight that land together, a local load's or not (R191, R398). -/
def Strand.flying (t : Strand) (due : Nat) (load : Bool) (lands : List Landing) : Strand :=
  { t with flights := t.flights ++ [{ id := t.flightSeq, due := due, load := load, lands := lands }], flightSeq := t.flightSeq + 1 }

/-- A bundle of the strand cur has put results in flight, due n clocks on (R191): beside it, only statistics records (R192) and
meters (R443) have moved. -/
structure State.Flew (s t : State) (n : Nat) (lands : List Landing) : Prop where
  me : t.me = (s.me.flying (s.issueClk + n) (s.slot == .m) lands).moved s.here
  rest : t = { s.setStrand s.cur t.me with cores := t.cores, vfs := t.vfs }
  cores : ∀ c, t.core c = { s.core c with statq := (t.core c).statq, statLost := (t.core c).statLost, statCount := (t.core c).statCount }

/-! Accesses to memory. -/

/-- Every region that a local access of the strand cur to the bytes a 0 to a (z - 1) under a mask touches is held for the member that
runs (R77, R221). -/
structure State.Touched (s : State) (a : Nat → Nat) (z mask : Nat) : Prop where
  walk : s.me.walk = none
  held : ∃ m, (s.leaf (leafOf s.cur)).member = some m ∧ ∀ n ∈ regionsOf a z mask, (s.region (coreOf s.cur) n).state = .held ∧
    ∃ o, (s.region (coreOf s.cur) n).owner = some o ∧ o.same m.owner = true ∧ o.dead = false

/-- Such an access performs at once: no FENCE of the strand holds it back (R258). -/
structure State.LocalReady (s : State) (a : Nat → Nat) (z mask : Nat) : Prop where
  touched : s.Touched a z mask
  free : s.me.holdsBack = false

/-- A bundle of the strand cur has left a local access to wait for a FENCE (R258): no byte has changed, and it is to perform. -/
structure State.Held (s u : State) (e : HeldAccess) : Prop where
  me : u.me = Strand.moved { s.me with waits := s.me.waits ++ [e], memSeq := s.me.memSeq + 1 } s.here
  performs : Ev.localPerform s.cur e.id ∈ u.agenda
  bytes : s.SameBytes u
  others : s.SameOthers u

/-- A global access of the strand cur finds every line it needs translated, permitted and reachable (R389, R394), at the places
ps. -/
structure State.Translated (s : State) (need : Need) (lines : List Nat) (ps : List (Nat × Phys)) : Prop where
  walk : s.me.walk = none
  placed : s.placeLines (leafOf s.cur) need lines = .inl ps
  reached : ∀ p ∈ ps, s.gate (leafOf s.cur) p.2 = .ok
  thawed : need.wr = true → ∀ l ∈ lines, s.isFrozen (leafOf s.cur) l = false

/-- A bundle of the strand cur has put a scoreboarded access in flight (R241): its data is to return, and neither memory nor
another strand has changed. -/
structure State.Issued (s u : State) (e : LoadEntry) : Prop where
  me : u.me = Strand.moved { s.me with loads := s.me.loads ++ [e], memSeq := s.me.memSeq + 1 } s.here
  returns : Ev.loadDataReturn s.cur e.id .data ∈ u.agenda
  bytes : s.SameBytes u
  others : s.SameOthers u

/-- A bundle of the strand cur has put a store in its buffer (R250): it is to perform, and no other strand has changed. -/
structure State.Buffered (s u : State) (e : StoreEntry) : Prop where
  me : u.me = Strand.moved { s.me with stores := s.me.stores ++ [e], memSeq := s.me.memSeq + 1 } s.here
  performs : Ev.storePerform s.cur e.id ∈ u.agenda
  others : s.SameOthers u

/-! Engine commands. -/

/-- An engine command of the strand cur has room: its produced token is not pending and its queue is not full (R313). -/
def State.CmdReady (s : State) (q : Nat) (o : Et) : Prop := (s.me.rdTk o.tp.toNat).isPending = false ∧ (s.cmds q).length < queueSize

/-- Its block of n bytes at SA is aligned, in local store and held (R314), and no local access of the core waits for a FENCE (R289). -/
structure State.BlockReady (s : State) (o : Et) (n : Nat) : Prop where
  aligned : (s.me.rdS o.sa).toNat % 64 = 0
  inside : (s.me.rdS o.sa).toNat + n ≤ 0x100000
  walk : s.me.walk = none
  unheld : s.heldLocal (coreOf s.cur) = false
  held : ∃ m, (s.leaf (leafOf s.cur)).member = some m ∧ ∀ r ∈ regionSpan (s.me.rdS o.sa).toNat n, (s.region (coreOf s.cur) r).state = .held ∧
    ∃ w, (s.region (coreOf s.cur) r).owner = some w ∧ w.same m.owner = true ∧ w.dead = false

/-- The n bytes of a command's block, as it issues (R314). -/
def State.blockOf (s : State) (o : Et) (n : Nat) : BitVec 1024 :=
  BitVec.ofNat 1024 ((s.core (coreOf s.cur)).local_.readNat (s.me.rdS o.sa).toNat n)

/-- A locator of a block at an offset covers n bytes that exist: it names global memory or local store at an aligned address, or a
circular buffer whose slot size meets a condition (R315). -/
def LocatorOk (t : Strand) (b : BitVec 1024) (off n : Nat) (slots : Nat → Bool) : Prop :=
  let l := locAt b off
  l.kind < 3 ∧ bytesAt b (off + 10) 6 = 0 ∧
  (l.kind = 1 → l.addr = 0 ∧ l.cbn < 32 ∧ cbNslot (t.rdCb l.cbn) ≠ 0 ∧ slots (slotBytes (t.rdCb l.cbn)) = true) ∧
  (l.kind ≠ 1 → l.cbn = 0 ∧ l.addr % 64 = 0) ∧ (l.kind = 0 → l.addr + n ≤ 0x100000)

/-- A bundle of the strand cur has put a command in its queue and made its token pending (R130, R313); nothing is stored yet. -/
structure State.Enqueued (s u : State) (q : Nat) (i : Instr) (o : Et) (base : W64) (block : BitVec 1024) : Prop where
  queued : ∃ c, u.cmds q = s.cmds q ++ [c] ∧ c.id = (s.leaf (leafOf s.cur)).cmdSeq ∧ c.who = s.cur ∧ c.instr = i ∧ c.tp = o.tp.toNat ∧
    c.base = base ∧ c.block = block ∧ c.stage = .queued ∧ c.step = 0 ∧ c.deps = (s.me.depsOf o).1 ∧ c.depFailed = (s.me.depsOf o).2
  starts : Ev.commandStart q ∈ u.agenda
  me : u.me = Strand.moved { s.me with
    issued := s.me.issued ++ [(s.leaf (leafOf s.cur)).cmdSeq]
    tks := if o.tp = 0 then s.me.tks else s.me.tks.set o.tp.toNat (.pending (s.leaf (leafOf s.cur)).cmdSeq) } s.here
  bytes : s.SameBytes u
  others : s.SameOthers u

/-! Traps. -/

/-- The strand's member has a supervisor section, whose handler takes traps, and no exposed result is on its way (R29, R407,
R408). -/
structure State.Handled (s : State) (who : Nat) : Prop where
  handler : ∃ m, s.memberOf who = some m ∧ m.flag 1 = true
  user : (s.strand who).super = false
  quiet : (s.strand who).quiet = true

/-! Messages and packets. -/

/-- A message for a place has been sent: it is on the agenda where the place is a leaf of this package, and else on its way by a
Plumb lane. -/
def State.Told (u : State) (place : Nat) (m : Nat → Ev) : Prop :=
  if place / 2 = u.pkg then m (place % 2) ∈ u.agenda else Out.plumb place (m (place % 2)) ∈ u.out

/-- A packet's work is done: its signal is to be written (R41). -/
def State.Ends (u : State) (leaf pid : Nat) : Prop :=
  Ev.completionSignalRetry leaf pid ∈ u.agenda ∧ ∃ w, u.pkt leaf pid = some w ∧ w.stage = .writing

/-- A queue is halted on a packet with a cause (R35, R41). -/
def State.Halts (u : State) (p : Pkt) (cause : BitVec 8) : Prop :=
  (u.queue p.vf p.queue).halt = true ∧ (u.queue p.vf p.queue).cause = cause ∧ (u.queue p.vf p.queue).index = BitVec.ofNat 32 p.index

/-- The member on a leaf has stopped and told its leader of a fault (R67, R402). -/
def State.FaultTold (s u : State) (leaf : Nat) (cause : BitVec 8) : Prop :=
  (u.leaf leaf).phase = .faulted ∧ ∃ h : FaultHead, h.cause = cause ∧ u.Told (s.placeOf leaf 0) fun l => .abort l true h

end Sys2Proof.Machine
end

