-- ==== Sys2Proof/Certificates/Slice0/Obligations.lean ====
section
/-! DEFINITION. The statements about the Chedon package, for the provers. -/

open Sys2Proof Sys2Proof.Machine

/-! The scalar slots and control flow. -/

/-- R107: s0 reads as 0 and discards writes, p0 reads as true and discards writes, k0 reads as all ones; every other scalar register
and predicate reads as what was last written to it, and a write changes no other. R128, R137: a register's contents from its
elements: every element reads as it was put there, modulo its width, and a masked result keeps the inactive elements. R3, R240,
R284: bytes written are read back, in order, and every other byte keeps its value. -/
def Obligations.StorageReadsAsWritten : Prop :=
  (∀ (t : Strand),
  t.rdS 0 = 0 ∧ t.rdP 0 = true ∧ t.rdK 0 = BitVec.allOnes 512 ∧
  (∀ x b, t.wrS 0 x = t ∧ t.wrP 0 b = t) ∧
  (∀ n m x, n ≠ 0 → (t.wrS n x).rdS m = if m = n then x else t.rdS m) ∧
  (∀ n m b, n ≠ 0 → (t.wrP n b).rdP m = if m = n then b else t.rdP m) ∧
  ∀ n x, t.wrS n x = { t with sregs := (t.wrS n x).sregs } ∧ ∀ b, t.wrP n b = { t with pregs := (t.wrP n b).pregs }) ∧
  (∀ (f : Fmt) (k : KBits) (old : VBits) (h : Nat → Nat) (i : Nat), i < f.count →
  eltOf f.bits (packV f h) i = h i % 2 ^ f.bits ∧
  eltOf f.bits (blend f k old h) i = if active k f i then h i % 2 ^ f.bits else eltOf f.bits old i) ∧
  (∀ (m : Mem) (a n v : Nat), m.wf = true →
  (m.writeNat a n v).wf = true ∧ (m.writeNat a n v).readNat a n = v % 256 ^ n ∧
  ∀ j, j < a ∨ a + n ≤ j → (m.writeNat a n v).read j = m.read j)

/-- R161, R163: the scalar arithmetic, logic and shift forms of two registers, issued alone: each completes, D takes the value the
table gives modulo 2^64, and nothing else changes but where issue goes. R164: DIV, DIVU, REM and REMU: quotients truncate toward
zero, remainders take the dividend's sign, and nothing traps: a divisor of 0 gives all ones and the dividend, and the most
negative value over -1 gives itself and 0. R166: the bit counts and reversals of one register. The words of all these forms. -/
def Obligations.ScalarArithmetic : Prop :=
  (∀ (s : State) (o : Rrr),
  let a := s.me.rdS o.a
  let b := s.me.rdS o.b
  ∀ p ∈ ([(Instr.add o, a + b), (.sub o, a - b), (.mul o, a * b),
    (.mulh o, BitVec.ofInt 64 (a.toInt * b.toInt / 2 ^ 64)), (.mulhu o, BitVec.ofNat 64 (a.toNat * b.toNat / 2 ^ 64)),
    (.andS o, a &&& b), (.orS o, a ||| b), (.xorS o, a ^^^ b), (.andn o, a &&& ~~~b),
    (.shl o, a <<< (b.toNat % 64)), (.shr o, a >>> (b.toNat % 64)), (.sar o, a.sshiftRight (b.toNat % 64)),
    (.rol o, a.rotateLeft (b.toNat % 64)),
    (.min o, if a.toInt ≤ b.toInt then a else b), (.max o, if a.toInt ≤ b.toInt then b else a),
    (.minu o, if a.toNat ≤ b.toNat then a else b), (.maxu o, if a.toNat ≤ b.toNat then b else a)] : List (Instr × W64)),
  s.Clear p.1 → exec p.1 s = .next (s.wrote (s.me.wrS o.d p.2))) ∧
  (∀ (s : State) (o : Rrr),
  let a := s.me.rdS o.a
  let b := s.me.rdS o.b
  (s.Clear (.div o) → ∃ q, exec (.div o) s = .next (s.wrote (s.me.wrS o.d q)) ∧
    (b = 0 → q = BitVec.allOnes 64) ∧ (b ≠ 0 → a.toInt = -2 ^ 63 → b.toInt = -1 → q = a) ∧
    (b ≠ 0 → ¬(a.toInt = -2 ^ 63 ∧ b.toInt = -1) → q.toInt = Int.tdiv a.toInt b.toInt)) ∧
  (s.Clear (.rem o) → ∃ r, exec (.rem o) s = .next (s.wrote (s.me.wrS o.d r)) ∧
    (b = 0 → r = a) ∧ (b ≠ 0 → r.toInt = Int.tmod a.toInt b.toInt)) ∧
  (s.Clear (.divu o) → ∃ q, exec (.divu o) s = .next (s.wrote (s.me.wrS o.d q)) ∧
    (b = 0 → q = BitVec.allOnes 64) ∧ (b ≠ 0 → q.toNat = a.toNat / b.toNat)) ∧
  (s.Clear (.remu o) → ∃ r, exec (.remu o) s = .next (s.wrote (s.me.wrS o.d r)) ∧
    (b = 0 → r = a) ∧ (b ≠ 0 → r.toNat = a.toNat % b.toNat))) ∧
  (∀ (s : State) (o : Rr),
  let a := s.me.rdS o.a
  (s.Clear (.clz o) → ∃ n ≤ 64, exec (.clz o) s = .next (s.wrote (s.me.wrS o.d (BitVec.ofNat 64 n))) ∧
    (∀ i < n, a.getLsbD (63 - i) = false) ∧ (n < 64 → a.getLsbD (63 - n) = true)) ∧
  (s.Clear (.ctz o) → ∃ n ≤ 64, exec (.ctz o) s = .next (s.wrote (s.me.wrS o.d (BitVec.ofNat 64 n))) ∧
    (∀ i < n, a.getLsbD i = false) ∧ (n < 64 → a.getLsbD n = true)) ∧
  (s.Clear (.popc o) →
    exec (.popc o) s = .next (s.wrote (s.me.wrS o.d (BitVec.ofNat 64 ((List.range 64).countP fun i => a.getLsbD i))))) ∧
  (s.Clear (.brev o) → ∃ x : W64, exec (.brev o) s = .next (s.wrote (s.me.wrS o.d x)) ∧ ∀ i < 64, x.getLsbD i = a.getLsbD (63 - i)) ∧
  (s.Clear (.bswap o) → ∃ x : W64, exec (.bswap o) s = .next (s.wrote (s.me.wrS o.d x)) ∧
    ∀ j < 8, ∀ i < 8, x.getLsbD (8 * j + i) = a.getLsbD (8 * (7 - j) + i))) ∧
  ∀ (g : BitVec 6) (n : Bool),
  (∀ o : Rrr, ∀ p ∈ ([(Instr.add o, 0x001#9), (.sub o, 0x002), (.mul o, 0x003), (.mulh o, 0x004), (.mulhu o, 0x005), (.div o, 0x006), (.divu o, 0x007),
      (.rem o, 0x008), (.remu o, 0x009), (.andS o, 0x00A), (.orS o, 0x00B), (.xorS o, 0x00C), (.andn o, 0x00D), (.shl o, 0x00E), (.shr o, 0x00F), (.sar o, 0x010),
      (.rol o, 0x011), (.min o, 0x012), (.max o, 0x013), (.minu o, 0x014), (.maxu o, 0x015)] : List (Instr × BitVec 9)),
    decodeSyllable .scalar (g ++ BitVec.ofBool n ++ p.2 ++ o.d ++ o.a ++ o.b ++ 0#14) = .ok ⟨g, n, p.1⟩) ∧
  ∀ o : Rr, ∀ p ∈ ([(Instr.clz o, 0x020#9), (.ctz o, 0x021), (.popc o, 0x022), (.brev o, 0x023), (.bswap o, 0x024)] : List (Instr × BitVec 9)),
    decodeSyllable .scalar (g ++ BitVec.ofBool n ++ p.2 ++ o.d ++ o.a ++ 0#20) = .ok ⟨g, n, p.1⟩

/-- R165, R167, R168, R105: select, shift-and-add, the immediate forms, the wide immediates, and NOP. R171: WIDF reads a field of
the work identifier, and 0 from NFIELDS on. The words of all these forms, with the values that no form takes. -/
def Obligations.ScalarImmediates : Prop :=
  (∀ (s : State),
  (∀ o : Rri, let a := s.me.rdS o.a
    ∀ p ∈ ([(Instr.addi o, a + o.imm.signExtend 64), (.muli o, a * o.imm.signExtend 64), (.andi o, a &&& o.imm.signExtend 64),
      (.ori o, a ||| o.imm.zeroExtend 64), (.xori o, a ^^^ o.imm.zeroExtend 64), (.shli o, a <<< o.imm.toNat),
      (.shri o, a >>> o.imm.toNat), (.sari o, a.sshiftRight o.imm.toNat)] : List (Instr × W64)),
    s.Clear p.1 → exec p.1 s = .next (s.wrote (s.me.wrS o.d p.2))) ∧
  (∀ o : Rrrr,
    (s.Clear (.sel o) → exec (.sel o) s = .next (s.wrote (s.me.wrS o.d (if s.me.rdP o.c then s.me.rdS o.a else s.me.rdS o.b)))) ∧
    (s.Clear (.shadd o) → exec (.shadd o) s = .next (s.wrote (s.me.wrS o.d (s.me.rdS o.a <<< o.c.toNat + s.me.rdS o.b))))) ∧
  (∀ o : Ri24,
    (s.Clear (.movi o) → ∃ x, exec (.movi o) s = .next (s.wrote (s.me.wrS o.d x)) ∧
      (o.sel = 0 → x = o.imm.signExtend 64) ∧ (o.sel = 1 → x = BitVec.ofInt 64 (o.imm.toInt * 2 ^ 24)) ∧
      (o.sel = 2 → x = (o.imm.zeroExtend 64) <<< 48)) ∧
    (s.Clear (.movk o) → ∃ x : W64, exec (.movk o) s = .next (s.wrote (s.me.wrS o.d x)) ∧
      ∀ i < 64, x.getLsbD i =
        (if o.sel = 0 then (if i < 24 then o.imm.getLsbD i else (s.me.rdS o.d).getLsbD i)
         else if o.sel = 1 then (if 24 ≤ i ∧ i < 48 then o.imm.getLsbD (i - 24) else (s.me.rdS o.d).getLsbD i)
         else if 48 ≤ i then o.imm.getLsbD (i - 48) else (s.me.rdS o.d).getLsbD i))) ∧
  (s.Clear .nop → exec .nop s = .next (s.wrote s.me))) ∧
  (∀ (s : State) (m : Member) (o : Widf),
  s.memberOf s.cur = some m → s.Clear (.widf o) →
  exec (.widf o) s = .next (s.wrote (s.me.wrS o.d
    (if o.n.toNat < m.nfields then BitVec.ofNat 64 (s.me.workid.toNat / 2 ^ m.fieldLo o.n.toNat % 2 ^ m.fieldWidth o.n.toNat) else 0)))) ∧
  ∀ (g : BitVec 6) (n : Bool),
  (∀ o : Rri, ∀ p ∈ ([(Instr.addi o, 0x030#9), (.muli o, 0x031), (.andi o, 0x032), (.ori o, 0x033), (.xori o, 0x034), (.shli o, 0x035), (.shri o, 0x036), (.sari o, 0x037)] :
      List (Instr × BitVec 9)),
    decodeSyllable .scalar (g ++ BitVec.ofBool n ++ p.2 ++ o.d ++ o.a ++ 0#4 ++ o.imm) =
      if p.2 ∈ [0x035#9, 0x036#9, 0x037#9] ∧ 63 < o.imm.toNat then .error .illFormed else .ok ⟨g, n, p.1⟩) ∧
  (∀ o : Rrrr, ∀ p ∈ ([(Instr.sel o, 0x016#9), (.shadd o, 0x017)] : List (Instr × BitVec 9)),
    decodeSyllable .scalar (g ++ BitVec.ofBool n ++ p.2 ++ o.d ++ o.a ++ o.b ++ o.c ++ 0#8) = .ok ⟨g, n, p.1⟩) ∧
  (∀ o : Ri24, ∀ p ∈ ([(Instr.movi o, 0x060#9), (.movk o, 0x061)] : List (Instr × BitVec 9)),
    decodeSyllable .scalar (g ++ BitVec.ofBool n ++ p.2 ++ o.d ++ o.sel ++ o.imm) =
      if o.sel = 3 ∨ (o.sel = 2 ∧ 0xFFFF < o.imm.toNat) then .error .illFormed else .ok ⟨g, n, p.1⟩) ∧
  ∀ o : Widf, decodeSyllable .scalar (g ++ BitVec.ofBool n ++ 0x038#9 ++ o.d ++ 0#6 ++ o.n ++ 0#16) =
    if 5 < o.n.toNat then .error .illFormed else .ok ⟨g, n, .widf o⟩

/-- R169: the compares write a predicate; the immediate is extended by sign. R170: predicate logic. The words of
all these forms. -/
def Obligations.ComparesAndPredicates : Prop :=
  (∀ (s : State),
  (∀ o : Rrr, let a := s.me.rdS o.a; let b := s.me.rdS o.b
    ∀ p ∈ ([(Instr.cmpeq o, decide (a = b)), (.cmpne o, decide (a ≠ b)), (.cmplt o, decide (a.toInt < b.toInt)),
      (.cmpltu o, decide (a.toNat < b.toNat)), (.cmple o, decide (a.toInt ≤ b.toInt)), (.cmpleu o, decide (a.toNat ≤ b.toNat))] :
      List (Instr × Bool)),
    s.Clear p.1 → exec p.1 s = .next (s.wrote (s.me.wrP o.d p.2))) ∧
  ∀ o : Rri, let a := (s.me.rdS o.a).toInt; let i := o.imm.toInt
    ∀ p ∈ ([(Instr.cmpeqi o, decide (a = i)), (.cmpnei o, decide (a ≠ i)), (.cmplti o, decide (a < i)), (.cmpgei o, decide (i ≤ a))] :
      List (Instr × Bool)),
    s.Clear p.1 → exec p.1 s = .next (s.wrote (s.me.wrP o.d p.2))) ∧
  (∀ (s : State) (o : Rrr),
  let a := s.me.rdP o.a
  let b := s.me.rdP o.b
  ∀ p ∈ ([(Instr.pand o, a && b), (.por o, a || b), (.pxor o, a != b), (.pandn o, a && !b)] : List (Instr × Bool)),
  s.Clear p.1 → exec p.1 s = .next (s.wrote (s.me.wrP o.d p.2))) ∧
  ∀ (g : BitVec 6) (n : Bool),
  (∀ o : Rrr, ∀ p ∈ ([(Instr.cmpeq o, 0x040#9), (.cmpne o, 0x041), (.cmplt o, 0x042), (.cmpltu o, 0x043), (.cmple o, 0x044), (.cmpleu o, 0x045),
      (.pand o, 0x050), (.por o, 0x051), (.pxor o, 0x052), (.pandn o, 0x053)] : List (Instr × BitVec 9)),
    decodeSyllable .scalar (g ++ BitVec.ofBool n ++ p.2 ++ o.d ++ o.a ++ o.b ++ 0#14) = .ok ⟨g, n, p.1⟩) ∧
  ∀ o : Rri, ∀ p ∈ ([(Instr.cmpeqi o, 0x046#9), (.cmpnei o, 0x047), (.cmplti o, 0x048), (.cmpgei o, 0x049)] : List (Instr × BitVec 9)),
    decodeSyllable .scalar (g ++ BitVec.ofBool n ++ p.2 ++ o.d ++ o.a ++ 0#4 ++ o.imm) = .ok ⟨g, n, p.1⟩

/-- R83, R107, R161: what a scalar form with a scalar or predicate destination leaves unchanged: every other scalar register, every
predicate but its destination, every vector, mask, token, descriptor, loop, control and trap register, every other strand, the
accumulators and every byte of memory. -/
def Obligations.ScalarFrame : Prop := ∀ (s t : State) (i : Instr) (d : BitVec 6) (pd : BitVec 6),
  ((∃ o : Rrr, o.d = d ∧ pd = 0 ∧ i ∈ [Instr.add o, .sub o, .mul o, .mulh o, .mulhu o, .div o, .divu o, .rem o, .remu o, .andS o, .orS o,
      .xorS o, .andn o, .shl o, .shr o, .sar o, .rol o, .min o, .max o, .minu o, .maxu o]) ∨
   (∃ o : Rri, o.d = d ∧ pd = 0 ∧ i ∈ [Instr.addi o, .muli o, .andi o, .ori o, .xori o, .shli o, .shri o, .sari o]) ∨
   (∃ o : Rr, o.d = d ∧ pd = 0 ∧ i ∈ [Instr.clz o, .ctz o, .popc o, .brev o, .bswap o]) ∨
   (∃ o : Rrrr, o.d = d ∧ pd = 0 ∧ i ∈ [Instr.sel o, .shadd o]) ∨
   (∃ o : Ri24, o.d = d ∧ pd = 0 ∧ i ∈ [Instr.movi o, .movk o]) ∨
   (∃ o : Widf, o.d = d ∧ pd = 0 ∧ i = .widf o) ∨
   (∃ o : Rrr, o.d = pd ∧ d = 0 ∧ i ∈ [Instr.cmpeq o, .cmpne o, .cmplt o, .cmpltu o, .cmple o, .cmpleu o, .pand o, .por o, .pxor o, .pandn o]) ∨
   (∃ o : Rri, o.d = pd ∧ d = 0 ∧ i ∈ [Instr.cmpeqi o, .cmpnei o, .cmplti o, .cmpgei o])) →
  s.Clear i → exec i s = .next t →
  (∀ n, n ≠ d → t.me.rdS n = s.me.rdS n) ∧ (∀ n, n ≠ pd → t.me.rdP n = s.me.rdP n) ∧
  { t.me with sregs := s.me.sregs, pregs := s.me.pregs } = s.me.moved s.here ∧
  s.SameBytes t ∧ s.SameOthers t ∧ s.OnlyMe t

/-- R95, R174: BR, BRI and RET leave a branch to their target pending, with two delay bundles to come. R99, R407: BANKSW does so too, and
its target lies in the other bank, but not in supervisor state. R174, R176: CALL, where both its delay bundles can be read, writes the
address after the second to SL and leaves a branch to its target pending. -/
def Obligations.BranchesAndCalls : Prop :=
  (∀ (s : State),
  let goes (a : Nat) (bsw : Bool) : State := s.wrote { s.me with pend := some { left := 2, target := some a, bsw := bsw } }
  (∀ o : Bd, let a := (BitVec.ofInt 64 (s.me.pc + o.disp.toInt)).toNat
    (s.Clear (.br o) → exec (.br o) s = .next (goes a false)) ∧
    (s.Clear (.banksw o) → exec (.banksw o) s = .next (goes a (!s.me.super)))) ∧
  ∀ o : Bs, let a := (s.me.rdS o.sl).toNat
    (s.Clear (.bri o) → exec (.bri o) s = .next (goes a false)) ∧ (s.Clear (.ret o) → exec (.ret o) s = .next (goes a false))) ∧
  (∀ (s : State) (o : Bsd) (g h : Fetched),
  s.Clear (.call o) → s.bundleAt s.cur (s.here.addr + s.here.len) s.here.runs = .bundle g → g.cause = none →
  s.bundleAt s.cur (g.addr + g.len) g.runs = .bundle h → h.cause = none →
  exec (.call o) s = .next (s.wrote { s.me.wrS o.sl (BitVec.ofNat 64 (h.addr + h.len)) with
    pend := some { left := 2, target := some (BitVec.ofInt 64 (s.me.pc + o.disp.toInt)).toNat, bsw := false } }))

/-- R95, R99: the first delay bundle of a branch goes on to the second, and after the second issue goes to the target, in the other
bank for a BANKSW; the pending branch is then gone. -/
def Obligations.DelayBundles : Prop := ∀ (s : State) (p : Pending), s.me.pend = some p → s.Unheld .nop →
  s.me.atEnd s.here false = false → s.me.atEnd s.here true = false → ∃ t, exec .nop s = .next t ∧ s.OnlyMe t ∧
  (1 < p.left → t.me.pend = some { p with left := p.left - 1 } ∧ t.me.pc = s.here.addr + s.here.len ∧ t.me.bank = s.me.bank) ∧
  (∀ a, p.left ≤ 1 → p.target = some a → t.me.pend = none ∧ t.me.pc = a ∧ t.me.inRun = false ∧ t.me.bank = (s.me.bank != p.bsw)) ∧
  (p.left ≤ 1 → p.target = none → t.me.pend = none ∧ t.me.pc = s.here.addr + s.here.len ∧ t.me.bank = s.me.bank) ∧
  ∀ n m v, t.me.rdS n = s.me.rdS n ∧ t.me.rdP m = s.me.rdP m ∧ t.me.rdV v = s.me.rdV v

/-- R177, R182: LOOP and MLOOP with trips install their level: its body begins at the successor and ends LEN units on; MLOOP adds
its stages to the trip count, clears the rotation bases and p32 to p62, and sets p63. R178: the end test of a loop body: while
more than one trip is left the count falls and issue goes to the body's start; on the last trip the level is left with LC 0 and
issue goes on. -/
def Obligations.Loops : Prop :=
  (∀ (s : State) (n : Nat), 0 < n → n < 2 ^ 31 → s.me.super = false →
  (∀ o : Lp, s.Clear (.loop o) → s.here.len ≤ o.len.toNat → (s.me.rdS o.sc).toNat = n → ∃ t, exec (.loop o) s = .next t ∧ s.OnlyMe t ∧
    t.me.loop o.lvl = { lc := BitVec.ofNat 32 n, ls := BitVec.ofNat 32 (s.here.addr + s.here.len),
                        le := BitVec.ofNat 32 (s.here.addr + o.len.toNat), lsPend := none, lePend := none, act := true, nstg := none } ∧
    t.me.loop (!o.lvl) = s.me.loop (!o.lvl) ∧ t.me.pc = s.here.addr + s.here.len ∧ t.me.sregs = s.me.sregs ∧ t.me.pregs = s.me.pregs) ∧
  ∀ o : Mlp, s.Clear (.mloop o) → s.here.len ≤ o.len.toNat → (s.me.rdS o.sc).toNat = n → ∃ t, exec (.mloop o) s = .next t ∧ s.OnlyMe t ∧
    t.me.loop o.lvl = { lc := BitVec.ofNat 32 (n + o.nstg.toNat), ls := BitVec.ofNat 32 (s.here.addr + s.here.len),
                        le := BitVec.ofNat 32 (s.here.addr + o.len.toNat), lsPend := none, lePend := none, act := true,
                        nstg := some o.nstg.toNat } ∧
    t.me.loop (!o.lvl) = s.me.loop (!o.lvl) ∧ t.me.pc = s.here.addr + s.here.len ∧ t.me.sregs = s.me.sregs ∧
    t.me.rvb = 0 ∧ t.me.rpb = 0 ∧ ∀ i < 64, t.me.pregs.getLsbD i = if i < 32 then s.me.pregs.getLsbD i else decide (i = 63)) ∧
  (∀ (s : State), s.Unheld .nop → s.me.pend = none → s.me.atEnd s.here true = false →
  s.me.atEnd s.here false = true → s.me.loop0.nstg = none → s.me.lateHeld = [] → ∃ t, exec .nop s = .next t ∧ s.OnlyMe t ∧
  (1 < s.me.loop0.lc.toNat → t.me.loop0 = { s.me.loop0 with lc := s.me.loop0.lc - 1 } ∧ t.me.pc = s.me.loop0.ls.toNat) ∧
  (s.me.loop0.lc.toNat ≤ 1 → t.me.loop0 = { s.me.loop0 with lc := 0, act := false } ∧ t.me.pc = s.here.addr + s.here.len) ∧
  t.me.loop1 = s.me.loop1 ∧ t.me.sregs = s.me.sregs ∧ t.me.pregs = s.me.pregs ∧ t.me.rvb = s.me.rvb ∧ t.me.rpb = s.me.rpb)

/-! The vector slots. -/

/-- R138, R139, R188, R190, R191, R193: VADD, VSUB, VMUL, VMIN, VMAX, VADDS, VSUBS and VMULH: active elements take the exact result
wrapped, clamped, halved or rounded, and land 4 clocks on for the floating formats and VMULH, else 2. R194, R195: VDOT4 adds
four products to each element of an INT32 destination; VABS and VNEG take one source. -/
def Obligations.VectorArithmetic : Prop :=
  (∀ (s : State) (o : Vvv),
  let t := s.me
  let fa (i : Nat) : FP := fpDecode o.fmt (t.ve o.fmt o.va i)
  let fb (i : Nat) : FP := fpDecode o.fmt (t.ve o.fmt o.vb i)
  let ia (i : Nat) : Int := intDecode o.fmt (t.ve o.fmt o.va i)
  let ib (i : Nat) : Int := intDecode o.fmt (t.ve o.fmt o.vb i)
  let mode : RMode := .ofBits t.rmode
  let out (g : Nat → Int) (x : Nat → FP) (i : Nat) : Nat := if o.fmt.isF then fpRound o.fmt mode t.ftz (x i) else intWrap o.fmt (g i)
  let lat : Nat := if o.fmt.isF then 4 else 2
  tagIs t o.va.toNat o.fmt = true → tagIs t o.vb.toNat o.fmt = true → destTagOk t o.k o.vd.toNat o.fmt = true →
  ∀ p ∈ ([(Instr.vadd o, lat, out (fun i => ia i + ib i) fun i => (fa i).add mode (fb i)),
    (.vsub o, lat, out (fun i => ia i - ib i) fun i => (fa i).add mode (fb i).neg),
    (.vmul o, lat, out (fun i => ia i * ib i) fun i => (fa i).mul (fb i)),
    (.vmin o, lat, out (fun i => min (ia i) (ib i)) fun i => (fa i).min (fb i)),
    (.vmax o, lat, out (fun i => max (ia i) (ib i)) fun i => (fa i).max (fb i)),
    (.vadds o, 2, fun i => (intSat o.fmt (ia i + ib i)).1), (.vsubs o, 2, fun i => (intSat o.fmt (ia i - ib i)).1),
    (.vmulh o, 4, fun i => intWrap o.fmt (ia i * ib i / 2 ^ o.fmt.bits))] : List (Instr × Nat × (Nat → Nat))),
  s.Clear p.1 → ∃ u, exec p.1 s = .next u ∧
    s.Flew u p.2.1 [.v (t.physV o.vd.toNat) { bits := blend o.fmt (t.rdK o.k) (t.rdV o.vd.toNat).bits p.2.2, tag := o.fmt }]) ∧
  (∀ (s : State),
  let t := s.me
  let into (f : Fmt) (k : BitVec 4) (vd : BitVec 8) (h : Nat → Nat) : List Landing :=
    [.v (t.physV vd.toNat) { bits := blend f (t.rdK k) (t.rdV vd.toNat).bits h, tag := f }]
  (∀ o : Vvv, tagIs t o.va.toNat o.fmt = true → tagIs t o.vb.toNat o.fmt = true → tagIs t o.vd.toNat .int32 = true → s.Clear (.vdot4 o) →
    let a (i : Nat) : Int := intDecode o.fmt (t.ve o.fmt o.va i)
    let b (i : Nat) : Int := intDecode o.fmt (t.ve o.fmt o.vb i)
    ∃ u, exec (.vdot4 o) s = .next u ∧ s.Flew u 4 (into .int32 o.k o.vd fun j => intWrap .int32 (intDecode .int32 (t.ve .int32 o.vd j) +
      (a (4 * j) * b (4 * j) + a (4 * j + 1) * b (4 * j + 1) + a (4 * j + 2) * b (4 * j + 2) + a (4 * j + 3) * b (4 * j + 3))))) ∧
  ∀ o : Vv, tagIs t o.va.toNat o.fmt = true → destTagOk t o.k o.vd.toNat o.fmt = true →
    let x (i : Nat) : FP := fpDecode o.fmt (t.ve o.fmt o.va i)
    let n (i : Nat) : Int := intDecode o.fmt (t.ve o.fmt o.va i)
    let out (g : Int → Int) (h : FP → FP) (i : Nat) : Nat :=
      if o.fmt.isF then fpRound o.fmt (.ofBits t.rmode) t.ftz (h (x i)) else intWrap o.fmt (g (n i))
    ∀ p ∈ ([(Instr.vabs o, out (fun a => if a < 0 then -a else a) FP.abs), (.vneg o, out (fun a => -a) FP.neg)] : List (Instr × (Nat → Nat))),
    s.Clear p.1 → ∃ u, exec p.1 s = .next u ∧ s.Flew u (if o.fmt.isF then 4 else 2) (into o.fmt o.k o.vd p.2))

/-- R196: the fused multiply-adds round the exact product and sum once, and write every element. -/
def Obligations.FusedMultiplyAdd : Prop := ∀ (s : State) (o : Vvvv),
  let t := s.me
  let mode : RMode := .ofBits t.rmode
  ∀ p ∈ ([(Instr.fmaFp32 o, Fmt.fp32, false, false), (.fmaBf16 o, .bf16, false, false), (.fmaFp16 o, .fp16, false, false),
    (.fmsFp32 o, .fp32, false, true), (.fmsBf16 o, .bf16, false, true), (.fmsFp16 o, .fp16, false, true),
    (.fnmaFp32 o, .fp32, true, false), (.fnmaBf16 o, .bf16, true, false), (.fnmaFp16 o, .fp16, true, false)] : List (Instr × Fmt × Bool × Bool)),
  let f := p.2.1
  tagIs t o.va.toNat f = true → tagIs t o.vb.toNat f = true → tagIs t o.vc.toNat f = true → s.Clear p.1 →
  let x (v : BitVec 8) (i : Nat) : FP := fpDecode f (t.ve f v i)
  ∃ u, exec p.1 s = .next u ∧ s.Flew u 4 [.v (t.physV o.vd.toNat) (.mk (packV f fun i =>
    let ab := (x o.va i).mul (x o.vb i)
    fpRound f mode t.ftz (FP.add mode (if p.2.2.1 then ab.neg else ab) (if p.2.2.2 then (x o.vc i).neg else x o.vc i))) f)]

/-- R197, R198: the vector compares set every bit of an active element of KD and keep the others, and the mask forms work on all
bits; a write to k0 is discarded (R107). -/
def Obligations.MaskResults : Prop := ∀ (s : State),
  let t := s.me
  (∀ o : Kvv, tagIs t o.va.toNat o.fmt = true → tagIs t o.vb.toNat o.fmt = true → ∀ p ∈ ([(Instr.vcmpeq o, Rel.eq), (.vcmpne o, .ne),
      (.vcmplt o, .lt), (.vcmple o, .le)] : List (Instr × Rel)), s.Clear p.1 →
    ∃ u, ∃ x : KBits, exec p.1 s = .next u ∧ s.Flew u (if o.fmt.isF then 4 else 2) (if o.kd = 0 then [] else [.k o.kd.toNat x]) ∧
      ∀ i < o.fmt.count, ∀ b < o.fmt.halfBytes / 2, x.getLsbD (o.fmt.halfBytes / 2 * i + b) =
        if active (t.rdK o.k) o.fmt i then p.2.elt o.fmt (t.ve o.fmt o.va i) (t.ve o.fmt o.vb i)
        else (t.rdK o.kd).getLsbD (o.fmt.halfBytes / 2 * i + b)) ∧
  ∀ o : Kkk, let a := t.rdK o.ka; let b := t.rdK o.kb
    ∀ p ∈ ([(Instr.kand o, a &&& b), (.kor o, a ||| b), (.kxor o, a ^^^ b), (.kandn o, a &&& ~~~b)] : List (Instr × KBits)), s.Clear p.1 →
    ∃ u, exec p.1 s = .next u ∧ s.Flew u 1 (if o.kd = 0 then [] else [.k o.kd.toNat p.2])

/-- R138, R199, R200, R207: logic, moves and shifts; under RAW a logic form or move takes any tags and the result keeps VA's. R204
to R209: permutes, slides, broadcasts, selection, moves to a scalar, splats, partition and retagging. -/
def Obligations.VectorLogicAndMoves : Prop :=
  (∀ (s : State),
  let t := s.me
  let into (f : Fmt) (tag : Fmt) (k : BitVec 4) (vd : BitVec 8) (h : Nat → Nat) : List Landing :=
    [.v (t.physV vd.toNat) { bits := blend f (t.rdK k) (t.rdV vd.toNat).bits fun i => cleanElt tag f i (h i), tag := tag }]
  (∀ o : Vvv, let tag := if o.fmt = .raw then (t.rdV o.va.toNat).tag else o.fmt
    let a (i : Nat) : Nat := t.ve o.fmt o.va i
    let b (i : Nat) : Nat := t.ve o.fmt o.vb i
    tagOrRaw t o.va.toNat o.fmt = true → tagOrRaw t o.vb.toNat o.fmt = true → destTagOk t o.k o.vd.toNat tag = true →
    ∀ p ∈ ([(Instr.vand o, fun i => a i &&& b i), (.vor o, fun i => a i ||| b i), (.vxor o, fun i => a i ^^^ b i),
      (.vandn o, fun i => a i &&& (2 ^ o.fmt.bits - 1 - b i))] : List (Instr × (Nat → Nat))),
    s.Clear p.1 → ∃ u, exec p.1 s = .next u ∧ s.Flew u 1 (into o.fmt tag o.k o.vd p.2)) ∧
  (∀ o : Vv, let tag := if o.fmt = .raw then (t.rdV o.va.toNat).tag else o.fmt
    tagOrRaw t o.va.toNat o.fmt = true → destTagOk t o.k o.vd.toNat tag = true →
    ∀ p ∈ ([(Instr.vnot o, fun i => 2 ^ o.fmt.bits - 1 - t.ve o.fmt o.va i), (.vmov o, fun i => t.ve o.fmt o.va i)] :
      List (Instr × (Nat → Nat))),
    s.Clear p.1 → ∃ u, exec p.1 s = .next u ∧ s.Flew u 1 (into o.fmt tag o.k o.vd p.2)) ∧
  (∀ o : Vvv, let a (i : Nat) : Nat := t.ve o.fmt o.va i; let c (i : Nat) : Nat := t.ve o.fmt o.vb i % o.fmt.bits
    tagIs t o.va.toNat o.fmt = true → tagIs t o.vb.toNat o.fmt = true → destTagOk t o.k o.vd.toNat o.fmt = true →
    ∀ p ∈ ([(Instr.vshl o, fun i => a i * 2 ^ c i % 2 ^ o.fmt.bits), (.vshr o, fun i => a i / 2 ^ c i),
      (.vsar o, fun i => intWrap o.fmt (intDecode o.fmt (a i) / 2 ^ c i))] : List (Instr × (Nat → Nat))),
    s.Clear p.1 → ∃ u, exec p.1 s = .next u ∧ s.Flew u 2 (into o.fmt o.fmt o.k o.vd p.2)) ∧
  ∀ o : Vvs, let a (i : Nat) : Nat := t.ve o.fmt o.va i; let c : Nat := (t.rdS o.sb).toNat % o.fmt.bits
    tagIs t o.va.toNat o.fmt = true → destTagOk t o.k o.vd.toNat o.fmt = true →
    ∀ p ∈ ([(Instr.vshls o, fun i => a i * 2 ^ c % 2 ^ o.fmt.bits), (.vshrs o, fun i => a i / 2 ^ c),
      (.vsars o, fun i => intWrap o.fmt (intDecode o.fmt (a i) / 2 ^ c))] : List (Instr × (Nat → Nat))),
    s.Clear p.1 → ∃ u, exec p.1 s = .next u ∧ s.Flew u 2 (into o.fmt o.fmt o.k o.vd p.2)) ∧
  (∀ (s : State),
  let t := s.me
  let res (va : BitVec 8) (f : Fmt) : Fmt := if f = .raw then (t.rdV va.toNat).tag else f
  let into (f : Fmt) (tag : Fmt) (k : BitVec 4) (vd : BitVec 8) (h : Nat → Nat) : List Landing :=
    [.v (t.physV vd.toNat) { bits := blend f (t.rdK k) (t.rdV vd.toNat).bits fun i => cleanElt tag f i (h i), tag := tag }]
  (∀ o : Vvv, s.Clear (.vperm o) → tagOrRaw t o.va.toNat o.fmt = true → groupTag t o.vb.toNat (idxRegs o.fmt) .int16 = true →
    destTagOk t o.k o.vd.toNat (res o.va o.fmt) = true → ∃ u, exec (.vperm o) s = .next u ∧
    s.Flew u 3 (into o.fmt (res o.va o.fmt) o.k o.vd fun i => t.ve o.fmt o.va (indexElt t o.vb.toNat o.fmt i % o.fmt.count))) ∧
  (∀ o : Vvs, let n := (t.rdS o.sb).toNat
    (s.Clear (.vslideup o) → tagOrRaw t o.va.toNat o.fmt = true → tagOrRaw t o.vd.toNat o.fmt = true → ∃ u, exec (.vslideup o) s = .next u ∧
      s.Flew u 3 (into o.fmt (res o.va o.fmt) o.k o.vd fun i => if i < n then t.ve o.fmt o.vd i else t.ve o.fmt o.va (i - n))) ∧
    (s.Clear (.vslidedn o) → tagOrRaw t o.va.toNat o.fmt = true → destTagOk t o.k o.vd.toNat (res o.va o.fmt) = true →
      ∃ u, exec (.vslidedn o) s = .next u ∧
      s.Flew u 3 (into o.fmt (res o.va o.fmt) o.k o.vd fun i => if i + n < o.fmt.count then t.ve o.fmt o.va (i + n) else 0))) ∧
  (∀ o : Vbc, s.Clear (.vbcast o) → destTagOk t o.k o.vd.toNat o.fmt = true → ∃ u, exec (.vbcast o) s = .next u ∧
    s.Flew u 1 (into o.fmt o.fmt o.k o.vd fun _ => (t.rdS o.sb).toNat % 2 ^ valueBits o.fmt)) ∧
  (∀ o : Vvv, s.Clear (.vsel o) → tagOrRaw t o.va.toNat o.fmt = true → tagOrRaw t o.vb.toNat o.fmt = true → ∃ u, exec (.vsel o) s = .next u ∧
    s.Flew u 1 [.v (t.physV o.vd.toNat) (.mk
      (packV o.fmt fun i => cleanElt (res o.va o.fmt) o.fmt i
        (if active (t.rdK o.k) o.fmt i then t.ve o.fmt o.va i else t.ve o.fmt o.vb i)) (res o.va o.fmt))]) ∧
  (∀ o : Vsx, let j := (t.rdS o.sb).toNat % o.fmt.count
    let x : W64 := if active (t.rdK o.k) o.fmt j then
      (if o.fmt.signed then BitVec.ofInt 64 (intDecode o.fmt (t.ve o.fmt o.va j)) else BitVec.ofNat 64 (t.ve o.fmt o.va j % 2 ^ valueBits o.fmt)) else 0
    s.Clear (.vmvs o) → tagOrRaw t o.va.toNat o.fmt = true → ∃ u, exec (.vmvs o) s = .next u ∧
      s.Flew u 3 (if o.sd = 0 then [] else [.s o.sd.toNat x])) ∧
  (∀ o : Vi, s.Clear (.vsplati o) → ∃ u, exec (.vsplati o) s = .next u ∧ s.Flew u 1 [.v (t.physV o.vd.toNat) (.mk (packV o.fmt fun _ =>
    if o.fmt = .fp32 then o.imm.toNat * 2 ^ 16 else if o.fmt = .int32 then (o.imm.signExtend 32).toNat else o.imm.toNat) o.fmt)]) ∧
  (∀ o : Vp, let k := t.rdK o.k
    let on := (List.range o.fmt.count).filter (active k o.fmt)
    let off := (List.range o.fmt.count).filter fun i => !active k o.fmt i
    s.Clear (.vsplitVpart o) → ∃ u, exec (.vsplitVpart o) s = .next u ∧
      s.Flew u 3 (((List.range (idxRegs o.fmt)).map fun r => Landing.v (t.physV (o.vd.toNat + r)) (.mk (packV .int16 fun l =>
        (on ++ off).getD (l * idxRegs o.fmt + r) 0) .int16)) ++ if o.sd = 0 then [] else [.s o.sd.toNat (BitVec.ofNat 64 on.length)])) ∧
  ∀ o : Vt, s.Clear (.vtag o) → ∃ u, exec (.vtag o) s = .next u ∧
    s.Flew u 1 [.v (t.physV o.vd.toNat) { bits := (t.rdV o.va.toNat).bits, tag := o.fmt }])

/-- R140, R201, R203: conversions between formats: VCVT keeps the width, VCVTW spreads its elements over the registers of a pair or
quad, VCVTN gathers them from one. -/
def Obligations.VectorConversions : Prop := ∀ (s : State) (o : Vcv),
  let t := s.me
  let f := (t.rdV o.va.toNat).tag
  let r := ratioOf f o.fmt
  let cv (b : Nat) : Nat := (convert f o.fmt (rmMode t o.rm) o.sat t.ftz b).bits
  cvtPair f o.fmt = true →
  (s.Clear (.vcvt o) → f.halfBytes = o.fmt.halfBytes → destTagOk t o.k o.vd.toNat o.fmt = true → ∃ u, exec (.vcvt o) s = .next u ∧
    s.Flew u 3 [.v (t.physV o.vd.toNat) { tag := o.fmt, bits := blend o.fmt (t.rdK o.k) (t.rdV o.vd.toNat).bits fun i => cv (t.ve f o.va i) }]) ∧
  (s.Clear (.vcvtw o) → o.fmt.halfBytes = 2 * f.halfBytes ∨ o.fmt.halfBytes = 4 * f.halfBytes → ∃ u, exec (.vcvtw o) s = .next u ∧
    s.Flew u 3 ((List.range r).map fun j => .v (t.physV (o.vd.toNat + j)) { tag := o.fmt, bits := packV o.fmt fun l => cv (t.ve f o.va (l * r + j)) })) ∧
  (s.Clear (.vcvtn o) → f.halfBytes = 2 * o.fmt.halfBytes ∨ f.halfBytes = 4 * o.fmt.halfBytes → groupTag t o.va.toNat r f = true →
    ∃ u, exec (.vcvtn o) s = .next u ∧
    s.Flew u 3 [.v (t.physV o.vd.toNat) { tag := o.fmt, bits := packV o.fmt fun i => cv ((t.rdV (o.va.toNat + i % r)).elt f (i / r)) }])

/-- R156, R191, R210: the special functions: the FP32 steps, one rounding to the format, landing 32 clocks on, the unit then being
busy for 8. -/
def Obligations.SpecialFunctions : Prop := ∀ (s : State) (o : Vv),
  let t := s.me
  let c := coreOf s.cur
  tagIs t o.va.toNat o.fmt = true → destTagOk t o.k o.vd.toNat o.fmt = true →
  ∀ p ∈ ([(Instr.vexp2 o, exp2_32), (.vlog2 o, log2_32), (.vrecip o, recip32), (.vrsqrt o, rsqrt32), (.vtanh o, tanh32), (.vsilu o, silu32)] :
    List (Instr × (FP → FP))), s.Clear p.1 → ∃ u, exec p.1 s = .next u ∧
    u.me = (t.flying (s.issueClk + 32) (s.slot == .m) [.v (t.physV o.vd.toNat) (.mk (blend o.fmt (t.rdK o.k) (t.rdV o.vd.toNat).bits fun i =>
      fpRound o.fmt .rne t.ftz (p.2 (fpDecode o.fmt (t.ve o.fmt o.va i)))) o.fmt)]).moved s.here ∧
    (u.core c).vbusy.get ((s.core c).unitOf s.slot) 0 = s.issueClk + 8 ∧ s.SameBytes u ∧ s.SameOthers u

/-- R211 to R215: the reductions: the tree's value of the active elements set into a latch, or combined with it, 4 clocks on, and
QDRN, which moves a latch to a scalar register and clears it. -/
def Obligations.Reductions : Prop := ∀ (s : State),
  let t := s.me
  (∀ o : Rq, tagIs t o.va.toNat o.fmt = true →
    let v := t.rdV o.va.toNat
    let k := t.rdK o.k
    let l := t.newPs o.ps.toNat
    ∀ p ∈ ([(Instr.qacc o, RedOp.add, false), (.qadd o, .add, true), (.qmax o, .max, true), (.qmin o, .min, true)] : List (Instr × RedOp × Bool)),
    (p.2.2 = true → l.int = !o.fmt.isF) → s.Clear p.1 →
    let x := redInt p.2.1 o.fmt k v
    let y := redFp p.2.1 o.fmt k v
    ∃ u, exec p.1 s = .next u ∧ s.Flew u 4 [.ps o.ps.toNat (if o.fmt.isF then
        .mk (BitVec.ofNat 32 (fpRound .fp32 .rne false (if p.2.2 then p.2.1.fp (fpDecode .fp32 l.bits.toNat) y else y))) false
      else
        .mk (BitVec.ofInt 32 (if p.2.2 then p.2.1.int (intDecode .int32 l.bits.toNat) (intDecode .int32 (intWrap .int32 x)) else x)) true)]) ∧
  ∀ o : Qd, let l := t.newPs o.ps.toNat
    s.Clear (.qdrn o) → ∃ u, exec (.qdrn o) s = .next u ∧ s.Flew u 5
      ((if o.sd = 0 then [] else [.s o.sd.toNat (if l.int then l.bits.signExtend 64 else l.bits.zeroExtend 64)]) ++
        [.ps o.ps.toNat { bits := 0, int := l.int }])

/-- What a bundle whose results are in flight leaves unchanged: every register until they land, every other strand, every
accumulator, plane, region and barrier of every core, and every byte of memory. -/
def Obligations.VectorFrame : Prop := ∀ (s u : State) (n : Nat) (lands : List Landing), s.Flew u n lands →
  (∀ r v k p, u.me.rdS r = s.me.rdS r ∧ u.me.rdV v = s.me.rdV v ∧ u.me.rdK k = s.me.rdK k ∧ u.me.rdP p = s.me.rdP p) ∧
  (∀ i, u.me.rdPs i = s.me.rdPs i ∧ u.me.rdTk i = s.me.rdTk i ∧ u.me.rdCb i = s.me.rdCb i) ∧
  u.me.trap = s.me.trap ∧ u.me.loop0 = s.me.loop0 ∧ u.me.loop1 = s.me.loop1 ∧ u.me.rmode = s.me.rmode ∧ u.me.ftz = s.me.ftz ∧
  u.me.pc = s.here.addr + s.here.len ∧ s.SameBytes u ∧ s.SameOthers u ∧
  ∀ c, (u.core c).acc0 = (s.core c).acc0 ∧ (u.core c).acc1 = (s.core c).acc1 ∧ (u.core c).knots = (s.core c).knots ∧
    (u.core c).regions = (s.core c).regions ∧ (u.core c).barriers = (s.core c).barriers

/-- R192: VADDS and VSUBS append one SAT record, stamped with the bundle's address, when an active element clamps. R138, R139: a
vector form whose tags are not those it needs traps with FMTTAG and commits nothing. -/
def Obligations.SaturationAndTags : Prop :=
  (∀ (s : State) (o : Vvv),
  let t := s.me
  let c := coreOf s.cur
  let a (i : Nat) : Int := intDecode o.fmt (t.ve o.fmt o.va i)
  let b (i : Nat) : Int := intDecode o.fmt (t.ve o.fmt o.vb i)
  tagIs t o.va.toNat o.fmt = true → tagIs t o.vb.toNat o.fmt = true → destTagOk t o.k o.vd.toNat o.fmt = true →
  ∀ p ∈ ([(Instr.vadds o, fun i => a i + b i), (.vsubs o, fun i => a i - b i)] : List (Instr × (Nat → Int))), s.Clear p.1 →
  ∃ u, exec p.1 s = .next u ∧
    ((∃ i < o.fmt.count, active (t.rdK o.k) o.fmt i = true ∧ (intSat o.fmt (p.2 i)).2 = true) →
      u.core c = (s.core c).record 2 (s.cur % 4) 0 t.pc) ∧
    ((∀ i < o.fmt.count, active (t.rdK o.k) o.fmt i = true → (intSat o.fmt (p.2 i)).2 = false) → u.core c = s.core c)) ∧
  (∀ (s : State) (o : Vvv),
  ∀ i ∈ ([Instr.vadd o, .vsub o, .vmul o, .vmin o, .vmax o, .vadds o, .vsubs o, .vmulh o, .vshl o, .vshr o, .vsar o] : List Instr), s.Clear i →
  (tagIs s.me o.va.toNat o.fmt = false ∨ tagIs s.me o.vb.toNat o.fmt = false ∨ destTagOk s.me o.k o.vd.toNat o.fmt = false) →
  exec i s = .next ((s.trapped FMTTAG none).settle s.cur))

/-! The memory slot. -/

/-- R244, R246, R247: the local loads: their elements are read at issue, land 4 clocks on, and keep the inactive elements. R224, R244,
R246, R247: the local stores perform as their bundle commits: the bytes of active elements take the register's, and every other byte of
every memory keeps its value. With a FENCE of the strand pending (R258, of which this states only that), LLD and LST commit and wait, with
no byte changed. -/
def Obligations.LocalAccesses : Prop :=
  (∀ (s : State),
  let t := s.me
  let mem : Mem := (s.core (coreOf s.cur)).local_
  (∀ o : Cbm, let d := t.rdCb o.cb.toNat; let n := o.nm1.toNat + 1
    let a (z : Nat) (p : Nat) : Prop := cbNslot d ≠ 0 ∧ n ≤ cbNslot d ∧ 64 * o.off.toNat + z ≤ n * 64 * cbSlotSz d ∧ n ≤ p
    let at_ (j : Nat) : Nat := cbByte d (cbCons d) (64 * o.off.toNat + j)
    (s.Clear (.ldl o) → a (memBytes o.fmt) (cbFilled d) → destTagOk t o.k o.reg.toNat o.fmt = true →
      s.LocalReady at_ (memBytes o.fmt) (memMask o.fmt (t.rdK o.k)) → ∃ u, exec (.ldl o) s = .next u ∧
      s.Flew u 4 [.v (t.physV o.reg.toNat) (loaded o.fmt (t.rdK o.k) (t.rdV o.reg.toNat).bits (mem.gather at_ (memBytes o.fmt)))]) ∧
    (s.Clear (.ldls o) → let z := scalarBytes o.fmt
      a z (cbFilled d) → s.LocalReady at_ z (2 ^ (8 * z) - 1) → ∃ u, exec (.ldls o) s = .next u ∧
      s.Flew u 4 (if o.reg.setWidth 6 = (0 : BitVec 6) then [] else [.s (o.reg.setWidth 6 : BitVec 6).toNat (scalarExt o.fmt (mem.gather at_ z))]))) ∧
  (∀ o : Gm, let a : Int := (t.rdS o.sa).toNat + 64 * o.disp.toInt
    s.Clear (.lld o) → a % 64 = 0 → 0 ≤ a → a + memBytes o.fmt ≤ 0x100000 → destTagOk t o.k o.reg.toNat o.fmt = true →
    s.LocalReady (a.toNat + ·) (memBytes o.fmt) (memMask o.fmt (t.rdK o.k)) → ∃ u, exec (.lld o) s = .next u ∧
    s.Flew u 4 [.v (t.physV o.reg.toNat) (loaded o.fmt (t.rdK o.k) (t.rdV o.reg.toNat).bits (mem.gather (a.toNat + ·) (memBytes o.fmt)))]) ∧
  ∀ o : Vvs, let w := o.fmt.halfBytes / 2
    let a (i : Nat) : Nat := (t.rdS o.sb).toNat + indexElt t o.va.toNat o.fmt i * w
    s.Clear (.lsgath o) → groupTag t o.va.toNat (idxRegs o.fmt) .int16 = true → destTagOk t o.k o.vd.toNat o.fmt = true →
    (∀ i < o.fmt.count, active (t.rdK o.k) o.fmt i = true → a i + w ≤ 0x100000) →
    s.LocalReady (fun j => a (j / w) + j % w) 512 (memMask o.fmt (t.rdK o.k)) → ∃ u, exec (.lsgath o) s = .next u ∧
    s.Flew u 4 [.v (t.physV o.vd.toNat) (.mk (blend o.fmt (t.rdK o.k) (t.rdV o.vd.toNat).bits fun i =>
      cleanElt o.fmt o.fmt i (eltOf o.fmt.bits (BitVec.ofNat 4096 (mem.gather (fun j => a (j / w) + j % w) 512)) i)) o.fmt)]) ∧
  (∀ (s : State) (o : Gm), let t := s.me; let a : Int := (t.rdS o.sa).toNat + 64 * o.disp.toInt; let m := memMask o.fmt (t.rdK o.k)
    let e (k : HeldKind) : HeldAccess := { id := t.memSeq, addrs := (List.range (memBytes o.fmt)).map (a.toNat + ·), mask := BitVec.ofNat 4096 m, kind := k }
    a % 64 = 0 → 0 ≤ a → a + memBytes o.fmt ≤ 0x100000 → s.Touched (a.toNat + ·) (memBytes o.fmt) m → t.fences ≠ [] →
    (s.Clear (.lld o) → destTagOk t o.k o.reg.toNat o.fmt = true → ∃ u, exec (.lld o) s = .next u ∧ s.Held u (e (.load (.vec (t.physV o.reg.toNat) o.fmt (t.rdK o.k))))) ∧
    (s.Clear (.lst o) → tagOrRaw t o.reg.toNat o.fmt = true → ∃ u, exec (.lst o) s = .next u ∧
      s.Held u (e (.store (BitVec.ofNat 4096 (toMem o.fmt (t.rdV o.reg.toNat).bits)))))) ∧
  (∀ (s : State),
  let t := s.me
  let c := coreOf s.cur
  let stored (u : State) (a : Nat → Nat) (z data mask : Nat) : Prop :=
    u.me = t.moved s.here ∧ (u.core c).local_ = (s.core c).local_.scatter a data mask z ∧
    (∀ x, (∀ j < z, a j ≠ x) → (u.core c).local_.read x = (s.core c).local_.read x) ∧
    s.SameGlobal u ∧ s.SameOthers u ∧ (∀ d, d ≠ c → u.core d = s.core d) ∧
    u.core c = { s.core c with local_ := (u.core c).local_, regions := (u.core c).regions }
  (∀ o : Cbm, let d := t.rdCb o.cb.toNat; let n := o.nm1.toNat + 1
    let ok (z : Nat) : Prop := cbNslot d ≠ 0 ∧ n ≤ cbNslot d ∧ 64 * o.off.toNat + z ≤ n * 64 * cbSlotSz d ∧ n ≤ cbNslot d - cbFilled d
    let at_ (j : Nat) : Nat := cbByte d (cbProd d) (64 * o.off.toNat + j)
    (s.Clear (.stl o) → ok (memBytes o.fmt) → tagOrRaw t o.reg.toNat o.fmt = true →
      s.LocalReady at_ (memBytes o.fmt) (memMask o.fmt (t.rdK o.k)) → ∃ u, exec (.stl o) s = .next u ∧
      stored u at_ (memBytes o.fmt) (toMem o.fmt (t.rdV o.reg.toNat).bits) (memMask o.fmt (t.rdK o.k))) ∧
    (s.Clear (.stls o) → let z := scalarBytes o.fmt
      ok z → s.LocalReady at_ z (2 ^ (8 * z) - 1) → ∃ u, exec (.stls o) s = .next u ∧
      stored u at_ z (t.rdS (o.reg.setWidth 6)).toNat (2 ^ (8 * z) - 1))) ∧
  (∀ o : Gm, let a : Int := (t.rdS o.sa).toNat + 64 * o.disp.toInt
    s.Clear (.lst o) → a % 64 = 0 → 0 ≤ a → a + memBytes o.fmt ≤ 0x100000 → tagOrRaw t o.reg.toNat o.fmt = true →
    s.LocalReady (a.toNat + ·) (memBytes o.fmt) (memMask o.fmt (t.rdK o.k)) → ∃ u, exec (.lst o) s = .next u ∧
    stored u (a.toNat + ·) (memBytes o.fmt) (toMem o.fmt (t.rdV o.reg.toNat).bits) (memMask o.fmt (t.rdK o.k))) ∧
  ∀ o : Vvs, let w := o.fmt.halfBytes / 2
    let a (i : Nat) : Nat := (t.rdS o.sb).toNat + indexElt t o.va.toNat o.fmt i * w
    s.Clear (.lsscat o) → groupTag t o.va.toNat (idxRegs o.fmt) .int16 = true → tagOrRaw t o.vd.toNat o.fmt = true →
    (∀ i < o.fmt.count, active (t.rdK o.k) o.fmt i = true → a i + w ≤ 0x100000) →
    s.LocalReady (fun j => a (j / w) + j % w) 512 (memMask o.fmt (t.rdK o.k)) → ∃ u, exec (.lsscat o) s = .next u ∧
    stored u (fun j => a (j / w) + j % w) 512 (t.rdV o.vd.toNat).bits.toNat (memMask o.fmt (t.rdK o.k)))

/-- R134, R229, R245: CBPUSH with room for its slots and CBPOP of slots that are filled move the descriptor's pointer and count by whole
slots and change nothing else of it; a CBPUSH without room and a CBPOP of slots that are not filled stall; a descriptor that is unset or
has fewer slots is BOUNDS. R255: XPUT at a multiple of 64 inside local store, in a direction that has a core, puts the 512 bytes of VA on
their way to that core, due 6 clocks on; no byte of memory has changed yet; a direction with no core is BOUNDS. -/
def Obligations.BuffersAndPushes : Prop :=
  (∀ (s : State) (o : Cbn),
  let d := s.me.rdCb o.cb.toNat
  let n := o.nm1.toNat + 1
  let put (x : W64) : State := s.wrote { s.me with cbs := s.me.cbs.set o.cb.toNat x }
  (s.Clear (.cbpush o) → cbNslot d ≠ 0 → n ≤ cbNslot d - cbFilled d → ∃ x, exec (.cbpush o) s = .next (put x) ∧
    cbProd x = (cbProd d + n) % cbNslot d % 256 ∧ cbCons x = cbCons d ∧ cbFilled x = cbFilled d + n ∧
    cbBase x = cbBase d ∧ cbSlotSz x = cbSlotSz d ∧ cbNslot x = cbNslot d) ∧
  (s.Clear (.cbpop o) → cbNslot d ≠ 0 → n ≤ cbNslot d → n ≤ cbFilled d → ∃ x, exec (.cbpop o) s = .next (put x) ∧
    cbCons x = (cbCons d + n) % cbNslot d % 256 ∧ cbProd x = cbProd d ∧ cbFilled x = cbFilled d - n ∧
    cbBase x = cbBase d ∧ cbSlotSz x = cbSlotSz d ∧ cbNslot x = cbNslot d) ∧
  (cbNslot d = 0 ∨ cbNslot d < n → ∀ i ∈ ([.cbpush o, .cbpop o] : List Instr), s.Clear i →
    exec i s = .next ((s.trapped BOUNDS none).settle s.cur)) ∧
  (s.Clear (.cbpush o) → n ≤ cbNslot d → cbNslot d - cbFilled d < n → ∃ u, exec (.cbpush o) s = .next u ∧ u.me = s.me) ∧
  (s.Clear (.cbpop o) → n ≤ cbNslot d → cbFilled d < n → ∃ u, exec (.cbpop o) s = .next u ∧ u.me = s.me)) ∧
  (∀ (s : State) (o : Xp), s.Clear (.xput o) → neighbour (coreOf s.cur) o.dir = none →
  exec (.xput o) s = .next ((s.trapped BOUNDS none).settle s.cur)) ∧
  (∀ (s : State) (o : Xp) (c : Nat), s.Clear (.xput o) → neighbour (coreOf s.cur) o.dir = some c →
  (s.me.rdS o.sa).toNat % 64 = 0 → (s.me.rdS o.sa).toNat + 512 ≤ 0x100000 →
  ∃ u, exec (.xput o) s = .next u ∧ u.me = Strand.moved { s.me with xputsOut := s.me.xputsOut + 1 } s.here ∧
    (u.core c).pushes = (s.core c).pushes ++ [{ id := (s.core c).pushSeq, who := s.cur, dir := o.dir, off := (s.me.rdS o.sa).toNat,
                                                data := (s.me.rdV o.va.toNat).bits, due := s.clkHere + 6, waiting := false, seq := s.me.memSeq }] ∧
    s.SameBytes u ∧ s.SameOthers u)

/-- R241, R248, R249, R251, R253: the global loads put an access in flight. R256: the atomics put an access in flight that reads,
computes and writes in one step; a 4-byte form takes the low words of its operands. -/
def Obligations.GlobalLoadsAndAtomics : Prop :=
  (∀ (s : State) (ps : List (Nat × Phys)),
  let t := s.me
  let near (va len : Nat) : Prop := t.storesTo va len = false ∨ ∀ p ∈ ps, ∀ m off, p.2 ≠ .remote m off
  let vec (i : Instr) (kind : AccessKind) (reg : BitVec 8) (k : BitVec 4) (f : Fmt) (va : Nat) (scope : Scope) (drops : Bool) : Prop :=
    s.Clear i → va % 64 = 0 → destTagOk t k reg.toNat f = true → s.Translated needRd (linesOf va (memBytes f) (memMask f (t.rdK k))) ps →
    (kind = .load ∨ near va (memBytes f)) → ∃ u, exec i s = .next u ∧ s.Issued u
      { id := t.memSeq, kind := kind, dest := .vec (t.physV reg.toNat) f (t.rdK k), va := va, len := memBytes f, lines := ps, scope := scope, drops := drops }
  let sc (i : Instr) (kind : AccessKind) (reg : BitVec 8) (f : Fmt) (va : Nat) (scope : Scope) : Prop :=
    s.Clear i → va % scalarBytes f = 0 → s.Translated needRd (linesOf va (scalarBytes f) (2 ^ (8 * scalarBytes f) - 1)) ps →
    (kind = .load ∨ near va (scalarBytes f)) → ∃ u, exec i s = .next u ∧ s.Issued u
      { id := t.memSeq, kind := kind, dest := .scalar (reg.toNat % 64) f, va := va, len := scalarBytes f, lines := ps, scope := scope, drops := false }
  let va (sa : BitVec 6) (u : Int) (disp : BitVec 7) : Nat := (t.rdS sa + BitVec.ofInt 64 (u * disp.toInt)).toNat
  (∀ o : Gm, vec (.gld o) .load o.reg o.k o.fmt (va o.sa 64 o.disp) .strand false ∧
    vec (.ldlu o) .load o.reg o.k o.fmt (va o.sa 64 o.disp) .strand true ∧ sc (.glds o) .load o.reg o.fmt (va o.sa 8 o.disp) .strand) ∧
  (∀ o : Gms, sc (.gldacq o) .acquire o.reg o.fmt (va o.sa 8 o.disp) o.scope) ∧
  ∀ o : Gmv, vec (.gldacqv o) .acquire o.reg o.k o.fmt (va o.sa 64 o.disp) o.scope false) ∧
  (∀ (s : State) (ps : List (Nat × Phys)),
  let t := s.me
  let form (i : Instr) (op : BitVec 3) (d a : BitVec 6) (x q : W64) (scope : Scope) (wide : Bool) : Prop :=
    let va := (t.rdS a).toNat
    let z := if wide then 8 else 4
    let cut (y : W64) : W64 := if wide then y else y &&& 0xFFFFFFFF
    s.Clear i → va % z = 0 → s.Translated needRw (linesOf va z (2 ^ (8 * z) - 1)) ps →
    (t.storesTo va z = false ∨ ∀ p ∈ ps, ∀ m off, p.2 ≠ .remote m off) → ∃ u, exec i s = .next u ∧ s.Issued u
      { id := t.memSeq, kind := .atomic op wide (cut x) (cut q), dest := .scalar d.toNat (if wide then .raw else .int32), va := va, len := z, lines := ps,
        scope := scope, drops := false }
  (∀ o : At, ∀ p ∈ ([(Instr.aadd o, 0), (.amin o, 1), (.amax o, 2), (.aand o, 3), (.aor o, 4), (.axor o, 5), (.aswap o, 6)] : List (Instr × BitVec 3)),
    form p.1 p.2 o.d o.a (t.rdS o.b) 0 o.scope o.wide) ∧
  ∀ o : Atc, form (.acas o) 7 o.d o.a (t.rdS o.b) (t.rdS o.c) o.scope o.wide)

/-- R248, R250: GST and GSTS at an aligned address put their bytes in the store buffer, and no byte of memory changes. R248, R253, R431:
GSTREL, GSTRELV and SIGNAL at an aligned address that is translated do so too once the strand has nothing in flight, buffered or reported;
while a load of the strand to memory of its own leaf is in flight, they stall. All of this while the buffer holds fewer than 64 stores. -/
def Obligations.GlobalStores : Prop := ∀ (s : State) (ps : List (Nat × Phys)),
  let t := s.me
  let va (sa : BitVec 6) (u : Int) (disp : BitVec 7) : Nat := (t.rdS sa + BitVec.ofInt 64 (u * disp.toInt)).toNat
  let entry (kind : StoreKind) (va len data mask : Nat) (lines : List (Nat × Phys)) : StoreEntry :=
    { id := t.memSeq, kind := kind, va := va, len := len, data := BitVec.ofNat 4096 data, mask := BitVec.ofNat 4096 mask, stage := .buffered, lines := lines }
  let done : Prop := t.loads = [] ∧ t.stores = [] ∧ t.reports = []
  let busy : Prop := ∃ e ∈ t.loads, e.remote = false ∧ e.id < t.memSeq
  let orders (i : Instr) (lines : List Nat) (e : StoreEntry) : Prop :=
    s.Clear i → s.Translated needWr lines ps →
      (done → ∃ u, exec i s = .next u ∧ s.Buffered u e) ∧ (busy → ∃ u, exec i s = .next u ∧ u.me = t ∧ s.SameBytes u)
  t.buffered < 64 →
  (∀ o : Gm, let a := va o.sa 64 o.disp; let b := va o.sa 8 o.disp; let z := scalarBytes o.fmt
    (s.Clear (.gst o) → a % 64 = 0 → tagOrRaw t o.reg.toNat o.fmt = true → ∃ u, exec (.gst o) s = .next u ∧ s.SameBytes u ∧
      s.Buffered u (entry .weak a (memBytes o.fmt) (toMem o.fmt (t.rdV o.reg.toNat).bits) (memMask o.fmt (t.rdK o.k)) [])) ∧
    (s.Clear (.gsts o) → b % z = 0 → ∃ u, exec (.gsts o) s = .next u ∧ s.SameBytes u ∧
      s.Buffered u (entry .weak b z ((t.rdS (o.reg.setWidth 6)).toNat % 2 ^ (8 * z)) (2 ^ (8 * z) - 1) []))) ∧
  (∀ o : Gms, let b := va o.sa 8 o.disp; let z := scalarBytes o.fmt
    b % z = 0 → orders (.gstrel o) (linesOf b z (2 ^ (8 * z) - 1))
      (entry (.release o.scope) b z ((t.rdS (o.reg.setWidth 6)).toNat % 2 ^ (8 * z)) (2 ^ (8 * z) - 1) ps)) ∧
  (∀ o : Gmv, let a := va o.sa 64 o.disp
    a % 64 = 0 → tagOrRaw t o.reg.toNat o.fmt = true → orders (.gstrelv o) (linesOf a (memBytes o.fmt) (memMask o.fmt (t.rdK o.k)))
      (entry (.release o.scope) a (memBytes o.fmt) (toMem o.fmt (t.rdV o.reg.toNat).bits) (memMask o.fmt (t.rdK o.k)) ps)) ∧
  ∀ o : Sig, let a := (t.rdS o.sd).toNat
    a % 8 = 0 → orders (.signal o) (linesOf a 8 (2 ^ 64 - 1)) (entry .signal a 8 (t.rdS o.sa).toNat (2 ^ 64 - 1) ps)

/-- R248, R249, R256: a global access at an address that its form does not divide traps with ALIGN and the address. -/
def Obligations.AlignmentTraps : Prop := ∀ (s : State),
  let t := s.me
  let va (sa : BitVec 6) (u : Int) (disp : BitVec 7) : W64 := t.rdS sa + BitVec.ofInt 64 (u * disp.toInt)
  let traps (i : Instr) (a : W64) : Prop := exec i s = .next ((s.trapped ALIGN (some a)).settle s.cur)
  (∀ o : Gm, let a := va o.sa 64 o.disp; let b := va o.sa 8 o.disp
    (a.toNat % 64 ≠ 0 → destTagOk t o.k o.reg.toNat o.fmt = true → ∀ i ∈ ([.gld o, .ldlu o] : List Instr), s.Clear i → traps i a) ∧
    (a.toNat % 64 ≠ 0 → tagOrRaw t o.reg.toNat o.fmt = true → s.Clear (.gst o) → traps (.gst o) a) ∧
    (b.toNat % scalarBytes o.fmt ≠ 0 → ∀ i ∈ ([.glds o, .gsts o] : List Instr), s.Clear i → traps i b)) ∧
  ∀ o : At, let a := t.rdS o.a
    a.toNat % (if o.wide then 8 else 4) ≠ 0 → ∀ i ∈ ([.aadd o, .amin o, .amax o, .aand o, .aor o, .axor o, .aswap o] : List Instr), s.Clear i → traps i a

/-- R252: PREF issues whatever its address and writes no register; an address that is not a multiple of 64 is dropped. R258: FENCE issues
at once; it orders nothing more where the strand has nothing in flight, and stays in force while a load of the leaf is. R259: TWAIT goes
on with a complete token and stalls on a pending one. R260: DRAIN goes on once nothing of the strand is in flight. R261: SEV sets the
latch of its own strand at commit, and those its operand names 1, 4 or 12 clocks on. R262: WFE clears a latch that is set, and else waits.
R263: BAR at core, cluster or leaf scope arrives: the last of N goes on, an earlier one waits; at gang scope it asks member 0, and goes on
or waits as answered (log 41). R264: RDNOW writes NOW. R265: WAITT goes on at a target already passed, and else waits. -/
def Obligations.OrderAndEvents : Prop :=
  (∀ (s : State) (o : Pf), s.Clear (.pref o) →
  ∃ u, exec (.pref o) s = .next u ∧ u.me = s.me.moved s.here ∧
  ((s.me.rdS o.sa + BitVec.ofInt 64 (64 * o.disp.toInt)).toNat % 64 ≠ 0 → u = s.wrote s.me)) ∧
  (∀ (s : State),
  let t := s.me
  (∀ o : Sc, s.Clear (.fence o) → ∃ u, exec (.fence o) s = .next u ∧ u.me.memSeq = t.memSeq + 1 ∧ u.me.pc = s.here.addr + s.here.len ∧
    u.me.sregs = t.sregs ∧ s.SameOthers u ∧
    (t.loads = [] → t.stores = [] → t.fences = [] → t.waits = [] → u.me.fences = []) ∧
    ((∃ e ∈ t.loads, e.remote = false ∧ e.id < t.memSeq) → t.fences = [] → u.me.fences = [{ id := t.memSeq, scope := o.scope }])) ∧
  (∀ o : Sc, s.Clear (.drain o) → t.loads = [] → t.stores = [] → t.sent = [] → t.reports = [] →
    ∃ u, exec (.drain o) s = .next u ∧ u.me = t.moved s.here ∧ s.SameOthers u) ∧
  (∀ o : Tw, (s.Clear (.twait o) → t.rdTk o.tk.toNat = .complete → exec (.twait o) s = .next (s.wrote t)) ∧
    (s.Clear (.twait o) → ∀ c, t.rdTk o.tk.toNat = .pending c → ∃ u, exec (.twait o) s = .next u ∧ u.me = t)) ∧
  (∀ o : Sr, (s.Clear (.rdnow o) → exec (.rdnow o) s = .next (s.wrote (t.wrS o.s s.now))) ∧
    (s.Clear (.waitt o) → (t.rdS o.s).toNat ≤ s.now.toNat → exec (.waitt o) s = .next (s.wrote t)) ∧
    (s.Clear (.waitt o) → s.now.toNat < (t.rdS o.s).toNat → ∃ u, exec (.waitt o) s = .next u ∧
      u.me = Strand.moved { t with trail := some (.waitt (t.rdS o.s)) } s.here ∧ Ev.waittExpiry s.cur ∈ u.agenda ∧ s.SameBytes u ∧ s.SameOthers u))) ∧
  (∀ (s : State),
  (∀ o : Scr, s.Clear (.sev o) →
    let later (n : Nat) (l : List Nat) : Prop := ∃ u, exec (.sev o) s = .next u ∧ u.me = s.me.moved s.here ∧ s.SameBytes u ∧ s.SameOthers u ∧
      u.timers = s.timers ++ l.map fun w => (leafOf s.cur, s.clkHere + n, Ev.eventLatchSet w)
    let on := (List.range 4).filter (s.me.rdS o.s).getLsbD
    (o.scope = .strand → exec (.sev o) s = .next (s.wrote s.me.event)) ∧
    (o.scope = .core → later 1 (on.map (4 * coreOf s.cur + ·))) ∧
    (o.scope = .cluster → later 4 (((List.range 8).filter fun c => (s.me.rdS o.s).getLsbD (8 + c)).flatMap fun c =>
      on.map (4 * (coreOf s.cur / 8 * 8 + c) + ·))) ∧
    (o.scope = .leaf → later 12 (on.map (4 * (64 * leafOf s.cur + ((s.me.rdS o.s).toNat / 2 ^ 16 % 64)) + ·)))) ∧
  (s.Clear .wfe → s.me.latch = true → exec .wfe s = .next (s.wrote { s.me with latch := false })) ∧
  (s.Clear .wfe → s.me.latch = false → exec .wfe s = .next (s.wrote { s.me with trail := some .wfe }))) ∧
  (∀ (s : State) (o : Scr) (m : Member),
  let x := s.me.rdS o.s
  let n := x.toNat % 2 ^ 32
  let b := x.toNat / 2 ^ 32
  s.memberOf s.cur = some m → s.Clear (.bar o) → x.toNat < 2 ^ 36 → n ≠ 0 → n ≤ scopeStrands (some m) o.scope →
  s.me.loads = [] → s.me.stores = [] → s.me.sent = [] → s.me.waits = [] → s.me.reports = [] →
  (o.scope ≠ .gang → (∀ e, s.episode s.cur o.scope b = some e → e.n = n) →
    let before := match s.episode s.cur o.scope b with
      | some e => e.arrived
      | none => []
    ∃ u, exec (.bar o) s = .next u ∧ u.me.pc = s.here.addr + s.here.len ∧
    (before.length + 1 < n → u.episode s.cur o.scope b = some { n := n, arrived := before ++ [s.cur % 256] } ∧
      u.me.trail = some (.bar o.scope b) ∧ s.SameOthers u) ∧
    (n ≤ before.length + 1 → u.me.trail = none)) ∧
  (o.scope = .gang →
    (s.me.gangBar = none → m.member ≠ 0 → ∃ u, exec (.bar o) s = .next u ∧ u.me = { s.me with gangBar := some none }) ∧
    (s.me.gangBar = some (some .differs) → exec (.bar o) s = .next ((s.trapped BOUNDS none).settle s.cur)) ∧
    (s.me.gangBar = some (some .arrived) → exec (.bar o) s = .next (s.wrote { s.me with gangBar := none, trail := some (.bar .gang b) })) ∧
    (s.me.gangBar = some (some .over) → s.me.trail = none → ∃ u, exec (.bar o) s = .next u ∧ u.me.pc = s.here.addr + s.here.len ∧ u.me.gangBar = none ∧
      u.me.trail = none ∧ s.SameOthers u)))

/-- R226, R266: with no command reaching the region and no fill of it in progress, RMAP and RUNMAP put a new entry in place of its old
one, which is fresh and clean; RFLUSH issues, and leaves a held region of the member clean, its dirty backed lines entering the store
buffer. A dirty saved region's slot lies in this package here. -/
def Obligations.RegionInstructions : Prop := ∀ (s : State) (n : Nat),
  let c := coreOf s.cur
  n < 64 → s.regionBusy c n = false → (s.region c n).filling = none →
  ((s.region c n).state = .saved → ∀ m, s.memberOf s.cur = some m → (hbmParts (saveSlot m.saveBase c n)).2.2 = s.pkg) →
  (∀ o : Rmap, s.Clear (.rmap o) → (s.me.rdS o.a).toNat = n → rattrOk (s.me.rdS o.b) (s.me.rdS o.c) = true → ∃ u, exec (.rmap o) s = .next u ∧
    (u.region c n).vbase = s.me.rdS o.b ∧ (u.region c n).rattr = s.me.rdS o.c ∧ (u.region c n).state = .fresh ∧ (u.region c n).dirty = 0 ∧
    u.me.pc = s.here.addr + s.here.len ∧ s.SameOthers u) ∧
  ∀ o : Ra, (s.me.rdS o.a).toNat = n →
    (s.Clear (.runmap o) → ∃ u, exec (.runmap o) s = .next u ∧ (u.region c n).vbase = 0 ∧ (u.region c n).rattr = 0x100 ∧
      (u.region c n).state = .fresh ∧ (u.region c n).dirty = 0 ∧ u.me.pc = s.here.addr + s.here.len ∧ s.SameOthers u) ∧
    (s.Clear (.rflush o) → ∃ u, exec (.rflush o) s = .next u ∧ u.me.pc = s.here.addr + s.here.len ∧ s.SameOthers u ∧
      (∀ m w, (s.leaf (leafOf s.cur)).member = some m → (s.region c n).owner = some w → w.same m.owner = true → w.dead = false →
        (s.region c n).state = .held → (u.region c n).dirty = 0 ∧
        u.me.stores.length = s.me.stores.length + (s.region c n).dirtyBacked.length))

/-! The engine slot. -/

/-- R313, R314, R318 to R322: a command of the Lath whose block is in bounds and of the form its opcode takes enters the Lath's queue with
a copy of its block: LSWAP and LZERO, which have none, LSTA, LMM and LMMS, whose tile holds what the plane's element format gives, and
LEPI. -/
def Obligations.LathCommands : Prop := ∀ (s : State) (o : Et),
  let q := coreOf s.cur
  let b := s.blockOf o 64
  let ok (i : Instr) (block : BitVec 1024) : Prop := ∃ u, exec i s = .next u ∧ s.Enqueued u q i o 0 block
  let rows := bytesAt b 16 1
  let keep := bytesAt b 17 1
  let fmt := o.fmt?.getD .raw
  s.CmdReady q o →
  (s.Clear (.lswap o) → ok (.lswap o) 0) ∧ (s.Clear (.lzero o) → ok (.lzero o) 0) ∧
  (s.BlockReady o 64 →
    (s.Clear (.lsta o) → keep ∈ [8, 4, 2, 1] → unused b [(16, 1), (18, 46)] = true →
      let n := (Shape.mk fmt o.scaled keep).image
      LocatorOk s.me b 0 n (fun z => n % z == 0) → ok (.lsta o) b) ∧
    (1 ≤ rows → rows ≤ 128 → unused b [(18, 46)] = true →
      ∀ p ∈ ([(Instr.lmm o, 8, [0]), (.lmms o, keep, [4, 2, 1])] : List (Instr × Nat × List Nat)), s.Clear p.1 → keep ∈ p.2.2 →
      let sh := Shape.mk fmt o.scaled p.2.1
      LocatorOk s.me b 0 (rows * sh.pitch) (fun z => z % sh.pitch == 0) →
      (∃ y j k, s.issueTags q = some (sh.tag, y, j, k) ∧ (if o.tile then k else j) = intResult fmt o.scaled) → ok p.1 b) ∧
    (s.Clear (.lepi o) → 1 ≤ rows → rows ≤ 128 → bytesAt b 18 1 < 2 → unused b [(17, 1), (19, 5), (32, 32)] = true →
      let v := bytesAt b 24 8
      (epiAff o.mode.toNat = true ∨ v = 0) → v ≤ 0xFF800 → v % 64 = 0 →
      LocatorOk s.me b 0 (rows * epiRow o.mode.toNat) (fun z => z % epiRow o.mode.toNat == 0) → ok (.lepi o) b))

/-- R323 to R325: TGO, TCFG and TCFGD enter the Trowel's queue, where their data is aligned and inside local store, TCFGD here while it
still waits for a token, or with a difference that local store holds whole; TSTAT reads the status word. R326 to R329: a command of the
Hawk, its block in bounds, enters the queue of the engine that MODE names where its addresses are aligned, and else traps with ALIGN. -/
def Obligations.TrowelAndHawkCommands : Prop :=
  (∀ (s : State) (o : Et),
  let q := coreOf s.cur
  let a := s.me.rdS o.sa
  let st := (s.core q).tstat
  (s.CmdReady q o → (s.Clear (.tgo o) → ∃ u, exec (.tgo o) s = .next u ∧ s.Enqueued u q (.tgo o) o 0 0) ∧
    (a.toNat % 64 = 0 → a.toNat + 256 ≤ 0x100000 → s.Clear (.tcfg o) → ∃ u, exec (.tcfg o) s = .next u ∧ s.Enqueued u q (.tcfg o) o a 0) ∧
    (a.toNat % 64 = 0 → a.toNat + 8 ≤ 0x100000 → s.Clear (.tcfgd o) →
      (s.me.depsOf o ≠ ([], false) ∨ (s.BlockReady o 8 ∧ a.toNat + diffBytes (s.blockOf o 8).toNat ≤ 0x100000)) →
      ∃ u, exec (.tcfgd o) s = .next u ∧ s.Enqueued u q (.tcfgd o) o a 0)) ∧
  (s.Clear (.tstat o) → ∃ x : W64, exec (.tstat o) s = .next (s.wrote (s.me.wrS o.sa x)) ∧ x.getLsbD 0 = st.go ∧ x.getLsbD 1 = st.park ∧
    x.getLsbD 2 = st.fail ∧ x.extractLsb' 8 8 = st.fcause ∧ x.extractLsb' 16 8 = st.row ∧ x.extractLsb' 32 32 = st.step)) ∧
  (∀ (s : State) (o : Et),
  let q := hawkQueue (coreOf s.cur) (o.mode.toNat % 4)
  let b := s.blockOf o 128
  s.CmdReady q o → s.BlockReady o 128 → ccSlots s.me b (ccSkind b) (ccScbn b) = true → ccSlots s.me b (ccDkind b) (ccDcbn b) = true →
  ∀ p ∈ ([(Instr.hcpy o, 0x20), (.hstr o, 0x21), (.htrn o, 0x22), (.hgath o, 0x23), (.hfill o, 0x24), (.hscat o, 0x25)] : List (Instr × Nat)),
  s.Clear p.1 → ccBounds p.2 b = true → (p.2 = 0x23 ∨ p.2 = 0x25 → ccIdx b + 4 * ccCount b 1 ≤ 0x100000) →
  (∀ a, ccMisaligned p.2 b = some a → exec p.1 s = .next ((s.trapped ALIGN (some (BitVec.ofNat 64 a))).settle s.cur)) ∧
  (ccMisaligned p.2 b = none → ∃ u, exec p.1 s = .next u ∧ s.Enqueued u q p.1 o 0 b))

/-- R336, R344: KSET, whose tokens are complete and whose knots are in range, writes a bank of knots as it commits, and its token is
complete. R345 to R352: the others, where their block or register names what their opcode takes, enter their queue; SPSWAP exchanges the
banks of knots as it commits. -/
def Obligations.SplineCommands : Prop := ∀ (s : State) (o : Et),
  let q := coreOf s.cur
  let b := s.blockOf o 64
  let a := s.me.rdS o.sa
  let ok (i : Instr) (base : W64) (block : BitVec 1024) : Prop := ∃ u, exec i s = .next u ∧ s.Enqueued u q i o base block
  let rows (off : Nat) : Prop := 1 ≤ bytesAt b off 1 ∧ bytesAt b off 1 ≤ 128
  let pitch := inputPitch (o.fmt?.getD .fp32)
  let common : Prop := rows 48 ∧ unused b [(51, 5)] = true ∧ LocatorOk s.me b 0 (bytesAt b 48 1 * pitch) (fun z => z % pitch == 0) ∧
    LocatorOk s.me b 16 (bytesAt b 48 1 * 1024) (fun z => z % 1024 == 0)
  (s.Clear (.kset o) → (s.me.rdTk o.tp.toNat).isPending = false → s.me.depsOf o = ([], false) → s.BlockReady o 512 →
    (∀ n < 32, knotOk (BitVec.ofNat 128 ((s.core q).local_.readNat (a.toNat + 16 * n) 16)) = true) → ∃ u, exec (.kset o) s = .next u ∧
    (∀ n < 32, (u.core q).knots.get (32 * (o.mode.toNat % 2) + n) 0 = BitVec.ofNat 128 ((s.core q).local_.readNat (a.toNat + 16 * n) 16)) ∧
    u.me.rdTk o.tp.toNat = .complete ∧ s.SameBytes u ∧ s.SameOthers u) ∧
  (s.CmdReady q o →
    (s.Clear (.kget o) → a.toNat % 64 = 0 → a.toNat + 512 ≤ 0x100000 → ok (.kget o) a 0) ∧
    (s.Clear (.spswap o) → ok (.spswap o) 0 0 ∧ ∀ u, exec (.spswap o) s = .next u → ∀ i < 32,
      (u.core q).knots.get i 0 = (s.core q).knots.get (32 + i) 0 ∧ (u.core q).knots.get (32 + i) 0 = (s.core q).knots.get i 0) ∧
    (s.Clear (.spref o) → a.toNat < 2 ^ 32 →
      (∀ p ∈ (s.core q).bank 0, a.toNat.testBit p.1 = true → p.2 = 0 ∨ refinable p.2 = true) →
      ok (.spref o) a 0) ∧
    (s.BlockReady o 64 →
      (s.Clear (.spld o) → unused b [(16, 48)] = true → LocatorOk s.me b 0 163840 (fun z => 163840 % z == 0) → ok (.spld o) 0 b) ∧
      (s.Clear (.spev o) → rows 16 → unused b [(17, 47)] = true → LocatorOk s.me b 0 (bytesAt b 16 1 * pitch) (fun z => z % pitch == 0) →
        (∃ x y j k, s.issueTags q = some (x, y, j, k) ∧ (if o.tile then k else j) = false) → ok (.spev o) 0 b) ∧
      (s.Clear (.spdx o) → common → unused b [(49, 2), (56, 8)] = true → LocatorOk s.me b 32 (bytesAt b 48 1 * 128) (fun z => z % 128 == 0) →
        ok (.spdx o) 0 b) ∧
      (s.Clear (.spgr o) → common → unused b [(32, 16)] = true → 1 ≤ bytesAt b 50 1 → bytesAt b 49 1 + bytesAt b 50 1 ≤ 32 →
        bytesAt b 56 8 + 17408 * bytesAt b 50 1 ≤ 0x100000 → bytesAt b 56 8 % 64 = 0 → ok (.spgr o) 0 b)))

/-- R378: COLL with a well-formed block enters its context as the most recent. R380: CWAIT of a context whose only wait it is: its token
is complete at once where the prefix has reached its count, or its COLL has completed, and complete failed where the COLL has failed
before; else it is pending. R368, R381: CTEST reads the status of the most recent COLL, and 0 where there has been none. R382: CABORT of
an idle context, or one completed with no abort in progress, completes at once; else its token is pending and it joins the abort, which
begins with the first. -/
def Obligations.CollectiveSyllables : Prop := ∀ (s : State) (o : Et) (m : Member),
  let leaf := leafOf s.cur
  let ctx := o.mode.toNat % 8
  let x := s.collCtx leaf ctx
  let id := (s.leaf leaf).cmdSeq
  (s.leaf leaf).member = some m →
  (s.Clear (.ctest o) → ∃ v, exec (.ctest o) s = .next (s.wrote (s.me.wrS o.sa v)) ∧ (x.latest = none → v = 0) ∧
    ∀ c, x.latest = some c → c.prefixOf ≤ 16384 → v.toNat % 2 ^ 32 = c.prefixOf ∧ v.getLsbD 32 = !c.done ∧ v.getLsbD 33 = c.fail ∧ v.getLsbD 34 = c.aborted ∧ v.extractLsb' 40 8 = c.ccause) ∧
  ((s.me.rdTk o.tp.toNat).isPending = false →
    (s.Clear (.coll o) → let b := s.blockOf o 128; let rank := (cbRank b m.member).getD 0
      x.open_.length < 4 → s.BlockReady o 128 → cbCtr b % 64 = 0 → (cbUsesSend b rank = true → cbSend b % 64 = 0 ∧ s.ownHbm leaf needRd (cbSend b) = true) →
      (cbUsesRecv b rank = true → cbRecv b % 64 = 0 ∧ s.ownHbm leaf needWr (cbRecv b) = true) → cbFieldsOk b m.gangSize = true → (cbRank b m.member).isSome = true →
      cbChunks b rank ≤ 16384 → cbCtr b + 8 + 8 * cbChunks b rank ≤ 0x100000 → ∃ u c, exec (.coll o) s = .next u ∧
      (u.collCtx leaf ctx).latest = some c ∧ c.cmd.block = b ∧ c.cmd.id = id ∧ c.done = false ∧ Ev.collStart leaf ctx ∈ u.agenda ∧
      u.me.issued = s.me.issued ++ [id] ∧ (o.tp ≠ 0 → u.me.rdTk o.tp.toNat = .pending id) ∧ s.SameBytes u ∧ s.SameOthers u) ∧
    (s.Clear (.cwait o) → ∀ c, x.latest = some c → (s.me.rdS o.sa).toNat ≤ cbChunks c.cmd.block ((cbRank c.cmd.block m.member).getD 0) →
      x.waits = [] → (∀ d ∈ x.colls, d.cmd.id = c.cmd.id → d = c) → ∃ u, exec (.cwait o) s = .next u ∧ s.SameBytes u ∧
      (o.tp ≠ 0 → u.me.rdTk o.tp.toNat =
        (if (s.me.rdS o.sa).toNat ≤ c.prefixOf then .complete
         else if c.done = true then (if c.fail then .failed id s.me.pc else .complete) else .pending id))) ∧
    (s.Clear (.cabort o) → ∃ u, exec (.cabort o) s = .next u ∧ s.SameBytes u ∧
      ((x.latest = none ∨ ∃ c, x.latest = some c ∧ c.done = true ∧ c.abortTp = []) → o.tp ≠ 0 → u.me.rdTk o.tp.toNat = .complete) ∧
      (∀ c, x.latest = some c → c.done = false → (o.tp ≠ 0 → u.me.rdTk o.tp.toNat = .pending id) ∧
        ∃ d, (u.collCtx leaf ctx).latest = some d ∧ d.abortAt = (if c.abortTp = [] then some s.now else c.abortAt) ∧ d.abortTp = c.abortTp ++ [(id, s.cur, o.tp.toNat)])))

/-! The system instructions and traps. -/

/-- R172, R131 to R133, R410: MFS reads every control register by its number. -/
def Obligations.ControlRegistersRead : Prop := ∀ (s : State) (o : Mfs) (m : Member), s.memberOf s.cur = some m →
  let t := s.me
  let bit (b : Bool) (i : Nat) : W64 := if b then BitVec.ofNat 64 (2 ^ i) else 0
  let reads (x : W64) : Prop := s.Clear (.mfs o) → exec (.mfs o) s = .next (s.wrote (t.wrS o.sd x))
  (∀ p ∈ ([(0x00, t.rmode.zeroExtend 64 ||| bit t.ftz 2), (0x01, t.workid), (0x02, BitVec.ofNat 64 m.member), (0x03, BitVec.ofNat 64 m.launchBase),
      (0x04, t.rvb.zeroExtend 64), (0x05, t.rpb.zeroExtend 64), (0x06, bit t.ledit 0 ||| bit t.loop0.act 1 ||| bit t.loop1.act 2),
      (0x07, BitVec.ofNat 64 (s.cur % 4 + s.cur / 4 % 64 * 4 + s.cur / 256 * 256 + s.pkg * 512)),
      (0x08, bit t.bank 0 ||| bit (m.flag 2) 1), (0x09, BitVec.ofNat 64 m.codeBase), (0x0A, BitVec.ofNat 64 m.codeLim),
      (0x0B, BitVec.ofNat 64 (m.safeMax % 2 ^ 24)),
      (0x30, t.loop0.lc.zeroExtend 64), (0x31, t.loop0.ls.zeroExtend 64), (0x32, t.loop0.le.zeroExtend 64),
      (0x33, t.loop1.lc.zeroExtend 64), (0x34, t.loop1.ls.zeroExtend 64), (0x35, t.loop1.le.zeroExtend 64)] : List (Nat × W64)),
    o.cr.toNat = p.1 → reads p.2) ∧
  (0x40 ≤ o.cr.toNat → reads (t.rdCb (o.cr.toNat - 0x40))) ∧
  (t.super = true → ∀ p ∈ ([(0x11, t.trap.pc.zeroExtend 64), (0x12, t.trap.addr), (0x13, t.trap.ndelay.zeroExtend 64 ||| bit t.trap.taken 2 ||| bit t.trap.bsw 3 ||| bit t.trap.bank 4), (0x14, t.trap.tgt.zeroExtend 64), (0x15, t.trap.syl.zeroExtend 64),
      (0x16, t.trap.tscr), (0x17, t.safeCount.zeroExtend 64 ||| bit t.safeOver 24), (0x20, m.key.zeroExtend 64)] : List (Nat × W64)), o.cr.toNat = p.1 → reads p.2) ∧
  (t.super = true → o.cr.toNat = 0x10 → s.Clear (.mfs o) → ∃ x : W64, exec (.mfs o) s = .next (s.wrote (t.wrS o.sd x)) ∧ x.extractLsb' 0 8 = t.trap.cause ∧
    x.extractLsb' 8 3 = t.trap.slot ∧ x.getLsbD 11 = t.trap.fetch ∧ x.getLsbD 12 = t.trap.abort)

/-- R172, R173, R180, R181: MTS writes FMODE, RVB, RPB, LEDIT, a loop register, a descriptor, TRAPPC or TSCR: bits that no field holds are
ignored, LC of an active level is written at its end bundle, LS and LE of an active level are pending; a descriptor that is not well-
formed is BOUNDS. -/
def Obligations.ControlRegistersWritten : Prop := ∀ (s : State) (o : Mts),
  let t := s.me
  let x := t.rdS o.sa
  let writes (u : Strand) : Prop := s.Clear (.mts o) → exec (.mts o) s = .next (s.wrote u)
  (o.cr.toNat = 0x00 → writes { t with rmode := x.setWidth 2, ftz := x.getLsbD 2 }) ∧
  (o.cr.toNat = 0x04 → writes { t with rvb := x.setWidth 6 }) ∧ (o.cr.toNat = 0x05 → writes { t with rpb := x.setWidth 5 }) ∧
  (o.cr.toNat = 0x06 → writes { t with ledit := t.ledit && !x.getLsbD 0 }) ∧
  (o.cr.toNat = 0x31 → t.loop0.act = false → writes { t with loop0 := { t.loop0 with ls := x.setWidth 32 } }) ∧
  (o.cr.toNat = 0x32 → t.loop0.act = true → writes { t with loop0 := { t.loop0 with lePend := some (x.setWidth 32) }, ledit := true }) ∧
  (o.cr.toNat = 0x30 → t.loop0.act = true → writes { t with late := [(false, x.setWidth 32)] }) ∧
  (o.cr.toNat = 0x33 → t.loop1.act = false → writes { t with loop1 := { t.loop1 with lc := x.setWidth 32 } }) ∧
  (0x40 ≤ o.cr.toNat → cbOk x = true → s.cbNamed s.cur (o.cr.toNat - 0x40) = false → writes { t with cbs := t.cbs.set (o.cr.toNat - 0x40) x }) ∧
  (0x40 ≤ o.cr.toNat → cbOk x = false → s.Clear (.mts o) → exec (.mts o) s = .next ((s.trapped BOUNDS none).settle s.cur)) ∧
  (t.super = true → o.cr.toNat = 0x11 → writes { t with trap := { t.trap with pc := x.setWidth 32 } }) ∧
  (t.super = true → o.cr.toNat = 0x16 → writes { t with trap := { t.trap with tscr := x } })

/-- R131, R172, R407, R412: in user state a control register marked S, and ERET, trap with PRIV; in supervisor state LOOP and MLOOP
do. -/
def Obligations.PrivilegeTraps : Prop := ∀ (s : State),
  let traps (i : Instr) : Prop := s.Clear i → exec i s = .next ((s.trapped PRIV none).settle s.cur)
  (s.me.super = false → traps .eret ∧ ∀ c : BitVec 8, (0x10 ≤ c.toNat ∧ c.toNat < 0x18) ∨ c.toNat = 0x20 →
    (∀ o : Mfs, o.cr = c → traps (.mfs o)) ∧ ∀ o : Mts, o.cr = c → traps (.mts o)) ∧
  (s.me.super = true → (∀ o : Lp, s.here.len ≤ o.len.toNat → traps (.loop o)) ∧ ∀ o : Mlp, s.here.len ≤ o.len.toNat → traps (.mloop o))

/-- R407, R408, R410: a trap whose strand has a handler and nothing in flight is entered at once: the trap registers take the cause,
the slot, the address, the bundle and the branch it was a delay bundle of, supervisor state begins in the same bank and issue
goes to address 0 of the supervisor stream; no register of the bundle is written. R408: while results are in flight, a trap's
entry waits. -/
def Obligations.TrapEntry : Prop :=
  (∀ (s : State) (cause : BitVec 8) (a : Option W64), s.Handled s.cur →
  let u := (s.trapped cause a).settle s.cur
  s.OnlyMe u ∧ u.me.super = true ∧ u.me.pc = 0 ∧ u.me.inRun = false ∧ u.me.pend = none ∧ u.me.trapReq = none ∧ u.me.bank = s.me.bank ∧
  u.me.trap.cause = cause ∧ u.me.trap.slot = slotCode s.slot ∧ u.me.trap.pc = BitVec.ofNat 32 s.me.pc ∧
  u.me.trap.addr = a.getD s.me.trap.addr ∧ u.me.trap.bank = s.me.bank ∧ u.me.trap.syl = rawSyllable s.here.raw s.slot ∧
  u.me.trap.abort = (cause == WSFAULT || cause == ENGFAULT) ∧ u.me.trap.tscr = s.me.trap.tscr ∧
  (s.me.pend = none → u.me.trap.ndelay = 0 ∧ u.me.trap.taken = false) ∧
  (∀ p, s.me.pend = some p → u.me.trap.ndelay = BitVec.ofNat 2 (p.left - 1) ∧ u.me.trap.taken = p.target.isSome) ∧
  u.me.sregs = s.me.sregs ∧ u.me.pregs = s.me.pregs ∧ u.me.kregs = s.me.kregs ∧ u.me.vregs = s.me.vregs ∧ u.me.loop0 = s.me.loop0 ∧
  u.me.loop1 = s.me.loop1 ∧ u.me.workid = s.me.workid) ∧
  (∀ (s : State) (cause : BitVec 8) (a : Option W64), s.me.quiet = false →
  let u := (s.trapped cause a).settle s.cur
  u.me = { s.me with walk := none, trapReq := some (s.trapHere cause a) } ∧ Ev.trapEntry s.cur ∈ u.agenda ∧ s.SameBytes u ∧ s.SameOthers u)

/-- R413, R412: TRAP enters the handler with its immediate and the address after it; ERET returns to TRAPPC in the saved bank with
the saved branch. -/
def Obligations.SoftwareTrapAndReturn : Prop := ∀ (s : State),
  (∀ o : Im, s.Clear (.trap o) → s.Handled s.cur → ∃ u, exec (.trap o) s = .next u ∧ s.OnlyMe u ∧ u.me.super = true ∧ u.me.pc = 0 ∧
    u.me.trap.cause = SWTRAP ∧ u.me.trap.addr = o.imm.zeroExtend 64 ∧ u.me.trap.pc = BitVec.ofNat 32 (s.here.addr + s.here.len) ∧
    u.me.trap.abort = false ∧ u.me.sregs = s.me.sregs) ∧
  (s.Clear .eret → s.me.super = true → s.me.trap.abort = false → ∃ u, exec .eret s = .next u ∧ s.OnlyMe u ∧ u.me.super = false ∧
    u.me.pc = s.me.trap.pc.toNat ∧ u.me.inRun = false ∧ u.me.bank = s.me.trap.bank ∧ u.me.sregs = s.me.sregs ∧ u.me.trap = s.me.trap ∧
    u.me.pend = (if s.me.trap.taken = true ∨ s.me.trap.ndelay ≠ 0 then
      some { left := s.me.trap.ndelay.toNat + 1, target := (if s.me.trap.taken then some s.me.trap.tgt.toNat else none), bsw := s.me.trap.bsw } else none))

/-- R184: SAFE with nothing exposed in flight resets the counter and takes a stop that is pending. R186, R293: TEND, once the task's
stores and XPUTs are over and nothing is to report, ends the task, which is to retire. R98, R427: IFENCE with no store in flight drops
what fetch holds; two issue clocks pass from the instruction store. R100, R428: DICTCHK holds its bundle for 1,024 clocks with the sum of
the bank, and then writes its predicate. R429: DICTLD holds until its bytes have landed; an index beyond the image is BOUNDS. R430: YIELD.
R432, R448: STQRD takes the record at the head, LOST after the others, or 0. -/
def Obligations.TaskControl : Prop :=
  (∀ (s : State),
  let c := coreOf s.cur
  let t := s.me
  (s.Clear .yield → ∃ u, exec .yield s = .next u ∧ u.me = t.moved s.here ∧ u.core c = { s.core c with yielded := true }) ∧
  (∀ o : Im, ∀ m, s.memberOf s.cur = some m → s.Clear (.safe o) → o.imm.toNat < m.nlive → t.super = false → t.quiet = true → t.trail = none →
    exec (.safe o) s = .next (s.wrote { t with safeCount := 0, stop := if t.stop = .pending then .stopped o.imm.toNat else t.stop })) ∧
  (s.Clear .tend → t.super = false → s.tendDone s.cur = true → t.reports = [] → t.failed = [] → ∃ u, exec .tend s = .next u ∧
    u.me.retiring = true ∧ u.me.loop0.act = false ∧ u.me.loop1.act = false ∧ Ev.taskRetire s.cur ∈ u.agenda ∧ u.me.sregs = t.sregs ∧
    s.SameBytes u ∧ s.SameOthers u) ∧
  (∀ o : Sd, s.Clear (.stqrd o) → ∃ u x, exec (.stqrd o) s = .next u ∧ u.me = (t.wrS o.sd x).moved s.here ∧
    (∀ r rest, (s.core c).statq = r :: rest → x = r ∧ (u.core c).statq = rest) ∧
    ((s.core c).statq = [] → x = (s.core c).statLost ∧ (u.core c).statLost = 0) ∧
    ((s.core c).statq = [] → (s.core c).statLost = 0 → x = 0 ∧ u.core c = s.core c)) ∧
  (s.Clear .ifence → t.stores = [] → t.sent = [] → ∃ u, exec .ifence s = .next u ∧ u.me.ibuf = [] ∧ u.me.pc = s.here.addr + s.here.len ∧
    (u.core c).icache = [] ∧ (s.xip s.cur = false → u.me.refetch = 2) ∧ u.me.sregs = t.sregs ∧ s.SameOthers u) ∧
  (∀ o : Dck, ∀ v, s.Clear (.dictchk o) → t.holdStarted = some v →
    exec (.dictchk o) s = .next (s.wrote { t.wrP o.pd (BitVec.ofNat 32 v == (t.rdS o.sa).setWidth 32) with holdStarted := none })) ∧
  ∀ o : Dld, ∀ m, s.memberOf s.cur = some m → s.Clear (.dictld o) →
    ((t.rdS o.sa).toNat < m.ndict → t.walk = none → (∀ v, t.holdStarted = some v →
      exec (.dictld o) s = .next (s.wrote { t with holdStarted := none })) ∧
      (t.holdStarted = none → ∃ u, exec (.dictld o) s = .next u ∧ u.me = { t with hold := some (2 * (t.rdS o.sa).toNat + o.bank.toNat) } ∧
        Ev.dictldDone s.cur ∈ u.agenda ∧ s.SameBytes u ∧ s.SameOthers u)) ∧
    (m.ndict ≤ (t.rdS o.sa).toNat → exec (.dictld o) s = .next ((s.trapped BOUNDS none).settle s.cur))) ∧
  (∀ (s : State) (o : Dck), s.Clear (.dictchk o) → s.me.holdStarted = none → ∃ u, exec (.dictchk o) s = .next u ∧
  u.me = { s.me with hold := some (s.bankCrc (coreOf s.cur) o.bank.toNat).toNat } ∧
  u.timers = s.timers ++ [(leafOf s.cur, s.clkHere + 1024, Ev.dictchkHoldEnd s.cur)] ∧ s.SameBytes u ∧ s.SameOthers u)

/-- R110: a syllable whose fields break a rule of its form traps with ILLINST, whatever it is. R95, R101, R179: a branch syllable in
a delay bundle traps with DELAYBR, and one in an end bundle with LOOPBR. -/
def Obligations.IllegalBundles : Prop :=
  (∀ (s : State) (i : Instr), i.isSyllable = true → i.wf = false → s.me.late = [] → s.me.pend = none →
  exec i s = .next ((s.trapped ILLINST none).settle s.cur)) ∧
  (∀ (s : State) (o : Bd), s.me.late = [] →
  (∀ p, s.me.pend = some p → ∀ i ∈ ([.br o, .banksw o] : List Instr), exec i s =
    .next ((s.setStrand s.cur { s.me with walk := none, trapReq := some { cause := DELAYBR, slot := .s0, fetch := true, addr := none, syl := 0, pc := s.me.pc, pend := some p } }).settle s.cur)) ∧
  (s.me.pend = none → s.me.atEnd s.here false = true → ∀ i ∈ ([.br o, .banksw o] : List Instr), i.wf = true → exec i s =
    .next ((s.setStrand s.cur { s.me with walk := none, trapReq := some { cause := LOOPBR, slot := .b, fetch := false, addr := none, syl := rawSyllable s.here.raw .b, pc := s.me.pc, pend := none } }).settle s.cur)))

/-! What a core brings about by itself. -/

/-- R191, R241: a result whose clock has come is in flight no longer, and one of a single register has landed there; before its clock
nothing happens. R261, R262: an event sets a strand's latch, or ends a WFE that waits. R265: a WAITT ends when its time has come. R408: a
trap that waited is entered once nothing is in flight. R416: passing the safe-point bound is flagged and recorded. R428: the hold of
DICTCHK ends. -/
def Obligations.ResultsAndStrandEvents : Prop :=
  (∀ (s : State) (who id : Nat) (f : Flight), (s.strand who).flights.find? (fun g => g.id == id) = some f →
  ((s.leaf (leafOf who)).clk < f.due → exec (.resultLand who id) s = .next s) ∧
  (f.due ≤ (s.leaf (leafOf who)).clk → ∃ u, exec (.resultLand who id) s = .next u ∧ s.SameBytes u ∧ (∀ w, w ≠ who → u.strand w = s.strand w) ∧
    (u.strand who).flights = (s.strand who).flights.filter (fun g => g.id != id) ∧ (u.strand who).pregs = (s.strand who).pregs ∧
    (∀ n x, f.lands = [.v n x] → (u.strand who).vregs = (s.strand who).vregs.set n x ∧ (u.strand who).sregs = (s.strand who).sregs) ∧
    (∀ n x, n ≠ 0 → f.lands = [.s n x] → (u.strand who).sregs = (s.strand who).sregs.set n x ∧ (u.strand who).vregs = (s.strand who).vregs) ∧
    (∀ n x, n ≠ 0 → f.lands = [.k n x] → (u.strand who).kregs = (s.strand who).kregs.set n x) ∧
    (∀ n x, f.lands = [.ps n x] → (u.strand who).latches = (s.strand who).latches.set n x))) ∧
  (∀ (s : State) (who : Nat),
  let t := s.strand who
  (∃ u, exec (.eventLatchSet who) s = .next u ∧ s.SameBytes u ∧ (∀ w, w ≠ who → u.strand w = s.strand w) ∧
    (t.trail = some .wfe → u.strand who = { t with trail := none, trailSafe := none, latch := false }) ∧
    (t.trail ≠ some .wfe → u.strand who = { t with latch := true })) ∧
  (∀ x, t.trail = some (.waitt x) → x.toNat ≤ s.now.toNat → ∃ u, exec (.waittExpiry who) s = .next u ∧
    u.strand who = { t with trail := none, trailSafe := none } ∧ s.SameBytes u) ∧
  (∀ r, t.trapReq = some r → s.strandActs who = true → s.Handled who → ∃ u, exec (.trapEntry who) s = .next u ∧ (u.strand who).super = true ∧
    (u.strand who).pc = 0 ∧ (u.strand who).trap.cause = r.cause ∧ (u.strand who).trap.pc = BitVec.ofNat 32 r.pc ∧ (u.strand who).trapReq = none) ∧
  (∃ u, exec (.safeovr who) s = .next u ∧ u.strand who = { t with safeOver := true } ∧
    u.core (coreOf who) = (s.core (coreOf who)).record 6 (who % 4) 0 t.last) ∧
  (∀ c, t.hold = some c → (∀ e ∈ s.timers, e.2.2 ≠ .dictchkHoldEnd who) → ∃ u, exec (.dictchkHoldEnd who) s = .next u ∧
    u.strand who = { t with hold := none, holdStarted := some c }))

/-- R241, R362: of the strand's one access in flight, a refusal by the owner leaves its register and is held as a report. R249: a scalar
load of host memory that may perform puts its bytes, extended, in its register. R256: an 8-byte AADD of host memory writes the sum and
returns the old word. -/
def Obligations.LoadsReturn : Prop := ∀ (s : State) (who : Nat) (e : LoadEntry),
  let t := s.strand who
  t.loads = [e] → t.fences = [] → t.stores = [] → s.enginesRun (leafOf who) = true →
  (∃ u, exec (.loadDataReturn who e.id .refused) s = .next u ∧ (u.strand who).loads = [] ∧ (u.strand who).sregs = t.sregs ∧ (u.strand who).vregs = t.vregs ∧
    (∀ r, e.dest.reg = some r → (u.strand who).reports = t.reports ++ [{ cause := WSFAULT, addr := BitVec.ofNat 64 e.va, dest := some r }])) ∧
  (∀ l a n f, e.kind = .load → e.drops = false → e.lines = [(l, .host a)] → e.dest = .scalar n f → n ≠ 0 → e.va / 64 = l →
    e.len = scalarBytes f → e.va % 64 + e.len ≤ 64 → s.loadGate who e = .ok →
    ∃ u, exec (.loadDataReturn who e.id .data) s = .next u ∧ (u.strand who).loads = [] ∧ s.SameGlobal u ∧
      (u.strand who).sregs = t.sregs.set n (scalarExt f (s.host.readNat (a + e.va % 64) e.len))) ∧
  (∀ l a n x q, e.kind = .atomic 0 true x q → e.lines = [(l, .host a)] → e.dest = .scalar n .raw → n ≠ 0 → s.isFrozen (leafOf who) l = false →
    s.loadGate who e = .ok → ∃ u, exec (.loadDataReturn who e.id .data) s = .next u ∧ (u.strand who).loads = [] ∧
      (u.strand who).sregs = t.sregs.set n (BitVec.ofNat 64 (s.host.readNat (a + e.va % 64) 8)) ∧
      u.host = (s.hostBits (a + e.va % 64) 8 ((s.host.readNat (a + e.va % 64) 8 + x.toNat) % 2 ^ 64) (2 ^ 64 - 1)).host)

/-- R250: a weak store that may perform, whose next part lies in host memory, writes that part's masked bytes there, every byte outside it
keeps its value, and with the last part it leaves the buffer. R255, R258, R482: a core's one push, come to its clock, with its regions
held and no FENCE of its strand in force, writes its 512 bytes at its offset and no others. -/
def Obligations.StoresAndPushesPerform : Prop :=
  (∀ (s : State) (who : Nat) (e : StoreEntry) (p : Part) (x : TlbEntry) (a : Nat),
  (s.strand who).stores.find? (fun d => d.id == e.id) = some e → s.enginesRun (leafOf who) = true → s.storeReady who e = true → e.part 64 = some p →
  e.kind = .weak → e.lines = [] → s.isFrozen (leafOf who) (p.va / 64) = false → s.xlate (leafOf who) needWr p.va = .mapped x → x.at p.va = .host a →
  ∃ u, exec (.storePerform who e.id) s = .next u ∧ u.host = (s.hostBits a p.n p.data p.mask).host ∧
    (∀ b, b < a ∨ a + p.n ≤ b → u.host.read b = s.host.read b) ∧
    (e.mask &&& ~~~(BitVec.ofNat 4096 ((2 ^ (8 * p.n) - 1) * 2 ^ (8 * (p.va - e.va)))) = 0 →
      (u.strand who).stores = (s.strand who).stores.filter fun d => d.id != e.id) ∧
    (u.strand who).sregs = (s.strand who).sregs) ∧
  (∀ (s : State) (c : Nat) (p : Push) (m : Member),
  (s.core c).pushes = [p] → p.due ≤ (s.leaf (leafOfCore c)).clk → (s.strand p.who).fences = [] → s.enginesRun (leafOfCore c) = true → p.off + 512 ≤ 0x100000 →
  (∀ w ∈ (s.leaf (leafOfCore c)).walks, w.party ≠ .push c p.id) → (s.leaf (leafOfCore c)).member = some m →
  (∀ r ∈ regionSpan p.off 512, (s.region c r).state = .held ∧ ∃ o, (s.region c r).owner = some o ∧ o.same m.owner = true ∧ o.dead = false) →
  ∃ u, exec (.xputLand c p.id) s = .next u ∧ (u.core c).pushes = [] ∧
    (∀ j, j < p.off ∨ p.off + 512 ≤ j → (u.core c).local_.read j = (s.core c).local_.read j) ∧
    ((s.core c).local_.wf = true → ∀ j < 512, (u.core c).local_.read (p.off + j) = p.data.extractLsb' (8 * j) 8) ∧ s.SameGlobal u)

/-- R93: fetch decodes the bundle at the pc of a strand that has none decoded. R91: a fetch line, here of host memory, comes into the
instruction cache. R429: DICTLD's bytes, once they can be read, land in the dictionary area of their bank. R221, R222: the fill of a fresh
backed region that a strand touched, with no access of its own in flight, puts the bytes read in local store and clears the rest; the
region is held and clean. -/
def Obligations.FetchAndFills : Prop :=
  (∀ (s : State),
  (∀ who f, (s.strand who).running.isSome = true → s.strandActs who = true → (s.strand who).ibuf = [] → (s.strand who).pend = none → (s.strand who).stale = [] →
    s.fetchAt who (s.strand who).pc (s.strand who).inRun = .bundle f → ∃ u, exec (.bundleFetch who) s = .next u ∧ (u.strand who).ibuf = [f] ∧
      (u.strand who).pc = (s.strand who).pc ∧ s.SameBytes u) ∧
  (∀ c (l : W64) a, (s.leaf (leafOfCore c)).member.isSome = true → s.enginesRun (leafOfCore c) = true → s.reachLine (leafOfCore c) needEx l.toNat = .inl (.host a) →
    ∃ v, exec (.fetchLineFill c l) s = .next v ∧ (v.core c).icache.find? l.toNat = some (BitVec.ofNat 512 (s.host.readNat a 64))) ∧
  ∀ who h m u x, (s.strand who).hold = some h → (s.leaf (leafOf who)).member = some m → s.strandActs who = true →
    s.readFor who (.bundle who) true (m.dictAt (h / 2)) 49152 = .done u x → (u.strand who).stores = [] → ∃ v, exec (.dictldDone who) s = .next v ∧
      (v.strand who).hold = none ∧ (v.strand who).holdStarted = some h ∧
      (v.core (coreOf who)).istore = (u.core (coreOf who)).istore.writeNat (65536 * (h % 2) + 0x4000) 49152 x) ∧
  (∀ (s : State) (c n who : Nat) (m : Member) (u : State) (x : Nat),
  let r := s.region c n
  r.filling = some (.bundle who) → coreOf who = c → (s.leaf (leafOfCore c)).member = some m → r.fillParked = false → s.enginesRun (leafOfCore c) = true → r.state = .fresh →
  r.back = true → s.readFor who (.region c n) true r.vbase.toNat r.backed = .done u x → (s.strand who).loads = [] → (s.strand who).fences = [] → (u.strand who).stores = [] → (u.core c).local_ = (s.core c).local_ →
  ∃ v, exec (.regionFillComplete c n) s = .next v ∧ (v.region c n).state = .held ∧ (v.region c n).filling = none ∧ (v.region c n).dirty = 0 ∧
    (v.core c).local_ = ((s.core c).local_.clear (16384 * n) 16384).writeNat (16384 * n) r.backed (x % 2 ^ (8 * r.backed)) ∧
    ∀ j, j < 16384 * n ∨ 16384 * n + 16384 ≤ j → r.backed ≤ 16384 → (v.core c).local_.read j = (s.core c).local_.read j)

/-- R79: the dispatcher gives the next task to the strand its identifier names, where that strand has a place. R81: a strand with no task,
and none requeued, starts the first of its queue at the entry, its registers as they are. R434: a task that has ended, with no load left
and nothing to report, is retired. -/
def Obligations.TaskEvents : Prop := ∀ (s : State),
  (∀ leaf m, (s.leaf leaf).member = some m → m.workLeft = true → m.nextWork < m.workCount → (s.leaf leaf).phase = .run → (s.leaf leaf).freezeLeft = 0 →
    let w := workAt m.member m.fields m.nextWork
    let who := s.taskStrand leaf w.2
    (s.strand who).tasks.length < taskPlaces → m.readyFor who = false → ∃ u, exec (.taskDispatch leaf) s = .next u ∧
      (u.strand who).tasks = (s.strand who).tasks ++ [{ work := BitVec.ofNat 64 w.1 }] ∧ Ev.taskStart who ∈ u.agenda ∧
      (u.leaf leaf).member.map Member.nextWork = some (m.nextWork + 1)) ∧
  (∀ who m a l, s.memberOf who = some m → s.strandActs who = true → (s.strand who).abortWait = none → m.pool = [] → (s.strand who).running = none →
    (s.strand who).tasks = a :: l → ∃ u, exec (.taskStart who) s = .next u ∧ (u.strand who).running = some a ∧ (u.strand who).tasks = l ∧
      (u.strand who).workid = a.work ∧ (u.strand who).pc = m.entry ∧ (u.strand who).sregs = (s.strand who).sregs ∧ Ev.bundleFetch who ∈ u.agenda) ∧
  ∀ who, (s.strand who).retiring = true → s.strandActs who = true → (s.strand who).loads = [] → (s.strand who).waits = [] → (s.strand who).reports = [] →
    ∃ u, exec (.taskRetire who) s = .next u ∧ (u.strand who).running = none ∧ (u.strand who).retiring = false ∧ Ev.taskStart who ∈ u.agenda

/-- R302, R313: an LSWAP or LZERO alone in its queue, with no token to wait for, is taken up; LSWAP then exchanges the planes and leaves
the tiles, and LZERO clears its tile and leaves the other. R305, R310: a command that has finished or failed, with its writes
acknowledged, leaves its queue, and its token is complete, or complete failed. -/
def Obligations.CommandsRunAndComplete : Prop := ∀ (s : State) (q : Nat) (c : Cmd), s.enginesRun (queueLeaf q) = true → s.heldLocal (coreOf c.who) = false →
  ((∀ r ∈ (s.leaf (leafOf c.who)).remotes, r.party ≠ c.party q) → c.stage = .queued → c.deps = [] → c.depFailed = false → s.cmds q = [c] → q < 128 → (∃ o, c.instr = .lswap o ∨ c.instr = .lzero o) →
    ∃ u d, exec (.commandStart q) s = .next u ∧ u.cmds q = [d] ∧ d.id = c.id ∧ d.stage = .running) ∧
  ((∀ r ∈ (s.leaf (leafOf c.who)).remotes, r.party ≠ c.party q) → c.stage = .running → s.cmds q = [c] → q < 128 →
    (∀ o, c.instr = .lswap o → ∃ u d, exec (.commandStart q) s = .next u ∧ u.cmds q = [d] ∧ d.stage = .finishing ∧ Ev.commandComplete q ∈ u.agenda ∧
      (u.core (coreOf c.who)).planeA = (s.core (coreOf c.who)).planeS ∧ (u.core (coreOf c.who)).planeS = (s.core (coreOf c.who)).planeA ∧
      (u.core (coreOf c.who)).acc0 = (s.core (coreOf c.who)).acc0 ∧ (u.core (coreOf c.who)).acc1 = (s.core (coreOf c.who)).acc1) ∧
    ∀ o, c.instr = .lzero o → ∃ u, exec (.commandStart q) s = .next u ∧ ∀ r j,
      (if o.tile then (u.core (coreOf c.who)).acc1 else (u.core (coreOf c.who)).acc0).elt r j = 0 ∧
      (if o.tile then (u.core (coreOf c.who)).acc0 else (u.core (coreOf c.who)).acc1) =
        (if o.tile then (s.core (coreOf c.who)).acc0 else (s.core (coreOf c.who)).acc1)) ∧
  (c.stage = .finishing → s.cmds q = [c] → s.overCmd q = some c → ∃ u, exec (.commandComplete q) s = .next u ∧ u.cmds q = [] ∧
    (c.tp ≠ 0 → (s.strand c.who).rdTk c.tp = .pending c.id → (u.strand c.who).rdTk c.tp = .complete)) ∧
  ∀ f, c.stage = .failing f → s.cmds q = [c] → s.overCmd q = some c → ∃ u, exec (.commandComplete q) s = .next u ∧ u.cmds q = [] ∧
    (c.tp ≠ 0 → (s.strand c.who).rdTk c.tp = .pending c.id → (u.strand c.who).rdTk c.tp = .failed c.id c.addr)

/-- R393, R396: a bundle's walk that ends with its page mapped lets the bundle issue again. R396, R399, R401: a store parked on a page
goes on when the line of the table it watches is written, or, with no monitor, when its microsecond is over. -/
def Obligations.WalkEvents : Prop := ∀ (s : State) (leaf id : Nat) (w : Walk), (s.leaf leaf).walks = [w] → w.id = id →
  (∀ who a x, w.party = .bundle who → w.parked = false → (s.strand who).walk = some (.walking a w.write) →
    s.walk leaf w.vf (s.keyVf leaf).1 w.need w.va = .mapped x → ∃ u, exec (.walkComplete leaf id) s = .next u ∧ (u.strand who).walk = none ∧
      (∀ v ∈ (u.leaf leaf).walks, v.party ≠ .bundle who)) ∧
  (∀ who k e, w.party = .store who k → w.parked = true → w.line = none → w.late s.now = true → (s.strand who).stores = [e] → e.id = k → e.stage = .parked →
    ∃ u, exec (.rewalkTimer leaf id) s = .next u ∧ Ev.storePerform who k ∈ u.agenda ∧ ∃ d, (u.strand who).stores = [d] ∧ d.stage = .buffered) ∧
  ∀ who k e line, w.party = .store who k → w.parked = true → w.line.map Phys.lineKey = some line → (s.strand who).stores = [e] → e.id = k → e.stage = .parked →
    (∀ m, (s.leaf leaf).member = some m → m.pool = []) → ∃ u, exec (.monitorWake leaf line) s = .next u ∧ Ev.storePerform who k ∈ u.agenda ∧
      ∃ d, (u.strand who).stores = [d] ∧ d.stage = .buffered

/-! Queues and their packets. -/

/-- R33, R35: a doorbell write sets QTAIL and offers the head packet to the command processors, or sets DBERR where it lies beyond the
ring; SKIP of a halted queue clears HALT; RESET of a queue that is not enabled empties it. R37, R43, R50: the head packet of the queue
whose turn it is, of each type, is consumed where it passes the checks of its type: QHEAD advances and the packet is to start; where it
fails one, QHEAD advances and its queue halts with the cause; where a check has to wait, the packet stays at the head. -/
def Obligations.QueuesAndPackets : Prop :=
  (∀ (s : State) (vf q : Nat) (tail : BitVec 32),
  let x := s.queue vf q
  (2 ^ x.logsz.toNat ≤ tail.toNat → exec (.qtailDoorbell vf q tail) s = .next (s.onQueue vf q fun y => { y with dberr := true })) ∧
  (tail.toNat < 2 ^ x.logsz.toNat → ∃ u, exec (.qtailDoorbell vf q tail) s = .next u ∧ (u.queue vf q).tail = tail ∧ (u.queue vf q).head = x.head ∧
    s.SameBytes u ∧ ∀ l < 2, u.pending vf q = true → u.servedBy l vf = true → consumeEv l vf q (bytesAt (u.headSlot vf q) 0 1) ∈ u.agenda) ∧
  (x.halt = true → ∃ u, exec (.qstatSkip vf q) s = .next u ∧ u.queue vf q = { x with halt := false } ∧ s.SameBytes u) ∧
  (x.en = false → ∃ u, exec (.qstatReset vf q) s = .next u ∧ s.SameBytes u ∧
    u.queue vf q = { x with head := x.tail, halt := false, cause := 0, dberr := false, bells := [] })) ∧
  (∀ (before : State) (leaf vf q : Nat) (l : Leaf), let s := before.takeSlots
  s.nextPacket leaf = some (vf, q, l) → s.pending vf q = true →
  let new := (s.setLeaf leaf l).newPkt leaf vf q (s.headSlot vf q)
  let next (t u : State) : Prop := (u.queue vf q).head = BitVec.ofNat 32 (((t.queue vf q).head.toNat + 1) % 2 ^ (t.queue vf q).logsz.toNat)
  ∀ e ∈ ([(Instr.launch leaf vf q, Ev.launch leaf vf q, launchConsumed leaf vf), (.copy leaf vf q, .copy leaf vf q, copyConsumed leaf vf),
    (.waitsig leaf vf q, .waitsig leaf vf q, waitsigConsumed leaf vf),
    (.signalPacket leaf vf q, .signalPacket leaf vf q, plainConsumed leaf vf 4 (fun p => p.at 0x18 40 == 0) (fun _ => []) fun s p => .letIn s p),
    (.ckpt leaf vf q, .ckpt leaf vf q, ckptConsumed leaf vf),
    (.meter leaf vf q, .meter leaf vf q, plainConsumed leaf vf 6 (fun _ => true) (fun _ => []) fun s p => .letIn s p),
    (.resize leaf vf q, .resize leaf vf q, resizeConsumed leaf vf)] : List (Instr × Ev × (State → Pkt → Consumed))),
  consumeEv leaf vf q (bytesAt (s.headSlot vf q) 0 1) = e.2.1 →
  (∀ t d, e.2.2 new.2 new.1 = .letIn t d → ∃ u, exec e.1 before = .next u ∧ next t u ∧ Ev.packetStart leaf d.pid ∈ u.agenda ∧
    ∃ w ∈ (u.leaf leaf).pkts, w.pid = d.pid ∧ w.bytes = d.bytes ∧ w.stage = d.stage) ∧
  (∀ t cause, e.2.2 new.2 new.1 = .fail t cause → ∃ u, exec e.1 before = .next u ∧ next t u ∧
    ((∀ w ∈ (t.leaf leaf).pkts, w.pid ≠ new.1.pid) → u.Halts new.1 cause)) ∧
  (∀ t, e.2.2 new.2 new.1 = .ask t → ∃ u, exec e.1 before = .next u ∧ u.queue vf q = t.queue vf q ∧ u.agenda = t.agenda) ∧
  (e.2.2 new.2 new.1 = .wait → exec e.1 before = .next s))

/-- R37, R46: a waiting packet that may start does: a COPY, a WAITSIG, a CKPT or a RESIZE is started and its work set going, a SIGNAL's
work is done at once, a METER's once its report can be written, and a LAUNCH without predecessor, whose gang runs with no launch, is
started and its launch set going. R38, R39, R331: a started WAITSIG whose flag, here in host memory, meets its condition is done, and one
whose TIMEOUT has elapsed halts its queue with cause 0x11; a COPY that moves its next unit goes on, and its work is done with the last.
R41: a packet whose work is done, with nothing awaited, writes its signal, here to host memory, or none where SIG_ADDR is 0, and is
complete. -/
def Obligations.PacketsStartAndComplete : Prop :=
  (∀ (s : State) (leaf pid : Nat) (p : Pkt),
  s.pkt leaf pid = some p → p.stage = .waiting → s.mayStart leaf p = true →
  let started (u : State) : Prop := ∃ w, u.pkt leaf pid = some w ∧ w.stage = .started ∧ w.at_ = s.now
  (∀ c ∈ ([(2, [.copyComplete leaf pid]), (3, [.waitsigPoll leaf pid, .waitto leaf pid]), (5, [.ckptStart leaf pid]),
      (7, [.resizeApply leaf pid])] : List (Nat × List Ev)), p.type = c.1 →
    ∃ u, exec (.packetStart leaf pid) s = .next u ∧ (∀ e ∈ c.2, e ∈ u.agenda) ∧ started u ∧ s.SameBytes u) ∧
  (p.type = 4 → ∃ u, exec (.packetStart leaf pid) s = .next u ∧ u.Ends leaf pid ∧ s.SameBytes u) ∧
  (p.type = 6 → s.mpDown = false → ∀ u x w, s.meterReport leaf p = .done u x → u.pkt leaf pid = some w →
    ∃ v, exec (.packetStart leaf pid) s = .next v ∧ v.Ends leaf pid ∧ v.host = u.host) ∧
  (p.type = 1 → ∀ x m, p.launch = some x → x.pred = none → (s.leaf leaf).member = some m → (s.leaf leaf).phase = .run → m.gang = p.gang → m.running = none →
    ∃ u, exec (.packetStart leaf pid) s = .next u ∧ started u ∧ Ev.launchGo leaf pid ∈ u.agenda)) ∧
  (∀ (s : State) (leaf pid : Nat) (p : Pkt), s.pkt leaf pid = some p →
  (p.stage = .started →
    (∀ a, p.at 0x18 8 % 8 = 0 → s.cpPlace leaf p.vf needRd (64 * (p.at 0x18 8 / 64)) = .inl (.host a) →
      condMet (p.at 0x28 1) (s.host.readNat a 64 / 2 ^ (8 * (p.at 0x18 8 % 64)) % 2 ^ 64) (p.at 0x20 8) = true →
      ∃ u, exec (.waitsigPoll leaf pid) s = .next u ∧ u.Ends leaf pid ∧ s.SameBytes u) ∧
    (p.at 0x30 8 ≠ 0 → p.at_.toNat + p.at 0x30 8 ≤ s.now.toNat → ∃ u, exec (.waitto leaf pid) s = .next u ∧ u.Halts p 0x11 ∧ s.SameBytes u) ∧
    (∀ u n, p.owed = [] → s.copyStep leaf p = .done u n → (n < ccTotal p.block → exec (.copyComplete leaf pid) s = .next u) ∧
      (ccTotal p.block ≤ n → (u.pkt leaf pid).isSome = true → ∃ v, exec (.copyComplete leaf pid) s = .next v ∧ v.Ends leaf pid))) ∧
  (p.stage = .writing → p.owed = [] → (∀ r ∈ (s.leaf leaf).remotes, r.party ≠ .packet pid) →
    (p.sigAddr = 0 → ∃ u, exec (.completionSignalRetry leaf pid) s = .next u ∧ s.SameBytes u ∧ ∃ w, u.pkt leaf pid = some w ∧ w.stage = .done) ∧
    ∀ a, p.sigAddr ≠ 0 → p.sigAddr % 8 = 0 → s.cpMapped leaf p.vf needWr p.sigAddr 8 = none → s.frozenFor leaf p.vf (p.sigAddr / 64) = false →
      s.cpPlace leaf p.vf needWr (64 * (p.sigAddr / 64)) = .inl (.host a) →
      ∃ u, exec (.completionSignalRetry leaf pid) s = .next u ∧ (∃ w, u.pkt leaf pid = some w ∧ w.stage = .done) ∧
        let z := 2 ^ (8 * (p.sigAddr % 64))
        u.host = (s.hostBits a 64 (p.sigVal * z % 2 ^ 512) ((2 ^ 64 - 1) * z % 2 ^ 512)).host))

/-- R227, R228: a started RESIZE sends its records to every member of its gang, and its work is done once all have answered. R439 to R441:
a started CKPT has its pages frozen at every member; once all have answered, and with no mark to write, each page is to be copied; a page
that can be read and its destination written is copied and leaves the list, and the work is done when the list is empty. R51: the forecast
keeps its horizon, counts the LAUNCH and COPY packets that wait, up to 255, and holds the time. -/
def Obligations.MemberWidePackets : Prop := ∀ (s : State) (leaf pid : Nat) (p : Pkt), s.pkt leaf pid = some p → p.stage = .started →
  (p.progress = 1 → ∃ u, exec (.resizeApply leaf pid) s = .next u ∧ u.Ends leaf pid) ∧
  (p.progress = 0 → ∃ u, exec (.resizeApply leaf pid) s = .next u ∧ ∀ place ∈ s.placesNow leaf p.gang, u.Told place fun l =>
    .resizeMember l p.gang pid ((resizeRecs (p.table.readNat 0 (24 * p.at 0x20 2)) (p.at 0x20 2)).getD [])) ∧
  (p.progress = 0 → ∃ u, exec (.ckptStart leaf pid) s = .next u ∧ ∀ place ∈ s.placesNow leaf p.gang, u.Told place fun l =>
    .freezePages l p.gang pid p.vf (p.pages.map fun q => q.1 / 4096)) ∧
  (p.progress = 1 → p.at 0x30 8 = 0 → ∃ u, exec (.ckptStart leaf pid) s = .next u ∧ Ev.ckptComplete leaf pid ∈ u.agenda ∧
    ∀ q ∈ p.pages, Ev.ckptPageDrain leaf pid (q.1 / 4096) ∈ u.agenda) ∧
  (∀ page q u w x, p.pages.find? (fun q => q.1 / 4096 == page) = some q →
    ((s.cpRead leaf p.vf pid q.1 4096).andThen fun v x => v.cpWrite leaf p.vf pid (v.pktKey p) q.2 4096 x) = .done u x → u.pkt leaf pid = some w →
    ∃ v, exec (.ckptPageDrain leaf pid page) s = .next v ∧ v.pkt leaf pid = some { w with pages := w.pages.erase q } ∧ v.host = u.host ∧ v.hbm = u.hbm ∧ v.pool = u.pool) ∧
  (p.pages = [] → ∃ u, exec (.ckptComplete leaf pid) s = .next u ∧ u.Ends leaf pid) ∧
  ∃ u, exec (.actfcUpdate leaf) s = .next u ∧ (u.leaf leaf).actfc.extractLsb' 8 8 = (s.leaf leaf).actfc.extractLsb' 8 8 ∧
    ((u.leaf leaf).actfc.extractLsb' 16 8).toNat = min ((s.leaf leaf).pkts.filter fun d => d.stage == .waiting && (d.type == 1 || d.type == 2)).length 255 ∧
    ((u.leaf leaf).actfc.extractLsb' 24 40).toNat = s.now.toNat / 2 ^ 10 % 2 ^ 40

/-! Stencils and the switch of gangs. -/

/-- R54, R55, R58: while the management processor runs, a write of ARM arms the shadow where it passes the checks and sets STERR where it
does not, and changes nothing else of its leaf but the error counts of the matrices it reads; while that processor reloads the write is
ignored. On a leaf that a member holds, an armed shadow comes into force at its first frame, at slot 0, and a slot that is over hands on
to the next. -/
def Obligations.StencilEvents : Prop := ∀ (s : State) (leaf : Nat),
  let l := s.leaf leaf
  (s.mpDown = false → ∃ u, exec (.stencilArm leaf) s = .next u ∧ s.SameBytes u ∧
    u.leaf leaf = { l with arm := s.shadowOk leaf, sterr := !s.shadowOk leaf, err := (u.leaf leaf).err }) ∧
  (s.mpDown = true → exec (.stencilArm leaf) s = .next s) ∧
  (l.member.isSome = true → s.applyDue leaf = true → ∃ u, exec (.stencilApply leaf) s = .next u ∧ s.SameBytes u ∧ (u.leaf leaf).active = l.shadow ∧
    (u.leaf leaf).cells = l.shadowCells ∧ (u.leaf leaf).arm = false ∧ (u.leaf leaf).inForce = true ∧ (u.leaf leaf).slotNow = 0 ∧
    (u.leaf leaf).slotStart = l.shadow.frame0) ∧
  (l.member.isSome = true → s.slotDue leaf = true → ∃ u, exec (.slotBegin leaf) s = .next u ∧ s.SameBytes u ∧ (u.leaf leaf).slotStart = l.boundary ∧
    (u.leaf leaf).slotNow = (l.slotNow + 1) % l.active.nslot ∧ (u.leaf leaf).boundary = l.boundary + BitVec.ofNat 64 l.active.slotLen)

/-- R66 to R68: LEAD before a boundary at which its gang moves a member begins to prepare: its strands are asked to stop; PREPDL later
every strand stands stopped or captured; with nothing in flight, and its records within the replay buffers, it is PREPARED. R70: the
leader's rounds ask every member for its counts, which a member sends; with every member and counting router PREPARED and the sums equal
it sends COMMIT to every member. R67, R70, R78: at COMMIT the L1 lines of the leaf go, and its context is to be saved; that done, the leaf
is free, its strands are as at reset and DONE goes to the leader, whose vote is over with the last. R72: an ABORT at a leader goes to
every member, and at a member faults the gang, frees the leaf and marks the saved context; a vote past VOTEDL is aborted with cause 3. -/
def Obligations.GangSwitch : Prop :=
  (∀ (s : State) (leaf gang : Nat),
  let l := s.leaf leaf
  (∀ t m, s.prepareDue leaf = some t → l.member = some m → ∃ u, exec (.prepareStart leaf) s = .next u ∧ s.SameBytes u ∧ (u.leaf leaf).phase = .preparing ∧
    (u.leaf leaf).refTime = BitVec.ofNat 64 t ∧ Ev.memberPrepared leaf ∈ u.agenda ∧ ∀ w ∈ leafStrands leaf, u.strand w = (s.strand w).askStop) ∧
  (s.captureDue leaf = true → ∃ u, exec (.prepdlCapture leaf) s = .next u ∧ s.SameBytes u ∧ ∀ w ∈ leafStrands leaf, (u.strand w).halted = true) ∧
  (∀ m, l.member = some m → l.phase = .preparing → s.preparedNow leaf = true → l.freezeLeft = 0 → s.enrolled m.gang = false →
    ((leafCores leaf).foldl State.saveWaiting (s.unpost (.memberPrepared leaf))).replayOver leaf = false →
    ∃ u, exec (.memberPrepared leaf) s = .next u ∧ s.SameBytes u ∧ (u.leaf leaf).phase = .prepared) ∧
  (∀ r, s.roundDue leaf = some r → ∃ u, exec (.voteRound leaf) s = .next u ∧ s.SameBytes u ∧
    (u.leaf leaf).leader r.gang = some { r with round := r.round + 1, replies := [] } ∧ ∀ place ∈ r.places, u.Told place fun k => .countreq k r.gang (r.round + 1)) ∧
  (∀ m round, leaf ≠ 2 → l.member = some m → m.gang = gang → ∃ u, exec (.countreq leaf gang round) s = .next u ∧ s.SameBytes u ∧
    u.Told (s.placeOf leaf 0) fun k => .count k gang m.member round (l.phase == .prepared) m.sent m.recv) ∧
  ∀ r member round prepared sent recv, l.leader gang = some r → r.phase = .counting → r.round = round →
    let replies := (r.replies.filter fun x => x.member != member) ++ [{ member := member, prepared := prepared, sent := sent, recv := recv }]
    (∀ m ∈ List.range r.size ++ r.routers, ∃ x ∈ replies, x.member = m ∧ x.prepared = true) →
    replies.foldl (fun a x => a + x.sent) 0 = replies.foldl (fun a x => a + x.recv) 0 → r.gang = gang →
    ∃ u, exec (.count leaf gang member round prepared sent recv) s = .next u ∧ s.SameBytes u ∧
      (u.leaf leaf).leader gang = some { r with replies := replies, phase := .committing } ∧ ∀ place ∈ r.places, u.Told place fun k => .commit k gang) ∧
  (∀ (s : State) (leaf gang : Nat),
  let l := s.leaf leaf
  (∀ m, l.member = some m → m.gang = gang → l.phase = .prepared → ∃ u, exec (.commit leaf gang) s = .next u ∧ (u.leaf leaf).phase = .saving ∧
    Ev.contextSaved leaf ∈ u.agenda ∧ ∀ c ∈ leafCores leaf, (u.core c).l1 = []) ∧
  (∀ m, l.member = some m → l.phase = .saving → l.nextBoundary ≤ l.refTime.toNat + us l.active.lead → ∃ u, exec (.contextSaved leaf) s = .next u ∧ (u.leaf leaf).member = none ∧
    (u.leaf leaf).phase = .out ∧ u.Told (s.placeOf leaf 0) (fun k => .done k m.gang m.member) ∧
    u.contexts.find? (contextKey m.gang m.member) = some (s.contextOf leaf m false) ∧ ∀ w ∈ leafStrands leaf, u.strand w = .reset) ∧
  (∀ r member, l.leader gang = some r → r.phase = .committing → (∀ m < r.size, m ∈ r.dones ++ [member]) →
    ∃ u, exec (.done leaf gang member) s = .next u ∧ (u.leaf leaf).leader gang = none ∧ s.SameBytes u) ∧
  (∀ h : FaultHead, h.gang = gang → (s.faultedGangs.find? gang).isSome = false → ∃ u, exec (.abort leaf true h) s = .next u ∧ s.SameBytes u ∧
    ∀ place ∈ s.membersAt leaf gang, u.Told place fun k => .abort k false h) ∧
  (∀ (h : FaultHead) m, h.gang = gang → l.member = some m → m.gang = gang → cellGang l.cell = gang → ∃ u, exec (.abort leaf false h) s = .next u ∧
    (u.leaf leaf).member = none ∧ (u.faultedGangs.find? gang).isSome = true ∧
    ∃ c, u.contexts.find? (contextKey gang m.member) = some c ∧ c.faulted = true) ∧
  ∀ r, s.voteLate leaf = some r → ∃ u, exec (.votedlExpiry leaf) s = .next u ∧ s.SameBytes u ∧ ∃ h : FaultHead, h.cause = 3 ∧ h.gang = r.gang ∧
    ∀ place ∈ s.membersAt leaf r.gang, u.Told place fun k => .abort k false h)

/-- R75: a member on a leaf that is up, with no fault owed for its saved context, sends READY once that is back; with the last READY the
leader sends GO to every member. R67, R76: at GO a member with nothing in its dustsheet runs, or prepares at once where its next switch is
due. R75, R405: with no GO within VOTEDL the member stops and its leader is told of cause 6. R435, R436: a member whose launch has no work
left, with no dirty region and no unread fault, is complete and says so; with the last the leader tells every member that the launch is
over. -/
def Obligations.MembersReturn : Prop := ∀ (s : State) (leaf : Nat) (m : Member),
  let l := s.leaf leaf
  l.member = some m →
  (s.leafUp leaf = true → (s.savedOf leaf m.gang m.member).owed = 0 → ∃ u, exec (.restoreComplete leaf) s = .next u ∧
    u.Told (s.placeOf leaf 0) fun k => .ready k m.gang m.member) ∧
  (∀ r member, l.leader m.gang = some r → r.phase = .starting → (∀ n < r.size, n ∈ r.readys ++ [member]) → ∃ u, exec (.ready leaf m.gang member) s = .next u ∧
    s.SameBytes u ∧ ∀ place ∈ r.places, u.Told place fun k => .go k m.gang) ∧
  (l.phase = .resuming → m.dust = [] → m.held = [] → ∃ u, exec (.go leaf m.gang) s = .next u ∧
    ((u.leaf leaf).phase = .run ∨ (u.leaf leaf).phase = .preparing)) ∧
  (l.phase = .resuming → l.refTime.toNat + us l.active.votedl ≤ s.now.toNat → ∃ u, exec (.startto leaf) s = .next u ∧ s.SameBytes u ∧ s.FaultTold u leaf 6) ∧
  (m.running.isSome = true → m.complete = false → s.enginesRun leaf = true → s.memberIdle leaf m = true → s.dirtyRegions leaf m = [] → m.unread = [] →
    (∀ r ∈ l.remotes, ∀ c n, r.party ≠ .region c n) → ∃ u, exec (.memberComplete leaf) s = .next u ∧ s.SameBytes u ∧
      (u.leaf leaf).member = some { m with complete := true } ∧ u.Told (s.placeOf leaf 0) fun k => .mdone k m.gang m.member) ∧
  ∀ member pid, s.leafHolding m.gang 0 = some leaf → m.running = some pid → (∀ n < m.size, n ∈ m.mdones ++ [member]) →
    ∃ u, exec (.mdone leaf m.gang member) s = .next u ∧ s.SameBytes u ∧ ∀ place ∈ s.placesOf leaf, u.Told place fun k => .launchOver k m.gang

/-! The fabric, errors and collectives. -/

/-- R424: a packet that finds a leaf frozen waits at its edge, and the end of the freeze delivers it. R66, R358: a read of a member's
memory, next in its sequence, is counted, takes the sequence on, and becomes a request at the owner. R74: a packet for no member of the
leaf is counted as misdelivered. R362: the owner stores what it may, and changes no byte where it may not. R361: a request unanswered for
20 µs is sent once more, and the second time the member stops and its leader is told of cause 7. R359, R454: a flit CRC error changes
nothing; a port that goes down retrains; a retraining that ends well brings it up, and the packets that wait for it leave, one that ends
badly leaves it down. R455: clearing DOWN bits retrains each port that is down and named. -/
def Obligations.FabricAndLinks : Prop :=
  (∀ (s : State) (leaf : Nat) (p : Packet), leaf < 2 →
  let l := s.leaf leaf
  (l.freezeLeft ≠ 0 → ∃ u, exec (.fabricPacketArrival leaf p) s = .next u ∧ s.SameBytes u ∧ (u.leaf leaf).edge = l.edge ++ [p]) ∧
  (∀ m txn off n, l.freezeLeft = 0 → p.gang ≠ 0 → opens p = true → sequenced p = true → p.seq = l.seqIn.get (inKey p) 0 → l.member = some m → m.gang = p.gang →
    m.member = p.dstMember → l.phase = .run → l.early = [] → l.recorded p = none → p.body = .read txn off n → ∃ u, exec (.fabricPacketArrival leaf p) s = .next u ∧ s.SameBytes u ∧
      Ev.remoteRequest leaf p ∈ u.agenda ∧ (u.leaf leaf).seqIn.get (inKey p) 0 = p.seq + packetCount p ∧
      (u.leaf leaf).member.map Member.recv = some (m.recv + BitVec.ofNat 64 (packetCount p))) ∧
  (l.freezeLeft = 0 → l.member = none → p.gang ≠ 0 → opens p = false →
    (∃ u, exec (.fabricPacketArrival leaf p) s = .next u ∧ s.SameBytes u ∧ (u.leaf leaf).err.misdel = satInc l.err.misdel) ∧
    (l.edge = [p] → ∃ u, exec (.freezeEnd leaf) s = .next u ∧ s.SameBytes u ∧ (u.leaf leaf).err.misdel = satInc l.err.misdel ∧ (u.leaf leaf).edge = [])) ∧
  (∀ txn off n data mask, l.member.isSome = true → l.freezeLeft = 0 → s.requestBefore leaf p = false → p.body = .store txn off n data mask →
    let vf := gVf (s.gangRec p.gang)
    (s.mayReach vf leaf off n = true → s.frozenAt leaf vf off = false → ∃ u, exec (.remoteRequest leaf p) s = .next u ∧ u.hbm = (s.hbmBits leaf off n data.toNat mask.toNat p.key).hbm) ∧
    (s.mayReach vf leaf off n = false → ∃ u, exec (.remoteRequest leaf p) s = .next u ∧ s.SameBytes u)) ∧
  ∀ txn r m, l.remotes.find? (fun x => x.txn == txn) = some r → s.timersRun leaf = true → r.sentAt + resendAfter ≤ s.now.toNat → l.member = some m →
    (r.resent = false → ∃ u, exec (.remoteResend leaf txn) s = .next u ∧ s.SameBytes u ∧
      (u.leaf leaf).remotes = l.remotes.map fun x => if x.txn = txn then { x with resent := true, sentAt := s.now.toNat } else x) ∧
    (r.resent = true → ∃ u, exec (.remoteResend leaf txn) s = .next u ∧ s.SameBytes u ∧ s.FaultTold u leaf 7)) ∧
  (∀ (s : State) (port : Nat),
  exec (.flitCrcError port) s = .next s ∧
  (s.link port = .up → ∃ u, exec (.linkDown port) s = .next u ∧ u.link port = .retraining ∧ s.SameBytes u) ∧
  (s.link port = .retraining → (∃ u, exec (.linkRetrainEnd port true) s = .next u ∧ u.link port = .up ∧ (∀ x ∈ u.portWait, x.port ≠ port) ∧ s.SameBytes u ∧
      (∀ x ∈ s.portWait, x.port = port → Out.packet x.port x.via x.pkg x.leaf x.pkt ∈ u.out)) ∧
    ∃ u, exec (.linkRetrainEnd port false) s = .next u ∧ u.link port = .down ∧ s.SameBytes u) ∧
  ∀ bits : BitVec 32, ∃ u, exec (.linkdnDownClear bits) s = .next u ∧ s.SameBytes u ∧
    ∀ n < 32, u.link n = if bits.getLsbD n = true ∧ s.link n = .down then .retraining else s.link n)

/-- R424, R455: a correctable error is counted and freezes its leaf for 40 clocks from the next, or for 40 more. R406: an uncorrectable
error of HBM retires its page, where a register is free. R405: one of a pool page marks the page. R405: one of a local store region names
its owner dead, and the gang faults with cause 0x0B where the owner holds the leaf. R405, R454: a core that fails faults the gang with
cause 0x0C and sets LAST. R285: the L1 may give a line up at any time, written back first where it is dirty. -/
def Obligations.ErrorEvents : Prop := ∀ (s : State) (leaf : Nat),
  let l := s.leaf leaf
  (∀ unit, ∃ u, exec (.correctableError leaf unit) s = .next u ∧ s.SameBytes u ∧ (u.leaf leaf).err.ce = satInc l.err.ce ∧
    (u.leaf leaf).freezeLeft = if l.freezeLeft = 0 then 41 else l.freezeLeft + 40) ∧
  (∀ off, l.retired off = false → l.retpg.length < 64 → ∃ u, exec (.uncorrectableError leaf ueHbm off) s = .next u ∧ s.SameBytes u ∧
    (u.leaf leaf).retpg.find? l.retpg.length = some (BitVec.ofNat 28 (off / 4096))) ∧
  (∀ a, ∃ u, exec (.uncorrectableError leaf uePool a) s = .next u ∧ a / 4096 ∈ u.poolBad ∧ s.SameBytes u) ∧
  (∀ core n o m, core < 64 → n < 64 → (s.region (64 * leaf + core) n).owner = some o → l.member = some m → o.same m.owner = true → l.phase = .run →
    ∃ u, exec (.uncorrectableError leaf ueLocal (64 * core + n)) s = .next u ∧ s.SameBytes u ∧ s.FaultTold u leaf 0x0B ∧
      (u.region (64 * leaf + core) n).owner = some { o with dead := true }) ∧
  (∀ core m, l.member = some m → l.phase = .run → ∃ u, exec (.coreFailure leaf core) s = .next u ∧ s.SameBytes u ∧ s.FaultTold u leaf 0x0C ∧
    (u.leaf leaf).err.last = true) ∧
  ∀ core line, (s.leaf (leafOfCore core)).freezeLeft = 0 → ∃ u, exec (.l1Evict core line) s = .next u ∧ u.hbm = (s.cleanLine core line).hbm ∧
    ((u.core core).l1 = ((s.cleanLine core line).core core).l1 ∨ (u.core core).l1 = ((s.cleanLine core line).core core).l1.erase line)

/-- R379: a started COLL that has sent and received everything completes its token. R373, R375: the root's leaf places the nodes of a new
collective, and members and the router take the placement. R374: the bytes of a gathering collective that reach a member are written and
its COLL goes on; an acknowledgement leaves one thing fewer to await. R382: a member or router that is told of an abort drops the
collective; the aborting member asks its partners for counts in rounds, and past VOTEDL stops, with cause 7; a release lets a later COLL
use the SEQ. -/
def Obligations.CollectiveEvents : Prop :=
  (∀ (s : State) (leaf : Nat) (m : Member), leaf ≠ 2 → (s.leaf leaf).member = some m →
  (∀ ctx c t, (s.collCtx leaf ctx).open_ = [c] → (s.collCtx leaf ctx).waits = [] → s.enginesRun leaf = true → s.collParked leaf ctx = false → c.started = true → m.treeOf (cbSeq c.cmd.block) = some t →
    c.sendsLeft = [] → s.collOver leaf ctx m c t = true → ∃ u, exec (.collStart leaf ctx) s = .next u ∧ s.SameBytes u ∧
      (c.cmd.tp ≠ 0 → (s.strand c.cmd.who).rdTk c.cmd.tp = .pending c.cmd.id → (u.strand c.cmd.who).rdTk c.cmd.tp = .complete)) ∧
  (∀ member block, m.treeOf (cbSeq block) = none → m.collOf (cbSeq block) = none →
    ∃ u m', exec (.placementRequest leaf m.gang member block) s = .next u ∧ s.SameBytes u ∧ (u.leaf leaf).member = some m' ∧
      ∃ t, m'.treeOf (cbSeq block) = some t ∧ t.block = block ∧ t.routers = s.routerNodes leaf m.gang block) ∧
  (∀ block routers, m.collOf (cbSeq block) = none → m.treeOf (cbSeq block) = none → ∃ u m', exec (.placement leaf m.gang block routers) s = .next u ∧ s.SameBytes u ∧ (u.leaf leaf).member = some m' ∧
    ∃ t, m'.treeOf (cbSeq block) = some t ∧ t.block = block ∧ t.routers = routers) ∧
  (∀ gang block routers, (∀ x ∈ s.trees, x.gang = gang → cbSeq x.block ≠ cbSeq block) → ∃ u, exec (.placement 2 gang block routers) s = .next u ∧ s.SameBytes u ∧
    ∃ t, u.trees.find? (fun x => x.gang == gang && cbSeq x.block == cbSeq block) = some t ∧ t.block = block ∧ t.routers = routers) ∧
  (∀ (p : Packet) n q k lo hi bytes ctx c t u, p.gang = m.gang → p.body = .deliver n q k lo hi bytes → m.dropped = [] → m.collOf q = some (ctx, c) → m.treeOf q = some t →
    c.started = true → c.done = false → s.enginesRun leaf = true → s.collParked leaf ctx = false → cbOp t.block ≠ 0 → s.chunkBytes leaf ctx c k lo bytes = .done u 0 →
    ∃ v, exec (.contribution leaf p) s = .next v ∧ v.cores = u.cores ∧ Ev.collStart leaf ctx ∈ v.agenda) ∧
  ∀ ctx txn r c, (s.leaf leaf).remotes.find? (fun x => x.txn == txn && x.party == .coll ctx) = some r → (s.collCtx leaf ctx).running = some c → cbOp c.cmd.block ≠ 4 →
    ∃ u, exec (.collAck leaf ctx txn) s = .next u ∧ s.SameBytes u ∧ (u.leaf leaf).remotes = (s.leaf leaf).remotes.erase r ∧ Ev.collStart leaf ctx ∈ u.agenda) ∧
  (∀ (s : State) (leaf : Nat) (m : Member), leaf ≠ 2 → (s.leaf leaf).member = some m →
  (∀ member seq, m.collOf seq = none → ∃ u m', exec (.abortNotice leaf m.gang member seq) s = .next u ∧ s.SameBytes u ∧ (u.leaf leaf).member = some m' ∧ seq ∈ m'.unreleased ∧
    (∀ t ∈ m'.trees, cbSeq t.block = seq → t.dropped = true)) ∧
  (∀ gang member seq, ∃ u, exec (.abortNotice 2 gang member seq) s = .next u ∧ s.SameBytes u ∧ ∀ n ∈ u.nodes, n.gang = gang → n.seq ≠ seq) ∧
  (∀ ctx c, (s.collCtx leaf ctx).colls.find? (fun x => !x.abortTp.isEmpty) = some c →
    (s.abortLate leaf c = true → (s.leaf leaf).phase = .run → ∃ u, exec (.cabortCountRound leaf ctx) s = .next u ∧ s.SameBytes u ∧ s.FaultTold u leaf 7) ∧
    (s.abortLate leaf c = false → (∀ d ∈ m.partners c.cmd.block, d ∈ c.abortAcks) → c.nextRound ≤ s.now.toNat → s.enginesRun leaf = true →
      ∃ u, exec (.cabortCountRound leaf ctx) s = .next u ∧ s.SameBytes u ∧ ∀ d ∈ m.partners c.cmd.block, d < 2048 →
        u.Told (s.placeOf leaf d) fun k => .collCountReq k m.gang m.member (cbSeq c.cmd.block))) ∧
  ∀ seq, ∃ u m', exec (.releaseNotice leaf m.gang seq) s = .next u ∧ s.SameBytes u ∧ (u.leaf leaf).member = some m' ∧ seq ∉ m'.unreleased ∧ ∀ d ∈ m'.dropped, d.1 ≠ seq)

/-! The Scrim die. -/

/-- R384, R385: Sync is timestamped as it arrives from the upstream port, and Follow_Up gives the offset estimate; messages of another
port change nothing. R386: an estimate beyond 20 ns loses LOCK, sets UNLOCKED and fires the time vector; the sixteenth in a row within 10
ns gains LOCK, and steps NOW only with no launch running. R384: a peer's Pdelay messages are answered, and give the link's delay; the
grandmaster sends Sync and Follow_Up on each link that is up every interval. -/
def Obligations.PodTime : Prop := ∀ (s : State) (port : Nat) (a b c : W64),
  (s.fromUp port = true → exec (.sync port a b) s = .next { s with syncAt := b } ∧
    ∀ x : Int, nowDiff s.syncAt (a + c + s.linkDelay.get port 0) = x → ∃ u, exec (.followUp port a c) s = .next u ∧ s.SameBytes u ∧
      (-2 ^ 31 ≤ x → x < 2 ^ 31 → u.offset.toInt = x) ∧
      (s.lock = true → (x < -2 * tenNs ∨ 2 * tenNs < x) → u.lock = false ∧ u.unlocked = true ∧ Out.msix 0 vecTime ∈ u.out) ∧
      (s.lock = false → -tenNs ≤ x → x ≤ tenNs → s.goodSyncs = 15 → u.lock = true ∧ (s.launchRuns = true → u.now = s.now))) ∧
  (s.fromUp port = false → exec (.sync port a b) s = .next s ∧ exec (.followUp port a c) s = .next s) ∧
  (∃ u, exec (.pdelayReq port a) s = .next u ∧ s.SameBytes u ∧ Out.ptp kPdelayResp port a ∈ u.out ∧ Out.ptp kPdelayRespFollowUp port s.now ∈ u.out) ∧
  (∃ u, exec (.pdelayResp port a b) s = .next u ∧ s.SameBytes u ∧ u.pdelayT2.get port 0 = a ∧ u.pdelayT4.get port 0 = b) ∧
  (∃ u, exec (.pdelayRespFollowUp port a) s = .next u ∧ s.SameBytes u ∧ u.linkDelay.get port 0 =
    BitVec.ofInt 64 ((nowDiff (s.pdelayT4.get port 0) (s.pdelayT1.get port 0) - nowDiff a (s.pdelayT2.get port 0)) / 2)) ∧
  (s.ptEn = true → s.link port = .up → ∃ u, exec (.pdelayReqInterval port) s = .next u ∧ s.SameBytes u ∧ u.pdelayT1.get port 0 = s.now ∧
    Out.ptp kPdelayReq port s.now ∈ u.out) ∧
  (s.ptEn = true → s.ptGm = true → ∀ n, s.syncEvery = some n → s.syncNext.toNat ≤ s.now.toNat → ∃ u, exec .syncInterval s = .next u ∧ s.SameBytes u ∧
    u.syncNext = s.now + BitVec.ofNat 64 n ∧ ∀ p < 32, s.link p = .up → Out.ptp kSync p s.now ∈ u.out ∧ Out.ptp kFollowUp p s.now ∈ u.out)

/-- R365: each request of the session that comes in its turn is answered and takes the sequence on; GET_VERSION begins it at any time, and
another out of its turn is refused and changes nothing. R365, R366: INSTALL in a session fills a free slot, or gives a gang that holds one
its next key; REVOKE marks a slot; the slot is cleared, or takes its next key, once the router holds no combining state. R364, R271: a
share is stored where the sum of all stays within its bound, and is ignored where it does not. -/
def Obligations.SessionAndKeys : Prop :=
  (∀ (s : State),
  (∀ r ∈ ([(.getCapabilities, 1, .version, .capabilities), (.negotiateAlgorithms, 2, .capabilities, .algorithms), (.getDigests, 3, .algorithms, .digests),
      (.getCertificate, 4, .digests, .certificate), (.keyExchange, 6, .measured, .keyed), (.finish, 7, .keyed, .session)] :
      List (Instr × Nat × SpdmPhase × SpdmPhase)),
    (s.spdm = r.2.2.1 → exec r.1 s = .next { s with spdm := r.2.2.2, out := s.out ++ [.spdm r.2.1 []] }) ∧
    (s.spdm ≠ r.2.2.1 → exec r.1 s = .next { s with out := s.out ++ [.spdm spdmRefused []] })) ∧
  exec .getVersion s = .next { s with spdm := .version, out := s.out ++ [.spdm 0 []] } ∧
  (s.spdm = .certificate → ∃ u body, exec .getMeasurements s = .next u ∧ u.spdm = .measured ∧ u.out = s.out ++ [.spdm 5 body] ∧ body.length = 144) ∧
  (s.spdm ≠ .certificate → exec .getMeasurements s = .next { s with out := s.out ++ [.spdm spdmRefused []] })) ∧
  (∀ (s : State) (gang slot : Nat) (key : BitVec 256) (x : W64),
  (s.mpDown = false → s.spdm = .session → (∀ k ∈ s.rkslots, k.2.enrolled = true → k.2.gang.toNat ≠ gang) → slot < 64 → (s.slotOf slot).enrolled = false → gang ≠ 0 →
    gang < 2 ^ 16 → ∃ u, exec (.install gang slot key) s = .next u ∧ s.SameBytes u ∧ (u.slotOf slot).enrolled = true ∧ (u.slotOf slot).gang.toNat = gang ∧
      (u.slotOf slot).key = key) ∧
  (∀ n k, s.mpDown = false → s.spdm = .session → List.find? (fun (x : Nat × KeySlot) => x.2.enrolled && x.2.gang.toNat == gang) s.rkslots = some (n, k) →
    ∃ u, exec (.install gang slot key) s = .next u ∧ s.SameBytes u ∧ u.slotOf n = { k with next := some key } ∧ Ev.keySlotClear n ∈ u.agenda) ∧
  (slot < 64 → (s.slotOf slot).enrolled = true → ∃ u, exec (.revoke slot) s = .next u ∧ s.SameBytes u ∧ (u.slotOf slot).revoke = true ∧ (u.slotOf slot).key = (s.slotOf slot).key ∧
    Ev.keySlotClear slot ∈ u.agenda) ∧
  (s.combining (s.slotOf slot).gang.toNat = false →
    ((s.slotOf slot).revoke = true → ∃ u, exec (.keySlotClear slot) s = .next u ∧ s.SameBytes u ∧ u.slotOf slot = .reset) ∧
    ((s.slotOf slot).revoke = false → (s.slotOf slot).next = some key → ∃ u, exec (.keySlotClear slot) s = .next u ∧ s.SameBytes u ∧ (u.slotOf slot).key = key ∧
      (u.slotOf slot).next = none)) ∧
  (∀ k, k < 256 → ((List.range 256).map fun j => if j = k then (x.setWidth 6).toNat else (s.resv j).toNat).sum ≤ 8192 →
    exec (.kbshareWrite k x) s = .next { s with kbshare := s.kbshare.set k (x.setWidth 6) }) ∧
  (∀ k, k < 256 → 8192 < ((List.range 256).map fun j => if j = k then (x.setWidth 6).toNat else (s.resv j).toNat).sum → exec (.kbshareWrite k x) s = .next s) ∧
  (∀ k, k < 256 → ((List.range 256).map fun j => if j = k then (x.setWidth 12).toNat else (s.plcshare.get j 0).toNat).sum ≤ 2048 →
    exec (.plcshareWrite k x) s = .next { s with plcshare := s.plcshare.set k (x.setWidth 12) }) ∧
  ∀ k, k < 256 → 2048 < ((List.range 256).map fun j => if j = k then (x.setWidth 12).toNat else (s.plcshare.get j 0).toNat).sum → exec (.plcshareWrite k x) s = .next s)

/-- R269, R275, R276: a pool region is enabled where it fits, and sets CFGERR where it does not; a read of its status clears TCOUNT; link
loss turns an enabled region to RETRY, from which it returns in time or is lost, its modified lines orphaned; DUMP and DROP free the
orphans. R272, R273: a back-invalidated line takes what the other host wrote; a line whose owner is awaited is granted, for an atomic
held. R235: the HBM window reads and writes eight bytes. R237, R442, R455: counters that a read clears; a function reset clears the buffer
counters and keeps the meters. R395: TLBINV drops translations, and is over once accesses are. R6: a write changes its register, and
faults where the window has none. -/
def Obligations.PoolAndHostAccesses : Prop :=
  (∀ (s : State) (n : Nat),
  let r := s.poolReg n
  (∀ x : W64, r.en = false → x.getLsbD 0 = true →
    let q := { r with port := x.extractLsb' 1 2, key := x.extractLsb' 8 8, size := x.extractLsb' 16 18 }
    ∃ u, exec (.poolRegionEnable n x) s = .next u ∧ s.SameBytes u ∧
      u.poolReg n = if s.regionFits n q = true then { q with en := true, state := 1, cfgerr := false } else { q with cfgerr := true }) ∧
  (∃ u, exec (.prstatRead n) s = .next u ∧ s.SameBytes u ∧ u.poolReg n = { r with tcount := 0 } ∧ ∃ o x, Out.readData 0 o x ∈ u.out ∧ x.extractLsb' 0 2 = r.state ∧
    x.getLsbD 2 = r.cfgerr ∧ x.getLsbD 3 = r.trans ∧ o = 0x3010 + 0x20 * n) ∧
  (r.state = 1 → exec (.poolLinkLoss n) s = .next (s.setPoolReg n { r with state := 2, retryAt := s.now })) ∧
  (r.state = 2 → r.late s.now = false → exec (.poolRetrySuccess n) s = .next (s.setPoolReg n { r with state := 1, trans := true, tcount := satInc r.tcount })) ∧
  (r.late s.now = true → ∃ u, exec (.poolRetryExpiry n) s = .next u ∧ (u.poolReg n).state = 3 ∧
    ∀ p ∈ u.poolLines, r.holds (64 * (p.1 / 256)) = true → p.2.state = .orphan) ∧
  (∃ u, exec (.drop n) s = .next u ∧ s.SameBytes u ∧ u.orphans n = []) ∧
  (∃ u, exec (.dump n) s = .next u ∧ u.orphans n = [] ∧ u.pool = s.pool ∧ (∀ c, u.core c = s.core c) ∧
    ∀ a, a < r.dump.toNat ∨ r.dump.toNat + 80 * (s.orphans n).length ≤ a → u.host.read a = s.host.read a) ∧
  (∀ line data, s.bisnpWaits line = false → s.slotsOf line = [] → s.pool.readNat (64 * line) 64 ≠ data.toNat →
    ∃ u, exec (.bisnp line data) s = .next u ∧ u.pool = s.pool.writeNat (64 * line) 64 data.toNat) ∧
  ∀ line who atom, s.wantsOwner line = some (who, atom) → s.poolGate (s.keyVf (leafOf who)).1 (64 * line) = .ok → s.poolLines = [] →
    ∃ u, exec (.ownershipGrant line) s = .next u ∧ s.SameBytes u ∧ ∃ l, u.poolLines.find? (poolSlot (s.keyVf (leafOf who)).1 line) = some l ∧
      l.state = .exclusive ∧ l.busy = atom ∧ l.data = s.poolPlain (s.keyVf (leafOf who)).1 line) ∧
  (∀ (s : State) (vf offset : Nat) (x : W64),
  (∀ k, bufCounter offset = some k → s.minimal = false → ∃ u, exec (.bufbytesRead vf offset) s = .next u ∧ s.SameBytes u ∧ (u.vf vf).bufs.get k 0 = 0 ∧
    Out.readData (vf + 1) offset ((s.vf vf).bufs.get k 0) ∈ u.out) ∧
  (bufCounter offset = none → exec (.bufbytesRead vf offset) s = .fault .noSuchRegister) ∧
  (∀ leaf < 2, ∃ u, exec (.errleafRead leaf (0x0830 + 8 * leaf)) s = .next u ∧ s.SameBytes u ∧ (u.leaf leaf).err = { ErrLeaf.reset with last := (s.leaf leaf).err.last } ∧
    Out.readData 0 (0x0830 + 8 * leaf) (s.leaf leaf).err.reg ∈ u.out) ∧
  (∃ u, exec (.errpkgRead 0x0840) s = .next u ∧ s.SameBytes u ∧ u.linkerr = 0 ∧ u.linktr = 0 ∧ u.mphb = s.mphb ∧ Out.readData 0 0x0840 s.errpkg ∈ u.out) ∧
  (∃ u, exec (.functionReset vf) s = .next u ∧ s.SameBytes u ∧ (u.vf vf).bufs = [] ∧ (u.vf vf).meters = (s.vf vf).meters) ∧
  (offset + 8 ≤ windowSize → s.minimal = false →
    let leaf := (s.hbmwin.extractLsb' 0 1).toNat
    let off := (s.hbmwin.extractLsb' 20 18).toNat * windowSize + offset
    exec (.hbmWindowAccess offset true x) s = .next (s.hbmWrite leaf off 8 x.toNat 255 0) ∧
    ∃ u, exec (.hbmWindowAccess offset false x) s = .next u ∧ s.SameBytes u ∧
      Out.readData windowFn offset (BitVec.ofNat 64 (s.hbmRead leaf off 8 (· == 0))) ∈ u.out) ∧
  ((s.vf vf).tlbBusy = false → (invSize (x.extractLsb' 0 3).toNat).isSome = true → ∃ u, exec (.tlbinv vf x) s = .next u ∧ s.SameBytes u ∧ (u.vf vf).tlbBusy = true ∧
    Ev.tlbinvDone vf ∈ u.agenda ∧ ∀ l < 2, ∀ e ∈ (u.leaf l).tlb, e.vf = vf → u.inInv vf e.base e.size = false) ∧
  ((s.vf vf).tlbBusy = true → s.invQuiet vf 0 = true → s.invQuiet vf 1 = true → s.holds vf 0 = false → s.holds vf 1 = false →
    ∃ u, exec (.tlbinvDone vf) s = .next u ∧ s.SameBytes u ∧ (u.vf vf).tlbBusy = false) ∧
  (pfReg offset = none → exec (.registerWrite 0 offset x) s = .fault .noSuchRegister) ∧
  (∀ w, pfReg offset = some (.vfallot w) → exec (.registerWrite 0 offset x) s = .next { s with allot := s.allot.set w x }) ∧
  (∀ l n, pfReg offset = some (.cell l n) → ∃ u, exec (.registerWrite 0 offset x) s = .next u ∧ s.SameBytes u ∧ (u.leaf l).shadowCells.get n 0 = x.setWidth 32 ∧
    (u.leaf l).cells = (s.leaf l).cells) ∧
  (∀ f p, f < 128 → s.minimal = false → vfReg offset = some (.pweight p) → ∃ u, exec (.registerWrite (f + 1) offset x) s = .next u ∧ s.SameBytes u ∧
    u.weight f p = if (x.setWidth 8 : BitVec 8) = 0 then 1 else (x.setWidth 8 : BitVec 8).toNat))

/-- R449, R450: power-on and restart begin a start; restart keeps HBM and pod time. R449, R451: a start that is not READY in 2 s is run
again, and the third time minimal mode is entered. R456: the management processor reloads while leaves keep their state. R455: its
heartbeat advances while it runs. R453: a PWRCTL write is held, and applies to a leaf that no member holds; a thermal trip removes power.
R452, R453: THWARN sets its bit and fires its vector. R450, R451: in minimal mode with FLASHEN a write of the window writes the flash. -/
def Obligations.PowerAndBoot : Prop := ∀ (s : State) (leaf : Nat) (x : W64),
  (∃ u, exec .powerOn s = .next u ∧ u.hbm = [] ∧ u.cores = [] ∧ u.flash = s.flash ∧ u.host = s.host ∧ u.pool = s.pool ∧ u.agenda = State.reset.agenda ∧ u.isReady = false) ∧
  (∃ u, exec .restart s = .next u ∧ u.hbm = s.hbm ∧ u.cores = [] ∧ u.strands = [] ∧ u.flash = s.flash ∧ u.agenda = State.reset.agenda ∧ u.isReady = false ∧ u.now = s.now) ∧
  (s.readyLate = true → (s.starts.toNat < 2 → ∃ u, exec .readyTimeout s = .next u ∧ u.starts = s.starts + 1 ∧ u.minimal = false ∧ u.isReady = false ∧ u.hbm = s.hbm) ∧
    (2 ≤ s.starts.toNat → ∃ u, exec .readyTimeout s = .next u ∧ u.minimal = true ∧ u.bootCause = 4 ∧ u.leafOk = 0 ∧ u.agenda = [] ∧ s.SameBytes u)) ∧
  (s.minimal = false → s.starting = false → ∃ u, exec .mprst s = .next u ∧ u.mpDown = true ∧ u.isReady = false ∧ Ev.mpReloaded ∈ u.agenda ∧ u.leaves = s.leaves ∧
    u.strands = s.strands ∧ s.SameBytes u) ∧
  (s.beatDue = true → ∃ u, exec .mpHeartbeat s = .next u ∧ s.SameBytes u ∧ u.mphb = (if s.mpRuns = true then s.mphb + 1 else s.mphb) ∧
    u.mpNext = s.mpNext + BitVec.ofNat 64 millisecond) ∧
  (∃ u, exec (.pwrctlWrite leaf x) s = .next u ∧ s.SameBytes u ∧ (u.leaf leaf).pwrPend = some (pwrStored x) ∧ (u.leaf leaf).pwrctl = (s.leaf leaf).pwrctl) ∧
  ((s.leaf leaf).pwrPend = some x → (s.leaf leaf).member = none → s.pwrState leaf ≠ 2 → x.extractLsb' 0 2 ≠ 2 → ∃ u, exec (.pwrctlApply leaf) s = .next u ∧ s.SameBytes u ∧
    (u.leaf leaf).pwrctl = x ∧ (u.leaf leaf).pwrPend = none) ∧
  (∃ u, exec .thwarn s = .next u ∧ s.SameBytes u ∧ u.thwarnBit = true ∧ Out.msix 0 vecPower ∈ u.out) ∧
  (∃ u, exec .thermalTrip s = .next u ∧ u.powered = false ∧ u.agenda = []) ∧
  (∀ offset, flashWindow ≤ offset → s.minimal = true → s.flashen = true →
    exec (.flashWriteWindow offset x) s = .next { s with flash := s.flash.writeNat (offset - flashWindow) 8 x.toNat }) ∧
  ∀ offset, offset < flashWindow → exec (.flashWriteWindow offset x) s = .fault .noSuchRegister

/-! Decoding, and the step. -/

/-- R82, R84, R102, R104, R106, R114 to R119: words written out from the encoding tables decode to the instructions they stand for,
the worked example of the spec among them. -/
def Obligations.DecodeWords : Prop :=
  decodeSyllable .scalar (0#6 ++ 0#1 ++ 0x001#9 ++ 4#6 ++ 4#6 ++ 6#6 ++ 0#14) = .ok ⟨0, false, .add ⟨4, 4, 6⟩⟩ ∧
  decodeSyllable .scalar (9#6 ++ 1#1 ++ 0x030#9 ++ 7#6 ++ 3#6 ++ 0#4 ++ 0xFFFE#16) = .ok ⟨9, true, .addi ⟨7, 3, 0xFFFE⟩⟩ ∧
  decodeSyllable .vector (5#6 ++ 0#1 ++ 0x011#9 ++ 12#8 ++ 13#8 ++ 14#8 ++ 12#8) = .ok ⟨5, false, .fmaBf16 ⟨12, 13, 14, 12⟩⟩ ∧
  decodeSyllable .vector (0#6 ++ 0#1 ++ 0x020#9 ++ 3#4 ++ 0#4 ++ 100#8 ++ 101#8 ++ 2#4 ++ 1#4) = .ok ⟨0, false, .vcmpeq ⟨3, 100, 101, 2, .fp32⟩⟩ ∧
  decodeSyllable .memory (0#6 ++ 0#1 ++ 0x010#9 ++ 191#8 ++ 20#6 ++ 0#3 ++ 1#4 ++ 0x7F#7 ++ 0xB#4) = .ok ⟨0, false, .gld ⟨191, 20, 1, 0x7F, .s12⟩⟩ ∧
  decodeSyllable .memory (0#6 ++ 0#1 ++ 0x037#9 ++ 1#6 ++ 2#6 ++ 3#6 ++ 4#6 ++ 5#3 ++ 1#2 ++ 0#3) = .ok ⟨0, false, .acas ⟨1, 2, 3, 4, .gang, true⟩⟩ ∧
  decodeSyllable .reduction (0#6 ++ 0#1 ++ 0x004#9 ++ 0#8 ++ 2#2 ++ 11#6 ++ 0#16) = .ok ⟨0, false, .qdrn ⟨2, 11⟩⟩ ∧
  decodeSyllable .engine (0#6 ++ 0#1 ++ 0x002#9 ++ 1#5 ++ 2#5 ++ 3#5 ++ 4#5 ++ 0#6 ++ 0#6) = .ok ⟨0, false, .lswap ⟨1, 2, 3, 4, 0, 0⟩⟩ ∧
  decodeSyllable .branch (0#6 ++ 0#1 ++ 0x020#9 ++ 0#6 ++ 0#6 ++ 0#8 ++ 3#12) = .ok ⟨0, false, .safe ⟨3⟩⟩ ∧
  decodeSyllable .branch (0#6 ++ 0#1 ++ 0x010#9 ++ 8#6 ++ 1#1 ++ 0#4 ++ 0#5 ++ 16#16) = .ok ⟨0, false, .loop ⟨8, true, 16⟩⟩ ∧
  decodeSyllable .branch (0#6 ++ 0#1 ++ 0x001#9 ++ 1#6 ++ 0#2 ++ 0#24) = .error .reservedNonzero ∧
  readUnits false false [0xFFFF, 0x8091, 0x8000, 0x1041, 0x0001, 0x0E0C, 0x0C0D, 0x1411, 0x0003, 0x0000, 0x0020] =
    .literal (0x000110418000#48 ++ 0#96 ++ 0x14110C0D0E0C#48 ++ 0#144 ++ 0x002000000003#48) 11 true

/-- R104, R106, R113 to R119: decoding and encoding agree: every syllable has a word, which decodes to it with every operand, and a word that
decodes is the word of what it decodes to, so that no bit is dropped. -/
def Obligations.DecodeEncode : Prop :=
  (∀ (y : Syllable), y.instr.isSyllable = true → y.instr.wf = true → ∃ w, encodeSyllable y = some w ∧ decodeSyllable y.instr.slot.cls w = .ok y) ∧
  ∀ (c : SlotClass) (w : Syl48) (y : Syllable), decodeSyllable c w = .ok y → y.instr.wf = true ∧ encodeSyllable y = some w

/-- R82 to R84, R94, R102, R103: a step with nothing due, at the turn of a core, runs exec of the one instruction of the bundle at
the pc of the strand that its arbiter chose; the bundle at a pc of the active bank is the dictionary entry that its code unit
names; an event that is due runs first. -/
def Obligations.StepRunsDecoded : Prop := ∀ (s : State),
  (s.powered = true → ∀ e v, s.overdue = some (e, v) → step s = runEv e v) ∧
  (s.powered = true → s.overdue = none → s.turn < 128 →
    let u := { s.arbited s.turn with turn := s.turn + 1 }
    ∀ sl y f, u.canIssue u.cur = true → u.me.refetch = 0 → u.bundleAt u.cur u.me.pc u.me.inRun = .bundle f → f.cause = none →
      decodeSyllable sl.cls (rawSyllable f.raw sl) = .ok y → y.instr ≠ .nop → u.me.rdP y.pred ≠ y.sense →
      (∀ x, x ≠ sl → ∃ z, decodeSyllable x.cls (rawSyllable f.raw x) = .ok z ∧ z.instr = .nop) → step s = exec y.instr { u with slot := sl }) ∧
  ∀ who m, let t := s.strand who
    let base := if t.bank then 65536 else 0
    let n := (s.core (coreOf who)).istore.readNat (base + 2 * t.pc) 2
    t.ibuf = [] → t.view = [] → s.memberOf who = some m → t.super = false → m.flag 2 = false → t.inRun = false → t.pc < m.codeLim → n < 1024 →
    ∃ f, s.bundleAt who t.pc t.inRun = .bundle f ∧ f.cause = none ∧ f.addr = t.pc ∧ f.len = 1 ∧ f.runs = false ∧
      f.raw = BitVec.ofNat 384 ((s.core (coreOf who)).istore.readNat (base + 0x4000 + 48 * n) 48)

/-! The package as a whole. -/

/-- What registers read and what stands empty after reset: R34, R43, R57, R235, R264, R269, R271, R357, R364, R366, R391, R442; a value
that no rule gives is the model's choice (log 2). -/
def Obligations.ResetState : Prop :=
  let s := State.reset
  s.memWf = true ∧ s.isReady = false ∧ s.minimal = false ∧ s.now = 0 ∧ s.agenda = [.authenticate] ∧ (∀ l, (s.leaf l).member = none) ∧ (∀ a, s.hbm.read a = 0) ∧
  (∀ d i, i < 9 → s.readPf (.route d i) = 0x3FF0000) ∧ (∀ d, s.readPf (.route d 9) = 0) ∧ (∀ x, s.readPf (.kbshare x) = 4) ∧ (∀ x, s.readPf (.plcshare x) = 0) ∧
  (∀ n, s.readPf (.rkslot n) = 0) ∧ (∀ g h, s.readPf (.gang g h) = 0) ∧ (∀ l n, s.readPf (.cell l n) = 0) ∧ (∀ n i, s.readPf (.pool n i) = 0) ∧
  (∀ w, s.readPf (.vfallot w) = 0) ∧ s.readPf .hbmwin = 0 ∧ s.readPf .ptstat = 0 ∧ s.readPf .bootctl = 0 ∧
  (∀ v, s.readVf v .ptroot = 0) ∧ (∀ v, s.readVf v .tlbstat = 0) ∧ (∀ v n, s.readVf v (.meter n) = 0) ∧ (∀ v p, s.readVf v (.pweight p) = 1) ∧
  (∀ v q, s.readVf v (.queue q 2) = 0 ∧ s.readVf v (.queue q 3) = 0 ∧ s.readVf v (.queue q 4) = 0 ∧ (s.readVf v (.queue q 1)).getLsbD 0 = false)

/-- Memories stay in canonical form: a step of the package keeps every byte memory, those of saved contexts among them, strictly
rising with no byte listed that reads as unlisted does; so equal memories are equal data. -/
def Obligations.StepKeepsMemoryForm : Prop := ∀ (s t : State), s.memWf = true → step s = .next t → t.memWf = true
end

