-- ==== Sys2Proof/Laws/Map.lean ====
section
/-! SUPPORT. Laws of maps and of memory: a read after a write, and that every memory operation keeps the canonical form. -/

namespace Sys2Proof

/-! Maps. -/

@[simp] theorem FMap.get_nil {β : Type} (k : Nat) (d : β) : FMap.get ([] : FMap β) k d = d := rfl

/-- What is set is found. -/
@[simp] theorem FMap.find_set_same {β : Type} (m : FMap β) (k : Nat) (v : β) : (m.set k v).find? k = some v := by
  induction m with
  | nil => simp [FMap.set, FMap.find?]
  | cons c t ih =>
    obtain ⟨a, b⟩ := c
    simp only [FMap.set]
    split
    · simp [FMap.find?]
    · split
      · simp [FMap.find?]
      · rename_i h1 h2
        have : a ≠ k := fun e => h2 e.symm
        simp [FMap.find?, this, ih]

/-- Setting one key leaves the others. -/
theorem FMap.find_set_other {β : Type} (m : FMap β) {k j : Nat} (v : β) (h : j ≠ k) : (m.set k v).find? j = m.find? j := by
  induction m with
  | nil => simp [FMap.set, FMap.find?, h.symm]
  | cons c t ih =>
    obtain ⟨a, b⟩ := c
    simp only [FMap.set]
    split
    · simp [FMap.find?, h.symm]
    · split
      · rename_i h1 h2
        subst h2
        simp [FMap.find?, h.symm]
      · simp [FMap.find?, ih]

@[simp] theorem FMap.get_set_same {β : Type} (m : FMap β) (k : Nat) (v d : β) : (m.set k v).get k d = v := by
  simp [FMap.get]

theorem FMap.get_set_other {β : Type} (m : FMap β) {k j : Nat} (v d : β) (h : j ≠ k) : (m.set k v).get j d = m.get j d := by
  simp [FMap.get, FMap.find_set_other m v h]

/-- A map read after one write. -/
theorem FMap.get_set {β : Type} (m : FMap β) (k j : Nat) (v d : β) : (m.set k v).get j d = if j = k then v else m.get j d := by
  split
  · subst_vars; simp
  · exact FMap.get_set_other m v d ‹_›

/-! Memory: bytes. -/

/-- A list that rises from a bound has no byte below it. -/
theorem Mem.read_below (m : Mem) (lo k : Nat) (h : Mem.risesFrom lo m = true) (hk : k < lo) : m.read k = 0 := by
  induction m generalizing lo with
  | nil => rfl
  | cons c t ih =>
    obtain ⟨a, b⟩ := c
    simp only [Mem.risesFrom, Bool.and_eq_true, decide_eq_true_eq] at h
    have : a ≠ k := by omega
    simp only [Mem.read, this, if_false]
    exact ih (a + 1) h.2 (by omega)

/-- A byte reads as what was written to it. -/
theorem Mem.read_write_same (m : Mem) (lo k : Nat) (v : Byte) (h : Mem.risesFrom lo m = true) : (m.write k v).read k = v := by
  induction m generalizing lo with
  | nil =>
    by_cases hv : v = 0
    · simp only [Mem.write, hv, if_true, Mem.read]
    · simp only [Mem.write, if_neg hv, Mem.read, if_true]
  | cons c t ih =>
    obtain ⟨a, b⟩ := c
    simp only [Mem.risesFrom, Bool.and_eq_true, decide_eq_true_eq] at h
    simp only [Mem.write]
    split
    · by_cases hv : v = 0
      · simp only [hv, if_true, Mem.read]
        rw [if_neg (by omega)]
        exact Mem.read_below t (a + 1) k h.2 (by omega)
      · simp only [if_neg hv, Mem.read, if_true]
    · split
      · rename_i h1 h2
        by_cases hv : v = 0
        · simp only [hv, if_true]
          exact Mem.read_below t (a + 1) k h.2 (by omega)
        · simp only [if_neg hv, Mem.read, if_true]
      · rename_i h1 h2
        simp only [Mem.read]
        rw [if_neg (fun e => h2 e.symm)]
        exact ih (a + 1) h.2

/-- Writing one byte leaves the others. -/
theorem Mem.read_write_other (m : Mem) {k j : Nat} (v : Byte) (hj : j ≠ k) : (m.write k v).read j = m.read j := by
  induction m with
  | nil =>
    by_cases hv : v = 0
    · simp only [Mem.write, if_pos hv]
    · simp only [Mem.write, if_neg hv, Mem.read, if_neg hj.symm]
  | cons c t ih =>
    obtain ⟨a, b⟩ := c
    simp only [Mem.write]
    split
    · by_cases hv : v = 0
      · simp only [if_pos hv]
      · simp only [if_neg hv, Mem.read, if_neg hj.symm]
    · split
      · rename_i h1 h2
        subst h2
        by_cases hv : v = 0
        · simp only [if_pos hv, Mem.read, if_neg hj.symm]
        · simp only [if_neg hv, Mem.read, if_neg hj.symm]
      · simp only [Mem.read]
        split
        · rfl
        · exact ih

/-! The canonical form. -/

/-- A memory that rises from a bound rises from a lower one. -/
theorem Mem.risesFrom_mono (m : Mem) {lo hi : Nat} (h : Mem.risesFrom hi m = true) (hl : lo ≤ hi) : Mem.risesFrom lo m = true := by
  cases m with
  | nil => rfl
  | cons c t =>
    simp only [Mem.risesFrom, Bool.and_eq_true, decide_eq_true_eq] at h ⊢
    exact ⟨by omega, h.2⟩

/-- A write keeps the rising order. -/
theorem Mem.risesFrom_write (m : Mem) (lo k : Nat) (v : Byte) (h : Mem.risesFrom lo m = true) :
    Mem.risesFrom (min lo k) (m.write k v) = true := by
  induction m generalizing lo with
  | nil =>
    by_cases hv : v = 0
    · simp only [Mem.write, if_pos hv, Mem.risesFrom]
    · simp only [Mem.write, if_neg hv, Mem.risesFrom, Bool.and_true, decide_eq_true_eq]
      omega
  | cons c t ih =>
    obtain ⟨a, b⟩ := c
    simp only [Mem.risesFrom, Bool.and_eq_true, decide_eq_true_eq] at h
    simp only [Mem.write]
    split
    · by_cases hv : v = 0
      · simp only [hv, if_true, Mem.risesFrom, Bool.and_eq_true, decide_eq_true_eq]
        exact ⟨by omega, h.2⟩
      · simp only [hv, if_false, Mem.risesFrom, Bool.and_eq_true, decide_eq_true_eq]
        exact ⟨by omega, by omega, h.2⟩
    · split
      · rename_i h1 h2
        subst h2
        by_cases hv : v = 0
        · simp only [hv, if_true]
          exact Mem.risesFrom_mono t h.2 (by omega)
        · simp only [hv, if_false, Mem.risesFrom, Bool.and_eq_true, decide_eq_true_eq]
          exact ⟨by omega, h.2⟩
      · rename_i h1 h2
        simp only [Mem.risesFrom, Bool.and_eq_true, decide_eq_true_eq]
        refine ⟨by omega, ?_⟩
        have := ih (a + 1) h.2
        rwa [Nat.min_eq_left (by omega)] at this

/-- A write lists no 0. -/
theorem Mem.nonzero_write (m : Mem) (k : Nat) (v : Byte) (h : m.all (fun c => c.2 != 0) = true) :
    (m.write k v).all (fun c => c.2 != 0) = true := by
  induction m with
  | nil =>
    by_cases hv : v = 0
    · simp only [Mem.write, if_pos hv, List.all_nil]
    · simp only [Mem.write, if_neg hv, List.all_cons, List.all_nil, Bool.and_true]
      simpa using hv
  | cons c t ih =>
    obtain ⟨a, b⟩ := c
    simp only [List.all_cons, Bool.and_eq_true] at h
    simp only [Mem.write]
    split
    · by_cases hv : v = 0
      · simp only [hv, if_true, List.all_cons, Bool.and_eq_true]
        exact h
      · simp only [hv, if_false, List.all_cons, Bool.and_eq_true]
        exact ⟨by simpa using hv, h⟩
    · split
      · by_cases hv : v = 0
        · simpa only [hv, if_true] using h.2
        · simp only [hv, if_false, List.all_cons, Bool.and_eq_true]
          exact ⟨by simpa using hv, h.2⟩
      · simp only [List.all_cons, Bool.and_eq_true]
        exact ⟨h.1, ih h.2⟩

/-- A write keeps the canonical form. -/
theorem Mem.wf_write (m : Mem) (k : Nat) (v : Byte) (h : m.wf = true) : (m.write k v).wf = true := by
  simp only [Mem.wf, Bool.and_eq_true] at h ⊢
  exact ⟨Mem.risesFrom_mono _ (Mem.risesFrom_write m 0 k v h.1) (by omega), Mem.nonzero_write m k v h.2⟩

@[simp] theorem Mem.wf_nil : Mem.wf [] = true := rfl

/-- Writing a number keeps the canonical form. -/
theorem Mem.wf_writeNat (m : Mem) (a n v : Nat) (h : m.wf = true) : (m.writeNat a n v).wf = true := by
  induction n generalizing m a v with
  | zero => exact h
  | succ n ih => exact ih _ _ _ (Mem.wf_write m a _ h)

/-- Writing a number under a mask of bytes keeps the canonical form. -/
theorem Mem.wf_writeMasked (m : Mem) (a n v k : Nat) (h : m.wf = true) : (m.writeMasked a n v k).wf = true := by
  induction n generalizing m a v k with
  | zero => exact h
  | succ n ih =>
    simp only [Mem.writeMasked]
    apply ih
    split
    · exact Mem.wf_write m a _ h
    · exact h

/-- Scattered writes keep the canonical form. -/
theorem Mem.wf_scatter (m : Mem) (a : Nat → Nat) (data mask n : Nat) (h : m.wf = true) : (m.scatter a data mask n).wf = true := by
  induction n with
  | zero => exact h
  | succ n ih =>
    simp only [Mem.scatter]
    split
    · exact ih
    · exact Mem.wf_write _ _ _ ih

/-- Unlisting some cells keeps the rising order. -/
theorem Mem.risesFrom_filter (m : Mem) (lo : Nat) (p : Host.Cell → Bool) (h : Mem.risesFrom lo m = true) :
    Mem.risesFrom lo (m.filter p) = true := by
  induction m generalizing lo with
  | nil => rfl
  | cons c t ih =>
    obtain ⟨a, b⟩ := c
    simp only [Mem.risesFrom, Bool.and_eq_true, decide_eq_true_eq] at h
    by_cases hp : p (a, b) = true
    · simp only [List.filter_cons, hp, if_true, Mem.risesFrom, Bool.and_eq_true, decide_eq_true_eq]
      exact ⟨h.1, ih _ h.2⟩
    · simp only [List.filter_cons, hp]
      exact Mem.risesFrom_mono _ (ih _ h.2) (by omega)

/-- Clearing a range keeps the canonical form. -/
theorem Mem.wf_clear (m : Mem) (a n : Nat) (h : m.wf = true) : (m.clear a n).wf = true := by
  simp only [Mem.wf, Bool.and_eq_true] at h ⊢
  refine ⟨Mem.risesFrom_filter m 0 _ h.1, ?_⟩
  rw [List.all_eq_true] at h ⊢
  intro c hc
  exact h.2 c (List.mem_filter.mp hc).1

/-- A byte of a canonical memory after a write. -/
theorem Mem.read_write (m : Mem) (k j : Nat) (v : Byte) (h : m.wf = true) :
    (m.write k v).read j = if j = k then v else m.read j := by
  simp only [Mem.wf, Bool.and_eq_true] at h
  split
  · rename_i e; rw [e]; exact Mem.read_write_same m 0 k v h.1
  · exact Mem.read_write_other m v ‹_›

/-- Bytes outside a written number stay. -/
theorem Mem.read_writeNat_out (m : Mem) (a n v j : Nat) (hj : j < a ∨ a + n ≤ j) : (m.writeNat a n v).read j = m.read j := by
  induction n generalizing m a v with
  | zero => rfl
  | succ n ih =>
    simp only [Mem.writeNat]
    rw [ih _ _ _ (by omega), Mem.read_write_other m _ (by omega)]

/-- Bytes of a written number. -/
theorem Mem.read_writeNat_in (m : Mem) (a n v i : Nat) (h : m.wf = true) (hi : i < n) :
    (m.writeNat a n v).read (a + i) = BitVec.ofNat 8 (v / 256 ^ i) := by
  induction n generalizing m a v i with
  | zero => omega
  | succ n ih =>
    simp only [Mem.writeNat]
    cases i with
    | zero =>
      rw [Mem.read_writeNat_out _ _ _ _ _ (by omega)]
      simp only [Nat.add_zero]
      rw [Mem.read_write m a a _ h]
      simp
    | succ i =>
      have := ih (m.write a (BitVec.ofNat 8 v)) (a + 1) (v / 256) i (Mem.wf_write m a _ h) (by omega)
      rw [show a + (i + 1) = a + 1 + i by omega, this, Nat.pow_succ, Nat.div_div_eq_div_mul, Nat.mul_comm]

/-- A byte that no byte of a scatter addresses stays. -/
theorem Mem.read_scatter_out (m : Mem) (a : Nat → Nat) (data mask n j : Nat) (hj : ∀ i < n, a i ≠ j) :
    (m.scatter a data mask n).read j = m.read j := by
  induction n with
  | zero => rfl
  | succ n ih =>
    simp only [Mem.scatter]
    split
    · exact ih fun i hi => hj i (by omega)
    · rw [Mem.read_write_other _ _ (fun e => hj n (by omega) e.symm)]
      exact ih fun i hi => hj i (by omega)

end Sys2Proof
end

