-- ==== Sys2Proof/Laws/State.lean ====
section
/-! SUPPORT. Laws of the state: each field after each update of the state, and of a strand, a core or a function. -/

namespace Sys2Proof.Machine

/-! A strand replaced. -/

@[simp] theorem State.setStrand_cur (s : State) (w : Nat) (x : Strand) : (s.setStrand w x).cur = s.cur := rfl
@[simp] theorem State.setStrand_slot (s : State) (w : Nat) (x : Strand) : (s.setStrand w x).slot = s.slot := rfl
@[simp] theorem State.setStrand_cores (s : State) (w : Nat) (x : Strand) : (s.setStrand w x).cores = s.cores := rfl
@[simp] theorem State.setStrand_leaves (s : State) (w : Nat) (x : Strand) : (s.setStrand w x).leaves = s.leaves := rfl
@[simp] theorem State.setStrand_vfs (s : State) (w : Nat) (x : Strand) : (s.setStrand w x).vfs = s.vfs := rfl
@[simp] theorem State.setStrand_queues (s : State) (w : Nat) (x : Strand) : (s.setStrand w x).queues = s.queues := rfl
@[simp] theorem State.setStrand_hbm (s : State) (w : Nat) (x : Strand) : (s.setStrand w x).hbm = s.hbm := rfl
@[simp] theorem State.setStrand_hbmKeys (s : State) (w : Nat) (x : Strand) : (s.setStrand w x).hbmKeys = s.hbmKeys := rfl
@[simp] theorem State.setStrand_host (s : State) (w : Nat) (x : Strand) : (s.setStrand w x).host = s.host := rfl
@[simp] theorem State.setStrand_pool (s : State) (w : Nat) (x : Strand) : (s.setStrand w x).pool = s.pool := rfl
@[simp] theorem State.setStrand_contexts (s : State) (w : Nat) (x : Strand) : (s.setStrand w x).contexts = s.contexts := rfl
@[simp] theorem State.setStrand_gangs (s : State) (w : Nat) (x : Strand) : (s.setStrand w x).gangs = s.gangs := rfl
@[simp] theorem State.setStrand_gangsWritten (s : State) (w : Nat) (x : Strand) : (s.setStrand w x).gangsWritten = s.gangsWritten := rfl
@[simp] theorem State.setStrand_faultedGangs (s : State) (w : Nat) (x : Strand) : (s.setStrand w x).faultedGangs = s.faultedGangs := rfl
@[simp] theorem State.setStrand_allot (s : State) (w : Nat) (x : Strand) : (s.setStrand w x).allot = s.allot := rfl
@[simp] theorem State.setStrand_routes (s : State) (w : Nat) (x : Strand) : (s.setStrand w x).routes = s.routes := rfl
@[simp] theorem State.setStrand_kbshare (s : State) (w : Nat) (x : Strand) : (s.setStrand w x).kbshare = s.kbshare := rfl
@[simp] theorem State.setStrand_plcshare (s : State) (w : Nat) (x : Strand) : (s.setStrand w x).plcshare = s.plcshare := rfl
@[simp] theorem State.setStrand_rkslots (s : State) (w : Nat) (x : Strand) : (s.setStrand w x).rkslots = s.rkslots := rfl
@[simp] theorem State.setStrand_poolRegions (s : State) (w : Nat) (x : Strand) : (s.setStrand w x).poolRegions = s.poolRegions := rfl
@[simp] theorem State.setStrand_poolLines (s : State) (w : Nat) (x : Strand) : (s.setStrand w x).poolLines = s.poolLines := rfl
@[simp] theorem State.setStrand_slotWas (s : State) (w : Nat) (x : Strand) : (s.setStrand w x).slotWas = s.slotWas := rfl
@[simp] theorem State.setStrand_slotView (s : State) (w : Nat) (x : Strand) : (s.setStrand w x).slotView = s.slotView := rfl
@[simp] theorem State.setStrand_poolClear (s : State) (w : Nat) (x : Strand) : (s.setStrand w x).poolClear = s.poolClear := rfl
@[simp] theorem State.setStrand_spares (s : State) (w : Nat) (x : Strand) : (s.setStrand w x).spares = s.spares := rfl
@[simp] theorem State.setStrand_poolBad (s : State) (w : Nat) (x : Strand) : (s.setStrand w x).poolBad = s.poolBad := rfl
@[simp] theorem State.setStrand_trees (s : State) (w : Nat) (x : Strand) : (s.setStrand w x).trees = s.trees := rfl
@[simp] theorem State.setStrand_nodes (s : State) (w : Nat) (x : Strand) : (s.setStrand w x).nodes = s.nodes := rfl
@[simp] theorem State.setStrand_routerGangs (s : State) (w : Nat) (x : Strand) : (s.setStrand w x).routerGangs = s.routerGangs := rfl
@[simp] theorem State.setStrand_links (s : State) (w : Nat) (x : Strand) : (s.setStrand w x).links = s.links := rfl
@[simp] theorem State.setStrand_linkTry (s : State) (w : Nat) (x : Strand) : (s.setStrand w x).linkTry = s.linkTry := rfl
@[simp] theorem State.setStrand_portWait (s : State) (w : Nat) (x : Strand) : (s.setStrand w x).portWait = s.portWait := rfl
@[simp] theorem State.setStrand_pkg (s : State) (w : Nat) (x : Strand) : (s.setStrand w x).pkg = s.pkg := rfl
@[simp] theorem State.setStrand_leafOk (s : State) (w : Nat) (x : Strand) : (s.setStrand w x).leafOk = s.leafOk := rfl
@[simp] theorem State.setStrand_minimal (s : State) (w : Nat) (x : Strand) : (s.setStrand w x).minimal = s.minimal := rfl
@[simp] theorem State.setStrand_starts (s : State) (w : Nat) (x : Strand) : (s.setStrand w x).starts = s.starts := rfl
@[simp] theorem State.setStrand_isReady (s : State) (w : Nat) (x : Strand) : (s.setStrand w x).isReady = s.isReady := rfl
@[simp] theorem State.setStrand_bootCause (s : State) (w : Nat) (x : Strand) : (s.setStrand w x).bootCause = s.bootCause := rfl
@[simp] theorem State.setStrand_fwver (s : State) (w : Nat) (x : Strand) : (s.setStrand w x).fwver = s.fwver := rfl
@[simp] theorem State.setStrand_flashen (s : State) (w : Nat) (x : Strand) : (s.setStrand w x).flashen = s.flashen := rfl
@[simp] theorem State.setStrand_flash (s : State) (w : Nat) (x : Strand) : (s.setStrand w x).flash = s.flash := rfl
@[simp] theorem State.setStrand_powered (s : State) (w : Nat) (x : Strand) : (s.setStrand w x).powered = s.powered := rfl
@[simp] theorem State.setStrand_starting (s : State) (w : Nat) (x : Strand) : (s.setStrand w x).starting = s.starting := rfl
@[simp] theorem State.setStrand_startAt (s : State) (w : Nat) (x : Strand) : (s.setStrand w x).startAt = s.startAt := rfl
@[simp] theorem State.setStrand_mpDown (s : State) (w : Nat) (x : Strand) : (s.setStrand w x).mpDown = s.mpDown := rfl
@[simp] theorem State.setStrand_mpNext (s : State) (w : Nat) (x : Strand) : (s.setStrand w x).mpNext = s.mpNext := rfl
@[simp] theorem State.setStrand_watts (s : State) (w : Nat) (x : Strand) : (s.setStrand w x).watts = s.watts := rfl
@[simp] theorem State.setStrand_tj (s : State) (w : Nat) (x : Strand) : (s.setStrand w x).tj = s.tj := rfl
@[simp] theorem State.setStrand_thwarnBit (s : State) (w : Nat) (x : Strand) : (s.setStrand w x).thwarnBit = s.thwarnBit := rfl
@[simp] theorem State.setStrand_linkerr (s : State) (w : Nat) (x : Strand) : (s.setStrand w x).linkerr = s.linkerr := rfl
@[simp] theorem State.setStrand_routerAsks (s : State) (w : Nat) (x : Strand) : (s.setStrand w x).routerAsks = s.routerAsks := rfl
@[simp] theorem State.setStrand_routerTxn (s : State) (w : Nat) (x : Strand) : (s.setStrand w x).routerTxn = s.routerTxn := rfl
@[simp] theorem State.setStrand_linktr (s : State) (w : Nat) (x : Strand) : (s.setStrand w x).linktr = s.linktr := rfl
@[simp] theorem State.setStrand_mphb (s : State) (w : Nat) (x : Strand) : (s.setStrand w x).mphb = s.mphb := rfl
@[simp] theorem State.setStrand_hbmwin (s : State) (w : Nat) (x : Strand) : (s.setStrand w x).hbmwin = s.hbmwin := rfl
@[simp] theorem State.setStrand_ptcfg (s : State) (w : Nat) (x : Strand) : (s.setStrand w x).ptcfg = s.ptcfg := rfl
@[simp] theorem State.setStrand_lock (s : State) (w : Nat) (x : Strand) : (s.setStrand w x).lock = s.lock := rfl
@[simp] theorem State.setStrand_unlocked (s : State) (w : Nat) (x : Strand) : (s.setStrand w x).unlocked = s.unlocked := rfl
@[simp] theorem State.setStrand_offset (s : State) (w : Nat) (x : Strand) : (s.setStrand w x).offset = s.offset := rfl
@[simp] theorem State.setStrand_goodSyncs (s : State) (w : Nat) (x : Strand) : (s.setStrand w x).goodSyncs = s.goodSyncs := rfl
@[simp] theorem State.setStrand_syncAt (s : State) (w : Nat) (x : Strand) : (s.setStrand w x).syncAt = s.syncAt := rfl
@[simp] theorem State.setStrand_syncNext (s : State) (w : Nat) (x : Strand) : (s.setStrand w x).syncNext = s.syncNext := rfl
@[simp] theorem State.setStrand_pdelayT1 (s : State) (w : Nat) (x : Strand) : (s.setStrand w x).pdelayT1 = s.pdelayT1 := rfl
@[simp] theorem State.setStrand_pdelayT2 (s : State) (w : Nat) (x : Strand) : (s.setStrand w x).pdelayT2 = s.pdelayT2 := rfl
@[simp] theorem State.setStrand_pdelayT4 (s : State) (w : Nat) (x : Strand) : (s.setStrand w x).pdelayT4 = s.pdelayT4 := rfl
@[simp] theorem State.setStrand_linkDelay (s : State) (w : Nat) (x : Strand) : (s.setStrand w x).linkDelay = s.linkDelay := rfl
@[simp] theorem State.setStrand_slew (s : State) (w : Nat) (x : Strand) : (s.setStrand w x).slew = s.slew := rfl
@[simp] theorem State.setStrand_spdm (s : State) (w : Nat) (x : Strand) : (s.setStrand w x).spdm = s.spdm := rfl
@[simp] theorem State.setStrand_now (s : State) (w : Nat) (x : Strand) : (s.setStrand w x).now = s.now := rfl
@[simp] theorem State.setStrand_nowFrac (s : State) (w : Nat) (x : Strand) : (s.setStrand w x).nowFrac = s.nowFrac := rfl
@[simp] theorem State.setStrand_clk (s : State) (w : Nat) (x : Strand) : (s.setStrand w x).clk = s.clk := rfl
@[simp] theorem State.setStrand_turn (s : State) (w : Nat) (x : Strand) : (s.setStrand w x).turn = s.turn := rfl
@[simp] theorem State.setStrand_agenda (s : State) (w : Nat) (x : Strand) : (s.setStrand w x).agenda = s.agenda := rfl
@[simp] theorem State.setStrand_inbox (s : State) (w : Nat) (x : Strand) : (s.setStrand w x).inbox = s.inbox := rfl
@[simp] theorem State.setStrand_timers (s : State) (w : Nat) (x : Strand) : (s.setStrand w x).timers = s.timers := rfl
@[simp] theorem State.setStrand_out (s : State) (w : Nat) (x : Strand) : (s.setStrand w x).out = s.out := rfl
@[simp] theorem State.setStrand_freeCount (s : State) (w : Nat) (x : Strand) : (s.setStrand w x).freeCount = s.freeCount := rfl

/-! A core replaced. -/

@[simp] theorem State.setCore_cur (s : State) (c : Nat) (x : Core) : (s.setCore c x).cur = s.cur := rfl
@[simp] theorem State.setCore_slot (s : State) (c : Nat) (x : Core) : (s.setCore c x).slot = s.slot := rfl
@[simp] theorem State.setCore_strands (s : State) (c : Nat) (x : Core) : (s.setCore c x).strands = s.strands := rfl
@[simp] theorem State.setCore_leaves (s : State) (c : Nat) (x : Core) : (s.setCore c x).leaves = s.leaves := rfl
@[simp] theorem State.setCore_vfs (s : State) (c : Nat) (x : Core) : (s.setCore c x).vfs = s.vfs := rfl
@[simp] theorem State.setCore_queues (s : State) (c : Nat) (x : Core) : (s.setCore c x).queues = s.queues := rfl
@[simp] theorem State.setCore_hbm (s : State) (c : Nat) (x : Core) : (s.setCore c x).hbm = s.hbm := rfl
@[simp] theorem State.setCore_hbmKeys (s : State) (c : Nat) (x : Core) : (s.setCore c x).hbmKeys = s.hbmKeys := rfl
@[simp] theorem State.setCore_host (s : State) (c : Nat) (x : Core) : (s.setCore c x).host = s.host := rfl
@[simp] theorem State.setCore_pool (s : State) (c : Nat) (x : Core) : (s.setCore c x).pool = s.pool := rfl
@[simp] theorem State.setCore_contexts (s : State) (c : Nat) (x : Core) : (s.setCore c x).contexts = s.contexts := rfl
@[simp] theorem State.setCore_gangs (s : State) (c : Nat) (x : Core) : (s.setCore c x).gangs = s.gangs := rfl
@[simp] theorem State.setCore_gangsWritten (s : State) (c : Nat) (x : Core) : (s.setCore c x).gangsWritten = s.gangsWritten := rfl
@[simp] theorem State.setCore_faultedGangs (s : State) (c : Nat) (x : Core) : (s.setCore c x).faultedGangs = s.faultedGangs := rfl
@[simp] theorem State.setCore_allot (s : State) (c : Nat) (x : Core) : (s.setCore c x).allot = s.allot := rfl
@[simp] theorem State.setCore_routes (s : State) (c : Nat) (x : Core) : (s.setCore c x).routes = s.routes := rfl
@[simp] theorem State.setCore_kbshare (s : State) (c : Nat) (x : Core) : (s.setCore c x).kbshare = s.kbshare := rfl
@[simp] theorem State.setCore_plcshare (s : State) (c : Nat) (x : Core) : (s.setCore c x).plcshare = s.plcshare := rfl
@[simp] theorem State.setCore_rkslots (s : State) (c : Nat) (x : Core) : (s.setCore c x).rkslots = s.rkslots := rfl
@[simp] theorem State.setCore_poolRegions (s : State) (c : Nat) (x : Core) : (s.setCore c x).poolRegions = s.poolRegions := rfl
@[simp] theorem State.setCore_poolLines (s : State) (c : Nat) (x : Core) : (s.setCore c x).poolLines = s.poolLines := rfl
@[simp] theorem State.setCore_slotWas (s : State) (c : Nat) (x : Core) : (s.setCore c x).slotWas = s.slotWas := rfl
@[simp] theorem State.setCore_slotView (s : State) (c : Nat) (x : Core) : (s.setCore c x).slotView = s.slotView := rfl
@[simp] theorem State.setCore_poolClear (s : State) (c : Nat) (x : Core) : (s.setCore c x).poolClear = s.poolClear := rfl
@[simp] theorem State.setCore_spares (s : State) (c : Nat) (x : Core) : (s.setCore c x).spares = s.spares := rfl
@[simp] theorem State.setCore_poolBad (s : State) (c : Nat) (x : Core) : (s.setCore c x).poolBad = s.poolBad := rfl
@[simp] theorem State.setCore_trees (s : State) (c : Nat) (x : Core) : (s.setCore c x).trees = s.trees := rfl
@[simp] theorem State.setCore_nodes (s : State) (c : Nat) (x : Core) : (s.setCore c x).nodes = s.nodes := rfl
@[simp] theorem State.setCore_routerGangs (s : State) (c : Nat) (x : Core) : (s.setCore c x).routerGangs = s.routerGangs := rfl
@[simp] theorem State.setCore_links (s : State) (c : Nat) (x : Core) : (s.setCore c x).links = s.links := rfl
@[simp] theorem State.setCore_linkTry (s : State) (c : Nat) (x : Core) : (s.setCore c x).linkTry = s.linkTry := rfl
@[simp] theorem State.setCore_portWait (s : State) (c : Nat) (x : Core) : (s.setCore c x).portWait = s.portWait := rfl
@[simp] theorem State.setCore_pkg (s : State) (c : Nat) (x : Core) : (s.setCore c x).pkg = s.pkg := rfl
@[simp] theorem State.setCore_leafOk (s : State) (c : Nat) (x : Core) : (s.setCore c x).leafOk = s.leafOk := rfl
@[simp] theorem State.setCore_minimal (s : State) (c : Nat) (x : Core) : (s.setCore c x).minimal = s.minimal := rfl
@[simp] theorem State.setCore_starts (s : State) (c : Nat) (x : Core) : (s.setCore c x).starts = s.starts := rfl
@[simp] theorem State.setCore_isReady (s : State) (c : Nat) (x : Core) : (s.setCore c x).isReady = s.isReady := rfl
@[simp] theorem State.setCore_bootCause (s : State) (c : Nat) (x : Core) : (s.setCore c x).bootCause = s.bootCause := rfl
@[simp] theorem State.setCore_fwver (s : State) (c : Nat) (x : Core) : (s.setCore c x).fwver = s.fwver := rfl
@[simp] theorem State.setCore_flashen (s : State) (c : Nat) (x : Core) : (s.setCore c x).flashen = s.flashen := rfl
@[simp] theorem State.setCore_flash (s : State) (c : Nat) (x : Core) : (s.setCore c x).flash = s.flash := rfl
@[simp] theorem State.setCore_powered (s : State) (c : Nat) (x : Core) : (s.setCore c x).powered = s.powered := rfl
@[simp] theorem State.setCore_starting (s : State) (c : Nat) (x : Core) : (s.setCore c x).starting = s.starting := rfl
@[simp] theorem State.setCore_startAt (s : State) (c : Nat) (x : Core) : (s.setCore c x).startAt = s.startAt := rfl
@[simp] theorem State.setCore_mpDown (s : State) (c : Nat) (x : Core) : (s.setCore c x).mpDown = s.mpDown := rfl
@[simp] theorem State.setCore_mpNext (s : State) (c : Nat) (x : Core) : (s.setCore c x).mpNext = s.mpNext := rfl
@[simp] theorem State.setCore_watts (s : State) (c : Nat) (x : Core) : (s.setCore c x).watts = s.watts := rfl
@[simp] theorem State.setCore_tj (s : State) (c : Nat) (x : Core) : (s.setCore c x).tj = s.tj := rfl
@[simp] theorem State.setCore_thwarnBit (s : State) (c : Nat) (x : Core) : (s.setCore c x).thwarnBit = s.thwarnBit := rfl
@[simp] theorem State.setCore_linkerr (s : State) (c : Nat) (x : Core) : (s.setCore c x).linkerr = s.linkerr := rfl
@[simp] theorem State.setCore_routerAsks (s : State) (c : Nat) (x : Core) : (s.setCore c x).routerAsks = s.routerAsks := rfl
@[simp] theorem State.setCore_routerTxn (s : State) (c : Nat) (x : Core) : (s.setCore c x).routerTxn = s.routerTxn := rfl
@[simp] theorem State.setCore_linktr (s : State) (c : Nat) (x : Core) : (s.setCore c x).linktr = s.linktr := rfl
@[simp] theorem State.setCore_mphb (s : State) (c : Nat) (x : Core) : (s.setCore c x).mphb = s.mphb := rfl
@[simp] theorem State.setCore_hbmwin (s : State) (c : Nat) (x : Core) : (s.setCore c x).hbmwin = s.hbmwin := rfl
@[simp] theorem State.setCore_ptcfg (s : State) (c : Nat) (x : Core) : (s.setCore c x).ptcfg = s.ptcfg := rfl
@[simp] theorem State.setCore_lock (s : State) (c : Nat) (x : Core) : (s.setCore c x).lock = s.lock := rfl
@[simp] theorem State.setCore_unlocked (s : State) (c : Nat) (x : Core) : (s.setCore c x).unlocked = s.unlocked := rfl
@[simp] theorem State.setCore_offset (s : State) (c : Nat) (x : Core) : (s.setCore c x).offset = s.offset := rfl
@[simp] theorem State.setCore_goodSyncs (s : State) (c : Nat) (x : Core) : (s.setCore c x).goodSyncs = s.goodSyncs := rfl
@[simp] theorem State.setCore_syncAt (s : State) (c : Nat) (x : Core) : (s.setCore c x).syncAt = s.syncAt := rfl
@[simp] theorem State.setCore_syncNext (s : State) (c : Nat) (x : Core) : (s.setCore c x).syncNext = s.syncNext := rfl
@[simp] theorem State.setCore_pdelayT1 (s : State) (c : Nat) (x : Core) : (s.setCore c x).pdelayT1 = s.pdelayT1 := rfl
@[simp] theorem State.setCore_pdelayT2 (s : State) (c : Nat) (x : Core) : (s.setCore c x).pdelayT2 = s.pdelayT2 := rfl
@[simp] theorem State.setCore_pdelayT4 (s : State) (c : Nat) (x : Core) : (s.setCore c x).pdelayT4 = s.pdelayT4 := rfl
@[simp] theorem State.setCore_linkDelay (s : State) (c : Nat) (x : Core) : (s.setCore c x).linkDelay = s.linkDelay := rfl
@[simp] theorem State.setCore_slew (s : State) (c : Nat) (x : Core) : (s.setCore c x).slew = s.slew := rfl
@[simp] theorem State.setCore_spdm (s : State) (c : Nat) (x : Core) : (s.setCore c x).spdm = s.spdm := rfl
@[simp] theorem State.setCore_now (s : State) (c : Nat) (x : Core) : (s.setCore c x).now = s.now := rfl
@[simp] theorem State.setCore_nowFrac (s : State) (c : Nat) (x : Core) : (s.setCore c x).nowFrac = s.nowFrac := rfl
@[simp] theorem State.setCore_clk (s : State) (c : Nat) (x : Core) : (s.setCore c x).clk = s.clk := rfl
@[simp] theorem State.setCore_turn (s : State) (c : Nat) (x : Core) : (s.setCore c x).turn = s.turn := rfl
@[simp] theorem State.setCore_agenda (s : State) (c : Nat) (x : Core) : (s.setCore c x).agenda = s.agenda := rfl
@[simp] theorem State.setCore_inbox (s : State) (c : Nat) (x : Core) : (s.setCore c x).inbox = s.inbox := rfl
@[simp] theorem State.setCore_timers (s : State) (c : Nat) (x : Core) : (s.setCore c x).timers = s.timers := rfl
@[simp] theorem State.setCore_out (s : State) (c : Nat) (x : Core) : (s.setCore c x).out = s.out := rfl
@[simp] theorem State.setCore_freeCount (s : State) (c : Nat) (x : Core) : (s.setCore c x).freeCount = s.freeCount := rfl

/-! A leaf replaced. -/

@[simp] theorem State.setLeaf_cur (s : State) (l : Nat) (x : Leaf) : (s.setLeaf l x).cur = s.cur := rfl
@[simp] theorem State.setLeaf_slot (s : State) (l : Nat) (x : Leaf) : (s.setLeaf l x).slot = s.slot := rfl
@[simp] theorem State.setLeaf_strands (s : State) (l : Nat) (x : Leaf) : (s.setLeaf l x).strands = s.strands := rfl
@[simp] theorem State.setLeaf_cores (s : State) (l : Nat) (x : Leaf) : (s.setLeaf l x).cores = s.cores := rfl
@[simp] theorem State.setLeaf_vfs (s : State) (l : Nat) (x : Leaf) : (s.setLeaf l x).vfs = s.vfs := rfl
@[simp] theorem State.setLeaf_queues (s : State) (l : Nat) (x : Leaf) : (s.setLeaf l x).queues = s.queues := rfl
@[simp] theorem State.setLeaf_hbm (s : State) (l : Nat) (x : Leaf) : (s.setLeaf l x).hbm = s.hbm := rfl
@[simp] theorem State.setLeaf_hbmKeys (s : State) (l : Nat) (x : Leaf) : (s.setLeaf l x).hbmKeys = s.hbmKeys := rfl
@[simp] theorem State.setLeaf_host (s : State) (l : Nat) (x : Leaf) : (s.setLeaf l x).host = s.host := rfl
@[simp] theorem State.setLeaf_pool (s : State) (l : Nat) (x : Leaf) : (s.setLeaf l x).pool = s.pool := rfl
@[simp] theorem State.setLeaf_contexts (s : State) (l : Nat) (x : Leaf) : (s.setLeaf l x).contexts = s.contexts := rfl
@[simp] theorem State.setLeaf_gangs (s : State) (l : Nat) (x : Leaf) : (s.setLeaf l x).gangs = s.gangs := rfl
@[simp] theorem State.setLeaf_gangsWritten (s : State) (l : Nat) (x : Leaf) : (s.setLeaf l x).gangsWritten = s.gangsWritten := rfl
@[simp] theorem State.setLeaf_faultedGangs (s : State) (l : Nat) (x : Leaf) : (s.setLeaf l x).faultedGangs = s.faultedGangs := rfl
@[simp] theorem State.setLeaf_allot (s : State) (l : Nat) (x : Leaf) : (s.setLeaf l x).allot = s.allot := rfl
@[simp] theorem State.setLeaf_routes (s : State) (l : Nat) (x : Leaf) : (s.setLeaf l x).routes = s.routes := rfl
@[simp] theorem State.setLeaf_kbshare (s : State) (l : Nat) (x : Leaf) : (s.setLeaf l x).kbshare = s.kbshare := rfl
@[simp] theorem State.setLeaf_plcshare (s : State) (l : Nat) (x : Leaf) : (s.setLeaf l x).plcshare = s.plcshare := rfl
@[simp] theorem State.setLeaf_rkslots (s : State) (l : Nat) (x : Leaf) : (s.setLeaf l x).rkslots = s.rkslots := rfl
@[simp] theorem State.setLeaf_poolRegions (s : State) (l : Nat) (x : Leaf) : (s.setLeaf l x).poolRegions = s.poolRegions := rfl
@[simp] theorem State.setLeaf_poolLines (s : State) (l : Nat) (x : Leaf) : (s.setLeaf l x).poolLines = s.poolLines := rfl
@[simp] theorem State.setLeaf_slotWas (s : State) (l : Nat) (x : Leaf) : (s.setLeaf l x).slotWas = s.slotWas := rfl
@[simp] theorem State.setLeaf_slotView (s : State) (l : Nat) (x : Leaf) : (s.setLeaf l x).slotView = s.slotView := rfl
@[simp] theorem State.setLeaf_poolClear (s : State) (l : Nat) (x : Leaf) : (s.setLeaf l x).poolClear = s.poolClear := rfl
@[simp] theorem State.setLeaf_spares (s : State) (l : Nat) (x : Leaf) : (s.setLeaf l x).spares = s.spares := rfl
@[simp] theorem State.setLeaf_poolBad (s : State) (l : Nat) (x : Leaf) : (s.setLeaf l x).poolBad = s.poolBad := rfl
@[simp] theorem State.setLeaf_trees (s : State) (l : Nat) (x : Leaf) : (s.setLeaf l x).trees = s.trees := rfl
@[simp] theorem State.setLeaf_nodes (s : State) (l : Nat) (x : Leaf) : (s.setLeaf l x).nodes = s.nodes := rfl
@[simp] theorem State.setLeaf_routerGangs (s : State) (l : Nat) (x : Leaf) : (s.setLeaf l x).routerGangs = s.routerGangs := rfl
@[simp] theorem State.setLeaf_links (s : State) (l : Nat) (x : Leaf) : (s.setLeaf l x).links = s.links := rfl
@[simp] theorem State.setLeaf_linkTry (s : State) (l : Nat) (x : Leaf) : (s.setLeaf l x).linkTry = s.linkTry := rfl
@[simp] theorem State.setLeaf_portWait (s : State) (l : Nat) (x : Leaf) : (s.setLeaf l x).portWait = s.portWait := rfl
@[simp] theorem State.setLeaf_pkg (s : State) (l : Nat) (x : Leaf) : (s.setLeaf l x).pkg = s.pkg := rfl
@[simp] theorem State.setLeaf_leafOk (s : State) (l : Nat) (x : Leaf) : (s.setLeaf l x).leafOk = s.leafOk := rfl
@[simp] theorem State.setLeaf_minimal (s : State) (l : Nat) (x : Leaf) : (s.setLeaf l x).minimal = s.minimal := rfl
@[simp] theorem State.setLeaf_starts (s : State) (l : Nat) (x : Leaf) : (s.setLeaf l x).starts = s.starts := rfl
@[simp] theorem State.setLeaf_isReady (s : State) (l : Nat) (x : Leaf) : (s.setLeaf l x).isReady = s.isReady := rfl
@[simp] theorem State.setLeaf_bootCause (s : State) (l : Nat) (x : Leaf) : (s.setLeaf l x).bootCause = s.bootCause := rfl
@[simp] theorem State.setLeaf_fwver (s : State) (l : Nat) (x : Leaf) : (s.setLeaf l x).fwver = s.fwver := rfl
@[simp] theorem State.setLeaf_flashen (s : State) (l : Nat) (x : Leaf) : (s.setLeaf l x).flashen = s.flashen := rfl
@[simp] theorem State.setLeaf_flash (s : State) (l : Nat) (x : Leaf) : (s.setLeaf l x).flash = s.flash := rfl
@[simp] theorem State.setLeaf_powered (s : State) (l : Nat) (x : Leaf) : (s.setLeaf l x).powered = s.powered := rfl
@[simp] theorem State.setLeaf_starting (s : State) (l : Nat) (x : Leaf) : (s.setLeaf l x).starting = s.starting := rfl
@[simp] theorem State.setLeaf_startAt (s : State) (l : Nat) (x : Leaf) : (s.setLeaf l x).startAt = s.startAt := rfl
@[simp] theorem State.setLeaf_mpDown (s : State) (l : Nat) (x : Leaf) : (s.setLeaf l x).mpDown = s.mpDown := rfl
@[simp] theorem State.setLeaf_mpNext (s : State) (l : Nat) (x : Leaf) : (s.setLeaf l x).mpNext = s.mpNext := rfl
@[simp] theorem State.setLeaf_watts (s : State) (l : Nat) (x : Leaf) : (s.setLeaf l x).watts = s.watts := rfl
@[simp] theorem State.setLeaf_tj (s : State) (l : Nat) (x : Leaf) : (s.setLeaf l x).tj = s.tj := rfl
@[simp] theorem State.setLeaf_thwarnBit (s : State) (l : Nat) (x : Leaf) : (s.setLeaf l x).thwarnBit = s.thwarnBit := rfl
@[simp] theorem State.setLeaf_linkerr (s : State) (l : Nat) (x : Leaf) : (s.setLeaf l x).linkerr = s.linkerr := rfl
@[simp] theorem State.setLeaf_routerAsks (s : State) (l : Nat) (x : Leaf) : (s.setLeaf l x).routerAsks = s.routerAsks := rfl
@[simp] theorem State.setLeaf_routerTxn (s : State) (l : Nat) (x : Leaf) : (s.setLeaf l x).routerTxn = s.routerTxn := rfl
@[simp] theorem State.setLeaf_linktr (s : State) (l : Nat) (x : Leaf) : (s.setLeaf l x).linktr = s.linktr := rfl
@[simp] theorem State.setLeaf_mphb (s : State) (l : Nat) (x : Leaf) : (s.setLeaf l x).mphb = s.mphb := rfl
@[simp] theorem State.setLeaf_hbmwin (s : State) (l : Nat) (x : Leaf) : (s.setLeaf l x).hbmwin = s.hbmwin := rfl
@[simp] theorem State.setLeaf_ptcfg (s : State) (l : Nat) (x : Leaf) : (s.setLeaf l x).ptcfg = s.ptcfg := rfl
@[simp] theorem State.setLeaf_lock (s : State) (l : Nat) (x : Leaf) : (s.setLeaf l x).lock = s.lock := rfl
@[simp] theorem State.setLeaf_unlocked (s : State) (l : Nat) (x : Leaf) : (s.setLeaf l x).unlocked = s.unlocked := rfl
@[simp] theorem State.setLeaf_offset (s : State) (l : Nat) (x : Leaf) : (s.setLeaf l x).offset = s.offset := rfl
@[simp] theorem State.setLeaf_goodSyncs (s : State) (l : Nat) (x : Leaf) : (s.setLeaf l x).goodSyncs = s.goodSyncs := rfl
@[simp] theorem State.setLeaf_syncAt (s : State) (l : Nat) (x : Leaf) : (s.setLeaf l x).syncAt = s.syncAt := rfl
@[simp] theorem State.setLeaf_syncNext (s : State) (l : Nat) (x : Leaf) : (s.setLeaf l x).syncNext = s.syncNext := rfl
@[simp] theorem State.setLeaf_pdelayT1 (s : State) (l : Nat) (x : Leaf) : (s.setLeaf l x).pdelayT1 = s.pdelayT1 := rfl
@[simp] theorem State.setLeaf_pdelayT2 (s : State) (l : Nat) (x : Leaf) : (s.setLeaf l x).pdelayT2 = s.pdelayT2 := rfl
@[simp] theorem State.setLeaf_pdelayT4 (s : State) (l : Nat) (x : Leaf) : (s.setLeaf l x).pdelayT4 = s.pdelayT4 := rfl
@[simp] theorem State.setLeaf_linkDelay (s : State) (l : Nat) (x : Leaf) : (s.setLeaf l x).linkDelay = s.linkDelay := rfl
@[simp] theorem State.setLeaf_slew (s : State) (l : Nat) (x : Leaf) : (s.setLeaf l x).slew = s.slew := rfl
@[simp] theorem State.setLeaf_spdm (s : State) (l : Nat) (x : Leaf) : (s.setLeaf l x).spdm = s.spdm := rfl
@[simp] theorem State.setLeaf_now (s : State) (l : Nat) (x : Leaf) : (s.setLeaf l x).now = s.now := rfl
@[simp] theorem State.setLeaf_nowFrac (s : State) (l : Nat) (x : Leaf) : (s.setLeaf l x).nowFrac = s.nowFrac := rfl
@[simp] theorem State.setLeaf_clk (s : State) (l : Nat) (x : Leaf) : (s.setLeaf l x).clk = s.clk := rfl
@[simp] theorem State.setLeaf_turn (s : State) (l : Nat) (x : Leaf) : (s.setLeaf l x).turn = s.turn := rfl
@[simp] theorem State.setLeaf_agenda (s : State) (l : Nat) (x : Leaf) : (s.setLeaf l x).agenda = s.agenda := rfl
@[simp] theorem State.setLeaf_inbox (s : State) (l : Nat) (x : Leaf) : (s.setLeaf l x).inbox = s.inbox := rfl
@[simp] theorem State.setLeaf_timers (s : State) (l : Nat) (x : Leaf) : (s.setLeaf l x).timers = s.timers := rfl
@[simp] theorem State.setLeaf_out (s : State) (l : Nat) (x : Leaf) : (s.setLeaf l x).out = s.out := rfl
@[simp] theorem State.setLeaf_freeCount (s : State) (l : Nat) (x : Leaf) : (s.setLeaf l x).freeCount = s.freeCount := rfl

/-! A function replaced. -/

@[simp] theorem State.setVf_cur (s : State) (v : Nat) (x : Vf) : (s.setVf v x).cur = s.cur := rfl
@[simp] theorem State.setVf_slot (s : State) (v : Nat) (x : Vf) : (s.setVf v x).slot = s.slot := rfl
@[simp] theorem State.setVf_strands (s : State) (v : Nat) (x : Vf) : (s.setVf v x).strands = s.strands := rfl
@[simp] theorem State.setVf_cores (s : State) (v : Nat) (x : Vf) : (s.setVf v x).cores = s.cores := rfl
@[simp] theorem State.setVf_leaves (s : State) (v : Nat) (x : Vf) : (s.setVf v x).leaves = s.leaves := rfl
@[simp] theorem State.setVf_queues (s : State) (v : Nat) (x : Vf) : (s.setVf v x).queues = s.queues := rfl
@[simp] theorem State.setVf_hbm (s : State) (v : Nat) (x : Vf) : (s.setVf v x).hbm = s.hbm := rfl
@[simp] theorem State.setVf_hbmKeys (s : State) (v : Nat) (x : Vf) : (s.setVf v x).hbmKeys = s.hbmKeys := rfl
@[simp] theorem State.setVf_host (s : State) (v : Nat) (x : Vf) : (s.setVf v x).host = s.host := rfl
@[simp] theorem State.setVf_pool (s : State) (v : Nat) (x : Vf) : (s.setVf v x).pool = s.pool := rfl
@[simp] theorem State.setVf_contexts (s : State) (v : Nat) (x : Vf) : (s.setVf v x).contexts = s.contexts := rfl
@[simp] theorem State.setVf_gangs (s : State) (v : Nat) (x : Vf) : (s.setVf v x).gangs = s.gangs := rfl
@[simp] theorem State.setVf_gangsWritten (s : State) (v : Nat) (x : Vf) : (s.setVf v x).gangsWritten = s.gangsWritten := rfl
@[simp] theorem State.setVf_faultedGangs (s : State) (v : Nat) (x : Vf) : (s.setVf v x).faultedGangs = s.faultedGangs := rfl
@[simp] theorem State.setVf_allot (s : State) (v : Nat) (x : Vf) : (s.setVf v x).allot = s.allot := rfl
@[simp] theorem State.setVf_routes (s : State) (v : Nat) (x : Vf) : (s.setVf v x).routes = s.routes := rfl
@[simp] theorem State.setVf_kbshare (s : State) (v : Nat) (x : Vf) : (s.setVf v x).kbshare = s.kbshare := rfl
@[simp] theorem State.setVf_plcshare (s : State) (v : Nat) (x : Vf) : (s.setVf v x).plcshare = s.plcshare := rfl
@[simp] theorem State.setVf_rkslots (s : State) (v : Nat) (x : Vf) : (s.setVf v x).rkslots = s.rkslots := rfl
@[simp] theorem State.setVf_poolRegions (s : State) (v : Nat) (x : Vf) : (s.setVf v x).poolRegions = s.poolRegions := rfl
@[simp] theorem State.setVf_poolLines (s : State) (v : Nat) (x : Vf) : (s.setVf v x).poolLines = s.poolLines := rfl
@[simp] theorem State.setVf_slotWas (s : State) (v : Nat) (x : Vf) : (s.setVf v x).slotWas = s.slotWas := rfl
@[simp] theorem State.setVf_slotView (s : State) (v : Nat) (x : Vf) : (s.setVf v x).slotView = s.slotView := rfl
@[simp] theorem State.setVf_poolClear (s : State) (v : Nat) (x : Vf) : (s.setVf v x).poolClear = s.poolClear := rfl
@[simp] theorem State.setVf_spares (s : State) (v : Nat) (x : Vf) : (s.setVf v x).spares = s.spares := rfl
@[simp] theorem State.setVf_poolBad (s : State) (v : Nat) (x : Vf) : (s.setVf v x).poolBad = s.poolBad := rfl
@[simp] theorem State.setVf_trees (s : State) (v : Nat) (x : Vf) : (s.setVf v x).trees = s.trees := rfl
@[simp] theorem State.setVf_nodes (s : State) (v : Nat) (x : Vf) : (s.setVf v x).nodes = s.nodes := rfl
@[simp] theorem State.setVf_routerGangs (s : State) (v : Nat) (x : Vf) : (s.setVf v x).routerGangs = s.routerGangs := rfl
@[simp] theorem State.setVf_links (s : State) (v : Nat) (x : Vf) : (s.setVf v x).links = s.links := rfl
@[simp] theorem State.setVf_linkTry (s : State) (v : Nat) (x : Vf) : (s.setVf v x).linkTry = s.linkTry := rfl
@[simp] theorem State.setVf_portWait (s : State) (v : Nat) (x : Vf) : (s.setVf v x).portWait = s.portWait := rfl
@[simp] theorem State.setVf_pkg (s : State) (v : Nat) (x : Vf) : (s.setVf v x).pkg = s.pkg := rfl
@[simp] theorem State.setVf_leafOk (s : State) (v : Nat) (x : Vf) : (s.setVf v x).leafOk = s.leafOk := rfl
@[simp] theorem State.setVf_minimal (s : State) (v : Nat) (x : Vf) : (s.setVf v x).minimal = s.minimal := rfl
@[simp] theorem State.setVf_starts (s : State) (v : Nat) (x : Vf) : (s.setVf v x).starts = s.starts := rfl
@[simp] theorem State.setVf_isReady (s : State) (v : Nat) (x : Vf) : (s.setVf v x).isReady = s.isReady := rfl
@[simp] theorem State.setVf_bootCause (s : State) (v : Nat) (x : Vf) : (s.setVf v x).bootCause = s.bootCause := rfl
@[simp] theorem State.setVf_fwver (s : State) (v : Nat) (x : Vf) : (s.setVf v x).fwver = s.fwver := rfl
@[simp] theorem State.setVf_flashen (s : State) (v : Nat) (x : Vf) : (s.setVf v x).flashen = s.flashen := rfl
@[simp] theorem State.setVf_flash (s : State) (v : Nat) (x : Vf) : (s.setVf v x).flash = s.flash := rfl
@[simp] theorem State.setVf_powered (s : State) (v : Nat) (x : Vf) : (s.setVf v x).powered = s.powered := rfl
@[simp] theorem State.setVf_starting (s : State) (v : Nat) (x : Vf) : (s.setVf v x).starting = s.starting := rfl
@[simp] theorem State.setVf_startAt (s : State) (v : Nat) (x : Vf) : (s.setVf v x).startAt = s.startAt := rfl
@[simp] theorem State.setVf_mpDown (s : State) (v : Nat) (x : Vf) : (s.setVf v x).mpDown = s.mpDown := rfl
@[simp] theorem State.setVf_mpNext (s : State) (v : Nat) (x : Vf) : (s.setVf v x).mpNext = s.mpNext := rfl
@[simp] theorem State.setVf_watts (s : State) (v : Nat) (x : Vf) : (s.setVf v x).watts = s.watts := rfl
@[simp] theorem State.setVf_tj (s : State) (v : Nat) (x : Vf) : (s.setVf v x).tj = s.tj := rfl
@[simp] theorem State.setVf_thwarnBit (s : State) (v : Nat) (x : Vf) : (s.setVf v x).thwarnBit = s.thwarnBit := rfl
@[simp] theorem State.setVf_linkerr (s : State) (v : Nat) (x : Vf) : (s.setVf v x).linkerr = s.linkerr := rfl
@[simp] theorem State.setVf_routerAsks (s : State) (v : Nat) (x : Vf) : (s.setVf v x).routerAsks = s.routerAsks := rfl
@[simp] theorem State.setVf_routerTxn (s : State) (v : Nat) (x : Vf) : (s.setVf v x).routerTxn = s.routerTxn := rfl
@[simp] theorem State.setVf_linktr (s : State) (v : Nat) (x : Vf) : (s.setVf v x).linktr = s.linktr := rfl
@[simp] theorem State.setVf_mphb (s : State) (v : Nat) (x : Vf) : (s.setVf v x).mphb = s.mphb := rfl
@[simp] theorem State.setVf_hbmwin (s : State) (v : Nat) (x : Vf) : (s.setVf v x).hbmwin = s.hbmwin := rfl
@[simp] theorem State.setVf_ptcfg (s : State) (v : Nat) (x : Vf) : (s.setVf v x).ptcfg = s.ptcfg := rfl
@[simp] theorem State.setVf_lock (s : State) (v : Nat) (x : Vf) : (s.setVf v x).lock = s.lock := rfl
@[simp] theorem State.setVf_unlocked (s : State) (v : Nat) (x : Vf) : (s.setVf v x).unlocked = s.unlocked := rfl
@[simp] theorem State.setVf_offset (s : State) (v : Nat) (x : Vf) : (s.setVf v x).offset = s.offset := rfl
@[simp] theorem State.setVf_goodSyncs (s : State) (v : Nat) (x : Vf) : (s.setVf v x).goodSyncs = s.goodSyncs := rfl
@[simp] theorem State.setVf_syncAt (s : State) (v : Nat) (x : Vf) : (s.setVf v x).syncAt = s.syncAt := rfl
@[simp] theorem State.setVf_syncNext (s : State) (v : Nat) (x : Vf) : (s.setVf v x).syncNext = s.syncNext := rfl
@[simp] theorem State.setVf_pdelayT1 (s : State) (v : Nat) (x : Vf) : (s.setVf v x).pdelayT1 = s.pdelayT1 := rfl
@[simp] theorem State.setVf_pdelayT2 (s : State) (v : Nat) (x : Vf) : (s.setVf v x).pdelayT2 = s.pdelayT2 := rfl
@[simp] theorem State.setVf_pdelayT4 (s : State) (v : Nat) (x : Vf) : (s.setVf v x).pdelayT4 = s.pdelayT4 := rfl
@[simp] theorem State.setVf_linkDelay (s : State) (v : Nat) (x : Vf) : (s.setVf v x).linkDelay = s.linkDelay := rfl
@[simp] theorem State.setVf_slew (s : State) (v : Nat) (x : Vf) : (s.setVf v x).slew = s.slew := rfl
@[simp] theorem State.setVf_spdm (s : State) (v : Nat) (x : Vf) : (s.setVf v x).spdm = s.spdm := rfl
@[simp] theorem State.setVf_now (s : State) (v : Nat) (x : Vf) : (s.setVf v x).now = s.now := rfl
@[simp] theorem State.setVf_nowFrac (s : State) (v : Nat) (x : Vf) : (s.setVf v x).nowFrac = s.nowFrac := rfl
@[simp] theorem State.setVf_clk (s : State) (v : Nat) (x : Vf) : (s.setVf v x).clk = s.clk := rfl
@[simp] theorem State.setVf_turn (s : State) (v : Nat) (x : Vf) : (s.setVf v x).turn = s.turn := rfl
@[simp] theorem State.setVf_agenda (s : State) (v : Nat) (x : Vf) : (s.setVf v x).agenda = s.agenda := rfl
@[simp] theorem State.setVf_inbox (s : State) (v : Nat) (x : Vf) : (s.setVf v x).inbox = s.inbox := rfl
@[simp] theorem State.setVf_timers (s : State) (v : Nat) (x : Vf) : (s.setVf v x).timers = s.timers := rfl
@[simp] theorem State.setVf_out (s : State) (v : Nat) (x : Vf) : (s.setVf v x).out = s.out := rfl
@[simp] theorem State.setVf_freeCount (s : State) (v : Nat) (x : Vf) : (s.setVf v x).freeCount = s.freeCount := rfl

/-! An engine queue replaced. -/

@[simp] theorem State.setCmds_cur (s : State) (q : Nat) (l : List Cmd) : (s.setCmds q l).cur = s.cur := rfl
@[simp] theorem State.setCmds_slot (s : State) (q : Nat) (l : List Cmd) : (s.setCmds q l).slot = s.slot := rfl
@[simp] theorem State.setCmds_strands (s : State) (q : Nat) (l : List Cmd) : (s.setCmds q l).strands = s.strands := rfl
@[simp] theorem State.setCmds_cores (s : State) (q : Nat) (l : List Cmd) : (s.setCmds q l).cores = s.cores := rfl
@[simp] theorem State.setCmds_leaves (s : State) (q : Nat) (l : List Cmd) : (s.setCmds q l).leaves = s.leaves := rfl
@[simp] theorem State.setCmds_vfs (s : State) (q : Nat) (l : List Cmd) : (s.setCmds q l).vfs = s.vfs := rfl
@[simp] theorem State.setCmds_hbm (s : State) (q : Nat) (l : List Cmd) : (s.setCmds q l).hbm = s.hbm := rfl
@[simp] theorem State.setCmds_hbmKeys (s : State) (q : Nat) (l : List Cmd) : (s.setCmds q l).hbmKeys = s.hbmKeys := rfl
@[simp] theorem State.setCmds_host (s : State) (q : Nat) (l : List Cmd) : (s.setCmds q l).host = s.host := rfl
@[simp] theorem State.setCmds_pool (s : State) (q : Nat) (l : List Cmd) : (s.setCmds q l).pool = s.pool := rfl
@[simp] theorem State.setCmds_contexts (s : State) (q : Nat) (l : List Cmd) : (s.setCmds q l).contexts = s.contexts := rfl
@[simp] theorem State.setCmds_gangs (s : State) (q : Nat) (l : List Cmd) : (s.setCmds q l).gangs = s.gangs := rfl
@[simp] theorem State.setCmds_gangsWritten (s : State) (q : Nat) (l : List Cmd) : (s.setCmds q l).gangsWritten = s.gangsWritten := rfl
@[simp] theorem State.setCmds_faultedGangs (s : State) (q : Nat) (l : List Cmd) : (s.setCmds q l).faultedGangs = s.faultedGangs := rfl
@[simp] theorem State.setCmds_allot (s : State) (q : Nat) (l : List Cmd) : (s.setCmds q l).allot = s.allot := rfl
@[simp] theorem State.setCmds_routes (s : State) (q : Nat) (l : List Cmd) : (s.setCmds q l).routes = s.routes := rfl
@[simp] theorem State.setCmds_kbshare (s : State) (q : Nat) (l : List Cmd) : (s.setCmds q l).kbshare = s.kbshare := rfl
@[simp] theorem State.setCmds_plcshare (s : State) (q : Nat) (l : List Cmd) : (s.setCmds q l).plcshare = s.plcshare := rfl
@[simp] theorem State.setCmds_rkslots (s : State) (q : Nat) (l : List Cmd) : (s.setCmds q l).rkslots = s.rkslots := rfl
@[simp] theorem State.setCmds_poolRegions (s : State) (q : Nat) (l : List Cmd) : (s.setCmds q l).poolRegions = s.poolRegions := rfl
@[simp] theorem State.setCmds_poolLines (s : State) (q : Nat) (l : List Cmd) : (s.setCmds q l).poolLines = s.poolLines := rfl
@[simp] theorem State.setCmds_slotWas (s : State) (q : Nat) (l : List Cmd) : (s.setCmds q l).slotWas = s.slotWas := rfl
@[simp] theorem State.setCmds_slotView (s : State) (q : Nat) (l : List Cmd) : (s.setCmds q l).slotView = s.slotView := rfl
@[simp] theorem State.setCmds_poolClear (s : State) (q : Nat) (l : List Cmd) : (s.setCmds q l).poolClear = s.poolClear := rfl
@[simp] theorem State.setCmds_spares (s : State) (q : Nat) (l : List Cmd) : (s.setCmds q l).spares = s.spares := rfl
@[simp] theorem State.setCmds_poolBad (s : State) (q : Nat) (l : List Cmd) : (s.setCmds q l).poolBad = s.poolBad := rfl
@[simp] theorem State.setCmds_trees (s : State) (q : Nat) (l : List Cmd) : (s.setCmds q l).trees = s.trees := rfl
@[simp] theorem State.setCmds_nodes (s : State) (q : Nat) (l : List Cmd) : (s.setCmds q l).nodes = s.nodes := rfl
@[simp] theorem State.setCmds_routerGangs (s : State) (q : Nat) (l : List Cmd) : (s.setCmds q l).routerGangs = s.routerGangs := rfl
@[simp] theorem State.setCmds_links (s : State) (q : Nat) (l : List Cmd) : (s.setCmds q l).links = s.links := rfl
@[simp] theorem State.setCmds_linkTry (s : State) (q : Nat) (l : List Cmd) : (s.setCmds q l).linkTry = s.linkTry := rfl
@[simp] theorem State.setCmds_portWait (s : State) (q : Nat) (l : List Cmd) : (s.setCmds q l).portWait = s.portWait := rfl
@[simp] theorem State.setCmds_pkg (s : State) (q : Nat) (l : List Cmd) : (s.setCmds q l).pkg = s.pkg := rfl
@[simp] theorem State.setCmds_leafOk (s : State) (q : Nat) (l : List Cmd) : (s.setCmds q l).leafOk = s.leafOk := rfl
@[simp] theorem State.setCmds_minimal (s : State) (q : Nat) (l : List Cmd) : (s.setCmds q l).minimal = s.minimal := rfl
@[simp] theorem State.setCmds_starts (s : State) (q : Nat) (l : List Cmd) : (s.setCmds q l).starts = s.starts := rfl
@[simp] theorem State.setCmds_isReady (s : State) (q : Nat) (l : List Cmd) : (s.setCmds q l).isReady = s.isReady := rfl
@[simp] theorem State.setCmds_bootCause (s : State) (q : Nat) (l : List Cmd) : (s.setCmds q l).bootCause = s.bootCause := rfl
@[simp] theorem State.setCmds_fwver (s : State) (q : Nat) (l : List Cmd) : (s.setCmds q l).fwver = s.fwver := rfl
@[simp] theorem State.setCmds_flashen (s : State) (q : Nat) (l : List Cmd) : (s.setCmds q l).flashen = s.flashen := rfl
@[simp] theorem State.setCmds_flash (s : State) (q : Nat) (l : List Cmd) : (s.setCmds q l).flash = s.flash := rfl
@[simp] theorem State.setCmds_powered (s : State) (q : Nat) (l : List Cmd) : (s.setCmds q l).powered = s.powered := rfl
@[simp] theorem State.setCmds_starting (s : State) (q : Nat) (l : List Cmd) : (s.setCmds q l).starting = s.starting := rfl
@[simp] theorem State.setCmds_startAt (s : State) (q : Nat) (l : List Cmd) : (s.setCmds q l).startAt = s.startAt := rfl
@[simp] theorem State.setCmds_mpDown (s : State) (q : Nat) (l : List Cmd) : (s.setCmds q l).mpDown = s.mpDown := rfl
@[simp] theorem State.setCmds_mpNext (s : State) (q : Nat) (l : List Cmd) : (s.setCmds q l).mpNext = s.mpNext := rfl
@[simp] theorem State.setCmds_watts (s : State) (q : Nat) (l : List Cmd) : (s.setCmds q l).watts = s.watts := rfl
@[simp] theorem State.setCmds_tj (s : State) (q : Nat) (l : List Cmd) : (s.setCmds q l).tj = s.tj := rfl
@[simp] theorem State.setCmds_thwarnBit (s : State) (q : Nat) (l : List Cmd) : (s.setCmds q l).thwarnBit = s.thwarnBit := rfl
@[simp] theorem State.setCmds_linkerr (s : State) (q : Nat) (l : List Cmd) : (s.setCmds q l).linkerr = s.linkerr := rfl
@[simp] theorem State.setCmds_routerAsks (s : State) (q : Nat) (l : List Cmd) : (s.setCmds q l).routerAsks = s.routerAsks := rfl
@[simp] theorem State.setCmds_routerTxn (s : State) (q : Nat) (l : List Cmd) : (s.setCmds q l).routerTxn = s.routerTxn := rfl
@[simp] theorem State.setCmds_linktr (s : State) (q : Nat) (l : List Cmd) : (s.setCmds q l).linktr = s.linktr := rfl
@[simp] theorem State.setCmds_mphb (s : State) (q : Nat) (l : List Cmd) : (s.setCmds q l).mphb = s.mphb := rfl
@[simp] theorem State.setCmds_hbmwin (s : State) (q : Nat) (l : List Cmd) : (s.setCmds q l).hbmwin = s.hbmwin := rfl
@[simp] theorem State.setCmds_ptcfg (s : State) (q : Nat) (l : List Cmd) : (s.setCmds q l).ptcfg = s.ptcfg := rfl
@[simp] theorem State.setCmds_lock (s : State) (q : Nat) (l : List Cmd) : (s.setCmds q l).lock = s.lock := rfl
@[simp] theorem State.setCmds_unlocked (s : State) (q : Nat) (l : List Cmd) : (s.setCmds q l).unlocked = s.unlocked := rfl
@[simp] theorem State.setCmds_offset (s : State) (q : Nat) (l : List Cmd) : (s.setCmds q l).offset = s.offset := rfl
@[simp] theorem State.setCmds_goodSyncs (s : State) (q : Nat) (l : List Cmd) : (s.setCmds q l).goodSyncs = s.goodSyncs := rfl
@[simp] theorem State.setCmds_syncAt (s : State) (q : Nat) (l : List Cmd) : (s.setCmds q l).syncAt = s.syncAt := rfl
@[simp] theorem State.setCmds_syncNext (s : State) (q : Nat) (l : List Cmd) : (s.setCmds q l).syncNext = s.syncNext := rfl
@[simp] theorem State.setCmds_pdelayT1 (s : State) (q : Nat) (l : List Cmd) : (s.setCmds q l).pdelayT1 = s.pdelayT1 := rfl
@[simp] theorem State.setCmds_pdelayT2 (s : State) (q : Nat) (l : List Cmd) : (s.setCmds q l).pdelayT2 = s.pdelayT2 := rfl
@[simp] theorem State.setCmds_pdelayT4 (s : State) (q : Nat) (l : List Cmd) : (s.setCmds q l).pdelayT4 = s.pdelayT4 := rfl
@[simp] theorem State.setCmds_linkDelay (s : State) (q : Nat) (l : List Cmd) : (s.setCmds q l).linkDelay = s.linkDelay := rfl
@[simp] theorem State.setCmds_slew (s : State) (q : Nat) (l : List Cmd) : (s.setCmds q l).slew = s.slew := rfl
@[simp] theorem State.setCmds_spdm (s : State) (q : Nat) (l : List Cmd) : (s.setCmds q l).spdm = s.spdm := rfl
@[simp] theorem State.setCmds_now (s : State) (q : Nat) (l : List Cmd) : (s.setCmds q l).now = s.now := rfl
@[simp] theorem State.setCmds_nowFrac (s : State) (q : Nat) (l : List Cmd) : (s.setCmds q l).nowFrac = s.nowFrac := rfl
@[simp] theorem State.setCmds_clk (s : State) (q : Nat) (l : List Cmd) : (s.setCmds q l).clk = s.clk := rfl
@[simp] theorem State.setCmds_turn (s : State) (q : Nat) (l : List Cmd) : (s.setCmds q l).turn = s.turn := rfl
@[simp] theorem State.setCmds_agenda (s : State) (q : Nat) (l : List Cmd) : (s.setCmds q l).agenda = s.agenda := rfl
@[simp] theorem State.setCmds_inbox (s : State) (q : Nat) (l : List Cmd) : (s.setCmds q l).inbox = s.inbox := rfl
@[simp] theorem State.setCmds_timers (s : State) (q : Nat) (l : List Cmd) : (s.setCmds q l).timers = s.timers := rfl
@[simp] theorem State.setCmds_out (s : State) (q : Nat) (l : List Cmd) : (s.setCmds q l).out = s.out := rfl
@[simp] theorem State.setCmds_freeCount (s : State) (q : Nat) (l : List Cmd) : (s.setCmds q l).freeCount = s.freeCount := rfl

/-! Something sent out. -/

@[simp] theorem State.emit_cur (s : State) (x : Out) : (s.emit x).cur = s.cur := rfl
@[simp] theorem State.emit_slot (s : State) (x : Out) : (s.emit x).slot = s.slot := rfl
@[simp] theorem State.emit_strands (s : State) (x : Out) : (s.emit x).strands = s.strands := rfl
@[simp] theorem State.emit_cores (s : State) (x : Out) : (s.emit x).cores = s.cores := rfl
@[simp] theorem State.emit_leaves (s : State) (x : Out) : (s.emit x).leaves = s.leaves := rfl
@[simp] theorem State.emit_vfs (s : State) (x : Out) : (s.emit x).vfs = s.vfs := rfl
@[simp] theorem State.emit_queues (s : State) (x : Out) : (s.emit x).queues = s.queues := rfl
@[simp] theorem State.emit_hbm (s : State) (x : Out) : (s.emit x).hbm = s.hbm := rfl
@[simp] theorem State.emit_hbmKeys (s : State) (x : Out) : (s.emit x).hbmKeys = s.hbmKeys := rfl
@[simp] theorem State.emit_host (s : State) (x : Out) : (s.emit x).host = s.host := rfl
@[simp] theorem State.emit_pool (s : State) (x : Out) : (s.emit x).pool = s.pool := rfl
@[simp] theorem State.emit_contexts (s : State) (x : Out) : (s.emit x).contexts = s.contexts := rfl
@[simp] theorem State.emit_gangs (s : State) (x : Out) : (s.emit x).gangs = s.gangs := rfl
@[simp] theorem State.emit_gangsWritten (s : State) (x : Out) : (s.emit x).gangsWritten = s.gangsWritten := rfl
@[simp] theorem State.emit_faultedGangs (s : State) (x : Out) : (s.emit x).faultedGangs = s.faultedGangs := rfl
@[simp] theorem State.emit_allot (s : State) (x : Out) : (s.emit x).allot = s.allot := rfl
@[simp] theorem State.emit_routes (s : State) (x : Out) : (s.emit x).routes = s.routes := rfl
@[simp] theorem State.emit_kbshare (s : State) (x : Out) : (s.emit x).kbshare = s.kbshare := rfl
@[simp] theorem State.emit_plcshare (s : State) (x : Out) : (s.emit x).plcshare = s.plcshare := rfl
@[simp] theorem State.emit_rkslots (s : State) (x : Out) : (s.emit x).rkslots = s.rkslots := rfl
@[simp] theorem State.emit_poolRegions (s : State) (x : Out) : (s.emit x).poolRegions = s.poolRegions := rfl
@[simp] theorem State.emit_poolLines (s : State) (x : Out) : (s.emit x).poolLines = s.poolLines := rfl
@[simp] theorem State.emit_slotWas (s : State) (x : Out) : (s.emit x).slotWas = s.slotWas := rfl
@[simp] theorem State.emit_slotView (s : State) (x : Out) : (s.emit x).slotView = s.slotView := rfl
@[simp] theorem State.emit_poolClear (s : State) (x : Out) : (s.emit x).poolClear = s.poolClear := rfl
@[simp] theorem State.emit_spares (s : State) (x : Out) : (s.emit x).spares = s.spares := rfl
@[simp] theorem State.emit_poolBad (s : State) (x : Out) : (s.emit x).poolBad = s.poolBad := rfl
@[simp] theorem State.emit_trees (s : State) (x : Out) : (s.emit x).trees = s.trees := rfl
@[simp] theorem State.emit_nodes (s : State) (x : Out) : (s.emit x).nodes = s.nodes := rfl
@[simp] theorem State.emit_routerGangs (s : State) (x : Out) : (s.emit x).routerGangs = s.routerGangs := rfl
@[simp] theorem State.emit_links (s : State) (x : Out) : (s.emit x).links = s.links := rfl
@[simp] theorem State.emit_linkTry (s : State) (x : Out) : (s.emit x).linkTry = s.linkTry := rfl
@[simp] theorem State.emit_portWait (s : State) (x : Out) : (s.emit x).portWait = s.portWait := rfl
@[simp] theorem State.emit_pkg (s : State) (x : Out) : (s.emit x).pkg = s.pkg := rfl
@[simp] theorem State.emit_leafOk (s : State) (x : Out) : (s.emit x).leafOk = s.leafOk := rfl
@[simp] theorem State.emit_minimal (s : State) (x : Out) : (s.emit x).minimal = s.minimal := rfl
@[simp] theorem State.emit_starts (s : State) (x : Out) : (s.emit x).starts = s.starts := rfl
@[simp] theorem State.emit_isReady (s : State) (x : Out) : (s.emit x).isReady = s.isReady := rfl
@[simp] theorem State.emit_bootCause (s : State) (x : Out) : (s.emit x).bootCause = s.bootCause := rfl
@[simp] theorem State.emit_fwver (s : State) (x : Out) : (s.emit x).fwver = s.fwver := rfl
@[simp] theorem State.emit_flashen (s : State) (x : Out) : (s.emit x).flashen = s.flashen := rfl
@[simp] theorem State.emit_flash (s : State) (x : Out) : (s.emit x).flash = s.flash := rfl
@[simp] theorem State.emit_powered (s : State) (x : Out) : (s.emit x).powered = s.powered := rfl
@[simp] theorem State.emit_starting (s : State) (x : Out) : (s.emit x).starting = s.starting := rfl
@[simp] theorem State.emit_startAt (s : State) (x : Out) : (s.emit x).startAt = s.startAt := rfl
@[simp] theorem State.emit_mpDown (s : State) (x : Out) : (s.emit x).mpDown = s.mpDown := rfl
@[simp] theorem State.emit_mpNext (s : State) (x : Out) : (s.emit x).mpNext = s.mpNext := rfl
@[simp] theorem State.emit_watts (s : State) (x : Out) : (s.emit x).watts = s.watts := rfl
@[simp] theorem State.emit_tj (s : State) (x : Out) : (s.emit x).tj = s.tj := rfl
@[simp] theorem State.emit_thwarnBit (s : State) (x : Out) : (s.emit x).thwarnBit = s.thwarnBit := rfl
@[simp] theorem State.emit_linkerr (s : State) (x : Out) : (s.emit x).linkerr = s.linkerr := rfl
@[simp] theorem State.emit_routerAsks (s : State) (x : Out) : (s.emit x).routerAsks = s.routerAsks := rfl
@[simp] theorem State.emit_routerTxn (s : State) (x : Out) : (s.emit x).routerTxn = s.routerTxn := rfl
@[simp] theorem State.emit_linktr (s : State) (x : Out) : (s.emit x).linktr = s.linktr := rfl
@[simp] theorem State.emit_mphb (s : State) (x : Out) : (s.emit x).mphb = s.mphb := rfl
@[simp] theorem State.emit_hbmwin (s : State) (x : Out) : (s.emit x).hbmwin = s.hbmwin := rfl
@[simp] theorem State.emit_ptcfg (s : State) (x : Out) : (s.emit x).ptcfg = s.ptcfg := rfl
@[simp] theorem State.emit_lock (s : State) (x : Out) : (s.emit x).lock = s.lock := rfl
@[simp] theorem State.emit_unlocked (s : State) (x : Out) : (s.emit x).unlocked = s.unlocked := rfl
@[simp] theorem State.emit_offset (s : State) (x : Out) : (s.emit x).offset = s.offset := rfl
@[simp] theorem State.emit_goodSyncs (s : State) (x : Out) : (s.emit x).goodSyncs = s.goodSyncs := rfl
@[simp] theorem State.emit_syncAt (s : State) (x : Out) : (s.emit x).syncAt = s.syncAt := rfl
@[simp] theorem State.emit_syncNext (s : State) (x : Out) : (s.emit x).syncNext = s.syncNext := rfl
@[simp] theorem State.emit_pdelayT1 (s : State) (x : Out) : (s.emit x).pdelayT1 = s.pdelayT1 := rfl
@[simp] theorem State.emit_pdelayT2 (s : State) (x : Out) : (s.emit x).pdelayT2 = s.pdelayT2 := rfl
@[simp] theorem State.emit_pdelayT4 (s : State) (x : Out) : (s.emit x).pdelayT4 = s.pdelayT4 := rfl
@[simp] theorem State.emit_linkDelay (s : State) (x : Out) : (s.emit x).linkDelay = s.linkDelay := rfl
@[simp] theorem State.emit_slew (s : State) (x : Out) : (s.emit x).slew = s.slew := rfl
@[simp] theorem State.emit_spdm (s : State) (x : Out) : (s.emit x).spdm = s.spdm := rfl
@[simp] theorem State.emit_now (s : State) (x : Out) : (s.emit x).now = s.now := rfl
@[simp] theorem State.emit_nowFrac (s : State) (x : Out) : (s.emit x).nowFrac = s.nowFrac := rfl
@[simp] theorem State.emit_clk (s : State) (x : Out) : (s.emit x).clk = s.clk := rfl
@[simp] theorem State.emit_turn (s : State) (x : Out) : (s.emit x).turn = s.turn := rfl
@[simp] theorem State.emit_agenda (s : State) (x : Out) : (s.emit x).agenda = s.agenda := rfl
@[simp] theorem State.emit_inbox (s : State) (x : Out) : (s.emit x).inbox = s.inbox := rfl
@[simp] theorem State.emit_timers (s : State) (x : Out) : (s.emit x).timers = s.timers := rfl
@[simp] theorem State.emit_freeCount (s : State) (x : Out) : (s.emit x).freeCount = s.freeCount := rfl

/-! An event posted. -/

@[simp] theorem State.post_cur (s : State) (e : Ev) : (s.post e).cur = s.cur := rfl
@[simp] theorem State.post_slot (s : State) (e : Ev) : (s.post e).slot = s.slot := rfl
@[simp] theorem State.post_strands (s : State) (e : Ev) : (s.post e).strands = s.strands := rfl
@[simp] theorem State.post_cores (s : State) (e : Ev) : (s.post e).cores = s.cores := rfl
@[simp] theorem State.post_leaves (s : State) (e : Ev) : (s.post e).leaves = s.leaves := rfl
@[simp] theorem State.post_vfs (s : State) (e : Ev) : (s.post e).vfs = s.vfs := rfl
@[simp] theorem State.post_queues (s : State) (e : Ev) : (s.post e).queues = s.queues := rfl
@[simp] theorem State.post_hbm (s : State) (e : Ev) : (s.post e).hbm = s.hbm := rfl
@[simp] theorem State.post_hbmKeys (s : State) (e : Ev) : (s.post e).hbmKeys = s.hbmKeys := rfl
@[simp] theorem State.post_host (s : State) (e : Ev) : (s.post e).host = s.host := rfl
@[simp] theorem State.post_pool (s : State) (e : Ev) : (s.post e).pool = s.pool := rfl
@[simp] theorem State.post_contexts (s : State) (e : Ev) : (s.post e).contexts = s.contexts := rfl
@[simp] theorem State.post_gangs (s : State) (e : Ev) : (s.post e).gangs = s.gangs := rfl
@[simp] theorem State.post_gangsWritten (s : State) (e : Ev) : (s.post e).gangsWritten = s.gangsWritten := rfl
@[simp] theorem State.post_faultedGangs (s : State) (e : Ev) : (s.post e).faultedGangs = s.faultedGangs := rfl
@[simp] theorem State.post_allot (s : State) (e : Ev) : (s.post e).allot = s.allot := rfl
@[simp] theorem State.post_routes (s : State) (e : Ev) : (s.post e).routes = s.routes := rfl
@[simp] theorem State.post_kbshare (s : State) (e : Ev) : (s.post e).kbshare = s.kbshare := rfl
@[simp] theorem State.post_plcshare (s : State) (e : Ev) : (s.post e).plcshare = s.plcshare := rfl
@[simp] theorem State.post_rkslots (s : State) (e : Ev) : (s.post e).rkslots = s.rkslots := rfl
@[simp] theorem State.post_poolRegions (s : State) (e : Ev) : (s.post e).poolRegions = s.poolRegions := rfl
@[simp] theorem State.post_poolLines (s : State) (e : Ev) : (s.post e).poolLines = s.poolLines := rfl
@[simp] theorem State.post_slotWas (s : State) (e : Ev) : (s.post e).slotWas = s.slotWas := rfl
@[simp] theorem State.post_slotView (s : State) (e : Ev) : (s.post e).slotView = s.slotView := rfl
@[simp] theorem State.post_poolClear (s : State) (e : Ev) : (s.post e).poolClear = s.poolClear := rfl
@[simp] theorem State.post_spares (s : State) (e : Ev) : (s.post e).spares = s.spares := rfl
@[simp] theorem State.post_poolBad (s : State) (e : Ev) : (s.post e).poolBad = s.poolBad := rfl
@[simp] theorem State.post_trees (s : State) (e : Ev) : (s.post e).trees = s.trees := rfl
@[simp] theorem State.post_nodes (s : State) (e : Ev) : (s.post e).nodes = s.nodes := rfl
@[simp] theorem State.post_routerGangs (s : State) (e : Ev) : (s.post e).routerGangs = s.routerGangs := rfl
@[simp] theorem State.post_links (s : State) (e : Ev) : (s.post e).links = s.links := rfl
@[simp] theorem State.post_linkTry (s : State) (e : Ev) : (s.post e).linkTry = s.linkTry := rfl
@[simp] theorem State.post_portWait (s : State) (e : Ev) : (s.post e).portWait = s.portWait := rfl
@[simp] theorem State.post_pkg (s : State) (e : Ev) : (s.post e).pkg = s.pkg := rfl
@[simp] theorem State.post_leafOk (s : State) (e : Ev) : (s.post e).leafOk = s.leafOk := rfl
@[simp] theorem State.post_minimal (s : State) (e : Ev) : (s.post e).minimal = s.minimal := rfl
@[simp] theorem State.post_starts (s : State) (e : Ev) : (s.post e).starts = s.starts := rfl
@[simp] theorem State.post_isReady (s : State) (e : Ev) : (s.post e).isReady = s.isReady := rfl
@[simp] theorem State.post_bootCause (s : State) (e : Ev) : (s.post e).bootCause = s.bootCause := rfl
@[simp] theorem State.post_fwver (s : State) (e : Ev) : (s.post e).fwver = s.fwver := rfl
@[simp] theorem State.post_flashen (s : State) (e : Ev) : (s.post e).flashen = s.flashen := rfl
@[simp] theorem State.post_flash (s : State) (e : Ev) : (s.post e).flash = s.flash := rfl
@[simp] theorem State.post_powered (s : State) (e : Ev) : (s.post e).powered = s.powered := rfl
@[simp] theorem State.post_starting (s : State) (e : Ev) : (s.post e).starting = s.starting := rfl
@[simp] theorem State.post_startAt (s : State) (e : Ev) : (s.post e).startAt = s.startAt := rfl
@[simp] theorem State.post_mpDown (s : State) (e : Ev) : (s.post e).mpDown = s.mpDown := rfl
@[simp] theorem State.post_mpNext (s : State) (e : Ev) : (s.post e).mpNext = s.mpNext := rfl
@[simp] theorem State.post_watts (s : State) (e : Ev) : (s.post e).watts = s.watts := rfl
@[simp] theorem State.post_tj (s : State) (e : Ev) : (s.post e).tj = s.tj := rfl
@[simp] theorem State.post_thwarnBit (s : State) (e : Ev) : (s.post e).thwarnBit = s.thwarnBit := rfl
@[simp] theorem State.post_linkerr (s : State) (e : Ev) : (s.post e).linkerr = s.linkerr := rfl
@[simp] theorem State.post_routerAsks (s : State) (e : Ev) : (s.post e).routerAsks = s.routerAsks := rfl
@[simp] theorem State.post_routerTxn (s : State) (e : Ev) : (s.post e).routerTxn = s.routerTxn := rfl
@[simp] theorem State.post_linktr (s : State) (e : Ev) : (s.post e).linktr = s.linktr := rfl
@[simp] theorem State.post_mphb (s : State) (e : Ev) : (s.post e).mphb = s.mphb := rfl
@[simp] theorem State.post_hbmwin (s : State) (e : Ev) : (s.post e).hbmwin = s.hbmwin := rfl
@[simp] theorem State.post_ptcfg (s : State) (e : Ev) : (s.post e).ptcfg = s.ptcfg := rfl
@[simp] theorem State.post_lock (s : State) (e : Ev) : (s.post e).lock = s.lock := rfl
@[simp] theorem State.post_unlocked (s : State) (e : Ev) : (s.post e).unlocked = s.unlocked := rfl
@[simp] theorem State.post_offset (s : State) (e : Ev) : (s.post e).offset = s.offset := rfl
@[simp] theorem State.post_goodSyncs (s : State) (e : Ev) : (s.post e).goodSyncs = s.goodSyncs := rfl
@[simp] theorem State.post_syncAt (s : State) (e : Ev) : (s.post e).syncAt = s.syncAt := rfl
@[simp] theorem State.post_syncNext (s : State) (e : Ev) : (s.post e).syncNext = s.syncNext := rfl
@[simp] theorem State.post_pdelayT1 (s : State) (e : Ev) : (s.post e).pdelayT1 = s.pdelayT1 := rfl
@[simp] theorem State.post_pdelayT2 (s : State) (e : Ev) : (s.post e).pdelayT2 = s.pdelayT2 := rfl
@[simp] theorem State.post_pdelayT4 (s : State) (e : Ev) : (s.post e).pdelayT4 = s.pdelayT4 := rfl
@[simp] theorem State.post_linkDelay (s : State) (e : Ev) : (s.post e).linkDelay = s.linkDelay := rfl
@[simp] theorem State.post_slew (s : State) (e : Ev) : (s.post e).slew = s.slew := rfl
@[simp] theorem State.post_spdm (s : State) (e : Ev) : (s.post e).spdm = s.spdm := rfl
@[simp] theorem State.post_now (s : State) (e : Ev) : (s.post e).now = s.now := rfl
@[simp] theorem State.post_nowFrac (s : State) (e : Ev) : (s.post e).nowFrac = s.nowFrac := rfl
@[simp] theorem State.post_clk (s : State) (e : Ev) : (s.post e).clk = s.clk := rfl
@[simp] theorem State.post_turn (s : State) (e : Ev) : (s.post e).turn = s.turn := rfl
@[simp] theorem State.post_inbox (s : State) (e : Ev) : (s.post e).inbox = s.inbox := rfl
@[simp] theorem State.post_timers (s : State) (e : Ev) : (s.post e).timers = s.timers := rfl
@[simp] theorem State.post_out (s : State) (e : Ev) : (s.post e).out = s.out := rfl
@[simp] theorem State.post_freeCount (s : State) (e : Ev) : (s.post e).freeCount = s.freeCount := rfl

/-! An event come about. -/

@[simp] theorem State.unpost_cur (s : State) (e : Ev) : (s.unpost e).cur = s.cur := rfl
@[simp] theorem State.unpost_slot (s : State) (e : Ev) : (s.unpost e).slot = s.slot := rfl
@[simp] theorem State.unpost_strands (s : State) (e : Ev) : (s.unpost e).strands = s.strands := rfl
@[simp] theorem State.unpost_cores (s : State) (e : Ev) : (s.unpost e).cores = s.cores := rfl
@[simp] theorem State.unpost_leaves (s : State) (e : Ev) : (s.unpost e).leaves = s.leaves := rfl
@[simp] theorem State.unpost_vfs (s : State) (e : Ev) : (s.unpost e).vfs = s.vfs := rfl
@[simp] theorem State.unpost_queues (s : State) (e : Ev) : (s.unpost e).queues = s.queues := rfl
@[simp] theorem State.unpost_hbm (s : State) (e : Ev) : (s.unpost e).hbm = s.hbm := rfl
@[simp] theorem State.unpost_hbmKeys (s : State) (e : Ev) : (s.unpost e).hbmKeys = s.hbmKeys := rfl
@[simp] theorem State.unpost_host (s : State) (e : Ev) : (s.unpost e).host = s.host := rfl
@[simp] theorem State.unpost_pool (s : State) (e : Ev) : (s.unpost e).pool = s.pool := rfl
@[simp] theorem State.unpost_contexts (s : State) (e : Ev) : (s.unpost e).contexts = s.contexts := rfl
@[simp] theorem State.unpost_gangs (s : State) (e : Ev) : (s.unpost e).gangs = s.gangs := rfl
@[simp] theorem State.unpost_gangsWritten (s : State) (e : Ev) : (s.unpost e).gangsWritten = s.gangsWritten := rfl
@[simp] theorem State.unpost_faultedGangs (s : State) (e : Ev) : (s.unpost e).faultedGangs = s.faultedGangs := rfl
@[simp] theorem State.unpost_allot (s : State) (e : Ev) : (s.unpost e).allot = s.allot := rfl
@[simp] theorem State.unpost_routes (s : State) (e : Ev) : (s.unpost e).routes = s.routes := rfl
@[simp] theorem State.unpost_kbshare (s : State) (e : Ev) : (s.unpost e).kbshare = s.kbshare := rfl
@[simp] theorem State.unpost_plcshare (s : State) (e : Ev) : (s.unpost e).plcshare = s.plcshare := rfl
@[simp] theorem State.unpost_rkslots (s : State) (e : Ev) : (s.unpost e).rkslots = s.rkslots := rfl
@[simp] theorem State.unpost_poolRegions (s : State) (e : Ev) : (s.unpost e).poolRegions = s.poolRegions := rfl
@[simp] theorem State.unpost_poolLines (s : State) (e : Ev) : (s.unpost e).poolLines = s.poolLines := rfl
@[simp] theorem State.unpost_slotWas (s : State) (e : Ev) : (s.unpost e).slotWas = s.slotWas := rfl
@[simp] theorem State.unpost_slotView (s : State) (e : Ev) : (s.unpost e).slotView = s.slotView := rfl
@[simp] theorem State.unpost_poolClear (s : State) (e : Ev) : (s.unpost e).poolClear = s.poolClear := rfl
@[simp] theorem State.unpost_spares (s : State) (e : Ev) : (s.unpost e).spares = s.spares := rfl
@[simp] theorem State.unpost_poolBad (s : State) (e : Ev) : (s.unpost e).poolBad = s.poolBad := rfl
@[simp] theorem State.unpost_trees (s : State) (e : Ev) : (s.unpost e).trees = s.trees := rfl
@[simp] theorem State.unpost_nodes (s : State) (e : Ev) : (s.unpost e).nodes = s.nodes := rfl
@[simp] theorem State.unpost_routerGangs (s : State) (e : Ev) : (s.unpost e).routerGangs = s.routerGangs := rfl
@[simp] theorem State.unpost_links (s : State) (e : Ev) : (s.unpost e).links = s.links := rfl
@[simp] theorem State.unpost_linkTry (s : State) (e : Ev) : (s.unpost e).linkTry = s.linkTry := rfl
@[simp] theorem State.unpost_portWait (s : State) (e : Ev) : (s.unpost e).portWait = s.portWait := rfl
@[simp] theorem State.unpost_pkg (s : State) (e : Ev) : (s.unpost e).pkg = s.pkg := rfl
@[simp] theorem State.unpost_leafOk (s : State) (e : Ev) : (s.unpost e).leafOk = s.leafOk := rfl
@[simp] theorem State.unpost_minimal (s : State) (e : Ev) : (s.unpost e).minimal = s.minimal := rfl
@[simp] theorem State.unpost_starts (s : State) (e : Ev) : (s.unpost e).starts = s.starts := rfl
@[simp] theorem State.unpost_isReady (s : State) (e : Ev) : (s.unpost e).isReady = s.isReady := rfl
@[simp] theorem State.unpost_bootCause (s : State) (e : Ev) : (s.unpost e).bootCause = s.bootCause := rfl
@[simp] theorem State.unpost_fwver (s : State) (e : Ev) : (s.unpost e).fwver = s.fwver := rfl
@[simp] theorem State.unpost_flashen (s : State) (e : Ev) : (s.unpost e).flashen = s.flashen := rfl
@[simp] theorem State.unpost_flash (s : State) (e : Ev) : (s.unpost e).flash = s.flash := rfl
@[simp] theorem State.unpost_powered (s : State) (e : Ev) : (s.unpost e).powered = s.powered := rfl
@[simp] theorem State.unpost_starting (s : State) (e : Ev) : (s.unpost e).starting = s.starting := rfl
@[simp] theorem State.unpost_startAt (s : State) (e : Ev) : (s.unpost e).startAt = s.startAt := rfl
@[simp] theorem State.unpost_mpDown (s : State) (e : Ev) : (s.unpost e).mpDown = s.mpDown := rfl
@[simp] theorem State.unpost_mpNext (s : State) (e : Ev) : (s.unpost e).mpNext = s.mpNext := rfl
@[simp] theorem State.unpost_watts (s : State) (e : Ev) : (s.unpost e).watts = s.watts := rfl
@[simp] theorem State.unpost_tj (s : State) (e : Ev) : (s.unpost e).tj = s.tj := rfl
@[simp] theorem State.unpost_thwarnBit (s : State) (e : Ev) : (s.unpost e).thwarnBit = s.thwarnBit := rfl
@[simp] theorem State.unpost_linkerr (s : State) (e : Ev) : (s.unpost e).linkerr = s.linkerr := rfl
@[simp] theorem State.unpost_routerAsks (s : State) (e : Ev) : (s.unpost e).routerAsks = s.routerAsks := rfl
@[simp] theorem State.unpost_routerTxn (s : State) (e : Ev) : (s.unpost e).routerTxn = s.routerTxn := rfl
@[simp] theorem State.unpost_linktr (s : State) (e : Ev) : (s.unpost e).linktr = s.linktr := rfl
@[simp] theorem State.unpost_mphb (s : State) (e : Ev) : (s.unpost e).mphb = s.mphb := rfl
@[simp] theorem State.unpost_hbmwin (s : State) (e : Ev) : (s.unpost e).hbmwin = s.hbmwin := rfl
@[simp] theorem State.unpost_ptcfg (s : State) (e : Ev) : (s.unpost e).ptcfg = s.ptcfg := rfl
@[simp] theorem State.unpost_lock (s : State) (e : Ev) : (s.unpost e).lock = s.lock := rfl
@[simp] theorem State.unpost_unlocked (s : State) (e : Ev) : (s.unpost e).unlocked = s.unlocked := rfl
@[simp] theorem State.unpost_offset (s : State) (e : Ev) : (s.unpost e).offset = s.offset := rfl
@[simp] theorem State.unpost_goodSyncs (s : State) (e : Ev) : (s.unpost e).goodSyncs = s.goodSyncs := rfl
@[simp] theorem State.unpost_syncAt (s : State) (e : Ev) : (s.unpost e).syncAt = s.syncAt := rfl
@[simp] theorem State.unpost_syncNext (s : State) (e : Ev) : (s.unpost e).syncNext = s.syncNext := rfl
@[simp] theorem State.unpost_pdelayT1 (s : State) (e : Ev) : (s.unpost e).pdelayT1 = s.pdelayT1 := rfl
@[simp] theorem State.unpost_pdelayT2 (s : State) (e : Ev) : (s.unpost e).pdelayT2 = s.pdelayT2 := rfl
@[simp] theorem State.unpost_pdelayT4 (s : State) (e : Ev) : (s.unpost e).pdelayT4 = s.pdelayT4 := rfl
@[simp] theorem State.unpost_linkDelay (s : State) (e : Ev) : (s.unpost e).linkDelay = s.linkDelay := rfl
@[simp] theorem State.unpost_slew (s : State) (e : Ev) : (s.unpost e).slew = s.slew := rfl
@[simp] theorem State.unpost_spdm (s : State) (e : Ev) : (s.unpost e).spdm = s.spdm := rfl
@[simp] theorem State.unpost_now (s : State) (e : Ev) : (s.unpost e).now = s.now := rfl
@[simp] theorem State.unpost_nowFrac (s : State) (e : Ev) : (s.unpost e).nowFrac = s.nowFrac := rfl
@[simp] theorem State.unpost_clk (s : State) (e : Ev) : (s.unpost e).clk = s.clk := rfl
@[simp] theorem State.unpost_turn (s : State) (e : Ev) : (s.unpost e).turn = s.turn := rfl
@[simp] theorem State.unpost_inbox (s : State) (e : Ev) : (s.unpost e).inbox = s.inbox := rfl
@[simp] theorem State.unpost_timers (s : State) (e : Ev) : (s.unpost e).timers = s.timers := rfl
@[simp] theorem State.unpost_out (s : State) (e : Ev) : (s.unpost e).out = s.out := rfl
@[simp] theorem State.unpost_freeCount (s : State) (e : Ev) : (s.unpost e).freeCount = s.freeCount := rfl

/-! A timer set. -/

@[simp] theorem State.after_cur (s : State) (l n : Nat) (e : Ev) : (s.after l n e).cur = s.cur := rfl
@[simp] theorem State.after_slot (s : State) (l n : Nat) (e : Ev) : (s.after l n e).slot = s.slot := rfl
@[simp] theorem State.after_strands (s : State) (l n : Nat) (e : Ev) : (s.after l n e).strands = s.strands := rfl
@[simp] theorem State.after_cores (s : State) (l n : Nat) (e : Ev) : (s.after l n e).cores = s.cores := rfl
@[simp] theorem State.after_leaves (s : State) (l n : Nat) (e : Ev) : (s.after l n e).leaves = s.leaves := rfl
@[simp] theorem State.after_vfs (s : State) (l n : Nat) (e : Ev) : (s.after l n e).vfs = s.vfs := rfl
@[simp] theorem State.after_queues (s : State) (l n : Nat) (e : Ev) : (s.after l n e).queues = s.queues := rfl
@[simp] theorem State.after_hbm (s : State) (l n : Nat) (e : Ev) : (s.after l n e).hbm = s.hbm := rfl
@[simp] theorem State.after_hbmKeys (s : State) (l n : Nat) (e : Ev) : (s.after l n e).hbmKeys = s.hbmKeys := rfl
@[simp] theorem State.after_host (s : State) (l n : Nat) (e : Ev) : (s.after l n e).host = s.host := rfl
@[simp] theorem State.after_pool (s : State) (l n : Nat) (e : Ev) : (s.after l n e).pool = s.pool := rfl
@[simp] theorem State.after_contexts (s : State) (l n : Nat) (e : Ev) : (s.after l n e).contexts = s.contexts := rfl
@[simp] theorem State.after_gangs (s : State) (l n : Nat) (e : Ev) : (s.after l n e).gangs = s.gangs := rfl
@[simp] theorem State.after_gangsWritten (s : State) (l n : Nat) (e : Ev) : (s.after l n e).gangsWritten = s.gangsWritten := rfl
@[simp] theorem State.after_faultedGangs (s : State) (l n : Nat) (e : Ev) : (s.after l n e).faultedGangs = s.faultedGangs := rfl
@[simp] theorem State.after_allot (s : State) (l n : Nat) (e : Ev) : (s.after l n e).allot = s.allot := rfl
@[simp] theorem State.after_routes (s : State) (l n : Nat) (e : Ev) : (s.after l n e).routes = s.routes := rfl
@[simp] theorem State.after_kbshare (s : State) (l n : Nat) (e : Ev) : (s.after l n e).kbshare = s.kbshare := rfl
@[simp] theorem State.after_plcshare (s : State) (l n : Nat) (e : Ev) : (s.after l n e).plcshare = s.plcshare := rfl
@[simp] theorem State.after_rkslots (s : State) (l n : Nat) (e : Ev) : (s.after l n e).rkslots = s.rkslots := rfl
@[simp] theorem State.after_poolRegions (s : State) (l n : Nat) (e : Ev) : (s.after l n e).poolRegions = s.poolRegions := rfl
@[simp] theorem State.after_poolLines (s : State) (l n : Nat) (e : Ev) : (s.after l n e).poolLines = s.poolLines := rfl
@[simp] theorem State.after_slotWas (s : State) (l n : Nat) (e : Ev) : (s.after l n e).slotWas = s.slotWas := rfl
@[simp] theorem State.after_slotView (s : State) (l n : Nat) (e : Ev) : (s.after l n e).slotView = s.slotView := rfl
@[simp] theorem State.after_poolClear (s : State) (l n : Nat) (e : Ev) : (s.after l n e).poolClear = s.poolClear := rfl
@[simp] theorem State.after_spares (s : State) (l n : Nat) (e : Ev) : (s.after l n e).spares = s.spares := rfl
@[simp] theorem State.after_poolBad (s : State) (l n : Nat) (e : Ev) : (s.after l n e).poolBad = s.poolBad := rfl
@[simp] theorem State.after_trees (s : State) (l n : Nat) (e : Ev) : (s.after l n e).trees = s.trees := rfl
@[simp] theorem State.after_nodes (s : State) (l n : Nat) (e : Ev) : (s.after l n e).nodes = s.nodes := rfl
@[simp] theorem State.after_routerGangs (s : State) (l n : Nat) (e : Ev) : (s.after l n e).routerGangs = s.routerGangs := rfl
@[simp] theorem State.after_links (s : State) (l n : Nat) (e : Ev) : (s.after l n e).links = s.links := rfl
@[simp] theorem State.after_linkTry (s : State) (l n : Nat) (e : Ev) : (s.after l n e).linkTry = s.linkTry := rfl
@[simp] theorem State.after_portWait (s : State) (l n : Nat) (e : Ev) : (s.after l n e).portWait = s.portWait := rfl
@[simp] theorem State.after_pkg (s : State) (l n : Nat) (e : Ev) : (s.after l n e).pkg = s.pkg := rfl
@[simp] theorem State.after_leafOk (s : State) (l n : Nat) (e : Ev) : (s.after l n e).leafOk = s.leafOk := rfl
@[simp] theorem State.after_minimal (s : State) (l n : Nat) (e : Ev) : (s.after l n e).minimal = s.minimal := rfl
@[simp] theorem State.after_starts (s : State) (l n : Nat) (e : Ev) : (s.after l n e).starts = s.starts := rfl
@[simp] theorem State.after_isReady (s : State) (l n : Nat) (e : Ev) : (s.after l n e).isReady = s.isReady := rfl
@[simp] theorem State.after_bootCause (s : State) (l n : Nat) (e : Ev) : (s.after l n e).bootCause = s.bootCause := rfl
@[simp] theorem State.after_fwver (s : State) (l n : Nat) (e : Ev) : (s.after l n e).fwver = s.fwver := rfl
@[simp] theorem State.after_flashen (s : State) (l n : Nat) (e : Ev) : (s.after l n e).flashen = s.flashen := rfl
@[simp] theorem State.after_flash (s : State) (l n : Nat) (e : Ev) : (s.after l n e).flash = s.flash := rfl
@[simp] theorem State.after_powered (s : State) (l n : Nat) (e : Ev) : (s.after l n e).powered = s.powered := rfl
@[simp] theorem State.after_starting (s : State) (l n : Nat) (e : Ev) : (s.after l n e).starting = s.starting := rfl
@[simp] theorem State.after_startAt (s : State) (l n : Nat) (e : Ev) : (s.after l n e).startAt = s.startAt := rfl
@[simp] theorem State.after_mpDown (s : State) (l n : Nat) (e : Ev) : (s.after l n e).mpDown = s.mpDown := rfl
@[simp] theorem State.after_mpNext (s : State) (l n : Nat) (e : Ev) : (s.after l n e).mpNext = s.mpNext := rfl
@[simp] theorem State.after_watts (s : State) (l n : Nat) (e : Ev) : (s.after l n e).watts = s.watts := rfl
@[simp] theorem State.after_tj (s : State) (l n : Nat) (e : Ev) : (s.after l n e).tj = s.tj := rfl
@[simp] theorem State.after_thwarnBit (s : State) (l n : Nat) (e : Ev) : (s.after l n e).thwarnBit = s.thwarnBit := rfl
@[simp] theorem State.after_linkerr (s : State) (l n : Nat) (e : Ev) : (s.after l n e).linkerr = s.linkerr := rfl
@[simp] theorem State.after_routerAsks (s : State) (l n : Nat) (e : Ev) : (s.after l n e).routerAsks = s.routerAsks := rfl
@[simp] theorem State.after_routerTxn (s : State) (l n : Nat) (e : Ev) : (s.after l n e).routerTxn = s.routerTxn := rfl
@[simp] theorem State.after_linktr (s : State) (l n : Nat) (e : Ev) : (s.after l n e).linktr = s.linktr := rfl
@[simp] theorem State.after_mphb (s : State) (l n : Nat) (e : Ev) : (s.after l n e).mphb = s.mphb := rfl
@[simp] theorem State.after_hbmwin (s : State) (l n : Nat) (e : Ev) : (s.after l n e).hbmwin = s.hbmwin := rfl
@[simp] theorem State.after_ptcfg (s : State) (l n : Nat) (e : Ev) : (s.after l n e).ptcfg = s.ptcfg := rfl
@[simp] theorem State.after_lock (s : State) (l n : Nat) (e : Ev) : (s.after l n e).lock = s.lock := rfl
@[simp] theorem State.after_unlocked (s : State) (l n : Nat) (e : Ev) : (s.after l n e).unlocked = s.unlocked := rfl
@[simp] theorem State.after_offset (s : State) (l n : Nat) (e : Ev) : (s.after l n e).offset = s.offset := rfl
@[simp] theorem State.after_goodSyncs (s : State) (l n : Nat) (e : Ev) : (s.after l n e).goodSyncs = s.goodSyncs := rfl
@[simp] theorem State.after_syncAt (s : State) (l n : Nat) (e : Ev) : (s.after l n e).syncAt = s.syncAt := rfl
@[simp] theorem State.after_syncNext (s : State) (l n : Nat) (e : Ev) : (s.after l n e).syncNext = s.syncNext := rfl
@[simp] theorem State.after_pdelayT1 (s : State) (l n : Nat) (e : Ev) : (s.after l n e).pdelayT1 = s.pdelayT1 := rfl
@[simp] theorem State.after_pdelayT2 (s : State) (l n : Nat) (e : Ev) : (s.after l n e).pdelayT2 = s.pdelayT2 := rfl
@[simp] theorem State.after_pdelayT4 (s : State) (l n : Nat) (e : Ev) : (s.after l n e).pdelayT4 = s.pdelayT4 := rfl
@[simp] theorem State.after_linkDelay (s : State) (l n : Nat) (e : Ev) : (s.after l n e).linkDelay = s.linkDelay := rfl
@[simp] theorem State.after_slew (s : State) (l n : Nat) (e : Ev) : (s.after l n e).slew = s.slew := rfl
@[simp] theorem State.after_spdm (s : State) (l n : Nat) (e : Ev) : (s.after l n e).spdm = s.spdm := rfl
@[simp] theorem State.after_now (s : State) (l n : Nat) (e : Ev) : (s.after l n e).now = s.now := rfl
@[simp] theorem State.after_nowFrac (s : State) (l n : Nat) (e : Ev) : (s.after l n e).nowFrac = s.nowFrac := rfl
@[simp] theorem State.after_clk (s : State) (l n : Nat) (e : Ev) : (s.after l n e).clk = s.clk := rfl
@[simp] theorem State.after_turn (s : State) (l n : Nat) (e : Ev) : (s.after l n e).turn = s.turn := rfl
@[simp] theorem State.after_agenda (s : State) (l n : Nat) (e : Ev) : (s.after l n e).agenda = s.agenda := rfl
@[simp] theorem State.after_inbox (s : State) (l n : Nat) (e : Ev) : (s.after l n e).inbox = s.inbox := rfl
@[simp] theorem State.after_out (s : State) (l n : Nat) (e : Ev) : (s.after l n e).out = s.out := rfl
@[simp] theorem State.after_freeCount (s : State) (l n : Nat) (e : Ev) : (s.after l n e).freeCount = s.freeCount := rfl

/-! A scalar register written. -/

@[simp] theorem Strand.wrS_pregs (t : Strand) (n : BitVec 6) (x : W64) : (t.wrS n x).pregs = t.pregs := by
  unfold Strand.wrS; split <;> rfl
@[simp] theorem Strand.wrS_kregs (t : Strand) (n : BitVec 6) (x : W64) : (t.wrS n x).kregs = t.kregs := by
  unfold Strand.wrS; split <;> rfl
@[simp] theorem Strand.wrS_vregs (t : Strand) (n : BitVec 6) (x : W64) : (t.wrS n x).vregs = t.vregs := by
  unfold Strand.wrS; split <;> rfl
@[simp] theorem Strand.wrS_cbs (t : Strand) (n : BitVec 6) (x : W64) : (t.wrS n x).cbs = t.cbs := by
  unfold Strand.wrS; split <;> rfl
@[simp] theorem Strand.wrS_tks (t : Strand) (n : BitVec 6) (x : W64) : (t.wrS n x).tks = t.tks := by
  unfold Strand.wrS; split <;> rfl
@[simp] theorem Strand.wrS_latches (t : Strand) (n : BitVec 6) (x : W64) : (t.wrS n x).latches = t.latches := by
  unfold Strand.wrS; split <;> rfl
@[simp] theorem Strand.wrS_loop0 (t : Strand) (n : BitVec 6) (x : W64) : (t.wrS n x).loop0 = t.loop0 := by
  unfold Strand.wrS; split <;> rfl
@[simp] theorem Strand.wrS_loop1 (t : Strand) (n : BitVec 6) (x : W64) : (t.wrS n x).loop1 = t.loop1 := by
  unfold Strand.wrS; split <;> rfl
@[simp] theorem Strand.wrS_late (t : Strand) (n : BitVec 6) (x : W64) : (t.wrS n x).late = t.late := by
  unfold Strand.wrS; split <;> rfl
@[simp] theorem Strand.wrS_rmode (t : Strand) (n : BitVec 6) (x : W64) : (t.wrS n x).rmode = t.rmode := by
  unfold Strand.wrS; split <;> rfl
@[simp] theorem Strand.wrS_ftz (t : Strand) (n : BitVec 6) (x : W64) : (t.wrS n x).ftz = t.ftz := by
  unfold Strand.wrS; split <;> rfl
@[simp] theorem Strand.wrS_ledit (t : Strand) (n : BitVec 6) (x : W64) : (t.wrS n x).ledit = t.ledit := by
  unfold Strand.wrS; split <;> rfl
@[simp] theorem Strand.wrS_rvb (t : Strand) (n : BitVec 6) (x : W64) : (t.wrS n x).rvb = t.rvb := by
  unfold Strand.wrS; split <;> rfl
@[simp] theorem Strand.wrS_rpb (t : Strand) (n : BitVec 6) (x : W64) : (t.wrS n x).rpb = t.rpb := by
  unfold Strand.wrS; split <;> rfl
@[simp] theorem Strand.wrS_workid (t : Strand) (n : BitVec 6) (x : W64) : (t.wrS n x).workid = t.workid := by
  unfold Strand.wrS; split <;> rfl
@[simp] theorem Strand.wrS_bank (t : Strand) (n : BitVec 6) (x : W64) : (t.wrS n x).bank = t.bank := by
  unfold Strand.wrS; split <;> rfl
@[simp] theorem Strand.wrS_trap (t : Strand) (n : BitVec 6) (x : W64) : (t.wrS n x).trap = t.trap := by
  unfold Strand.wrS; split <;> rfl
@[simp] theorem Strand.wrS_safeCount (t : Strand) (n : BitVec 6) (x : W64) : (t.wrS n x).safeCount = t.safeCount := by
  unfold Strand.wrS; split <;> rfl
@[simp] theorem Strand.wrS_safeOver (t : Strand) (n : BitVec 6) (x : W64) : (t.wrS n x).safeOver = t.safeOver := by
  unfold Strand.wrS; split <;> rfl
@[simp] theorem Strand.wrS_super (t : Strand) (n : BitVec 6) (x : W64) : (t.wrS n x).super = t.super := by
  unfold Strand.wrS; split <;> rfl
@[simp] theorem Strand.wrS_trapReq (t : Strand) (n : BitVec 6) (x : W64) : (t.wrS n x).trapReq = t.trapReq := by
  unfold Strand.wrS; split <;> rfl
@[simp] theorem Strand.wrS_pc (t : Strand) (n : BitVec 6) (x : W64) : (t.wrS n x).pc = t.pc := by
  unfold Strand.wrS; split <;> rfl
@[simp] theorem Strand.wrS_gangBar (t : Strand) (n : BitVec 6) (x : W64) : (t.wrS n x).gangBar = t.gangBar := by
  unfold Strand.wrS; split <;> rfl
@[simp] theorem Strand.wrS_fillAt (t : Strand) (n : BitVec 6) (x : W64) : (t.wrS n x).fillAt = t.fillAt := by
  unfold Strand.wrS; split <;> rfl
@[simp] theorem Strand.wrS_inRun (t : Strand) (n : BitVec 6) (x : W64) : (t.wrS n x).inRun = t.inRun := by
  unfold Strand.wrS; split <;> rfl
@[simp] theorem Strand.wrS_pend (t : Strand) (n : BitVec 6) (x : W64) : (t.wrS n x).pend = t.pend := by
  unfold Strand.wrS; split <;> rfl
@[simp] theorem Strand.wrS_ibuf (t : Strand) (n : BitVec 6) (x : W64) : (t.wrS n x).ibuf = t.ibuf := by
  unfold Strand.wrS; split <;> rfl
@[simp] theorem Strand.wrS_stale (t : Strand) (n : BitVec 6) (x : W64) : (t.wrS n x).stale = t.stale := by
  unfold Strand.wrS; split <;> rfl
@[simp] theorem Strand.wrS_view (t : Strand) (n : BitVec 6) (x : W64) : (t.wrS n x).view = t.view := by
  unfold Strand.wrS; split <;> rfl
@[simp] theorem Strand.wrS_lateHeld (t : Strand) (n : BitVec 6) (x : W64) : (t.wrS n x).lateHeld = t.lateHeld := by
  unfold Strand.wrS; split <;> rfl
@[simp] theorem Strand.wrS_latch (t : Strand) (n : BitVec 6) (x : W64) : (t.wrS n x).latch = t.latch := by
  unfold Strand.wrS; split <;> rfl
@[simp] theorem Strand.wrS_trail (t : Strand) (n : BitVec 6) (x : W64) : (t.wrS n x).trail = t.trail := by
  unfold Strand.wrS; split <;> rfl
@[simp] theorem Strand.wrS_trailSafe (t : Strand) (n : BitVec 6) (x : W64) : (t.wrS n x).trailSafe = t.trailSafe := by
  unfold Strand.wrS; split <;> rfl
@[simp] theorem Strand.wrS_flights (t : Strand) (n : BitVec 6) (x : W64) : (t.wrS n x).flights = t.flights := by
  unfold Strand.wrS; split <;> rfl
@[simp] theorem Strand.wrS_flightSeq (t : Strand) (n : BitVec 6) (x : W64) : (t.wrS n x).flightSeq = t.flightSeq := by
  unfold Strand.wrS; split <;> rfl
@[simp] theorem Strand.wrS_loads (t : Strand) (n : BitVec 6) (x : W64) : (t.wrS n x).loads = t.loads := by
  unfold Strand.wrS; split <;> rfl
@[simp] theorem Strand.wrS_stores (t : Strand) (n : BitVec 6) (x : W64) : (t.wrS n x).stores = t.stores := by
  unfold Strand.wrS; split <;> rfl
@[simp] theorem Strand.wrS_sent (t : Strand) (n : BitVec 6) (x : W64) : (t.wrS n x).sent = t.sent := by
  unfold Strand.wrS; split <;> rfl
@[simp] theorem Strand.wrS_fences (t : Strand) (n : BitVec 6) (x : W64) : (t.wrS n x).fences = t.fences := by
  unfold Strand.wrS; split <;> rfl
@[simp] theorem Strand.wrS_waits (t : Strand) (n : BitVec 6) (x : W64) : (t.wrS n x).waits = t.waits := by
  unfold Strand.wrS; split <;> rfl
@[simp] theorem Strand.wrS_memSeq (t : Strand) (n : BitVec 6) (x : W64) : (t.wrS n x).memSeq = t.memSeq := by
  unfold Strand.wrS; split <;> rfl
@[simp] theorem Strand.wrS_reports (t : Strand) (n : BitVec 6) (x : W64) : (t.wrS n x).reports = t.reports := by
  unfold Strand.wrS; split <;> rfl
@[simp] theorem Strand.wrS_walk (t : Strand) (n : BitVec 6) (x : W64) : (t.wrS n x).walk = t.walk := by
  unfold Strand.wrS; split <;> rfl
@[simp] theorem Strand.wrS_xputsOut (t : Strand) (n : BitVec 6) (x : W64) : (t.wrS n x).xputsOut = t.xputsOut := by
  unfold Strand.wrS; split <;> rfl
@[simp] theorem Strand.wrS_tasks (t : Strand) (n : BitVec 6) (x : W64) : (t.wrS n x).tasks = t.tasks := by
  unfold Strand.wrS; split <;> rfl
@[simp] theorem Strand.wrS_running (t : Strand) (n : BitVec 6) (x : W64) : (t.wrS n x).running = t.running := by
  unfold Strand.wrS; split <;> rfl
@[simp] theorem Strand.wrS_last (t : Strand) (n : BitVec 6) (x : W64) : (t.wrS n x).last = t.last := by
  unfold Strand.wrS; split <;> rfl
@[simp] theorem Strand.wrS_issued (t : Strand) (n : BitVec 6) (x : W64) : (t.wrS n x).issued = t.issued := by
  unfold Strand.wrS; split <;> rfl
@[simp] theorem Strand.wrS_failed (t : Strand) (n : BitVec 6) (x : W64) : (t.wrS n x).failed = t.failed := by
  unfold Strand.wrS; split <;> rfl
@[simp] theorem Strand.wrS_stop (t : Strand) (n : BitVec 6) (x : W64) : (t.wrS n x).stop = t.stop := by
  unfold Strand.wrS; split <;> rfl
@[simp] theorem Strand.wrS_hold (t : Strand) (n : BitVec 6) (x : W64) : (t.wrS n x).hold = t.hold := by
  unfold Strand.wrS; split <;> rfl
@[simp] theorem Strand.wrS_holdStarted (t : Strand) (n : BitVec 6) (x : W64) : (t.wrS n x).holdStarted = t.holdStarted := by
  unfold Strand.wrS; split <;> rfl
@[simp] theorem Strand.wrS_retiring (t : Strand) (n : BitVec 6) (x : W64) : (t.wrS n x).retiring = t.retiring := by
  unfold Strand.wrS; split <;> rfl
@[simp] theorem Strand.wrS_abortWait (t : Strand) (n : BitVec 6) (x : W64) : (t.wrS n x).abortWait = t.abortWait := by
  unfold Strand.wrS; split <;> rfl
@[simp] theorem Strand.wrS_refetch (t : Strand) (n : BitVec 6) (x : W64) : (t.wrS n x).refetch = t.refetch := by
  unfold Strand.wrS; split <;> rfl
@[simp] theorem Strand.wrS_next (t : Strand) (n : BitVec 6) (x : W64) : (t.wrS n x).next = t.next := by
  unfold Strand.wrS; split <;> rfl

/-! A predicate written. -/

@[simp] theorem Strand.wrP_sregs (t : Strand) (n : BitVec 6) (b : Bool) : (t.wrP n b).sregs = t.sregs := by
  unfold Strand.wrP; split <;> rfl
@[simp] theorem Strand.wrP_kregs (t : Strand) (n : BitVec 6) (b : Bool) : (t.wrP n b).kregs = t.kregs := by
  unfold Strand.wrP; split <;> rfl
@[simp] theorem Strand.wrP_vregs (t : Strand) (n : BitVec 6) (b : Bool) : (t.wrP n b).vregs = t.vregs := by
  unfold Strand.wrP; split <;> rfl
@[simp] theorem Strand.wrP_cbs (t : Strand) (n : BitVec 6) (b : Bool) : (t.wrP n b).cbs = t.cbs := by
  unfold Strand.wrP; split <;> rfl
@[simp] theorem Strand.wrP_tks (t : Strand) (n : BitVec 6) (b : Bool) : (t.wrP n b).tks = t.tks := by
  unfold Strand.wrP; split <;> rfl
@[simp] theorem Strand.wrP_latches (t : Strand) (n : BitVec 6) (b : Bool) : (t.wrP n b).latches = t.latches := by
  unfold Strand.wrP; split <;> rfl
@[simp] theorem Strand.wrP_loop0 (t : Strand) (n : BitVec 6) (b : Bool) : (t.wrP n b).loop0 = t.loop0 := by
  unfold Strand.wrP; split <;> rfl
@[simp] theorem Strand.wrP_loop1 (t : Strand) (n : BitVec 6) (b : Bool) : (t.wrP n b).loop1 = t.loop1 := by
  unfold Strand.wrP; split <;> rfl
@[simp] theorem Strand.wrP_late (t : Strand) (n : BitVec 6) (b : Bool) : (t.wrP n b).late = t.late := by
  unfold Strand.wrP; split <;> rfl
@[simp] theorem Strand.wrP_rmode (t : Strand) (n : BitVec 6) (b : Bool) : (t.wrP n b).rmode = t.rmode := by
  unfold Strand.wrP; split <;> rfl
@[simp] theorem Strand.wrP_ftz (t : Strand) (n : BitVec 6) (b : Bool) : (t.wrP n b).ftz = t.ftz := by
  unfold Strand.wrP; split <;> rfl
@[simp] theorem Strand.wrP_ledit (t : Strand) (n : BitVec 6) (b : Bool) : (t.wrP n b).ledit = t.ledit := by
  unfold Strand.wrP; split <;> rfl
@[simp] theorem Strand.wrP_rvb (t : Strand) (n : BitVec 6) (b : Bool) : (t.wrP n b).rvb = t.rvb := by
  unfold Strand.wrP; split <;> rfl
@[simp] theorem Strand.wrP_rpb (t : Strand) (n : BitVec 6) (b : Bool) : (t.wrP n b).rpb = t.rpb := by
  unfold Strand.wrP; split <;> rfl
@[simp] theorem Strand.wrP_workid (t : Strand) (n : BitVec 6) (b : Bool) : (t.wrP n b).workid = t.workid := by
  unfold Strand.wrP; split <;> rfl
@[simp] theorem Strand.wrP_bank (t : Strand) (n : BitVec 6) (b : Bool) : (t.wrP n b).bank = t.bank := by
  unfold Strand.wrP; split <;> rfl
@[simp] theorem Strand.wrP_trap (t : Strand) (n : BitVec 6) (b : Bool) : (t.wrP n b).trap = t.trap := by
  unfold Strand.wrP; split <;> rfl
@[simp] theorem Strand.wrP_safeCount (t : Strand) (n : BitVec 6) (b : Bool) : (t.wrP n b).safeCount = t.safeCount := by
  unfold Strand.wrP; split <;> rfl
@[simp] theorem Strand.wrP_safeOver (t : Strand) (n : BitVec 6) (b : Bool) : (t.wrP n b).safeOver = t.safeOver := by
  unfold Strand.wrP; split <;> rfl
@[simp] theorem Strand.wrP_super (t : Strand) (n : BitVec 6) (b : Bool) : (t.wrP n b).super = t.super := by
  unfold Strand.wrP; split <;> rfl
@[simp] theorem Strand.wrP_trapReq (t : Strand) (n : BitVec 6) (b : Bool) : (t.wrP n b).trapReq = t.trapReq := by
  unfold Strand.wrP; split <;> rfl
@[simp] theorem Strand.wrP_pc (t : Strand) (n : BitVec 6) (b : Bool) : (t.wrP n b).pc = t.pc := by
  unfold Strand.wrP; split <;> rfl
@[simp] theorem Strand.wrP_gangBar (t : Strand) (n : BitVec 6) (b : Bool) : (t.wrP n b).gangBar = t.gangBar := by
  unfold Strand.wrP; split <;> rfl
@[simp] theorem Strand.wrP_fillAt (t : Strand) (n : BitVec 6) (b : Bool) : (t.wrP n b).fillAt = t.fillAt := by
  unfold Strand.wrP; split <;> rfl
@[simp] theorem Strand.wrP_inRun (t : Strand) (n : BitVec 6) (b : Bool) : (t.wrP n b).inRun = t.inRun := by
  unfold Strand.wrP; split <;> rfl
@[simp] theorem Strand.wrP_pend (t : Strand) (n : BitVec 6) (b : Bool) : (t.wrP n b).pend = t.pend := by
  unfold Strand.wrP; split <;> rfl
@[simp] theorem Strand.wrP_ibuf (t : Strand) (n : BitVec 6) (b : Bool) : (t.wrP n b).ibuf = t.ibuf := by
  unfold Strand.wrP; split <;> rfl
@[simp] theorem Strand.wrP_stale (t : Strand) (n : BitVec 6) (b : Bool) : (t.wrP n b).stale = t.stale := by
  unfold Strand.wrP; split <;> rfl
@[simp] theorem Strand.wrP_view (t : Strand) (n : BitVec 6) (b : Bool) : (t.wrP n b).view = t.view := by
  unfold Strand.wrP; split <;> rfl
@[simp] theorem Strand.wrP_lateHeld (t : Strand) (n : BitVec 6) (b : Bool) : (t.wrP n b).lateHeld = t.lateHeld := by
  unfold Strand.wrP; split <;> rfl
@[simp] theorem Strand.wrP_latch (t : Strand) (n : BitVec 6) (b : Bool) : (t.wrP n b).latch = t.latch := by
  unfold Strand.wrP; split <;> rfl
@[simp] theorem Strand.wrP_trail (t : Strand) (n : BitVec 6) (b : Bool) : (t.wrP n b).trail = t.trail := by
  unfold Strand.wrP; split <;> rfl
@[simp] theorem Strand.wrP_trailSafe (t : Strand) (n : BitVec 6) (b : Bool) : (t.wrP n b).trailSafe = t.trailSafe := by
  unfold Strand.wrP; split <;> rfl
@[simp] theorem Strand.wrP_flights (t : Strand) (n : BitVec 6) (b : Bool) : (t.wrP n b).flights = t.flights := by
  unfold Strand.wrP; split <;> rfl
@[simp] theorem Strand.wrP_flightSeq (t : Strand) (n : BitVec 6) (b : Bool) : (t.wrP n b).flightSeq = t.flightSeq := by
  unfold Strand.wrP; split <;> rfl
@[simp] theorem Strand.wrP_loads (t : Strand) (n : BitVec 6) (b : Bool) : (t.wrP n b).loads = t.loads := by
  unfold Strand.wrP; split <;> rfl
@[simp] theorem Strand.wrP_stores (t : Strand) (n : BitVec 6) (b : Bool) : (t.wrP n b).stores = t.stores := by
  unfold Strand.wrP; split <;> rfl
@[simp] theorem Strand.wrP_sent (t : Strand) (n : BitVec 6) (b : Bool) : (t.wrP n b).sent = t.sent := by
  unfold Strand.wrP; split <;> rfl
@[simp] theorem Strand.wrP_fences (t : Strand) (n : BitVec 6) (b : Bool) : (t.wrP n b).fences = t.fences := by
  unfold Strand.wrP; split <;> rfl
@[simp] theorem Strand.wrP_waits (t : Strand) (n : BitVec 6) (b : Bool) : (t.wrP n b).waits = t.waits := by
  unfold Strand.wrP; split <;> rfl
@[simp] theorem Strand.wrP_memSeq (t : Strand) (n : BitVec 6) (b : Bool) : (t.wrP n b).memSeq = t.memSeq := by
  unfold Strand.wrP; split <;> rfl
@[simp] theorem Strand.wrP_reports (t : Strand) (n : BitVec 6) (b : Bool) : (t.wrP n b).reports = t.reports := by
  unfold Strand.wrP; split <;> rfl
@[simp] theorem Strand.wrP_walk (t : Strand) (n : BitVec 6) (b : Bool) : (t.wrP n b).walk = t.walk := by
  unfold Strand.wrP; split <;> rfl
@[simp] theorem Strand.wrP_xputsOut (t : Strand) (n : BitVec 6) (b : Bool) : (t.wrP n b).xputsOut = t.xputsOut := by
  unfold Strand.wrP; split <;> rfl
@[simp] theorem Strand.wrP_tasks (t : Strand) (n : BitVec 6) (b : Bool) : (t.wrP n b).tasks = t.tasks := by
  unfold Strand.wrP; split <;> rfl
@[simp] theorem Strand.wrP_running (t : Strand) (n : BitVec 6) (b : Bool) : (t.wrP n b).running = t.running := by
  unfold Strand.wrP; split <;> rfl
@[simp] theorem Strand.wrP_last (t : Strand) (n : BitVec 6) (b : Bool) : (t.wrP n b).last = t.last := by
  unfold Strand.wrP; split <;> rfl
@[simp] theorem Strand.wrP_issued (t : Strand) (n : BitVec 6) (b : Bool) : (t.wrP n b).issued = t.issued := by
  unfold Strand.wrP; split <;> rfl
@[simp] theorem Strand.wrP_failed (t : Strand) (n : BitVec 6) (b : Bool) : (t.wrP n b).failed = t.failed := by
  unfold Strand.wrP; split <;> rfl
@[simp] theorem Strand.wrP_stop (t : Strand) (n : BitVec 6) (b : Bool) : (t.wrP n b).stop = t.stop := by
  unfold Strand.wrP; split <;> rfl
@[simp] theorem Strand.wrP_hold (t : Strand) (n : BitVec 6) (b : Bool) : (t.wrP n b).hold = t.hold := by
  unfold Strand.wrP; split <;> rfl
@[simp] theorem Strand.wrP_holdStarted (t : Strand) (n : BitVec 6) (b : Bool) : (t.wrP n b).holdStarted = t.holdStarted := by
  unfold Strand.wrP; split <;> rfl
@[simp] theorem Strand.wrP_retiring (t : Strand) (n : BitVec 6) (b : Bool) : (t.wrP n b).retiring = t.retiring := by
  unfold Strand.wrP; split <;> rfl
@[simp] theorem Strand.wrP_abortWait (t : Strand) (n : BitVec 6) (b : Bool) : (t.wrP n b).abortWait = t.abortWait := by
  unfold Strand.wrP; split <;> rfl
@[simp] theorem Strand.wrP_refetch (t : Strand) (n : BitVec 6) (b : Bool) : (t.wrP n b).refetch = t.refetch := by
  unfold Strand.wrP; split <;> rfl
@[simp] theorem Strand.wrP_next (t : Strand) (n : BitVec 6) (b : Bool) : (t.wrP n b).next = t.next := by
  unfold Strand.wrP; split <;> rfl

/-! A result landed. -/

@[simp] theorem Strand.land_pregs (t : Strand) (l : Landing) : (t.land l).pregs = t.pregs := by
  cases l <;> simp only [Strand.land] <;> first | rfl | (split <;> rfl)
@[simp] theorem Strand.land_cbs (t : Strand) (l : Landing) : (t.land l).cbs = t.cbs := by
  cases l <;> simp only [Strand.land] <;> first | rfl | (split <;> rfl)
@[simp] theorem Strand.land_tks (t : Strand) (l : Landing) : (t.land l).tks = t.tks := by
  cases l <;> simp only [Strand.land] <;> first | rfl | (split <;> rfl)
@[simp] theorem Strand.land_loop0 (t : Strand) (l : Landing) : (t.land l).loop0 = t.loop0 := by
  cases l <;> simp only [Strand.land] <;> first | rfl | (split <;> rfl)
@[simp] theorem Strand.land_loop1 (t : Strand) (l : Landing) : (t.land l).loop1 = t.loop1 := by
  cases l <;> simp only [Strand.land] <;> first | rfl | (split <;> rfl)
@[simp] theorem Strand.land_late (t : Strand) (l : Landing) : (t.land l).late = t.late := by
  cases l <;> simp only [Strand.land] <;> first | rfl | (split <;> rfl)
@[simp] theorem Strand.land_rmode (t : Strand) (l : Landing) : (t.land l).rmode = t.rmode := by
  cases l <;> simp only [Strand.land] <;> first | rfl | (split <;> rfl)
@[simp] theorem Strand.land_ftz (t : Strand) (l : Landing) : (t.land l).ftz = t.ftz := by
  cases l <;> simp only [Strand.land] <;> first | rfl | (split <;> rfl)
@[simp] theorem Strand.land_ledit (t : Strand) (l : Landing) : (t.land l).ledit = t.ledit := by
  cases l <;> simp only [Strand.land] <;> first | rfl | (split <;> rfl)
@[simp] theorem Strand.land_rvb (t : Strand) (l : Landing) : (t.land l).rvb = t.rvb := by
  cases l <;> simp only [Strand.land] <;> first | rfl | (split <;> rfl)
@[simp] theorem Strand.land_rpb (t : Strand) (l : Landing) : (t.land l).rpb = t.rpb := by
  cases l <;> simp only [Strand.land] <;> first | rfl | (split <;> rfl)
@[simp] theorem Strand.land_workid (t : Strand) (l : Landing) : (t.land l).workid = t.workid := by
  cases l <;> simp only [Strand.land] <;> first | rfl | (split <;> rfl)
@[simp] theorem Strand.land_bank (t : Strand) (l : Landing) : (t.land l).bank = t.bank := by
  cases l <;> simp only [Strand.land] <;> first | rfl | (split <;> rfl)
@[simp] theorem Strand.land_trap (t : Strand) (l : Landing) : (t.land l).trap = t.trap := by
  cases l <;> simp only [Strand.land] <;> first | rfl | (split <;> rfl)
@[simp] theorem Strand.land_safeCount (t : Strand) (l : Landing) : (t.land l).safeCount = t.safeCount := by
  cases l <;> simp only [Strand.land] <;> first | rfl | (split <;> rfl)
@[simp] theorem Strand.land_safeOver (t : Strand) (l : Landing) : (t.land l).safeOver = t.safeOver := by
  cases l <;> simp only [Strand.land] <;> first | rfl | (split <;> rfl)
@[simp] theorem Strand.land_super (t : Strand) (l : Landing) : (t.land l).super = t.super := by
  cases l <;> simp only [Strand.land] <;> first | rfl | (split <;> rfl)
@[simp] theorem Strand.land_trapReq (t : Strand) (l : Landing) : (t.land l).trapReq = t.trapReq := by
  cases l <;> simp only [Strand.land] <;> first | rfl | (split <;> rfl)
@[simp] theorem Strand.land_pc (t : Strand) (l : Landing) : (t.land l).pc = t.pc := by
  cases l <;> simp only [Strand.land] <;> first | rfl | (split <;> rfl)
@[simp] theorem Strand.land_gangBar (t : Strand) (l : Landing) : (t.land l).gangBar = t.gangBar := by
  cases l <;> simp only [Strand.land] <;> first | rfl | (split <;> rfl)
@[simp] theorem Strand.land_fillAt (t : Strand) (l : Landing) : (t.land l).fillAt = t.fillAt := by
  cases l <;> simp only [Strand.land] <;> first | rfl | (split <;> rfl)
@[simp] theorem Strand.land_inRun (t : Strand) (l : Landing) : (t.land l).inRun = t.inRun := by
  cases l <;> simp only [Strand.land] <;> first | rfl | (split <;> rfl)
@[simp] theorem Strand.land_pend (t : Strand) (l : Landing) : (t.land l).pend = t.pend := by
  cases l <;> simp only [Strand.land] <;> first | rfl | (split <;> rfl)
@[simp] theorem Strand.land_ibuf (t : Strand) (l : Landing) : (t.land l).ibuf = t.ibuf := by
  cases l <;> simp only [Strand.land] <;> first | rfl | (split <;> rfl)
@[simp] theorem Strand.land_stale (t : Strand) (l : Landing) : (t.land l).stale = t.stale := by
  cases l <;> simp only [Strand.land] <;> first | rfl | (split <;> rfl)
@[simp] theorem Strand.land_view (t : Strand) (l : Landing) : (t.land l).view = t.view := by
  cases l <;> simp only [Strand.land] <;> first | rfl | (split <;> rfl)
@[simp] theorem Strand.land_lateHeld (t : Strand) (l : Landing) : (t.land l).lateHeld = t.lateHeld := by
  cases l <;> simp only [Strand.land] <;> first | rfl | (split <;> rfl)
@[simp] theorem Strand.land_latch (t : Strand) (l : Landing) : (t.land l).latch = t.latch := by
  cases l <;> simp only [Strand.land] <;> first | rfl | (split <;> rfl)
@[simp] theorem Strand.land_trail (t : Strand) (l : Landing) : (t.land l).trail = t.trail := by
  cases l <;> simp only [Strand.land] <;> first | rfl | (split <;> rfl)
@[simp] theorem Strand.land_trailSafe (t : Strand) (l : Landing) : (t.land l).trailSafe = t.trailSafe := by
  cases l <;> simp only [Strand.land] <;> first | rfl | (split <;> rfl)
@[simp] theorem Strand.land_flights (t : Strand) (l : Landing) : (t.land l).flights = t.flights := by
  cases l <;> simp only [Strand.land] <;> first | rfl | (split <;> rfl)
@[simp] theorem Strand.land_flightSeq (t : Strand) (l : Landing) : (t.land l).flightSeq = t.flightSeq := by
  cases l <;> simp only [Strand.land] <;> first | rfl | (split <;> rfl)
@[simp] theorem Strand.land_loads (t : Strand) (l : Landing) : (t.land l).loads = t.loads := by
  cases l <;> simp only [Strand.land] <;> first | rfl | (split <;> rfl)
@[simp] theorem Strand.land_stores (t : Strand) (l : Landing) : (t.land l).stores = t.stores := by
  cases l <;> simp only [Strand.land] <;> first | rfl | (split <;> rfl)
@[simp] theorem Strand.land_sent (t : Strand) (l : Landing) : (t.land l).sent = t.sent := by
  cases l <;> simp only [Strand.land] <;> first | rfl | (split <;> rfl)
@[simp] theorem Strand.land_fences (t : Strand) (l : Landing) : (t.land l).fences = t.fences := by
  cases l <;> simp only [Strand.land] <;> first | rfl | (split <;> rfl)
@[simp] theorem Strand.land_waits (t : Strand) (l : Landing) : (t.land l).waits = t.waits := by
  cases l <;> simp only [Strand.land] <;> first | rfl | (split <;> rfl)
@[simp] theorem Strand.land_memSeq (t : Strand) (l : Landing) : (t.land l).memSeq = t.memSeq := by
  cases l <;> simp only [Strand.land] <;> first | rfl | (split <;> rfl)
@[simp] theorem Strand.land_reports (t : Strand) (l : Landing) : (t.land l).reports = t.reports := by
  cases l <;> simp only [Strand.land] <;> first | rfl | (split <;> rfl)
@[simp] theorem Strand.land_walk (t : Strand) (l : Landing) : (t.land l).walk = t.walk := by
  cases l <;> simp only [Strand.land] <;> first | rfl | (split <;> rfl)
@[simp] theorem Strand.land_xputsOut (t : Strand) (l : Landing) : (t.land l).xputsOut = t.xputsOut := by
  cases l <;> simp only [Strand.land] <;> first | rfl | (split <;> rfl)
@[simp] theorem Strand.land_tasks (t : Strand) (l : Landing) : (t.land l).tasks = t.tasks := by
  cases l <;> simp only [Strand.land] <;> first | rfl | (split <;> rfl)
@[simp] theorem Strand.land_running (t : Strand) (l : Landing) : (t.land l).running = t.running := by
  cases l <;> simp only [Strand.land] <;> first | rfl | (split <;> rfl)
@[simp] theorem Strand.land_last (t : Strand) (l : Landing) : (t.land l).last = t.last := by
  cases l <;> simp only [Strand.land] <;> first | rfl | (split <;> rfl)
@[simp] theorem Strand.land_issued (t : Strand) (l : Landing) : (t.land l).issued = t.issued := by
  cases l <;> simp only [Strand.land] <;> first | rfl | (split <;> rfl)
@[simp] theorem Strand.land_failed (t : Strand) (l : Landing) : (t.land l).failed = t.failed := by
  cases l <;> simp only [Strand.land] <;> first | rfl | (split <;> rfl)
@[simp] theorem Strand.land_stop (t : Strand) (l : Landing) : (t.land l).stop = t.stop := by
  cases l <;> simp only [Strand.land] <;> first | rfl | (split <;> rfl)
@[simp] theorem Strand.land_hold (t : Strand) (l : Landing) : (t.land l).hold = t.hold := by
  cases l <;> simp only [Strand.land] <;> first | rfl | (split <;> rfl)
@[simp] theorem Strand.land_holdStarted (t : Strand) (l : Landing) : (t.land l).holdStarted = t.holdStarted := by
  cases l <;> simp only [Strand.land] <;> first | rfl | (split <;> rfl)
@[simp] theorem Strand.land_retiring (t : Strand) (l : Landing) : (t.land l).retiring = t.retiring := by
  cases l <;> simp only [Strand.land] <;> first | rfl | (split <;> rfl)
@[simp] theorem Strand.land_abortWait (t : Strand) (l : Landing) : (t.land l).abortWait = t.abortWait := by
  cases l <;> simp only [Strand.land] <;> first | rfl | (split <;> rfl)
@[simp] theorem Strand.land_refetch (t : Strand) (l : Landing) : (t.land l).refetch = t.refetch := by
  cases l <;> simp only [Strand.land] <;> first | rfl | (split <;> rfl)
@[simp] theorem Strand.land_next (t : Strand) (l : Landing) : (t.land l).next = t.next := by
  cases l <;> simp only [Strand.land] <;> first | rfl | (split <;> rfl)

/-! A loop level changed. -/

@[simp] theorem Strand.onLoop_sregs (t : Strand) (b : Bool) (g : Loop → Loop) : (t.onLoop b g).sregs = t.sregs := by
  unfold Strand.onLoop; split <;> rfl
@[simp] theorem Strand.onLoop_pregs (t : Strand) (b : Bool) (g : Loop → Loop) : (t.onLoop b g).pregs = t.pregs := by
  unfold Strand.onLoop; split <;> rfl
@[simp] theorem Strand.onLoop_kregs (t : Strand) (b : Bool) (g : Loop → Loop) : (t.onLoop b g).kregs = t.kregs := by
  unfold Strand.onLoop; split <;> rfl
@[simp] theorem Strand.onLoop_vregs (t : Strand) (b : Bool) (g : Loop → Loop) : (t.onLoop b g).vregs = t.vregs := by
  unfold Strand.onLoop; split <;> rfl
@[simp] theorem Strand.onLoop_cbs (t : Strand) (b : Bool) (g : Loop → Loop) : (t.onLoop b g).cbs = t.cbs := by
  unfold Strand.onLoop; split <;> rfl
@[simp] theorem Strand.onLoop_tks (t : Strand) (b : Bool) (g : Loop → Loop) : (t.onLoop b g).tks = t.tks := by
  unfold Strand.onLoop; split <;> rfl
@[simp] theorem Strand.onLoop_latches (t : Strand) (b : Bool) (g : Loop → Loop) : (t.onLoop b g).latches = t.latches := by
  unfold Strand.onLoop; split <;> rfl
@[simp] theorem Strand.onLoop_late (t : Strand) (b : Bool) (g : Loop → Loop) : (t.onLoop b g).late = t.late := by
  unfold Strand.onLoop; split <;> rfl
@[simp] theorem Strand.onLoop_rmode (t : Strand) (b : Bool) (g : Loop → Loop) : (t.onLoop b g).rmode = t.rmode := by
  unfold Strand.onLoop; split <;> rfl
@[simp] theorem Strand.onLoop_ftz (t : Strand) (b : Bool) (g : Loop → Loop) : (t.onLoop b g).ftz = t.ftz := by
  unfold Strand.onLoop; split <;> rfl
@[simp] theorem Strand.onLoop_ledit (t : Strand) (b : Bool) (g : Loop → Loop) : (t.onLoop b g).ledit = t.ledit := by
  unfold Strand.onLoop; split <;> rfl
@[simp] theorem Strand.onLoop_rvb (t : Strand) (b : Bool) (g : Loop → Loop) : (t.onLoop b g).rvb = t.rvb := by
  unfold Strand.onLoop; split <;> rfl
@[simp] theorem Strand.onLoop_rpb (t : Strand) (b : Bool) (g : Loop → Loop) : (t.onLoop b g).rpb = t.rpb := by
  unfold Strand.onLoop; split <;> rfl
@[simp] theorem Strand.onLoop_workid (t : Strand) (b : Bool) (g : Loop → Loop) : (t.onLoop b g).workid = t.workid := by
  unfold Strand.onLoop; split <;> rfl
@[simp] theorem Strand.onLoop_bank (t : Strand) (b : Bool) (g : Loop → Loop) : (t.onLoop b g).bank = t.bank := by
  unfold Strand.onLoop; split <;> rfl
@[simp] theorem Strand.onLoop_trap (t : Strand) (b : Bool) (g : Loop → Loop) : (t.onLoop b g).trap = t.trap := by
  unfold Strand.onLoop; split <;> rfl
@[simp] theorem Strand.onLoop_safeCount (t : Strand) (b : Bool) (g : Loop → Loop) : (t.onLoop b g).safeCount = t.safeCount := by
  unfold Strand.onLoop; split <;> rfl
@[simp] theorem Strand.onLoop_safeOver (t : Strand) (b : Bool) (g : Loop → Loop) : (t.onLoop b g).safeOver = t.safeOver := by
  unfold Strand.onLoop; split <;> rfl
@[simp] theorem Strand.onLoop_super (t : Strand) (b : Bool) (g : Loop → Loop) : (t.onLoop b g).super = t.super := by
  unfold Strand.onLoop; split <;> rfl
@[simp] theorem Strand.onLoop_trapReq (t : Strand) (b : Bool) (g : Loop → Loop) : (t.onLoop b g).trapReq = t.trapReq := by
  unfold Strand.onLoop; split <;> rfl
@[simp] theorem Strand.onLoop_pc (t : Strand) (b : Bool) (g : Loop → Loop) : (t.onLoop b g).pc = t.pc := by
  unfold Strand.onLoop; split <;> rfl
@[simp] theorem Strand.onLoop_gangBar (t : Strand) (b : Bool) (g : Loop → Loop) : (t.onLoop b g).gangBar = t.gangBar := by
  unfold Strand.onLoop; split <;> rfl
@[simp] theorem Strand.onLoop_fillAt (t : Strand) (b : Bool) (g : Loop → Loop) : (t.onLoop b g).fillAt = t.fillAt := by
  unfold Strand.onLoop; split <;> rfl
@[simp] theorem Strand.onLoop_inRun (t : Strand) (b : Bool) (g : Loop → Loop) : (t.onLoop b g).inRun = t.inRun := by
  unfold Strand.onLoop; split <;> rfl
@[simp] theorem Strand.onLoop_pend (t : Strand) (b : Bool) (g : Loop → Loop) : (t.onLoop b g).pend = t.pend := by
  unfold Strand.onLoop; split <;> rfl
@[simp] theorem Strand.onLoop_ibuf (t : Strand) (b : Bool) (g : Loop → Loop) : (t.onLoop b g).ibuf = t.ibuf := by
  unfold Strand.onLoop; split <;> rfl
@[simp] theorem Strand.onLoop_stale (t : Strand) (b : Bool) (g : Loop → Loop) : (t.onLoop b g).stale = t.stale := by
  unfold Strand.onLoop; split <;> rfl
@[simp] theorem Strand.onLoop_view (t : Strand) (b : Bool) (g : Loop → Loop) : (t.onLoop b g).view = t.view := by
  unfold Strand.onLoop; split <;> rfl
@[simp] theorem Strand.onLoop_lateHeld (t : Strand) (b : Bool) (g : Loop → Loop) : (t.onLoop b g).lateHeld = t.lateHeld := by
  unfold Strand.onLoop; split <;> rfl
@[simp] theorem Strand.onLoop_latch (t : Strand) (b : Bool) (g : Loop → Loop) : (t.onLoop b g).latch = t.latch := by
  unfold Strand.onLoop; split <;> rfl
@[simp] theorem Strand.onLoop_trail (t : Strand) (b : Bool) (g : Loop → Loop) : (t.onLoop b g).trail = t.trail := by
  unfold Strand.onLoop; split <;> rfl
@[simp] theorem Strand.onLoop_trailSafe (t : Strand) (b : Bool) (g : Loop → Loop) : (t.onLoop b g).trailSafe = t.trailSafe := by
  unfold Strand.onLoop; split <;> rfl
@[simp] theorem Strand.onLoop_flights (t : Strand) (b : Bool) (g : Loop → Loop) : (t.onLoop b g).flights = t.flights := by
  unfold Strand.onLoop; split <;> rfl
@[simp] theorem Strand.onLoop_flightSeq (t : Strand) (b : Bool) (g : Loop → Loop) : (t.onLoop b g).flightSeq = t.flightSeq := by
  unfold Strand.onLoop; split <;> rfl
@[simp] theorem Strand.onLoop_loads (t : Strand) (b : Bool) (g : Loop → Loop) : (t.onLoop b g).loads = t.loads := by
  unfold Strand.onLoop; split <;> rfl
@[simp] theorem Strand.onLoop_stores (t : Strand) (b : Bool) (g : Loop → Loop) : (t.onLoop b g).stores = t.stores := by
  unfold Strand.onLoop; split <;> rfl
@[simp] theorem Strand.onLoop_sent (t : Strand) (b : Bool) (g : Loop → Loop) : (t.onLoop b g).sent = t.sent := by
  unfold Strand.onLoop; split <;> rfl
@[simp] theorem Strand.onLoop_fences (t : Strand) (b : Bool) (g : Loop → Loop) : (t.onLoop b g).fences = t.fences := by
  unfold Strand.onLoop; split <;> rfl
@[simp] theorem Strand.onLoop_waits (t : Strand) (b : Bool) (g : Loop → Loop) : (t.onLoop b g).waits = t.waits := by
  unfold Strand.onLoop; split <;> rfl
@[simp] theorem Strand.onLoop_memSeq (t : Strand) (b : Bool) (g : Loop → Loop) : (t.onLoop b g).memSeq = t.memSeq := by
  unfold Strand.onLoop; split <;> rfl
@[simp] theorem Strand.onLoop_reports (t : Strand) (b : Bool) (g : Loop → Loop) : (t.onLoop b g).reports = t.reports := by
  unfold Strand.onLoop; split <;> rfl
@[simp] theorem Strand.onLoop_walk (t : Strand) (b : Bool) (g : Loop → Loop) : (t.onLoop b g).walk = t.walk := by
  unfold Strand.onLoop; split <;> rfl
@[simp] theorem Strand.onLoop_xputsOut (t : Strand) (b : Bool) (g : Loop → Loop) : (t.onLoop b g).xputsOut = t.xputsOut := by
  unfold Strand.onLoop; split <;> rfl
@[simp] theorem Strand.onLoop_tasks (t : Strand) (b : Bool) (g : Loop → Loop) : (t.onLoop b g).tasks = t.tasks := by
  unfold Strand.onLoop; split <;> rfl
@[simp] theorem Strand.onLoop_running (t : Strand) (b : Bool) (g : Loop → Loop) : (t.onLoop b g).running = t.running := by
  unfold Strand.onLoop; split <;> rfl
@[simp] theorem Strand.onLoop_last (t : Strand) (b : Bool) (g : Loop → Loop) : (t.onLoop b g).last = t.last := by
  unfold Strand.onLoop; split <;> rfl
@[simp] theorem Strand.onLoop_issued (t : Strand) (b : Bool) (g : Loop → Loop) : (t.onLoop b g).issued = t.issued := by
  unfold Strand.onLoop; split <;> rfl
@[simp] theorem Strand.onLoop_failed (t : Strand) (b : Bool) (g : Loop → Loop) : (t.onLoop b g).failed = t.failed := by
  unfold Strand.onLoop; split <;> rfl
@[simp] theorem Strand.onLoop_stop (t : Strand) (b : Bool) (g : Loop → Loop) : (t.onLoop b g).stop = t.stop := by
  unfold Strand.onLoop; split <;> rfl
@[simp] theorem Strand.onLoop_hold (t : Strand) (b : Bool) (g : Loop → Loop) : (t.onLoop b g).hold = t.hold := by
  unfold Strand.onLoop; split <;> rfl
@[simp] theorem Strand.onLoop_holdStarted (t : Strand) (b : Bool) (g : Loop → Loop) : (t.onLoop b g).holdStarted = t.holdStarted := by
  unfold Strand.onLoop; split <;> rfl
@[simp] theorem Strand.onLoop_retiring (t : Strand) (b : Bool) (g : Loop → Loop) : (t.onLoop b g).retiring = t.retiring := by
  unfold Strand.onLoop; split <;> rfl
@[simp] theorem Strand.onLoop_abortWait (t : Strand) (b : Bool) (g : Loop → Loop) : (t.onLoop b g).abortWait = t.abortWait := by
  unfold Strand.onLoop; split <;> rfl
@[simp] theorem Strand.onLoop_refetch (t : Strand) (b : Bool) (g : Loop → Loop) : (t.onLoop b g).refetch = t.refetch := by
  unfold Strand.onLoop; split <;> rfl
@[simp] theorem Strand.onLoop_next (t : Strand) (b : Bool) (g : Loop → Loop) : (t.onLoop b g).next = t.next := by
  unfold Strand.onLoop; split <;> rfl

/-! A record appended. -/

@[simp] theorem Core.record_acc0 (c : Core) (k n d p : Nat) : (c.record k n d p).acc0 = c.acc0 := by
  simp only [Core.record]; split <;> rfl
@[simp] theorem Core.record_acc1 (c : Core) (k n d p : Nat) : (c.record k n d p).acc1 = c.acc1 := by
  simp only [Core.record]; split <;> rfl
@[simp] theorem Core.record_planeA (c : Core) (k n d p : Nat) : (c.record k n d p).planeA = c.planeA := by
  simp only [Core.record]; split <;> rfl
@[simp] theorem Core.record_planeS (c : Core) (k n d p : Nat) : (c.record k n d p).planeS = c.planeS := by
  simp only [Core.record]; split <;> rfl
@[simp] theorem Core.record_coefA (c : Core) (k n d p : Nat) : (c.record k n d p).coefA = c.coefA := by
  simp only [Core.record]; split <;> rfl
@[simp] theorem Core.record_coefS (c : Core) (k n d p : Nat) : (c.record k n d p).coefS = c.coefS := by
  simp only [Core.record]; split <;> rfl
@[simp] theorem Core.record_knots (c : Core) (k n d p : Nat) : (c.record k n d p).knots = c.knots := by
  simp only [Core.record]; split <;> rfl
@[simp] theorem Core.record_oog (c : Core) (k n d p : Nat) : (c.record k n d p).oog = c.oog := by
  simp only [Core.record]; split <;> rfl
@[simp] theorem Core.record_trowelA (c : Core) (k n d p : Nat) : (c.record k n d p).trowelA = c.trowelA := by
  simp only [Core.record]; split <;> rfl
@[simp] theorem Core.record_trowelS (c : Core) (k n d p : Nat) : (c.record k n d p).trowelS = c.trowelS := by
  simp only [Core.record]; split <;> rfl
@[simp] theorem Core.record_tstat (c : Core) (k n d p : Nat) : (c.record k n d p).tstat = c.tstat := by
  simp only [Core.record]; split <;> rfl
@[simp] theorem Core.record_regions (c : Core) (k n d p : Nat) : (c.record k n d p).regions = c.regions := by
  simp only [Core.record]; split <;> rfl
@[simp] theorem Core.record_local (c : Core) (k n d p : Nat) : (c.record k n d p).local_ = c.local_ := by
  simp only [Core.record]; split <;> rfl
@[simp] theorem Core.record_istore (c : Core) (k n d p : Nat) : (c.record k n d p).istore = c.istore := by
  simp only [Core.record]; split <;> rfl
@[simp] theorem Core.record_icache (c : Core) (k n d p : Nat) : (c.record k n d p).icache = c.icache := by
  simp only [Core.record]; split <;> rfl
@[simp] theorem Core.record_barriers (c : Core) (k n d p : Nat) : (c.record k n d p).barriers = c.barriers := by
  simp only [Core.record]; split <;> rfl
@[simp] theorem Core.record_issuing (c : Core) (k n d p : Nat) : (c.record k n d p).issuing = c.issuing := by
  simp only [Core.record]; split <;> rfl
@[simp] theorem Core.record_waits (c : Core) (k n d p : Nat) : (c.record k n d p).waits = c.waits := by
  simp only [Core.record]; split <;> rfl
@[simp] theorem Core.record_stoppedAt (c : Core) (k n d p : Nat) : (c.record k n d p).stoppedAt = c.stoppedAt := by
  simp only [Core.record]; split <;> rfl
@[simp] theorem Core.record_yielded (c : Core) (k n d p : Nat) : (c.record k n d p).yielded = c.yielded := by
  simp only [Core.record]; split <;> rfl
@[simp] theorem Core.record_half (c : Core) (k n d p : Nat) : (c.record k n d p).half = c.half := by
  simp only [Core.record]; split <;> rfl
@[simp] theorem Core.record_vbusy (c : Core) (k n d p : Nat) : (c.record k n d p).vbusy = c.vbusy := by
  simp only [Core.record]; split <;> rfl
@[simp] theorem Core.record_replay (c : Core) (k n d p : Nat) : (c.record k n d p).replay = c.replay := by
  simp only [Core.record]; split <;> rfl
@[simp] theorem Core.record_pushes (c : Core) (k n d p : Nat) : (c.record k n d p).pushes = c.pushes := by
  simp only [Core.record]; split <;> rfl
@[simp] theorem Core.record_pushSeq (c : Core) (k n d p : Nat) : (c.record k n d p).pushSeq = c.pushSeq := by
  simp only [Core.record]; split <;> rfl
@[simp] theorem Core.record_l1 (c : Core) (k n d p : Nat) : (c.record k n d p).l1 = c.l1 := by
  simp only [Core.record]; split <;> rfl
@[simp] theorem Core.record_engmap (c : Core) (k n d p : Nat) : (c.record k n d p).engmap = c.engmap := by
  simp only [Core.record]; split <;> rfl
@[simp] theorem Core.record_arrayAt (c : Core) (k n d p : Nat) : (c.record k n d p).arrayAt = c.arrayAt := by
  simp only [Core.record]; split <;> rfl

/-! A meter moved. -/

@[simp] theorem Vf.meter_queues (v : Vf) (n k : Nat) : (v.meter n k).queues = v.queues := rfl
@[simp] theorem Vf.meter_weights (v : Vf) (n k : Nat) : (v.meter n k).weights = v.weights := rfl
@[simp] theorem Vf.meter_ptroot (v : Vf) (n k : Nat) : (v.meter n k).ptroot = v.ptroot := rfl
@[simp] theorem Vf.meter_tlbBusy (v : Vf) (n k : Nat) : (v.meter n k).tlbBusy = v.tlbBusy := rfl
@[simp] theorem Vf.meter_tlbSize (v : Vf) (n k : Nat) : (v.meter n k).tlbSize = v.tlbSize := rfl
@[simp] theorem Vf.meter_tlbPage (v : Vf) (n k : Nat) : (v.meter n k).tlbPage = v.tlbPage := rfl
@[simp] theorem Vf.meter_prq (v : Vf) (n k : Nat) : (v.meter n k).prq = v.prq := rfl
@[simp] theorem Vf.meter_gfr (v : Vf) (n k : Nat) : (v.meter n k).gfr = v.gfr := rfl
@[simp] theorem Vf.meter_bufs (v : Vf) (n k : Nat) : (v.meter n k).bufs = v.bufs := rfl
@[simp] theorem Vf.meter_reports (v : Vf) (n k : Nat) : (v.meter n k).reports = v.reports := rfl
@[simp] theorem Vf.meter_prevHash (v : Vf) (n k : Nat) : (v.meter n k).prevHash = v.prevHash := rfl

end Sys2Proof.Machine
end

