-- ==== Sys2Proof/Laws/Ops.lean ====
section
/-! SUPPORT. Laws of the named operations: the parts of a state after each update, and a strand's registers after a
write. -/

namespace Sys2Proof

/-- Setting a key twice keeps the second value. -/
@[simp] theorem FMap.set_set {β : Type} (m : FMap β) (k : Nat) (v w : β) : (m.set k v).set k w = m.set k w := by
  induction m with
  | nil => simp [FMap.set]
  | cons c t ih =>
    obtain ⟨a, b⟩ := c
    simp only [FMap.set]
    split
    · simp [FMap.set]
    · split
      · simp [FMap.set]
      · rename_i h1 h2
        simp only [FMap.set, if_neg h1, if_neg h2, ih]

namespace Machine

/-! The parts by number. -/

@[simp] theorem State.strand_setStrand_same (s : State) (w : Nat) (x : Strand) : (s.setStrand w x).strand w = x := by
  simp [State.strand, State.setStrand]

theorem State.strand_setStrand_other (s : State) {w v : Nat} (x : Strand) (h : v ≠ w) : (s.setStrand w x).strand v = s.strand v := by
  simp [State.strand, State.setStrand, FMap.get_set_other _ _ _ h]

@[simp] theorem State.setStrand_setStrand (s : State) (w : Nat) (x y : Strand) : (s.setStrand w x).setStrand w y = s.setStrand w y := by
  simp [State.setStrand]

@[simp] theorem State.core_setCore_same (s : State) (c : Nat) (x : Core) : (s.setCore c x).core c = x := by
  simp [State.core, State.setCore]

theorem State.core_setCore_other (s : State) {c d : Nat} (x : Core) (h : d ≠ c) : (s.setCore c x).core d = s.core d := by
  simp [State.core, State.setCore, FMap.get_set_other _ _ _ h]

@[simp] theorem State.setCore_setCore (s : State) (c : Nat) (x y : Core) : (s.setCore c x).setCore c y = s.setCore c y := by
  simp [State.setCore]

@[simp] theorem State.leaf_setLeaf_same (s : State) (l : Nat) (x : Leaf) : (s.setLeaf l x).leaf l = x := by
  simp [State.leaf, State.setLeaf]

theorem State.leaf_setLeaf_other (s : State) {l m : Nat} (x : Leaf) (h : m ≠ l) : (s.setLeaf l x).leaf m = s.leaf m := by
  simp [State.leaf, State.setLeaf, FMap.get_set_other _ _ _ h]

@[simp] theorem State.vf_setVf_same (s : State) (v : Nat) (x : Vf) : (s.setVf v x).vf v = x := by
  simp [State.vf, State.setVf]

theorem State.vf_setVf_other (s : State) {v w : Nat} (x : Vf) (h : w ≠ v) : (s.setVf v x).vf w = s.vf w := by
  simp [State.vf, State.setVf, FMap.get_set_other _ _ _ h]

@[simp] theorem State.cmds_setCmds_same (s : State) (q : Nat) (l : List Cmd) : (s.setCmds q l).cmds q = l := by
  simp [State.cmds, State.setCmds]

theorem State.cmds_setCmds_other (s : State) {q r : Nat} (l : List Cmd) (h : r ≠ q) : (s.setCmds q l).cmds r = s.cmds r := by
  simp [State.cmds, State.setCmds, FMap.get_set_other _ _ _ h]

@[simp] theorem State.strand_setCore (s : State) (c : Nat) (x : Core) (w : Nat) : (s.setCore c x).strand w = s.strand w := rfl
@[simp] theorem State.strand_setLeaf (s : State) (l : Nat) (x : Leaf) (w : Nat) : (s.setLeaf l x).strand w = s.strand w := rfl
@[simp] theorem State.strand_setVf (s : State) (v : Nat) (x : Vf) (w : Nat) : (s.setVf v x).strand w = s.strand w := rfl
@[simp] theorem State.strand_setCmds (s : State) (q : Nat) (l : List Cmd) (w : Nat) : (s.setCmds q l).strand w = s.strand w := rfl
@[simp] theorem State.strand_post (s : State) (e : Ev) (w : Nat) : (s.post e).strand w = s.strand w := rfl
@[simp] theorem State.strand_unpost (s : State) (e : Ev) (w : Nat) : (s.unpost e).strand w = s.strand w := rfl
@[simp] theorem State.strand_emit (s : State) (e : Out) (w : Nat) : (s.emit e).strand w = s.strand w := rfl
@[simp] theorem State.strand_after (s : State) (l n : Nat) (e : Ev) (w : Nat) : (s.after l n e).strand w = s.strand w := rfl
@[simp] theorem State.core_setStrand (s : State) (w : Nat) (x : Strand) (c : Nat) : (s.setStrand w x).core c = s.core c := rfl
@[simp] theorem State.core_setLeaf (s : State) (l : Nat) (x : Leaf) (c : Nat) : (s.setLeaf l x).core c = s.core c := rfl
@[simp] theorem State.core_setVf (s : State) (v : Nat) (x : Vf) (c : Nat) : (s.setVf v x).core c = s.core c := rfl
@[simp] theorem State.core_setCmds (s : State) (q : Nat) (l : List Cmd) (c : Nat) : (s.setCmds q l).core c = s.core c := rfl
@[simp] theorem State.core_post (s : State) (e : Ev) (c : Nat) : (s.post e).core c = s.core c := rfl
@[simp] theorem State.core_unpost (s : State) (e : Ev) (c : Nat) : (s.unpost e).core c = s.core c := rfl
@[simp] theorem State.core_emit (s : State) (e : Out) (c : Nat) : (s.emit e).core c = s.core c := rfl
@[simp] theorem State.core_after (s : State) (l n : Nat) (e : Ev) (c : Nat) : (s.after l n e).core c = s.core c := rfl
@[simp] theorem State.leaf_setStrand (s : State) (w : Nat) (x : Strand) (l : Nat) : (s.setStrand w x).leaf l = s.leaf l := rfl
@[simp] theorem State.leaf_setCore (s : State) (c : Nat) (x : Core) (l : Nat) : (s.setCore c x).leaf l = s.leaf l := rfl
@[simp] theorem State.leaf_setVf (s : State) (v : Nat) (x : Vf) (l : Nat) : (s.setVf v x).leaf l = s.leaf l := rfl
@[simp] theorem State.leaf_setCmds (s : State) (q : Nat) (x : List Cmd) (l : Nat) : (s.setCmds q x).leaf l = s.leaf l := rfl
@[simp] theorem State.leaf_post (s : State) (e : Ev) (l : Nat) : (s.post e).leaf l = s.leaf l := rfl
@[simp] theorem State.leaf_unpost (s : State) (e : Ev) (l : Nat) : (s.unpost e).leaf l = s.leaf l := rfl
@[simp] theorem State.leaf_emit (s : State) (e : Out) (l : Nat) : (s.emit e).leaf l = s.leaf l := rfl
@[simp] theorem State.leaf_after (s : State) (k n : Nat) (e : Ev) (l : Nat) : (s.after k n e).leaf l = s.leaf l := rfl
@[simp] theorem State.vf_setStrand (s : State) (w : Nat) (x : Strand) (v : Nat) : (s.setStrand w x).vf v = s.vf v := rfl
@[simp] theorem State.vf_setCore (s : State) (c : Nat) (x : Core) (v : Nat) : (s.setCore c x).vf v = s.vf v := rfl
@[simp] theorem State.vf_setLeaf (s : State) (l : Nat) (x : Leaf) (v : Nat) : (s.setLeaf l x).vf v = s.vf v := rfl
@[simp] theorem State.vf_setCmds (s : State) (q : Nat) (x : List Cmd) (v : Nat) : (s.setCmds q x).vf v = s.vf v := rfl
@[simp] theorem State.vf_post (s : State) (e : Ev) (v : Nat) : (s.post e).vf v = s.vf v := rfl
@[simp] theorem State.vf_unpost (s : State) (e : Ev) (v : Nat) : (s.unpost e).vf v = s.vf v := rfl
@[simp] theorem State.vf_emit (s : State) (e : Out) (v : Nat) : (s.emit e).vf v = s.vf v := rfl
@[simp] theorem State.vf_after (s : State) (l n : Nat) (e : Ev) (v : Nat) : (s.after l n e).vf v = s.vf v := rfl
@[simp] theorem State.cmds_setStrand (s : State) (w : Nat) (x : Strand) (q : Nat) : (s.setStrand w x).cmds q = s.cmds q := rfl
@[simp] theorem State.cmds_setCore (s : State) (c : Nat) (x : Core) (q : Nat) : (s.setCore c x).cmds q = s.cmds q := rfl
@[simp] theorem State.cmds_setLeaf (s : State) (l : Nat) (x : Leaf) (q : Nat) : (s.setLeaf l x).cmds q = s.cmds q := rfl
@[simp] theorem State.cmds_setVf (s : State) (v : Nat) (x : Vf) (q : Nat) : (s.setVf v x).cmds q = s.cmds q := rfl

@[simp] theorem State.me_setStrand (s : State) (x : Strand) : (s.setStrand s.cur x).me = x := by
  simp [State.me]

theorem State.me_def (s : State) : s.me = s.strand s.cur := rfl

/-- Changing the strand cur leaves it changed. -/
@[simp] theorem State.me_onMe (s : State) (g : Strand → Strand) : (s.onMe g).me = g s.me := by
  simp [State.me, State.onMe, State.onStrand]

@[simp] theorem State.cur_onMe (s : State) (g : Strand → Strand) : (s.onMe g).cur = s.cur := rfl

/-- Two changes of the strand cur are one. -/
@[simp] theorem State.onMe_onMe (s : State) (g h : Strand → Strand) : (s.onMe g).onMe h = s.onMe fun t => h (g t) := by
  simp [State.onMe, State.onStrand]

/-- A change of the strand cur, as a replacement. -/
theorem State.onMe_eq (s : State) (g : Strand → Strand) : s.onMe g = s.setStrand s.cur (g s.me) := rfl

/-! A strand's registers. -/

/-- A scalar register after a write: a write to s0 is discarded (R107). -/
theorem Strand.rdS_wrS (t : Strand) (n m : BitVec 6) (x : W64) : (t.wrS n x).rdS m = if m = n ∧ n ≠ 0 then x else t.rdS m := by
  unfold Strand.wrS Strand.rdS
  by_cases hn : n = 0
  · subst hn; simp
  · by_cases hm : m = n
    · subst hm
      simp only [if_neg hn, FMap.get_set_same]
      exact (if_pos ⟨trivial, hn⟩).symm
    · have : m.toNat ≠ n.toNat := fun e => hm (BitVec.eq_of_toNat_eq e)
      simp only [if_neg hn, FMap.get_set_other _ _ _ this]
      exact (if_neg fun h => hm h.1).symm

@[simp] theorem Strand.wrS_zero (t : Strand) (x : W64) : t.wrS 0 x = t := rfl

@[simp] theorem Strand.wrP_zero (t : Strand) (b : Bool) : t.wrP 0 b = t := rfl

@[simp] theorem Strand.rdS_zero (t : Strand) : t.rdS 0 = 0 := rfl

@[simp] theorem Strand.rdP_zero (t : Strand) : t.rdP 0 = true := rfl

@[simp] theorem Strand.rdK_zero (t : Strand) : t.rdK 0 = BitVec.allOnes 512 := rfl

/-- Bit j of a word after one bit is set. -/
theorem getLsbD_setBit {w : Nat} (x : BitVec w) (i j : Nat) (b : Bool) (hj : j < w) :
    (setBit x i b).getLsbD j = if j = i then b else x.getLsbD j := by
  have hb : (BitVec.ofNat w (2 ^ i)).getLsbD j = decide (j = i) := by
    rw [BitVec.getLsbD_ofNat, Nat.testBit_two_pow]
    by_cases e : j = i
    · subst e; simp [hj]
    · have e' : i ≠ j := fun h => e h.symm
      simp [e, e']
  unfold setBit
  cases b
  · simp only [Bool.false_eq_true, if_false, BitVec.getLsbD_and, BitVec.getLsbD_not, hb, hj, decide_true, Bool.true_and]
    by_cases e : j = i <;> simp [e]
  · simp only [if_true, BitVec.getLsbD_or, hb]
    by_cases e : j = i <;> simp [e]

/-- Results put in flight change the strand cur's flights alone (R191). -/
theorem State.me_fly (s : State) (n : Nat) (l : List Landing) :
    (s.fly n l).me = { s.me with flights := s.me.flights ++ [{ id := s.me.flightSeq, due := s.issueClk + n, load := s.slot == .m, lands := l }],
                                 flightSeq := s.me.flightSeq + 1 } := by
  simp [State.fly]

/-- Putting results in flight, as a replacement of the strand cur. -/
theorem State.fly_eq (s : State) (n : Nat) (l : List Landing) : s.fly n l = s.setStrand s.cur (s.fly n l).me := by
  simp [State.fly, State.onMe, State.onStrand]

/-- A free value leaves everything but its number. -/
@[simp] theorem State.freeWord_snd (s : State) : s.freeWord.2 = { s with freeCount := s.freeCount + 8 } := rfl

/-- Counting on a meter changes functions alone (R443). -/
theorem State.meter_eq (s : State) (l n k : Nat) : ∃ v, s.meter l n k = { s with vfs := v } := by
  unfold State.meter
  split
  · exact ⟨s.vfs, rfl⟩
  · exact ⟨_, rfl⟩

/-- Counting bytes changes functions alone (R237). -/
theorem State.countBytes_eq (s : State) (l a n : Nat) : ∃ v, s.countBytes l a n = { s with vfs := v } := by
  unfold State.countBytes
  split
  · exact ⟨s.vfs, rfl⟩
  · exact ⟨_, rfl⟩

/-- Charging a stall changes functions alone (R237). -/
theorem State.countStall_eq (s : State) (l a : Nat) : ∃ v, s.countStall l a = { s with vfs := v } := by
  unfold State.countStall
  split
  · exact ⟨s.vfs, rfl⟩
  · exact ⟨_, rfl⟩

/-- Records change the strand's core alone (R448). -/
theorem State.recordMe_eq (s : State) (k : Nat) (b : Bool) : ∃ c, s.recordMe k b = { s with cores := c } := by
  unfold State.recordMe
  split
  · exact ⟨_, rfl⟩
  · exact ⟨s.cores, rfl⟩

/-- A meter counts on its function, saturating at all ones (R442). -/
theorem Vf.meter_self (v : Vf) (n k : Nat) :
    (v.meter n k).meters.get n 0 = BitVec.ofNat 64 (min ((v.meters.get n 0).toNat + k) (2 ^ 64 - 1)) := by
  simp [Vf.meter]

/-- A full queue of records counts what it loses (R448). -/
theorem Core.record_full (c : Core) (k n d p : Nat) (h : 31 ≤ c.statq.length) :
    c.record k n d p = { c with statLost := lostRecord c.statLost (c.statCount + 1), statCount := c.statCount + 1 } := by
  simp [Core.record, Nat.not_lt.mpr h]

end Machine

end Sys2Proof
end

