-- ==== Sys2Proof/Laws/Issue.lean ====
section
/-! SUPPORT. Laws of issue: what becomes of a bundle of one syllable when its plan commits, traps or stalls. -/

namespace Sys2Proof.Machine

@[simp] theorem Strand.early_nil (t : Strand) (f : Fetched) (h : t.late = []) : t.early f = t := by
  cases t; simp only at h; subst h; rfl

/-- Where no write to LC is outstanding, a bundle is judged on the state as it is. -/
theorem State.ripe_eq (s : State) (f : Fetched) (h : s.me.late = []) : s.ripe f = s.setStrand s.cur s.me := by
  simp [State.ripe, State.onMe_eq, Strand.early_nil _ _ h]

/-- Changing nothing keeps the parts by number. -/
@[simp] theorem State.me_relisted (s : State) : (s.setStrand s.cur s.me).me = s.me := State.me_setStrand s s.me

@[simp] theorem State.strand_relisted (s : State) (w : Nat) : (s.setStrand s.cur s.me).strand w = s.strand w := by
  by_cases h : w = s.cur
  · subst h; simp [State.me]
  · exact State.strand_setStrand_other s _ h

/-- One syllable never needs two instances of a unit (R65). -/
theorem Core.splits_one (c : Core) (w : Work) : c.splits [w] = false := by
  have h1 : ((w.slot == Slot.s0) && (w.slot == Slot.s1)) = false := by cases w.slot <;> rfl
  have h2 : ((w.slot == Slot.v0) && (w.slot == Slot.v1)) = false := by cases w.slot <;> rfl
  simp [Core.splits, h1, h2]

/-- A bundle of one syllable has not been split. -/
theorem State.whole_one (s : State) (w : Work) : s.whole [w] = s := by
  simp [State.whole, Core.splits_one]

@[simp] theorem shares_nil (a : List Reg) : shares a [] = false := by
  simp [shares]

@[simp] theorem firstDup_one (t : Strand) (w : Work) : firstDup t [w] = none := by
  simp [firstDup]

theorem State.Unheld.report_none {s : State} {i : Instr} (h : s.Unheld i) (w : Work) (hw : w.instr = i) : w.report s.me = none := by
  unfold Work.report
  rw [List.find?_eq_none]
  intro r hr
  cases hd : r.dest with
  | none => simp
  | some d =>
    have := h.reports r hr d hd
    simp only [List.mem_append, not_or] at this
    simp only [hw, Bool.or_eq_true, List.contains_iff_mem, not_or]
    exact this

theorem State.Unheld.waits_false {s : State} {i : Instr} (h : s.Unheld i) (w : Work) (hw : w.instr = i) (hs : w.slot = s.slot) :
    w.waits (s.setStrand s.cur s.me) = false := by
  have h1 : ∀ r ∈ readRegs s.me i, s.me.busyReg r = false := fun r hr => h.regs r (List.mem_append_left _ hr)
  have h2 : ∀ r ∈ writeRegs s.me i, s.me.busyReg r = false := fun r hr => h.regs r (List.mem_append_right _ hr)
  have e1 : (readRegs s.me i).any s.me.busyReg = false := by
    rw [List.any_eq_false]; intro r hr; simp [h1 r hr]
  have e2 : (writeRegs s.me i).any s.me.busyReg = false := by
    rw [List.any_eq_false]; intro r hr; simp [h2 r hr]
  have e3 : ((s.slot == .m) && s.me.loads.any fun e => e.kind == .acquire) = false := by
    by_cases hm : s.slot = .m
    · have := h.order hm
      have : (s.me.loads.any fun e => e.kind == .acquire) = false := by
        rw [List.any_eq_false]; intro e he; simpa using this e he
      simp [this]
    · have : (s.slot == .m) = false := by simpa using hm
      simp [this]
  have e4 : ((s.slot == .v0 && (s.core (coreOf s.cur)).half.isNone || s.slot == .v1) &&
      decide (s.clkHere < (s.core (coreOf s.cur)).vbusy.get ((s.core (coreOf s.cur)).unitOf s.slot) 0)) = false := by
    by_cases hv : s.slot = .v0 ∨ s.slot = .v1
    · have := h.unit hv
      simp [Nat.not_lt.mpr this]
    · have h0 : (s.slot == .v0) = false := by simpa using fun h => hv (.inl h)
      have h1 : (s.slot == .v1) = false := by simpa using fun h => hv (.inr h)
      simp [h0, h1]
  have e5 : (s.setStrand s.cur s.me).clkHere = s.clkHere := rfl
  simp only [Work.waits, State.me_relisted, State.setStrand_cur, State.core_setStrand, hw, hs, e1, e2, e3, e4, e5, Bool.or_self]

/-- The verdict on a bundle of one syllable that nothing holds up is its plan's. -/
theorem State.Unheld.verdict {s : State} {i : Instr} (h : s.Unheld i) (w : Work) (hw : w.instr = i) (hs : w.slot = s.slot)
    (hg : w.guard = true) (hl : w.legal s.here = true) (hb : s.me.loopBranch s.here [w] = false)
    (hp : s.me.pend = none ∨ isBranch i = false) :
    (s.setStrand s.cur s.me).verdict s.here [w] = gather (s.setStrand s.cur s.me) [w] [] := by
  have hd : (s.me.pend.isSome && [w].any (fun w => isBranch w.instr)) = false := by
    rcases hp with hp | hp
    · simp [hp]
    · simp [hw, hp]
  unfold State.verdict
  simp only [State.me_relisted]
  rw [if_neg (by rw [hd]; decide)]
  simp [hl, hb, hg, h.waits_false w hw hs]

/-- The syllable of a bundle that issues alone. -/
def loneWork (i : Instr) (p : State → Plan) (s : State) : Work :=
  { slot := s.slot, guard := true, bad := false, syl := rawSyllable s.here.raw s.slot, instr := i, plan := p }

/-- A bundle of one syllable that nothing holds up is carried out as its plan says. -/
theorem alone_eq (i : Instr) (p : State → Plan) (s : State) (h : s.Unheld i) (hl : (loneWork i p s).legal s.here = true)
    (hb : s.me.loopBranch s.here [loneWork i p s] = false) (hp : s.me.pend = none ∨ isBranch i = false) :
    alone i p s = .next ((s.setStrand s.cur s.me).carry s.here [loneWork i p s] (gather (s.setStrand s.cur s.me) [loneWork i p s] [])) := by
  have := h.verdict (loneWork i p s) rfl rfl rfl hl hb hp
  show Host.Outcome.next (State.issue s s.here [loneWork i p s]) = _
  rw [State.issue]
  simp only [State.ripe_eq _ _ h.late, this]

/-- A bundle that ends no loop body is no LOOPBR case (R179). -/
theorem loopBranch_clear {s : State} {i : Instr} (h : s.Clear i) (ws : List Work) : s.me.loopBranch s.here ws = false := by
  simp [Strand.loopBranch, h.body0, h.body1]

/-- What a bundle that holds no branch and follows none is no LOOPBR case (R179). -/
theorem loopBranch_plain {t : Strand} {f : Fetched} {w : Work} (hp : t.pend = none) (hb : isBranch w.instr = false) :
    t.loopBranch f [w] = false := by
  simp [Strand.loopBranch, hp, hb]

/-- A syllable other than LOOP and MLOOP is legal where it is well-formed. -/
theorem loneWork_legal (i : Instr) (p : State → Plan) (s : State) (hw : i.wf = true) (h1 : ∀ o, i ≠ .loop o) (h2 : ∀ o, i ≠ .mloop o) :
    (loneWork i p s).legal s.here = true := by
  unfold Work.legal loneWork
  simp only [hw, Bool.not_false, Bool.true_and]

/-- A plan that commits: its writes are made on the state before the bundle, and issue goes on (R8, R83). -/
theorem alone_commit {i : Instr} {p : State → Plan} {s : State} (h : s.Unheld i) (hl : (loneWork i p s).legal s.here = true)
    (hb : s.me.loopBranch s.here [loneWork i p s] = false) (hd : s.me.pend = none ∨ isBranch i = false)
    {g : State → State} (hp : p (s.setStrand s.cur s.me) = .go g) :
    alone i p s = .next (((g (s.setStrand s.cur s.me)).onMe fun t =>
      { s.me.advance t s.here (isBranch i && i != .eret) with last := s.here.addr }).settle s.cur) := by
  have hg : gather (s.setStrand s.cur s.me) [loneWork i p s] [] = .commit [fun v => g { v with slot := s.slot }] := by
    have hr : (loneWork i p s).report (s.setStrand s.cur s.me).me = none := by
      rw [State.me_relisted]; exact h.report_none _ rfl
    have hp' : (loneWork i p s).plan { s.setStrand s.cur s.me with slot := (loneWork i p s).slot } = .go g := hp
    simp only [gather, hr, hp', List.nil_append]
    rfl
  have hd' : hasDelay [loneWork i p s] = (isBranch i && i != .eret) := by simp [hasDelay, loneWork]
  rw [alone_eq i p s h hl hb hd, hg]
  simp only [State.carry, List.foldl_cons, List.foldl_nil, Core.splits_one, State.whole_one, hd', State.me_relisted]
  rfl

/-- A plan that is made on the state with the bundle's earlier slots written, of which there are none (R289, R314). -/
theorem alone_commit_late {i : Instr} {p : State → Plan} {s : State} (h : s.Unheld i) (hl : (loneWork i p s).legal s.here = true)
    (hb : s.me.loopBranch s.here [loneWork i p s] = false) (hd : s.me.pend = none ∨ isBranch i = false)
    {k : State → Plan} {g : State → State} (hp : p (s.setStrand s.cur s.me) = .late k) (hk : k (s.setStrand s.cur s.me) = .go g) :
    alone i p s = .next (((g (s.setStrand s.cur s.me)).onMe fun t =>
      { s.me.advance t s.here (isBranch i && i != .eret) with last := s.here.addr }).settle s.cur) := by
  have hg : gather (s.setStrand s.cur s.me) [loneWork i p s] [] = .commit [fun v => g { v with slot := s.slot }] := by
    have hr : (loneWork i p s).report (s.setStrand s.cur s.me).me = none := by
      rw [State.me_relisted]; exact h.report_none _ rfl
    have hp' : (loneWork i p s).plan { s.setStrand s.cur s.me with slot := (loneWork i p s).slot } = .late k := hp
    have hk' : k { s.setStrand s.cur s.me with slot := (loneWork i p s).slot } = .go g := hk
    simp only [gather, hr, hp', List.foldl_nil, hk', List.nil_append]
    rfl
  have hd' : hasDelay [loneWork i p s] = (isBranch i && i != .eret) := by simp [hasDelay, loneWork]
  rw [alone_eq i p s h hl hb hd, hg]
  simp only [State.carry, List.foldl_cons, List.foldl_nil, Core.splits_one, State.whole_one, hd', State.me_relisted]
  rfl

/-- A bundle in which nothing stands in the way commits. -/
theorem alone_go {i : Instr} {p : State → Plan} {s : State} (h : s.Clear i) (hl : (loneWork i p s).legal s.here = true)
    {g : State → State} (hp : p (s.setStrand s.cur s.me) = .go g) :
    alone i p s = .next (((g (s.setStrand s.cur s.me)).onMe fun t =>
      { s.me.advance t s.here (isBranch i && i != .eret) with last := s.here.addr }).settle s.cur) :=
  alone_commit h.toUnheld hl (loopBranch_clear h _) (.inl h.pend) hp

/-- A plan that traps with a cause other than ENGFAULT: no slot commits and the trap is taken at the bundle (R8, R408). -/
theorem alone_trap {i : Instr} {p : State → Plan} {s : State} (h : s.Unheld i) (hl : (loneWork i p s).legal s.here = true)
    (hb : s.me.loopBranch s.here [loneWork i p s] = false) (hd : s.me.pend = none ∨ isBranch i = false)
    {c : BitVec 8} {a : Option W64} (hc : c ≠ ENGFAULT) (hp : p (s.setStrand s.cur s.me) = .trap c a) :
    alone i p s = .next ((s.trapped c a).settle s.cur) := by
  have hg : gather (s.setStrand s.cur s.me) [loneWork i p s] [] = .trap s.slot false c a (rawSyllable s.here.raw s.slot) none := by
    have hr : (loneWork i p s).report (s.setStrand s.cur s.me).me = none := by
      rw [State.me_relisted]; exact h.report_none _ rfl
    have hp' : (loneWork i p s).plan { s.setStrand s.cur s.me with slot := (loneWork i p s).slot } = .trap c a := hp
    simp only [gather, hr, hp']
    rfl
  rw [alone_eq i p s h hl hb hd, hg]
  simp only [State.carry, State.whole_one, State.readFailure, if_pos hc, Strand.reported, State.takeTrap, State.onMe_eq, State.me_relisted,
    State.setStrand_cur, State.setStrand_setStrand, State.strand_setStrand_same, State.trapped, State.trapHere]

/-- A plan that stalls: the bundle does not issue (R80). -/
theorem alone_stall {i : Instr} {p : State → Plan} {s u : State} (h : s.Unheld i) (hl : (loneWork i p s).legal s.here = true)
    (hb : s.me.loopBranch s.here [loneWork i p s] = false) (hd : s.me.pend = none ∨ isBranch i = false)
    (hp : p (s.setStrand s.cur s.me) = .stall u) : alone i p s = .next u := by
  have hg : gather (s.setStrand s.cur s.me) [loneWork i p s] [] = .stall u := by
    have hr : (loneWork i p s).report (s.setStrand s.cur s.me).me = none := by
      rw [State.me_relisted]; exact h.report_none _ rfl
    have hp' : (loneWork i p s).plan { s.setStrand s.cur s.me with slot := (loneWork i p s).slot } = .stall u := hp
    simp only [gather, hr, hp']
  rw [alone_eq i p s h hl hb hd, hg]; rfl

/-- A bundle that ends no loop body has no end test (R177). -/
theorem Strand.endTests_plain (t : Strand) (f : Fetched) (h0 : t.atEnd f false = false) (h1 : t.atEnd f true = false) : t.endTests f = t := by
  simp [Strand.endTests, h0, h1]

/-- What a bundle that holds no branch syllable advances where it ends no loop body (R83). -/
theorem Strand.advance_plain (t0 t : Strand) (f : Fetched) (h0 : t0.pend = none) (h1 : t.retiring = false) (h2 : t.next = none)
    (h3 : t.trapReq = none) (hb0 : t.atEnd f false = false) (hb1 : t.atEnd f true = false) :
    { t0.advance t f false with last := f.addr } = t.moved f := by
  have e : t0.advance t f false = { t with pc := f.addr + f.len, inRun := f.runs, ibuf := t.ibuf.filter fun g => g.addr != f.addr || g.inRun != f.inRun } := by
    unfold Strand.advance
    rw [if_neg (by simp [h1])]
    simp only [h2, h0, Bool.false_eq_true, if_false]
    rw [Strand.endTests_plain _ f (by exact hb0) (by exact hb1)]
    have : ∀ u : Strand, (if t0.super = true then u else u) = u := fun u => by split <;> rfl
    rw [this]
    simp only [Strand.goto, h3]
  rw [e]; rfl

theorem State.settle_none (s : State) (h : (s.strand s.cur).trapReq = none) : s.settle s.cur = s := by
  simp [State.settle, h]

/-- A plan that writes the strand's registers alone: everything else is unchanged. -/
theorem alone_reg {i : Instr} {p : State → Plan} {s : State} (h : s.Clear i) (hl : (loneWork i p s).legal s.here = true)
    (hb : isBranch i = false) {g : Strand → Strand} (hp : p (s.setStrand s.cur s.me) = .reg g) (h1 : (g s.me).retiring = false)
    (h2 : (g s.me).next = none) (h3 : (g s.me).trapReq = none) (hb0 : (g s.me).atEnd s.here false = false)
    (hb1 : (g s.me).atEnd s.here true = false) :
    alone i p s = .next (s.wrote (g s.me)) := by
  rw [alone_go h hl hp]
  simp only [hb, Bool.false_and, State.onMe_onMe]
  rw [State.onMe_eq, State.me_relisted, State.setStrand_cur, State.setStrand_setStrand,
    Strand.advance_plain s.me (g s.me) s.here h.pend h1 h2 h3 hb0 hb1]
  rw [State.settle]
  simp only [State.strand_setStrand_same]
  have : ((g s.me).moved s.here).trapReq = none := h3
  simp only [this]
  rfl

/-- What a branch syllable advances: the delay bundle that follows (R95). -/
theorem Strand.advance_branch (t0 t : Strand) (f : Fetched) (q : Pending) (h0 : t0.pend = none) (h1 : t.retiring = false) (h2 : t.next = none)
    (h3 : t.trapReq = none) (hp : t.pend = some q) :
    { t0.advance t f true with last := f.addr } = t.moved f := by
  have e : t0.advance t f true = { t with pc := f.addr + f.len, inRun := f.runs, ibuf := t.ibuf.filter fun g => g.addr != f.addr || g.inRun != f.inRun } := by
    unfold Strand.advance
    rw [if_neg (by simp [h1])]
    simp only [h2, h0, if_true, Strand.goto, hp, Option.getD_some, h3]
  rw [e]; rfl

/-- A branch syllable whose plan writes the strand's registers alone. -/
theorem alone_branch {i : Instr} {p : State → Plan} {s : State} (h : s.Clear i) (hl : (loneWork i p s).legal s.here = true)
    (hb : isBranch i = true) (he : i ≠ .eret) {g : Strand → Strand} (hp : p (s.setStrand s.cur s.me) = .reg g) {q : Pending}
    (h1 : (g s.me).retiring = false) (h2 : (g s.me).next = none) (h3 : (g s.me).trapReq = none) (hq : (g s.me).pend = some q) :
    alone i p s = .next (s.wrote (g s.me)) := by
  rw [alone_go h hl hp]
  have he' : (i != .eret) = true := by simpa using he
  simp only [hb, he', Bool.true_and, State.onMe_onMe]
  rw [State.onMe_eq, State.me_relisted, State.setStrand_cur, State.setStrand_setStrand,
    Strand.advance_branch s.me (g s.me) s.here q h.pend h1 h2 h3 hq]
  rw [State.settle]
  simp only [State.strand_setStrand_same]
  have : ((g s.me).moved s.here).trapReq = none := h3
  simp only [this]
  rfl

/-! Shapes of plans. -/

/-- A well-formed syllable other than LOOP and MLOOP is legal. -/
theorem State.Unheld.legal {s : State} {i : Instr} (h : s.Unheld i) (p : State → Plan) (h1 : ∀ o, i ≠ .loop o := by intro o e; cases e)
    (h2 : ∀ o, i ≠ .mloop o := by intro o e; cases e) : (loneWork i p s).legal s.here = true :=
  loneWork_legal i p s h.wf h1 h2

@[simp] theorem Strand.atEnd_wrS (t : Strand) (n : BitVec 6) (x : W64) (f : Fetched) (l : Bool) : (t.wrS n x).atEnd f l = t.atEnd f l := by
  unfold Strand.wrS; split <;> rfl

@[simp] theorem Strand.atEnd_wrP (t : Strand) (n : BitVec 6) (b : Bool) (f : Fetched) (l : Bool) : (t.wrP n b).atEnd f l = t.atEnd f l := by
  unfold Strand.wrP; split <;> rfl

/-- A plan that writes one scalar register. -/
theorem alone_writeS {i : Instr} {p : State → Plan} {s : State} (h : s.Clear i) (hl : (loneWork i p s).legal s.here = true)
    (hb : isBranch i = false) {n : BitVec 6} {x : W64} (hp : p (s.setStrand s.cur s.me) = writeS n x) :
    alone i p s = .next (s.wrote (s.me.wrS n x)) :=
  alone_reg h hl hb (g := fun t => t.wrS n x) hp (by simp [h.goesOn]) (by simp [h.next]) (by simp [h.trapReq])
    (by simp [h.body0]) (by simp [h.body1])

/-- A plan that writes one predicate. -/
theorem alone_writeP {i : Instr} {p : State → Plan} {s : State} (h : s.Clear i) (hl : (loneWork i p s).legal s.here = true)
    (hb : isBranch i = false) {n : BitVec 6} {b : Bool} (hp : p (s.setStrand s.cur s.me) = writeP n b) :
    alone i p s = .next (s.wrote (s.me.wrP n b)) :=
  alone_reg h hl hb (g := fun t => t.wrP n b) hp (by simp [h.goesOn]) (by simp [h.next]) (by simp [h.trapReq])
    (by simp [h.body0]) (by simp [h.body1])

/-- Records appended to the strand's core leave what else cores hold. -/
theorem State.recordMe_core (s : State) (k : Nat) (b : Bool) (c : Nat) :
    (s.recordMe k b).core c = { s.core c with statq := ((s.recordMe k b).core c).statq, statLost := ((s.recordMe k b).core c).statLost,
                                              statCount := ((s.recordMe k b).core c).statCount } := by
  unfold State.recordMe
  split
  · by_cases h : c = coreOf s.cur
    · subst h
      simp only [State.onMyCore, State.onCore, State.core_setCore_same]
      unfold Core.record
      simp only []
      split <;> rfl
    · simp only [State.onMyCore, State.onCore, State.core_setCore_other _ _ h]
  · rfl

@[simp] theorem State.recordMe_cur (s : State) (k : Nat) (b : Bool) : (s.recordMe k b).cur = s.cur := by
  unfold State.recordMe; split <;> rfl

@[simp] theorem State.recordMe_strands (s : State) (k : Nat) (b : Bool) : (s.recordMe k b).strands = s.strands := by
  unfold State.recordMe; split <;> rfl

/-- What a vector syllable's commit does (R191, R192, R443). -/
theorem alone_fly {i : Instr} {p : State → Plan} {s : State} (h : s.Clear i) (hl : (loneWork i p s).legal s.here = true)
    (hb : isBranch i = false) {lat n : Nat} {lands : List Landing} {nan sat : Bool}
    (hp : p (s.setStrand s.cur s.me) = vecDone lat lands n nan sat) :
    ∃ t, alone i p s = .next t ∧ s.Flew t lat lands := by
  have hg := alone_go h hl (hp.trans (rfl : vecDone lat lands n nan sat = .go _))
  simp only [hb, Bool.false_and] at hg
  refine ⟨_, hg, ?_⟩
  generalize hq : s.setStrand s.cur s.me = q
  have hqc : q.cur = s.cur := by rw [← hq]; rfl
  have hqm : q.me = s.me := by rw [← hq, State.me_relisted]
  have hqf : q.fly lat lands = s.setStrand s.cur (s.me.flying (s.issueClk + lat) (s.slot == .m) lands) := by
    rw [State.fly_eq, State.me_fly, hqc, hqm, ← hq, State.setStrand_setStrand]
    rfl
  generalize hF : s.me.flying (s.issueClk + lat) (s.slot == .m) lands = F at hqf
  obtain ⟨c1, e1⟩ := State.recordMe_eq (q.fly lat lands) 1 nan
  obtain ⟨c2, e2⟩ := State.recordMe_eq ((q.fly lat lands).recordMe 1 nan) 2 sat
  obtain ⟨v, e3⟩ := State.meter_eq (((q.fly lat lands).recordMe 1 nan).recordMe 2 sat) (leafOf q.cur) 5 n
  generalize hc3 : (((q.fly lat lands).recordMe 1 nan).recordMe 2 sat).cores = C
  have e4 : (((q.fly lat lands).recordMe 1 nan).recordMe 2 sat).meter (leafOf q.cur) 5 n = { s.setStrand s.cur F with cores := C, vfs := v } := by
    rw [e3, ← hc3, e2, e1, hqf]
  have hC : ∀ k, C.get k .reset = { s.core k with statq := (C.get k .reset).statq, statLost := (C.get k .reset).statLost,
                                                  statCount := (C.get k .reset).statCount } := by
    intro k
    have a1 := State.recordMe_core (q.fly lat lands) 1 nan k
    have a2 := State.recordMe_core ((q.fly lat lands).recordMe 1 nan) 2 sat k
    have a3 : (q.fly lat lands).core k = s.core k := by rw [hqf]; rfl
    have a4 : (((q.fly lat lands).recordMe 1 nan).recordMe 2 sat).core k = C.get k .reset := by rw [← hc3]; rfl
    rw [a4] at a2
    rw [a2, a1, a3]
  have hFm : F.retiring = false ∧ F.next = none ∧ F.trapReq = none ∧ F.atEnd s.here false = false ∧ F.atEnd s.here true = false := by
    rw [← hF]; exact ⟨h.goesOn, h.next, h.trapReq, h.body0, h.body1⟩
  have hme : ({ s.setStrand s.cur F with cores := C, vfs := v } : State).me = F := State.me_setStrand s F
  have hfin : (({ s.setStrand s.cur F with cores := C, vfs := v } : State).onMe fun t => { s.me.advance t s.here false with last := s.here.addr }) =
      { s.setStrand s.cur (F.moved s.here) with cores := C, vfs := v } := by
    rw [State.onMe_eq, hme, Strand.advance_plain s.me F s.here h.pend hFm.1 hFm.2.1 hFm.2.2.1 hFm.2.2.2.1 hFm.2.2.2.2]
    simp [State.setStrand]
  rw [e4, hfin]
  have hset : ({ s.setStrand s.cur (F.moved s.here) with cores := C, vfs := v } : State).settle s.cur =
      { s.setStrand s.cur (F.moved s.here) with cores := C, vfs := v } := by
    have : (({ s.setStrand s.cur (F.moved s.here) with cores := C, vfs := v } : State).strand s.cur).trapReq = none := by
      have : (({ s.setStrand s.cur (F.moved s.here) with cores := C, vfs := v } : State).strand s.cur) = F.moved s.here :=
        State.strand_setStrand_same s _ _
      rw [this]; exact hFm.2.2.1
    simp only [State.settle, this]
  rw [hset]
  have hm : ({ s.setStrand s.cur (F.moved s.here) with cores := C, vfs := v } : State).me = F.moved s.here := State.me_setStrand s _
  exact ⟨by rw [hm, ← hF], by rw [hm], hC⟩

end Sys2Proof.Machine
end

