-- ==== Sys2Proof/Laws/PerInstr.lean ====
section
/-! SUPPORT. Per instruction: which instructions have a word (R104), and that an opcode and an operand word lie in their
fields. -/

namespace Sys2Proof

theorem Fmt.code_lt (f : Fmt) : f.code < 16 := by cases f <;> decide

theorem Scope.code_lt (x : Scope) : x.code < 8 := by cases x <;> decide

theorem Dir.code_lt (x : Dir) : x.code < 4 := by cases x <;> decide

theorem Rm.code_lt (x : Rm) : x.code < 8 := by cases x <;> decide

theorem bitOf_lt (b : Bool) : bitOf b < 2 := by cases b <;> decide

/-! An operand word lies in its 32 bits. -/

theorem Rrr.word_lt (o : Rrr) : o.word < 2 ^ 32 := by
  have h0 := o.a.isLt
  have h1 := o.b.isLt
  have h2 := o.d.isLt
  unfold Rrr.word; omega

theorem Rrrr.word_lt (o : Rrrr) : o.word < 2 ^ 32 := by
  have h0 := o.a.isLt
  have h1 := o.b.isLt
  have h2 := o.c.isLt
  have h3 := o.d.isLt
  unfold Rrrr.word; omega

theorem Rr.word_lt (o : Rr) : o.word < 2 ^ 32 := by
  have h0 := o.a.isLt
  have h1 := o.d.isLt
  unfold Rr.word; omega

theorem Rri.word_lt (o : Rri) : o.word < 2 ^ 32 := by
  have h0 := o.a.isLt
  have h1 := o.d.isLt
  have h2 := o.imm.isLt
  unfold Rri.word; omega

theorem Widf.word_lt (o : Widf) : o.word < 2 ^ 32 := by
  have h0 := o.d.isLt
  have h1 := o.n.isLt
  unfold Widf.word; omega

theorem Ri24.word_lt (o : Ri24) : o.word < 2 ^ 32 := by
  have h0 := o.d.isLt
  have h1 := o.imm.isLt
  have h2 := o.sel.isLt
  unfold Ri24.word; omega

theorem Vvv.word_lt (o : Vvv) : o.word < 2 ^ 32 := by
  have h0 := o.k.isLt
  have h1 := o.va.isLt
  have h2 := o.vb.isLt
  have h3 := o.vd.isLt
  have h4 := o.fmt.code_lt
  unfold Vvv.word; omega

theorem Vv.word_lt (o : Vv) : o.word < 2 ^ 32 := by
  have h0 := o.k.isLt
  have h1 := o.va.isLt
  have h2 := o.vd.isLt
  have h3 := o.fmt.code_lt
  unfold Vv.word; omega

theorem Vt.word_lt (o : Vt) : o.word < 2 ^ 32 := by
  have h0 := o.va.isLt
  have h1 := o.vd.isLt
  have h2 := o.fmt.code_lt
  unfold Vt.word; omega

theorem Vvvv.word_lt (o : Vvvv) : o.word < 2 ^ 32 := by
  have h0 := o.va.isLt
  have h1 := o.vb.isLt
  have h2 := o.vc.isLt
  have h3 := o.vd.isLt
  unfold Vvvv.word; omega

theorem Vvs.word_lt (o : Vvs) : o.word < 2 ^ 32 := by
  have h0 := o.k.isLt
  have h1 := o.sb.isLt
  have h2 := o.va.isLt
  have h3 := o.vd.isLt
  have h4 := o.fmt.code_lt
  unfold Vvs.word; omega

theorem Vbc.word_lt (o : Vbc) : o.word < 2 ^ 32 := by
  have h0 := o.k.isLt
  have h1 := o.sb.isLt
  have h2 := o.vd.isLt
  have h3 := o.fmt.code_lt
  unfold Vbc.word; omega

theorem Vcv.word_lt (o : Vcv) : o.word < 2 ^ 32 := by
  have h0 := o.k.isLt
  have h1 := o.va.isLt
  have h2 := o.vd.isLt
  have h3 := o.fmt.code_lt
  have h4 := o.rm.code_lt
  have h5 := bitOf_lt o.sat
  unfold Vcv.word; omega

theorem Kvv.word_lt (o : Kvv) : o.word < 2 ^ 32 := by
  have h0 := o.k.isLt
  have h1 := o.kd.isLt
  have h2 := o.va.isLt
  have h3 := o.vb.isLt
  have h4 := o.fmt.code_lt
  unfold Kvv.word; omega

theorem Kkk.word_lt (o : Kkk) : o.word < 2 ^ 32 := by
  have h0 := o.ka.isLt
  have h1 := o.kb.isLt
  have h2 := o.kd.isLt
  unfold Kkk.word; omega

theorem Vi.word_lt (o : Vi) : o.word < 2 ^ 32 := by
  have h0 := o.imm.isLt
  have h1 := o.vd.isLt
  have h2 := o.fmt.code_lt
  unfold Vi.word; omega

theorem Vsx.word_lt (o : Vsx) : o.word < 2 ^ 32 := by
  have h0 := o.k.isLt
  have h1 := o.sb.isLt
  have h2 := o.sd.isLt
  have h3 := o.va.isLt
  have h4 := o.fmt.code_lt
  unfold Vsx.word; omega

theorem Vp.word_lt (o : Vp) : o.word < 2 ^ 32 := by
  have h0 := o.k.isLt
  have h1 := o.sd.isLt
  have h2 := o.vd.isLt
  have h3 := o.fmt.code_lt
  unfold Vp.word; omega

theorem Rq.word_lt (o : Rq) : o.word < 2 ^ 32 := by
  have h0 := o.k.isLt
  have h1 := o.ps.isLt
  have h2 := o.va.isLt
  have h3 := o.fmt.code_lt
  unfold Rq.word; omega

theorem Qd.word_lt (o : Qd) : o.word < 2 ^ 32 := by
  have h0 := o.ps.isLt
  have h1 := o.sd.isLt
  unfold Qd.word; omega

theorem Cbm.word_lt (o : Cbm) : o.word < 2 ^ 32 := by
  have h0 := o.cb.isLt
  have h1 := o.k.isLt
  have h2 := o.nm1.isLt
  have h3 := o.off.isLt
  have h4 := o.reg.isLt
  have h5 := o.fmt.code_lt
  unfold Cbm.word; omega

theorem Cbn.word_lt (o : Cbn) : o.word < 2 ^ 32 := by
  have h0 := o.cb.isLt
  have h1 := o.nm1.isLt
  unfold Cbn.word; omega

theorem Gm.word_lt (o : Gm) : o.word < 2 ^ 32 := by
  have h0 := o.disp.isLt
  have h1 := o.k.isLt
  have h2 := o.reg.isLt
  have h3 := o.sa.isLt
  have h4 := o.fmt.code_lt
  unfold Gm.word; omega

theorem Gms.word_lt (o : Gms) : o.word < 2 ^ 32 := by
  have h0 := o.disp.isLt
  have h1 := o.reg.isLt
  have h2 := o.sa.isLt
  have h3 := o.fmt.code_lt
  have h4 := o.scope.code_lt
  unfold Gms.word; omega

theorem Gmv.word_lt (o : Gmv) : o.word < 2 ^ 32 := by
  have h0 := o.disp.isLt
  have h1 := o.k.isLt
  have h2 := o.reg.isLt
  have h3 := o.sa.isLt
  have h4 := o.fmt.code_lt
  have h5 := o.scope.code_lt
  unfold Gmv.word; omega

theorem Pf.word_lt (o : Pf) : o.word < 2 ^ 32 := by
  have h0 := o.disp.isLt
  have h1 := o.sa.isLt
  unfold Pf.word; omega

theorem Xp.word_lt (o : Xp) : o.word < 2 ^ 32 := by
  have h0 := o.sa.isLt
  have h1 := o.va.isLt
  have h2 := o.dir.code_lt
  unfold Xp.word; omega

theorem At.word_lt (o : At) : o.word < 2 ^ 32 := by
  have h0 := o.a.isLt
  have h1 := o.b.isLt
  have h2 := o.d.isLt
  have h3 := o.scope.code_lt
  have h4 := bitOf_lt o.wide
  unfold At.word; omega

theorem Atc.word_lt (o : Atc) : o.word < 2 ^ 32 := by
  have h0 := o.a.isLt
  have h1 := o.b.isLt
  have h2 := o.c.isLt
  have h3 := o.d.isLt
  have h4 := o.scope.code_lt
  have h5 := bitOf_lt o.wide
  unfold Atc.word; omega

theorem Sc.word_lt (o : Sc) : o.word < 2 ^ 32 := by
  have h0 := o.scope.code_lt
  unfold Sc.word; omega

theorem Scr.word_lt (o : Scr) : o.word < 2 ^ 32 := by
  have h0 := o.s.isLt
  have h1 := o.scope.code_lt
  unfold Scr.word; omega

theorem Sr.word_lt (o : Sr) : o.word < 2 ^ 32 := by
  have h0 := o.s.isLt
  unfold Sr.word; omega

theorem Tw.word_lt (o : Tw) : o.word < 2 ^ 32 := by
  have h0 := o.tk.isLt
  unfold Tw.word; omega

theorem Rmap.word_lt (o : Rmap) : o.word < 2 ^ 32 := by
  have h0 := o.a.isLt
  have h1 := o.b.isLt
  have h2 := o.c.isLt
  unfold Rmap.word; omega

theorem Ra.word_lt (o : Ra) : o.word < 2 ^ 32 := by
  have h0 := o.a.isLt
  unfold Ra.word; omega

theorem Et.word_lt (o : Et) : o.word < 2 ^ 32 := by
  have h0 := o.mode.isLt
  have h1 := o.sa.isLt
  have h2 := o.ta.isLt
  have h3 := o.tb.isLt
  have h4 := o.tc.isLt
  have h5 := o.tp.isLt
  unfold Et.word; omega

theorem Bd.word_lt (o : Bd) : o.word < 2 ^ 32 := by
  have h0 := o.disp.isLt
  unfold Bd.word; omega

theorem Bs.word_lt (o : Bs) : o.word < 2 ^ 32 := by
  have h0 := o.sl.isLt
  unfold Bs.word; omega

theorem Bsd.word_lt (o : Bsd) : o.word < 2 ^ 32 := by
  have h0 := o.disp.isLt
  have h1 := o.sl.isLt
  unfold Bsd.word; omega

theorem Lp.word_lt (o : Lp) : o.word < 2 ^ 32 := by
  have h0 := o.len.isLt
  have h1 := o.sc.isLt
  have h2 := bitOf_lt o.lvl
  unfold Lp.word; omega

theorem Mlp.word_lt (o : Mlp) : o.word < 2 ^ 32 := by
  have h0 := o.len.isLt
  have h1 := o.nstg.isLt
  have h2 := o.sc.isLt
  have h3 := bitOf_lt o.lvl
  unfold Mlp.word; omega

theorem Im.word_lt (o : Im) : o.word < 2 ^ 32 := by
  have h0 := o.imm.isLt
  unfold Im.word; omega

theorem Mfs.word_lt (o : Mfs) : o.word < 2 ^ 32 := by
  have h0 := o.cr.isLt
  have h1 := o.sd.isLt
  unfold Mfs.word; omega

theorem Mts.word_lt (o : Mts) : o.word < 2 ^ 32 := by
  have h0 := o.cr.isLt
  have h1 := o.sa.isLt
  unfold Mts.word; omega

theorem Sd.word_lt (o : Sd) : o.word < 2 ^ 32 := by
  have h0 := o.sd.isLt
  unfold Sd.word; omega

theorem Dck.word_lt (o : Dck) : o.word < 2 ^ 32 := by
  have h0 := o.bank.isLt
  have h1 := o.pd.isLt
  have h2 := o.sa.isLt
  unfold Dck.word; omega

theorem Dld.word_lt (o : Dld) : o.word < 2 ^ 32 := by
  have h0 := o.bank.isLt
  have h1 := o.sa.isLt
  unfold Dld.word; omega

theorem Sig.word_lt (o : Sig) : o.word < 2 ^ 32 := by
  have h0 := o.sa.isLt
  have h1 := o.sd.isLt
  unfold Sig.word; omega

namespace Laws.Coded

/-- A syllable has an opcode and an operand word, each in its field; an event has none. -/
def Statement (i : Instr) : Prop :=
  match i.code with
  | some (_, opc, ops) => i.isSyllable = true ∧ opc < 512 ∧ ops < 2 ^ 32
  | none => i.isSyllable = false

theorem nop : Statement .nop := ⟨rfl, by decide, by decide⟩

theorem add (o : Rrr) : Statement (.add o) := ⟨rfl, by decide, o.word_lt⟩

theorem sub (o : Rrr) : Statement (.sub o) := ⟨rfl, by decide, o.word_lt⟩

theorem mul (o : Rrr) : Statement (.mul o) := ⟨rfl, by decide, o.word_lt⟩

theorem mulh (o : Rrr) : Statement (.mulh o) := ⟨rfl, by decide, o.word_lt⟩

theorem mulhu (o : Rrr) : Statement (.mulhu o) := ⟨rfl, by decide, o.word_lt⟩

theorem div (o : Rrr) : Statement (.div o) := ⟨rfl, by decide, o.word_lt⟩

theorem divu (o : Rrr) : Statement (.divu o) := ⟨rfl, by decide, o.word_lt⟩

theorem rem (o : Rrr) : Statement (.rem o) := ⟨rfl, by decide, o.word_lt⟩

theorem remu (o : Rrr) : Statement (.remu o) := ⟨rfl, by decide, o.word_lt⟩

theorem andS (o : Rrr) : Statement (.andS o) := ⟨rfl, by decide, o.word_lt⟩

theorem orS (o : Rrr) : Statement (.orS o) := ⟨rfl, by decide, o.word_lt⟩

theorem xorS (o : Rrr) : Statement (.xorS o) := ⟨rfl, by decide, o.word_lt⟩

theorem andn (o : Rrr) : Statement (.andn o) := ⟨rfl, by decide, o.word_lt⟩

theorem shl (o : Rrr) : Statement (.shl o) := ⟨rfl, by decide, o.word_lt⟩

theorem shr (o : Rrr) : Statement (.shr o) := ⟨rfl, by decide, o.word_lt⟩

theorem sar (o : Rrr) : Statement (.sar o) := ⟨rfl, by decide, o.word_lt⟩

theorem rol (o : Rrr) : Statement (.rol o) := ⟨rfl, by decide, o.word_lt⟩

theorem min (o : Rrr) : Statement (.min o) := ⟨rfl, by decide, o.word_lt⟩

theorem max (o : Rrr) : Statement (.max o) := ⟨rfl, by decide, o.word_lt⟩

theorem minu (o : Rrr) : Statement (.minu o) := ⟨rfl, by decide, o.word_lt⟩

theorem maxu (o : Rrr) : Statement (.maxu o) := ⟨rfl, by decide, o.word_lt⟩

theorem sel (o : Rrrr) : Statement (.sel o) := ⟨rfl, by decide, o.word_lt⟩

theorem shadd (o : Rrrr) : Statement (.shadd o) := ⟨rfl, by decide, o.word_lt⟩

theorem clz (o : Rr) : Statement (.clz o) := ⟨rfl, by decide, o.word_lt⟩

theorem ctz (o : Rr) : Statement (.ctz o) := ⟨rfl, by decide, o.word_lt⟩

theorem popc (o : Rr) : Statement (.popc o) := ⟨rfl, by decide, o.word_lt⟩

theorem brev (o : Rr) : Statement (.brev o) := ⟨rfl, by decide, o.word_lt⟩

theorem bswap (o : Rr) : Statement (.bswap o) := ⟨rfl, by decide, o.word_lt⟩

theorem addi (o : Rri) : Statement (.addi o) := ⟨rfl, by decide, o.word_lt⟩

theorem muli (o : Rri) : Statement (.muli o) := ⟨rfl, by decide, o.word_lt⟩

theorem andi (o : Rri) : Statement (.andi o) := ⟨rfl, by decide, o.word_lt⟩

theorem ori (o : Rri) : Statement (.ori o) := ⟨rfl, by decide, o.word_lt⟩

theorem xori (o : Rri) : Statement (.xori o) := ⟨rfl, by decide, o.word_lt⟩

theorem shli (o : Rri) : Statement (.shli o) := ⟨rfl, by decide, o.word_lt⟩

theorem shri (o : Rri) : Statement (.shri o) := ⟨rfl, by decide, o.word_lt⟩

theorem sari (o : Rri) : Statement (.sari o) := ⟨rfl, by decide, o.word_lt⟩

theorem widf (o : Widf) : Statement (.widf o) := ⟨rfl, by decide, o.word_lt⟩

theorem cmpeq (o : Rrr) : Statement (.cmpeq o) := ⟨rfl, by decide, o.word_lt⟩

theorem cmpne (o : Rrr) : Statement (.cmpne o) := ⟨rfl, by decide, o.word_lt⟩

theorem cmplt (o : Rrr) : Statement (.cmplt o) := ⟨rfl, by decide, o.word_lt⟩

theorem cmpltu (o : Rrr) : Statement (.cmpltu o) := ⟨rfl, by decide, o.word_lt⟩

theorem cmple (o : Rrr) : Statement (.cmple o) := ⟨rfl, by decide, o.word_lt⟩

theorem cmpleu (o : Rrr) : Statement (.cmpleu o) := ⟨rfl, by decide, o.word_lt⟩

theorem cmpeqi (o : Rri) : Statement (.cmpeqi o) := ⟨rfl, by decide, o.word_lt⟩

theorem cmpnei (o : Rri) : Statement (.cmpnei o) := ⟨rfl, by decide, o.word_lt⟩

theorem cmplti (o : Rri) : Statement (.cmplti o) := ⟨rfl, by decide, o.word_lt⟩

theorem cmpgei (o : Rri) : Statement (.cmpgei o) := ⟨rfl, by decide, o.word_lt⟩

theorem pand (o : Rrr) : Statement (.pand o) := ⟨rfl, by decide, o.word_lt⟩

theorem por (o : Rrr) : Statement (.por o) := ⟨rfl, by decide, o.word_lt⟩

theorem pxor (o : Rrr) : Statement (.pxor o) := ⟨rfl, by decide, o.word_lt⟩

theorem pandn (o : Rrr) : Statement (.pandn o) := ⟨rfl, by decide, o.word_lt⟩

theorem movi (o : Ri24) : Statement (.movi o) := ⟨rfl, by decide, o.word_lt⟩

theorem movk (o : Ri24) : Statement (.movk o) := ⟨rfl, by decide, o.word_lt⟩

theorem vadd (o : Vvv) : Statement (.vadd o) := ⟨rfl, by decide, o.word_lt⟩

theorem vsub (o : Vvv) : Statement (.vsub o) := ⟨rfl, by decide, o.word_lt⟩

theorem vmul (o : Vvv) : Statement (.vmul o) := ⟨rfl, by decide, o.word_lt⟩

theorem vmin (o : Vvv) : Statement (.vmin o) := ⟨rfl, by decide, o.word_lt⟩

theorem vmax (o : Vvv) : Statement (.vmax o) := ⟨rfl, by decide, o.word_lt⟩

theorem vadds (o : Vvv) : Statement (.vadds o) := ⟨rfl, by decide, o.word_lt⟩

theorem vsubs (o : Vvv) : Statement (.vsubs o) := ⟨rfl, by decide, o.word_lt⟩

theorem vmulh (o : Vvv) : Statement (.vmulh o) := ⟨rfl, by decide, o.word_lt⟩

theorem vdot4 (o : Vvv) : Statement (.vdot4 o) := ⟨rfl, by decide, o.word_lt⟩

theorem vabs (o : Vv) : Statement (.vabs o) := ⟨rfl, by decide, o.word_lt⟩

theorem vneg (o : Vv) : Statement (.vneg o) := ⟨rfl, by decide, o.word_lt⟩

theorem fmaFp32 (o : Vvvv) : Statement (.fmaFp32 o) := ⟨rfl, by decide, o.word_lt⟩

theorem fmaBf16 (o : Vvvv) : Statement (.fmaBf16 o) := ⟨rfl, by decide, o.word_lt⟩

theorem fmaFp16 (o : Vvvv) : Statement (.fmaFp16 o) := ⟨rfl, by decide, o.word_lt⟩

theorem fmsFp32 (o : Vvvv) : Statement (.fmsFp32 o) := ⟨rfl, by decide, o.word_lt⟩

theorem fmsBf16 (o : Vvvv) : Statement (.fmsBf16 o) := ⟨rfl, by decide, o.word_lt⟩

theorem fmsFp16 (o : Vvvv) : Statement (.fmsFp16 o) := ⟨rfl, by decide, o.word_lt⟩

theorem fnmaFp32 (o : Vvvv) : Statement (.fnmaFp32 o) := ⟨rfl, by decide, o.word_lt⟩

theorem fnmaBf16 (o : Vvvv) : Statement (.fnmaBf16 o) := ⟨rfl, by decide, o.word_lt⟩

theorem fnmaFp16 (o : Vvvv) : Statement (.fnmaFp16 o) := ⟨rfl, by decide, o.word_lt⟩

theorem vcmpeq (o : Kvv) : Statement (.vcmpeq o) := ⟨rfl, by decide, o.word_lt⟩

theorem vcmpne (o : Kvv) : Statement (.vcmpne o) := ⟨rfl, by decide, o.word_lt⟩

theorem vcmplt (o : Kvv) : Statement (.vcmplt o) := ⟨rfl, by decide, o.word_lt⟩

theorem vcmple (o : Kvv) : Statement (.vcmple o) := ⟨rfl, by decide, o.word_lt⟩

theorem kand (o : Kkk) : Statement (.kand o) := ⟨rfl, by decide, o.word_lt⟩

theorem kor (o : Kkk) : Statement (.kor o) := ⟨rfl, by decide, o.word_lt⟩

theorem kxor (o : Kkk) : Statement (.kxor o) := ⟨rfl, by decide, o.word_lt⟩

theorem kandn (o : Kkk) : Statement (.kandn o) := ⟨rfl, by decide, o.word_lt⟩

theorem vand (o : Vvv) : Statement (.vand o) := ⟨rfl, by decide, o.word_lt⟩

theorem vor (o : Vvv) : Statement (.vor o) := ⟨rfl, by decide, o.word_lt⟩

theorem vxor (o : Vvv) : Statement (.vxor o) := ⟨rfl, by decide, o.word_lt⟩

theorem vandn (o : Vvv) : Statement (.vandn o) := ⟨rfl, by decide, o.word_lt⟩

theorem vnot (o : Vv) : Statement (.vnot o) := ⟨rfl, by decide, o.word_lt⟩

theorem vshl (o : Vvv) : Statement (.vshl o) := ⟨rfl, by decide, o.word_lt⟩

theorem vshr (o : Vvv) : Statement (.vshr o) := ⟨rfl, by decide, o.word_lt⟩

theorem vsar (o : Vvv) : Statement (.vsar o) := ⟨rfl, by decide, o.word_lt⟩

theorem vshls (o : Vvs) : Statement (.vshls o) := ⟨rfl, by decide, o.word_lt⟩

theorem vshrs (o : Vvs) : Statement (.vshrs o) := ⟨rfl, by decide, o.word_lt⟩

theorem vsars (o : Vvs) : Statement (.vsars o) := ⟨rfl, by decide, o.word_lt⟩

theorem vcvt (o : Vcv) : Statement (.vcvt o) := ⟨rfl, by decide, o.word_lt⟩

theorem vcvtw (o : Vcv) : Statement (.vcvtw o) := ⟨rfl, by decide, o.word_lt⟩

theorem vcvtn (o : Vcv) : Statement (.vcvtn o) := ⟨rfl, by decide, o.word_lt⟩

theorem vperm (o : Vvv) : Statement (.vperm o) := ⟨rfl, by decide, o.word_lt⟩

theorem vslideup (o : Vvs) : Statement (.vslideup o) := ⟨rfl, by decide, o.word_lt⟩

theorem vslidedn (o : Vvs) : Statement (.vslidedn o) := ⟨rfl, by decide, o.word_lt⟩

theorem vbcast (o : Vbc) : Statement (.vbcast o) := ⟨rfl, by decide, o.word_lt⟩

theorem vmov (o : Vv) : Statement (.vmov o) := ⟨rfl, by decide, o.word_lt⟩

theorem vsel (o : Vvv) : Statement (.vsel o) := ⟨rfl, by decide, o.word_lt⟩

theorem vmvs (o : Vsx) : Statement (.vmvs o) := ⟨rfl, by decide, o.word_lt⟩

theorem vsplati (o : Vi) : Statement (.vsplati o) := ⟨rfl, by decide, o.word_lt⟩

theorem vsplitVpart (o : Vp) : Statement (.vsplitVpart o) := ⟨rfl, by decide, o.word_lt⟩

theorem vexp2 (o : Vv) : Statement (.vexp2 o) := ⟨rfl, by decide, o.word_lt⟩

theorem vlog2 (o : Vv) : Statement (.vlog2 o) := ⟨rfl, by decide, o.word_lt⟩

theorem vrecip (o : Vv) : Statement (.vrecip o) := ⟨rfl, by decide, o.word_lt⟩

theorem vrsqrt (o : Vv) : Statement (.vrsqrt o) := ⟨rfl, by decide, o.word_lt⟩

theorem vtanh (o : Vv) : Statement (.vtanh o) := ⟨rfl, by decide, o.word_lt⟩

theorem vsilu (o : Vv) : Statement (.vsilu o) := ⟨rfl, by decide, o.word_lt⟩

theorem vtag (o : Vt) : Statement (.vtag o) := ⟨rfl, by decide, o.word_lt⟩

theorem qacc (o : Rq) : Statement (.qacc o) := ⟨rfl, by decide, o.word_lt⟩

theorem qadd (o : Rq) : Statement (.qadd o) := ⟨rfl, by decide, o.word_lt⟩

theorem qmax (o : Rq) : Statement (.qmax o) := ⟨rfl, by decide, o.word_lt⟩

theorem qmin (o : Rq) : Statement (.qmin o) := ⟨rfl, by decide, o.word_lt⟩

theorem qdrn (o : Qd) : Statement (.qdrn o) := ⟨rfl, by decide, o.word_lt⟩

theorem ldl (o : Cbm) : Statement (.ldl o) := ⟨rfl, by decide, o.word_lt⟩

theorem stl (o : Cbm) : Statement (.stl o) := ⟨rfl, by decide, o.word_lt⟩

theorem ldls (o : Cbm) : Statement (.ldls o) := ⟨rfl, by decide, o.word_lt⟩

theorem stls (o : Cbm) : Statement (.stls o) := ⟨rfl, by decide, o.word_lt⟩

theorem cbpush (o : Cbn) : Statement (.cbpush o) := ⟨rfl, by decide, o.word_lt⟩

theorem cbpop (o : Cbn) : Statement (.cbpop o) := ⟨rfl, by decide, o.word_lt⟩

theorem lld (o : Gm) : Statement (.lld o) := ⟨rfl, by decide, o.word_lt⟩

theorem lst (o : Gm) : Statement (.lst o) := ⟨rfl, by decide, o.word_lt⟩

theorem lsgath (o : Vvs) : Statement (.lsgath o) := ⟨rfl, by decide, o.word_lt⟩

theorem lsscat (o : Vvs) : Statement (.lsscat o) := ⟨rfl, by decide, o.word_lt⟩

theorem gld (o : Gm) : Statement (.gld o) := ⟨rfl, by decide, o.word_lt⟩

theorem glds (o : Gm) : Statement (.glds o) := ⟨rfl, by decide, o.word_lt⟩

theorem gst (o : Gm) : Statement (.gst o) := ⟨rfl, by decide, o.word_lt⟩

theorem gsts (o : Gm) : Statement (.gsts o) := ⟨rfl, by decide, o.word_lt⟩

theorem gldacq (o : Gms) : Statement (.gldacq o) := ⟨rfl, by decide, o.word_lt⟩

theorem gstrel (o : Gms) : Statement (.gstrel o) := ⟨rfl, by decide, o.word_lt⟩

theorem gldacqv (o : Gmv) : Statement (.gldacqv o) := ⟨rfl, by decide, o.word_lt⟩

theorem gstrelv (o : Gmv) : Statement (.gstrelv o) := ⟨rfl, by decide, o.word_lt⟩

theorem pref (o : Pf) : Statement (.pref o) := ⟨rfl, by decide, o.word_lt⟩

theorem ldlu (o : Gm) : Statement (.ldlu o) := ⟨rfl, by decide, o.word_lt⟩

theorem xput (o : Xp) : Statement (.xput o) := ⟨rfl, by decide, o.word_lt⟩

theorem aadd (o : At) : Statement (.aadd o) := ⟨rfl, by decide, o.word_lt⟩

theorem amin (o : At) : Statement (.amin o) := ⟨rfl, by decide, o.word_lt⟩

theorem amax (o : At) : Statement (.amax o) := ⟨rfl, by decide, o.word_lt⟩

theorem aand (o : At) : Statement (.aand o) := ⟨rfl, by decide, o.word_lt⟩

theorem aor (o : At) : Statement (.aor o) := ⟨rfl, by decide, o.word_lt⟩

theorem axor (o : At) : Statement (.axor o) := ⟨rfl, by decide, o.word_lt⟩

theorem aswap (o : At) : Statement (.aswap o) := ⟨rfl, by decide, o.word_lt⟩

theorem acas (o : Atc) : Statement (.acas o) := ⟨rfl, by decide, o.word_lt⟩

theorem fence (o : Sc) : Statement (.fence o) := ⟨rfl, by decide, o.word_lt⟩

theorem drain (o : Sc) : Statement (.drain o) := ⟨rfl, by decide, o.word_lt⟩

theorem twait (o : Tw) : Statement (.twait o) := ⟨rfl, by decide, o.word_lt⟩

theorem sev (o : Scr) : Statement (.sev o) := ⟨rfl, by decide, o.word_lt⟩

theorem wfe : Statement .wfe := ⟨rfl, by decide, by decide⟩

theorem bar (o : Scr) : Statement (.bar o) := ⟨rfl, by decide, o.word_lt⟩

theorem waitt (o : Sr) : Statement (.waitt o) := ⟨rfl, by decide, o.word_lt⟩

theorem rdnow (o : Sr) : Statement (.rdnow o) := ⟨rfl, by decide, o.word_lt⟩

theorem rmap (o : Rmap) : Statement (.rmap o) := ⟨rfl, by decide, o.word_lt⟩

theorem runmap (o : Ra) : Statement (.runmap o) := ⟨rfl, by decide, o.word_lt⟩

theorem rflush (o : Ra) : Statement (.rflush o) := ⟨rfl, by decide, o.word_lt⟩

theorem lsta (o : Et) : Statement (.lsta o) := ⟨rfl, by decide, o.word_lt⟩

theorem lswap (o : Et) : Statement (.lswap o) := ⟨rfl, by decide, o.word_lt⟩

theorem lmm (o : Et) : Statement (.lmm o) := ⟨rfl, by decide, o.word_lt⟩

theorem lmms (o : Et) : Statement (.lmms o) := ⟨rfl, by decide, o.word_lt⟩

theorem lzero (o : Et) : Statement (.lzero o) := ⟨rfl, by decide, o.word_lt⟩

theorem lepi (o : Et) : Statement (.lepi o) := ⟨rfl, by decide, o.word_lt⟩

theorem tcfg (o : Et) : Statement (.tcfg o) := ⟨rfl, by decide, o.word_lt⟩

theorem tcfgd (o : Et) : Statement (.tcfgd o) := ⟨rfl, by decide, o.word_lt⟩

theorem tgo (o : Et) : Statement (.tgo o) := ⟨rfl, by decide, o.word_lt⟩

theorem tstat (o : Et) : Statement (.tstat o) := ⟨rfl, by decide, o.word_lt⟩

theorem hcpy (o : Et) : Statement (.hcpy o) := ⟨rfl, by decide, o.word_lt⟩

theorem hstr (o : Et) : Statement (.hstr o) := ⟨rfl, by decide, o.word_lt⟩

theorem htrn (o : Et) : Statement (.htrn o) := ⟨rfl, by decide, o.word_lt⟩

theorem hgath (o : Et) : Statement (.hgath o) := ⟨rfl, by decide, o.word_lt⟩

theorem hfill (o : Et) : Statement (.hfill o) := ⟨rfl, by decide, o.word_lt⟩

theorem hscat (o : Et) : Statement (.hscat o) := ⟨rfl, by decide, o.word_lt⟩

theorem kset (o : Et) : Statement (.kset o) := ⟨rfl, by decide, o.word_lt⟩

theorem kget (o : Et) : Statement (.kget o) := ⟨rfl, by decide, o.word_lt⟩

theorem spld (o : Et) : Statement (.spld o) := ⟨rfl, by decide, o.word_lt⟩

theorem spswap (o : Et) : Statement (.spswap o) := ⟨rfl, by decide, o.word_lt⟩

theorem spev (o : Et) : Statement (.spev o) := ⟨rfl, by decide, o.word_lt⟩

theorem spdx (o : Et) : Statement (.spdx o) := ⟨rfl, by decide, o.word_lt⟩

theorem spgr (o : Et) : Statement (.spgr o) := ⟨rfl, by decide, o.word_lt⟩

theorem spref (o : Et) : Statement (.spref o) := ⟨rfl, by decide, o.word_lt⟩

theorem coll (o : Et) : Statement (.coll o) := ⟨rfl, by decide, o.word_lt⟩

theorem cwait (o : Et) : Statement (.cwait o) := ⟨rfl, by decide, o.word_lt⟩

theorem ctest (o : Et) : Statement (.ctest o) := ⟨rfl, by decide, o.word_lt⟩

theorem cabort (o : Et) : Statement (.cabort o) := ⟨rfl, by decide, o.word_lt⟩

theorem br (o : Bd) : Statement (.br o) := ⟨rfl, by decide, o.word_lt⟩

theorem bri (o : Bs) : Statement (.bri o) := ⟨rfl, by decide, o.word_lt⟩

theorem call (o : Bsd) : Statement (.call o) := ⟨rfl, by decide, o.word_lt⟩

theorem ret (o : Bs) : Statement (.ret o) := ⟨rfl, by decide, o.word_lt⟩

theorem banksw (o : Bd) : Statement (.banksw o) := ⟨rfl, by decide, o.word_lt⟩

theorem loop (o : Lp) : Statement (.loop o) := ⟨rfl, by decide, o.word_lt⟩

theorem mloop (o : Mlp) : Statement (.mloop o) := ⟨rfl, by decide, o.word_lt⟩

theorem safe (o : Im) : Statement (.safe o) := ⟨rfl, by decide, o.word_lt⟩

theorem tend : Statement .tend := ⟨rfl, by decide, by decide⟩

theorem yield : Statement .yield := ⟨rfl, by decide, by decide⟩

theorem trap (o : Im) : Statement (.trap o) := ⟨rfl, by decide, o.word_lt⟩

theorem eret : Statement .eret := ⟨rfl, by decide, by decide⟩

theorem mfs (o : Mfs) : Statement (.mfs o) := ⟨rfl, by decide, o.word_lt⟩

theorem mts (o : Mts) : Statement (.mts o) := ⟨rfl, by decide, o.word_lt⟩

theorem stqrd (o : Sd) : Statement (.stqrd o) := ⟨rfl, by decide, o.word_lt⟩

theorem ifence : Statement .ifence := ⟨rfl, by decide, by decide⟩

theorem dictchk (o : Dck) : Statement (.dictchk o) := ⟨rfl, by decide, o.word_lt⟩

theorem dictld (o : Dld) : Statement (.dictld o) := ⟨rfl, by decide, o.word_lt⟩

theorem signal (o : Sig) : Statement (.signal o) := ⟨rfl, by decide, o.word_lt⟩

theorem bundleFetch (who : Nat) : Statement (.bundleFetch who) := rfl

theorem fetchLineFill (core : Nat) (line : W64) : Statement (.fetchLineFill core line) := rfl

theorem trapEntry (who : Nat) : Statement (.trapEntry who) := rfl

theorem resultLand (who id : Nat) : Statement (.resultLand who id) := rfl

theorem loadDataReturn (who id : Nat) (reply : LoadReply) : Statement (.loadDataReturn who id reply) := rfl

theorem storePerform (who id : Nat) : Statement (.storePerform who id) := rfl

theorem xputLand (core id : Nat) : Statement (.xputLand core id) := rfl

theorem eventLatchSet (who : Nat) : Statement (.eventLatchSet who) := rfl

theorem waittExpiry (who : Nat) : Statement (.waittExpiry who) := rfl

theorem safeovr (who : Nat) : Statement (.safeovr who) := rfl

theorem dictchkHoldEnd (who : Nat) : Statement (.dictchkHoldEnd who) := rfl

theorem dictldDone (who : Nat) : Statement (.dictldDone who) := rfl

theorem taskDispatch (leaf : Nat) : Statement (.taskDispatch leaf) := rfl

theorem taskStart (who : Nat) : Statement (.taskStart who) := rfl

theorem taskRetire (who : Nat) : Statement (.taskRetire who) := rfl

theorem regionFillComplete (core region : Nat) : Statement (.regionFillComplete core region) := rfl

theorem commandStart (queue : Nat) : Statement (.commandStart queue) := rfl

theorem commandComplete (queue : Nat) : Statement (.commandComplete queue) := rfl

theorem monitorWake (leaf line : Nat) : Statement (.monitorWake leaf line) := rfl

theorem rewalkTimer (leaf party : Nat) : Statement (.rewalkTimer leaf party) := rfl

theorem walkComplete (leaf party : Nat) : Statement (.walkComplete leaf party) := rfl

theorem qtailDoorbell (vf q : Nat) (tail : BitVec 32) : Statement (.qtailDoorbell vf q tail) := rfl

theorem qstatSkip (vf q : Nat) : Statement (.qstatSkip vf q) := rfl

theorem qstatReset (vf q : Nat) : Statement (.qstatReset vf q) := rfl

theorem launch (leaf vf q : Nat) : Statement (.launch leaf vf q) := rfl

theorem copy (leaf vf q : Nat) : Statement (.copy leaf vf q) := rfl

theorem waitsig (leaf vf q : Nat) : Statement (.waitsig leaf vf q) := rfl

theorem signalPacket (leaf vf q : Nat) : Statement (.signalPacket leaf vf q) := rfl

theorem ckpt (leaf vf q : Nat) : Statement (.ckpt leaf vf q) := rfl

theorem meter (leaf vf q : Nat) : Statement (.meter leaf vf q) := rfl

theorem resize (leaf vf q : Nat) : Statement (.resize leaf vf q) := rfl

theorem packetStart (leaf pid : Nat) : Statement (.packetStart leaf pid) := rfl

theorem waitsigPoll (leaf pid : Nat) : Statement (.waitsigPoll leaf pid) := rfl

theorem waitto (leaf pid : Nat) : Statement (.waitto leaf pid) := rfl

theorem copyComplete (leaf pid : Nat) : Statement (.copyComplete leaf pid) := rfl

theorem completionSignalRetry (leaf pid : Nat) : Statement (.completionSignalRetry leaf pid) := rfl

theorem resizeApply (leaf pid : Nat) : Statement (.resizeApply leaf pid) := rfl

theorem actfcUpdate (leaf : Nat) : Statement (.actfcUpdate leaf) := rfl

theorem stencilArm (leaf : Nat) : Statement (.stencilArm leaf) := rfl

theorem stencilApply (leaf : Nat) : Statement (.stencilApply leaf) := rfl

theorem slotBegin (leaf : Nat) : Statement (.slotBegin leaf) := rfl

theorem restoreComplete (leaf : Nat) : Statement (.restoreComplete leaf) := rfl

theorem ready (leaf gang member : Nat) : Statement (.ready leaf gang member) := rfl

theorem go (leaf gang : Nat) : Statement (.go leaf gang) := rfl

theorem startto (leaf : Nat) : Statement (.startto leaf) := rfl

theorem prepareStart (leaf : Nat) : Statement (.prepareStart leaf) := rfl

theorem memberPrepared (leaf : Nat) : Statement (.memberPrepared leaf) := rfl

theorem prepdlCapture (leaf : Nat) : Statement (.prepdlCapture leaf) := rfl

theorem voteRound (leaf : Nat) : Statement (.voteRound leaf) := rfl

theorem countreq (leaf gang round : Nat) : Statement (.countreq leaf gang round) := rfl

theorem count (leaf gang member round : Nat) (prepared : Bool) (sent recv : W64) : Statement (.count leaf gang member round prepared sent recv) := rfl

theorem commit (leaf gang : Nat) : Statement (.commit leaf gang) := rfl

theorem contextSaved (leaf : Nat) : Statement (.contextSaved leaf) := rfl

theorem done (leaf gang member : Nat) : Statement (.done leaf gang member) := rfl

theorem abort (leaf : Nat) (lead : Bool) (head : FaultHead) : Statement (.abort leaf lead head) := rfl

theorem votedlExpiry (leaf : Nat) : Statement (.votedlExpiry leaf) := rfl

theorem memberComplete (leaf : Nat) : Statement (.memberComplete leaf) := rfl

theorem mdone (leaf gang member : Nat) : Statement (.mdone leaf gang member) := rfl

theorem fabricPacketArrival (leaf : Nat) (p : Packet) : Statement (.fabricPacketArrival leaf p) := rfl

theorem remoteRequest (leaf : Nat) (p : Packet) : Statement (.remoteRequest leaf p) := rfl

theorem remoteResend (leaf txn : Nat) : Statement (.remoteResend leaf txn) := rfl

theorem flitCrcError (port : Nat) : Statement (.flitCrcError port) := rfl

theorem linkDown (port : Nat) : Statement (.linkDown port) := rfl

theorem linkRetrainEnd (port : Nat) (ok : Bool) : Statement (.linkRetrainEnd port ok) := rfl

theorem linkdnDownClear (bits : BitVec 32) : Statement (.linkdnDownClear bits) := rfl

theorem collStart (leaf ctx : Nat) : Statement (.collStart leaf ctx) := rfl

theorem placementRequest (leaf gang member : Nat) (block : BitVec 1024) : Statement (.placementRequest leaf gang member block) := rfl

theorem placement (leaf gang : Nat) (block : BitVec 1024) (routers : List (Nat × Nat × Nat)) : Statement (.placement leaf gang block routers) := rfl

theorem contribution (leaf : Nat) (p : Packet) : Statement (.contribution leaf p) := rfl

theorem collAck (leaf ctx txn : Nat) : Statement (.collAck leaf ctx txn) := rfl

theorem abortNotice (leaf gang member : Nat) (seq : W64) : Statement (.abortNotice leaf gang member seq) := rfl

theorem cabortCountRound (leaf ctx : Nat) : Statement (.cabortCountRound leaf ctx) := rfl

theorem releaseNotice (leaf gang : Nat) (seq : W64) : Statement (.releaseNotice leaf gang seq) := rfl

theorem sync (port : Nat) (origin arrival : W64) : Statement (.sync port origin arrival) := rfl

theorem followUp (port : Nat) (origin correction : W64) : Statement (.followUp port origin correction) := rfl

theorem pdelayReq (port : Nat) (arrival : W64) : Statement (.pdelayReq port arrival) := rfl

theorem pdelayResp (port : Nat) (reqReceipt arrival : W64) : Statement (.pdelayResp port reqReceipt arrival) := rfl

theorem pdelayRespFollowUp (port : Nat) (respOrigin : W64) : Statement (.pdelayRespFollowUp port respOrigin) := rfl

theorem syncInterval : Statement .syncInterval := rfl

theorem getVersion : Statement .getVersion := rfl

theorem getCapabilities : Statement .getCapabilities := rfl

theorem negotiateAlgorithms : Statement .negotiateAlgorithms := rfl

theorem getDigests : Statement .getDigests := rfl

theorem getCertificate : Statement .getCertificate := rfl

theorem getMeasurements : Statement .getMeasurements := rfl

theorem keyExchange : Statement .keyExchange := rfl

theorem finish : Statement .finish := rfl

theorem install (gang slot : Nat) (key : BitVec 256) : Statement (.install gang slot key) := rfl

theorem revoke (slot : Nat) : Statement (.revoke slot) := rfl

theorem keySlotClear (slot : Nat) : Statement (.keySlotClear slot) := rfl

theorem kbshareWrite (key : Nat) (value : W64) : Statement (.kbshareWrite key value) := rfl

theorem poolRegionEnable (region : Nat) (value : W64) : Statement (.poolRegionEnable region value) := rfl

theorem dump (region : Nat) : Statement (.dump region) := rfl

theorem drop (region : Nat) : Statement (.drop region) := rfl

theorem prstatRead (region : Nat) : Statement (.prstatRead region) := rfl

theorem plcshareWrite (key : Nat) (value : W64) : Statement (.plcshareWrite key value) := rfl

theorem ownershipGrant (line : Nat) : Statement (.ownershipGrant line) := rfl

theorem bisnp (line : Nat) (data : BitVec 512) : Statement (.bisnp line data) := rfl

theorem poolLinkLoss (region : Nat) : Statement (.poolLinkLoss region) := rfl

theorem poolRetrySuccess (region : Nat) : Statement (.poolRetrySuccess region) := rfl

theorem poolRetryExpiry (region : Nat) : Statement (.poolRetryExpiry region) := rfl

theorem tlbinv (vf : Nat) (value : W64) : Statement (.tlbinv vf value) := rfl

theorem tlbinvDone (vf : Nat) : Statement (.tlbinvDone vf) := rfl

theorem uncorrectableError (leaf unit addr : Nat) : Statement (.uncorrectableError leaf unit addr) := rfl

theorem correctableError (leaf unit : Nat) : Statement (.correctableError leaf unit) := rfl

theorem freezeEnd (leaf : Nat) : Statement (.freezeEnd leaf) := rfl

theorem coreFailure (leaf core : Nat) : Statement (.coreFailure leaf core) := rfl

theorem ckptStart (leaf pid : Nat) : Statement (.ckptStart leaf pid) := rfl

theorem ckptPageDrain (leaf pid page : Nat) : Statement (.ckptPageDrain leaf pid page) := rfl

theorem ckptComplete (leaf pid : Nat) : Statement (.ckptComplete leaf pid) := rfl

theorem bufbytesRead (vf offset : Nat) : Statement (.bufbytesRead vf offset) := rfl

theorem errleafRead (leaf offset : Nat) : Statement (.errleafRead leaf offset) := rfl

theorem errpkgRead (offset : Nat) : Statement (.errpkgRead offset) := rfl

theorem hbmWindowAccess (offset : Nat) (write : Bool) (value : W64) : Statement (.hbmWindowAccess offset write value) := rfl

theorem powerOn : Statement .powerOn := rfl

theorem readyTimeout : Statement .readyTimeout := rfl

theorem restart : Statement .restart := rfl

theorem mprst : Statement .mprst := rfl

theorem mpHeartbeat : Statement .mpHeartbeat := rfl

theorem pwrctlWrite (leaf : Nat) (value : W64) : Statement (.pwrctlWrite leaf value) := rfl

theorem pwrctlApply (leaf : Nat) : Statement (.pwrctlApply leaf) := rfl

theorem thwarn : Statement .thwarn := rfl

theorem thermalTrip : Statement .thermalTrip := rfl

theorem registerWrite (fn offset : Nat) (value : W64) : Statement (.registerWrite fn offset value) := rfl

theorem l1Evict (core line : Nat) : Statement (.l1Evict core line) := rfl

theorem functionReset (vf : Nat) : Statement (.functionReset vf) := rfl

theorem flashWriteWindow (offset : Nat) (value : W64) : Statement (.flashWriteWindow offset value) := rfl

theorem pdelayReqInterval (port : Nat) : Statement (.pdelayReqInterval port) := rfl

end Laws.Coded

end Sys2Proof
end

