-- ==== Sys2Proof/Tests/Slice0.lean ====
section
/-! SUPPORT. Tests: an ill-formed term for each check of Instr.wf; every constructor's decoding by a word written out from the
spec's tables; behaviours with expected values from the spec; and states that meet the hypotheses of every statement. -/

open Sys2Proof Sys2Proof.Machine

namespace Sys2Proof.Tests

set_option Elab.async false

/-! Well-formedness: one term for each check, refused. -/

theorem test_wf_scalar : ∀ i ∈ ([.shli ⟨1, 1, 64⟩, .shri ⟨1, 1, 64⟩, .sari ⟨1, 1, 64⟩, .widf ⟨1, 6⟩, .movi ⟨1, 3, 0⟩, .movk ⟨1, 3, 0⟩,
    .movi ⟨1, 2, 0x10000⟩] : List Instr), i.wf = false := by decide +kernel

theorem test_wf_vector_register : ∀ i ∈ ([.vadd ⟨192, 0, 0, 0, .fp32⟩, .vadd ⟨0, 192, 0, 0, .fp32⟩, .vadd ⟨0, 0, 192, 0, .fp32⟩, .vadds ⟨192, 0, 0, 0, .int8⟩,
    .vmulh ⟨0, 192, 0, 0, .int8⟩, .vshls ⟨192, 0, 0, 0, .int8⟩, .vdot4 ⟨0, 0, 192, 0, .int8⟩, .vabs ⟨0, 192, 0, .fp32⟩, .fmaFp32 ⟨0, 0, 0, 192⟩,
    .vcmpeq ⟨1, 192, 0, 0, .fp32⟩, .vand ⟨0, 0, 192, 0, .raw⟩, .vnot ⟨192, 0, 0, .raw⟩, .vtag ⟨0, 192, .raw⟩, .vcvt ⟨192, 0, .rne, false, 0, .fp32⟩,
    .vslideup ⟨192, 0, 0, 0, .raw⟩, .vbcast ⟨192, 0, 0, .raw⟩, .vmov ⟨0, 192, 0, .raw⟩, .vsel ⟨0, 0, 192, 0, .raw⟩, .vmvs ⟨1, 192, 0, 0, .raw⟩,
    .vsplati ⟨192, 0, .raw⟩, .vexp2 ⟨192, 0, 0, .fp32⟩, .qacc ⟨192, 0, 0, .fp32⟩, .ldl ⟨192, 0, 0, 0, 0, .raw⟩, .lld ⟨192, 0, 0, 0, .raw⟩,
    .lsgath ⟨192, 0, 0, 0, .int16⟩, .gldacqv ⟨192, 0, .gang, 0, 0, .raw⟩, .xput ⟨192, 0, .north⟩] : List Instr), i.wf = false := by decide +kernel

theorem test_wf_vector_format : ∀ i ∈ ([.vadd ⟨0, 0, 0, 0, .raw⟩, .vadds ⟨0, 0, 0, 0, .fp32⟩, .vmulh ⟨0, 0, 0, 0, .int4⟩, .vshls ⟨0, 0, 0, 0, .int4⟩,
    .vdot4 ⟨0, 0, 0, 0, .int16⟩, .vneg ⟨0, 0, 0, .uint8⟩, .vcmplt ⟨1, 0, 0, 0, .int4⟩, .vexp2 ⟨0, 0, 0, .int8⟩, .vmov ⟨0, 0, 0, .spline⟩,
    .vperm ⟨0, 0, 0, 0, .spline⟩, .vcvt ⟨0, 0, .rne, false, 0, .raw⟩, .vcvt ⟨0, 0, .rz, false, 0, .t8⟩, .vcvtw ⟨0, 0, .rne, false, 0, .int4⟩,
    .vcvtn ⟨0, 0, .rne, false, 0, .fp32⟩, .vsplati ⟨0, 256, .int8⟩, .vsplati ⟨0, 0, .spline⟩, .qadd ⟨0, 0, 0, .int4⟩, .lsgath ⟨0, 0, 0, 0, .t6⟩,
    .vsplitVpart ⟨0, 0, 0, .spline⟩] : List Instr), i.wf = false := by decide +kernel

theorem test_wf_groups_and_masks : ∀ i ∈ ([.vcvtw ⟨2, 0, .rne, false, 0, .fp32⟩, .vcvtn ⟨0, 1, .rne, false, 0, .bf16⟩, .vcvtw ⟨0, 0, .rne, false, 1, .fp32⟩,
    .vcvtn ⟨0, 0, .rne, false, 1, .bf16⟩, .vperm ⟨0, 0, 1, 0, .int8⟩, .vsplitVpart ⟨1, 0, 0, .int8⟩, .lsscat ⟨0, 1, 0, 0, .int8⟩] : List Instr),
    i.wf = false := by decide +kernel

theorem test_wf_memory : ∀ i ∈ ([.ldls ⟨64, 0, 0, 0, 0, .int32⟩, .stls ⟨0, 0, 0, 1, 0, .int32⟩, .glds ⟨0, 0, 0, 0, .int4⟩, .gldacq ⟨1, 2, .strand, 0, .int32⟩,
    .gstrelv ⟨1, 2, .strand, 0, 0, .raw⟩, .aadd ⟨1, 2, 3, .strand, true⟩, .acas ⟨1, 2, 3, 4, .strand, true⟩, .fence ⟨.strand⟩, .drain ⟨.strand⟩,
    .sev ⟨1, .gang⟩, .bar ⟨1, .chip⟩] : List Instr), i.wf = false := by decide +kernel

theorem test_wf_engine : ∀ i ∈ ([.lsta ⟨0, 0, 0, 0, 0, 0x21⟩, .lsta ⟨0, 0, 0, 0, 0, 0⟩, .lmm ⟨0, 0, 0, 0, 0, 0x11⟩, .lswap ⟨0, 0, 0, 0, 1, 0⟩, .lzero ⟨0, 0, 0, 0, 0, 2⟩,
    .tcfg ⟨0, 0, 0, 0, 0, 1⟩, .tstat ⟨1, 0, 0, 0, 1, 0⟩, .tstat ⟨0, 1, 0, 0, 1, 0⟩, .hcpy ⟨0, 0, 0, 0, 0, 4⟩, .kset ⟨0, 0, 0, 0, 0, 2⟩, .kget ⟨0, 0, 0, 0, 0, 3⟩,
    .spev ⟨0, 0, 0, 0, 0, 3⟩, .spdx ⟨0, 0, 0, 0, 0, 0x21⟩, .coll ⟨0, 0, 0, 0, 0, 8⟩, .cwait ⟨0, 1, 0, 0, 0, 0⟩, .ctest ⟨1, 0, 0, 0, 0, 0⟩,
    .cabort ⟨0, 0, 0, 0, 1, 0⟩] : List Instr), i.wf = false := by decide +kernel

theorem test_wf_branch : ∀ i ∈ ([.loop ⟨1, false, 0⟩, .mloop ⟨1, false, 0, 0⟩, .mfs ⟨1, 0x0C⟩, .mts ⟨1, 0x60⟩, .dictchk ⟨1, 1, 2⟩, .dictld ⟨1, 2⟩] : List Instr),
    i.wf = false := by decide +kernel

/-! Decoding: the words of R104, R106 and R114 to R119, bit by bit. -/

/-- What a syllable's bits decode to in a class. -/
def reads (c : SlotClass) (w : Syl48) : Option Syllable := (decodeSyllable c w).toOption

theorem test_decode_nop : ∀ c ∈ ([.scalar, .vector, .memory, .reduction, .engine, .branch] : List SlotClass),
    reads c (7#6 ++ 1#1 ++ 0#9 ++ 0#32) = some ⟨7, true, .nop⟩ := by decide +kernel

theorem test_decode_scalar_rrr : ∀ p ∈ ([(0x001, .add), (0x002, .sub), (0x003, .mul), (0x004, .mulh), (0x005, .mulhu), (0x006, .div), (0x007, .divu),
    (0x008, .rem), (0x009, .remu), (0x00A, .andS), (0x00B, .orS), (0x00C, .xorS), (0x00D, .andn), (0x00E, .shl), (0x00F, .shr), (0x010, .sar),
    (0x011, .rol), (0x012, .min), (0x013, .max), (0x014, .minu), (0x015, .maxu), (0x040, .cmpeq), (0x041, .cmpne), (0x042, .cmplt),
    (0x043, .cmpltu), (0x044, .cmple), (0x045, .cmpleu), (0x050, .pand), (0x051, .por), (0x052, .pxor), (0x053, .pandn)] : List (BitVec 9 × (Rrr → Instr))),
    reads .scalar (5#6 ++ 0#1 ++ p.1 ++ 61#6 ++ 34#6 ++ 7#6 ++ 0#6 ++ 0#8) = some ⟨5, false, p.2 ⟨61, 34, 7⟩⟩ := by decide +kernel

theorem test_decode_scalar_other :
    reads .scalar (0#6 ++ 0#1 ++ 0x016#9 ++ 61#6 ++ 34#6 ++ 7#6 ++ 9#6 ++ 0#8) = some ⟨0, false, .sel ⟨61, 34, 7, 9⟩⟩ ∧
    reads .scalar (0#6 ++ 0#1 ++ 0x017#9 ++ 61#6 ++ 34#6 ++ 7#6 ++ 9#6 ++ 0#8) = some ⟨0, false, .shadd ⟨61, 34, 7, 9⟩⟩ ∧
    (∀ p ∈ ([(0x020, .clz), (0x021, .ctz), (0x022, .popc), (0x023, .brev), (0x024, .bswap)] : List (BitVec 9 × (Rr → Instr))),
      reads .scalar (0#6 ++ 0#1 ++ p.1 ++ 61#6 ++ 34#6 ++ 0#6 ++ 0#6 ++ 0#8) = some ⟨0, false, p.2 ⟨61, 34⟩⟩) ∧
    reads .scalar (0#6 ++ 0#1 ++ 0x038#9 ++ 61#6 ++ 0#6 ++ 5#4 ++ 0#16) = some ⟨0, false, .widf ⟨61, 5⟩⟩ ∧
    reads .scalar (0#6 ++ 0#1 ++ 0x060#9 ++ 61#6 ++ 1#2 ++ 0xABCDEF#24) = some ⟨0, false, .movi ⟨61, 1, 0xABCDEF⟩⟩ ∧
    reads .scalar (0#6 ++ 0#1 ++ 0x061#9 ++ 61#6 ++ 2#2 ++ 0x00CDEF#24) = some ⟨0, false, .movk ⟨61, 2, 0xCDEF⟩⟩ := by decide +kernel

theorem test_decode_scalar_rri : ∀ p ∈ ([(0x030, .addi), (0x031, .muli), (0x032, .andi), (0x033, .ori), (0x034, .xori), (0x035, .shli), (0x036, .shri),
    (0x037, .sari), (0x046, .cmpeqi), (0x047, .cmpnei), (0x048, .cmplti), (0x049, .cmpgei)] : List (BitVec 9 × (Rri → Instr))),
    reads .scalar (0#6 ++ 0#1 ++ p.1 ++ 61#6 ++ 34#6 ++ 0#4 ++ 63#16) = some ⟨0, false, p.2 ⟨61, 34, 63⟩⟩ := by decide +kernel

theorem test_decode_vector_vvv : ∀ p ∈ ([(0x001, .vadd, 0x9, .int16), (0x002, .vsub, 0x9, .int16), (0x003, .vmul, 0x9, .int16), (0x004, .vmin, 0x9, .int16),
    (0x005, .vmax, 0x1, .fp32), (0x006, .vadds, 0x6, .int4), (0x007, .vsubs, 0x9, .int16), (0x008, .vmulh, 0x9, .int16), (0x009, .vdot4, 0x8, .uint8),
    (0x030, .vand, 0x0, .raw), (0x031, .vor, 0xC, .spline), (0x032, .vxor, 0xB, .s12), (0x033, .vandn, 0x5, .t6), (0x040, .vshl, 0xA, .int32),
    (0x041, .vshr, 0x7, .int8), (0x042, .vsar, 0x9, .int16), (0x060, .vperm, 0x9, .int16), (0x065, .vsel, 0x4, .t8)] :
    List (BitVec 9 × (Vvv → Instr) × BitVec 4 × Fmt)),
    reads .vector (0#6 ++ 0#1 ++ p.1 ++ 191#8 ++ 100#8 ++ 35#8 ++ 14#4 ++ p.2.2.1) = some ⟨0, false, p.2.1 ⟨191, 100, 35, 14, p.2.2.2⟩⟩ := by decide +kernel

theorem test_decode_vector_vv : ∀ p ∈ ([(0x00A, .vabs), (0x00B, .vneg), (0x034, .vnot), (0x064, .vmov), (0x070, .vexp2), (0x071, .vlog2), (0x072, .vrecip),
    (0x073, .vrsqrt), (0x074, .vtanh), (0x075, .vsilu)] : List (BitVec 9 × (Vv → Instr))),
    reads .vector (0#6 ++ 0#1 ++ p.1 ++ 191#8 ++ 100#8 ++ 0#8 ++ 14#4 ++ 2#4) = some ⟨0, false, p.2 ⟨191, 100, 14, .bf16⟩⟩ := by decide +kernel

theorem test_decode_vector_fma : ∀ p ∈ ([(0x010, .fmaFp32), (0x011, .fmaBf16), (0x012, .fmaFp16), (0x013, .fmsFp32), (0x014, .fmsBf16), (0x015, .fmsFp16),
    (0x016, .fnmaFp32), (0x017, .fnmaBf16), (0x018, .fnmaFp16)] : List (BitVec 9 × (Vvvv → Instr))),
    reads .vector (0#6 ++ 0#1 ++ p.1 ++ 191#8 ++ 100#8 ++ 35#8 ++ 70#8) = some ⟨0, false, p.2 ⟨191, 100, 35, 70⟩⟩ := by decide +kernel

theorem test_decode_vector_masks :
    (∀ p ∈ ([(0x020, .vcmpeq), (0x021, .vcmpne), (0x022, .vcmplt), (0x023, .vcmple)] : List (BitVec 9 × (Kvv → Instr))),
      reads .vector (0#6 ++ 0#1 ++ p.1 ++ 13#4 ++ 0#4 ++ 100#8 ++ 35#8 ++ 14#4 ++ 3#4) = some ⟨0, false, p.2 ⟨13, 100, 35, 14, .fp16⟩⟩) ∧
    ∀ p ∈ ([(0x024, .kand), (0x025, .kor), (0x026, .kxor), (0x027, .kandn)] : List (BitVec 9 × (Kkk → Instr))),
      reads .vector (0#6 ++ 0#1 ++ p.1 ++ 13#4 ++ 6#4 ++ 1#4 ++ 0#20) = some ⟨0, false, p.2 ⟨13, 6, 1⟩⟩ := by decide +kernel

theorem test_decode_vector_vvs : ∀ p ∈ ([(0x043, .vshls), (0x044, .vshrs), (0x045, .vsars), (0x061, .vslideup), (0x062, .vslidedn)] :
    List (BitVec 9 × (Vvs → Instr))),
    reads .vector (0#6 ++ 0#1 ++ p.1 ++ 191#8 ++ 100#8 ++ 35#6 ++ 0#2 ++ 14#4 ++ 0xA#4) = some ⟨0, false, p.2 ⟨191, 100, 35, 14, .int32⟩⟩ := by decide +kernel

theorem test_decode_vector_other :
    reads .vector (0#6 ++ 0#1 ++ 0x050#9 ++ 191#8 ++ 100#8 ++ 0#4 ++ 4#3 ++ 1#1 ++ 14#4 ++ 2#4) = some ⟨0, false, .vcvt ⟨191, 100, .ru, true, 14, .bf16⟩⟩ ∧
    reads .vector (0#6 ++ 0#1 ++ 0x051#9 ++ 188#8 ++ 100#8 ++ 0#4 ++ 2#3 ++ 0#1 ++ 0#4 ++ 1#4) = some ⟨0, false, .vcvtw ⟨188, 100, .rz, false, 0, .fp32⟩⟩ ∧
    reads .vector (0#6 ++ 0#1 ++ 0x052#9 ++ 191#8 ++ 100#8 ++ 0#4 ++ 3#3 ++ 0#1 ++ 0#4 ++ 2#4) = some ⟨0, false, .vcvtn ⟨191, 100, .rd, false, 0, .bf16⟩⟩ ∧
    reads .vector (0#6 ++ 0#1 ++ 0x063#9 ++ 191#8 ++ 0#8 ++ 35#6 ++ 0#2 ++ 14#4 ++ 0xB#4) = some ⟨0, false, .vbcast ⟨191, 35, 14, .s12⟩⟩ ∧
    reads .vector (0#6 ++ 0#1 ++ 0x066#9 ++ 61#6 ++ 0#2 ++ 100#8 ++ 35#6 ++ 0#2 ++ 14#4 ++ 0x8#4) = some ⟨0, false, .vmvs ⟨61, 100, 35, 14, .uint8⟩⟩ ∧
    reads .vector (0#6 ++ 0#1 ++ 0x067#9 ++ 191#8 ++ 0#4 ++ 0xBEEF#16 ++ 0x1#4) = some ⟨0, false, .vsplati ⟨191, 0xBEEF, .fp32⟩⟩ ∧
    reads .vector (0#6 ++ 0#1 ++ 0x068#9 ++ 190#8 ++ 61#6 ++ 0#10 ++ 14#4 ++ 0x7#4) = some ⟨0, false, .vsplitVpart ⟨190, 61, 14, .int8⟩⟩ ∧
    reads .vector (0#6 ++ 0#1 ++ 0x080#9 ++ 191#8 ++ 100#8 ++ 0#8 ++ 0#4 ++ 0xC#4) = some ⟨0, false, .vtag ⟨191, 100, .spline⟩⟩ := by decide +kernel

theorem test_decode_memory_local :
    (∀ p ∈ ([(0x001, .ldl), (0x002, .stl)] : List (BitVec 9 × (Cbm → Instr))),
      reads .memory (0#6 ++ 0#1 ++ p.1 ++ 191#8 ++ 30#5 ++ 5#3 ++ 14#4 ++ 0xC5#8 ++ 2#4) = some ⟨0, false, p.2 ⟨191, 30, 5, 14, 0xC5, .bf16⟩⟩) ∧
    (∀ p ∈ ([(0x003, .ldls), (0x004, .stls)] : List (BitVec 9 × (Cbm → Instr))),
      reads .memory (0#6 ++ 0#1 ++ p.1 ++ 63#8 ++ 30#5 ++ 5#3 ++ 0#4 ++ 0xC5#8 ++ 0#4) = some ⟨0, false, p.2 ⟨63, 30, 5, 0, 0xC5, .raw⟩⟩) ∧
    (∀ p ∈ ([(0x005, .cbpush), (0x006, .cbpop)] : List (BitVec 9 × (Cbn → Instr))),
      reads .memory (0#6 ++ 0#1 ++ p.1 ++ 0#8 ++ 30#5 ++ 5#3 ++ 0#16) = some ⟨0, false, p.2 ⟨30, 5⟩⟩) ∧
    ∀ p ∈ ([(0x009, .lsgath), (0x00A, .lsscat)] : List (BitVec 9 × (Vvs → Instr))),
      reads .memory (0#6 ++ 0#1 ++ p.1 ++ 191#8 ++ 100#8 ++ 35#6 ++ 0#2 ++ 14#4 ++ 0xA#4) = some ⟨0, false, p.2 ⟨191, 100, 35, 14, .int32⟩⟩ := by decide +kernel

theorem test_decode_memory_gm :
    (∀ p ∈ ([(0x007, .lld), (0x008, .lst), (0x010, .gld), (0x012, .gst), (0x019, .ldlu)] : List (BitVec 9 × (Gm → Instr))),
      reads .memory (0#6 ++ 0#1 ++ p.1 ++ 191#8 ++ 35#6 ++ 0#3 ++ 14#4 ++ 0x41#7 ++ 0xB#4) = some ⟨0, false, p.2 ⟨191, 35, 14, 0x41, .s12⟩⟩) ∧
    (∀ p ∈ ([(0x011, .glds), (0x013, .gsts)] : List (BitVec 9 × (Gm → Instr))),
      reads .memory (0#6 ++ 0#1 ++ p.1 ++ 63#8 ++ 35#6 ++ 0#3 ++ 0#4 ++ 0x41#7 ++ 1#4) = some ⟨0, false, p.2 ⟨63, 35, 0, 0x41, .fp32⟩⟩) ∧
    (∀ p ∈ ([(0x014, .gldacq), (0x015, .gstrel)] : List (BitVec 9 × (Gms → Instr))),
      reads .memory (0#6 ++ 0#1 ++ p.1 ++ 63#8 ++ 35#6 ++ 7#3 ++ 0#4 ++ 0x41#7 ++ 0#4) = some ⟨0, false, p.2 ⟨63, 35, .system, 0x41, .raw⟩⟩) ∧
    (∀ p ∈ ([(0x016, .gldacqv), (0x017, .gstrelv)] : List (BitVec 9 × (Gmv → Instr))),
      reads .memory (0#6 ++ 0#1 ++ p.1 ++ 191#8 ++ 35#6 ++ 6#3 ++ 14#4 ++ 0x41#7 ++ 0#4) = some ⟨0, false, p.2 ⟨191, 35, .pool, 14, 0x41, .raw⟩⟩) ∧
    reads .memory (0#6 ++ 0#1 ++ 0x018#9 ++ 0#8 ++ 35#6 ++ 0#3 ++ 0#4 ++ 0x41#7 ++ 0#4) = some ⟨0, false, .pref ⟨35, 0x41⟩⟩ := by decide +kernel

theorem test_decode_memory_atomics :
    (∀ p ∈ ([(0x030, .aadd), (0x031, .amin), (0x032, .amax), (0x033, .aand), (0x034, .aor), (0x035, .axor), (0x036, .aswap)] : List (BitVec 9 × (At → Instr))),
      reads .memory (0#6 ++ 0#1 ++ p.1 ++ 61#6 ++ 34#6 ++ 7#6 ++ 0#6 ++ 4#3 ++ 1#2 ++ 0#3) = some ⟨0, false, p.2 ⟨61, 34, 7, .chip, true⟩⟩) ∧
    reads .memory (0#6 ++ 0#1 ++ 0x037#9 ++ 61#6 ++ 34#6 ++ 7#6 ++ 9#6 ++ 1#3 ++ 0#2 ++ 0#3) = some ⟨0, false, .acas ⟨61, 34, 7, 9, .core, false⟩⟩ := by decide +kernel

theorem test_decode_memory_other :
    reads .memory (0#6 ++ 0#1 ++ 0x020#9 ++ 191#8 ++ 35#6 ++ 2#2 ++ 0#16) = some ⟨0, false, .xput ⟨191, 35, .south⟩⟩ ∧
    reads .memory (0#6 ++ 0#1 ++ 0x040#9 ++ 0#6 ++ 0#23 ++ 5#3) = some ⟨0, false, .fence ⟨.gang⟩⟩ ∧
    reads .memory (0#6 ++ 0#1 ++ 0x041#9 ++ 0#6 ++ 0#23 ++ 7#3) = some ⟨0, false, .drain ⟨.system⟩⟩ ∧
    reads .memory (0#6 ++ 0#1 ++ 0x042#9 ++ 29#5 ++ 0#27) = some ⟨0, false, .twait ⟨29⟩⟩ ∧
    reads .memory (0#6 ++ 0#1 ++ 0x043#9 ++ 35#6 ++ 0#23 ++ 2#3) = some ⟨0, false, .sev ⟨35, .cluster⟩⟩ ∧
    reads .memory (0#6 ++ 0#1 ++ 0x044#9 ++ 0#32) = some ⟨0, false, .wfe⟩ ∧
    reads .memory (0#6 ++ 0#1 ++ 0x045#9 ++ 35#6 ++ 0#23 ++ 3#3) = some ⟨0, false, .bar ⟨35, .leaf⟩⟩ ∧
    reads .memory (0#6 ++ 0#1 ++ 0x046#9 ++ 35#6 ++ 0#26) = some ⟨0, false, .waitt ⟨35⟩⟩ ∧
    reads .memory (0#6 ++ 0#1 ++ 0x047#9 ++ 35#6 ++ 0#26) = some ⟨0, false, .rdnow ⟨35⟩⟩ ∧
    reads .memory (0#6 ++ 0#1 ++ 0x048#9 ++ 0#6 ++ 34#6 ++ 7#6 ++ 9#6 ++ 0#8) = some ⟨0, false, .rmap ⟨34, 7, 9⟩⟩ ∧
    reads .memory (0#6 ++ 0#1 ++ 0x049#9 ++ 0#6 ++ 34#6 ++ 0#20) = some ⟨0, false, .runmap ⟨34⟩⟩ ∧
    reads .memory (0#6 ++ 0#1 ++ 0x04A#9 ++ 0#6 ++ 34#6 ++ 0#20) = some ⟨0, false, .rflush ⟨34⟩⟩ := by decide +kernel

theorem test_decode_reduction :
    (∀ p ∈ ([(0x001, .qacc), (0x002, .qadd), (0x003, .qmax), (0x005, .qmin)] : List (BitVec 9 × (Rq → Instr))),
      reads .reduction (0#6 ++ 0#1 ++ p.1 ++ 191#8 ++ 3#2 ++ 0#6 ++ 14#4 ++ 0#8 ++ 9#4) = some ⟨0, false, p.2 ⟨191, 3, 14, .int16⟩⟩) ∧
    reads .reduction (0#6 ++ 0#1 ++ 0x004#9 ++ 0#8 ++ 3#2 ++ 35#6 ++ 0#4 ++ 0#8 ++ 0#4) = some ⟨0, false, .qdrn ⟨3, 35⟩⟩ := by decide +kernel

theorem test_decode_engine : ∀ p ∈ ([(0x001, .lsta, 7), (0x003, .lmm, 0x27), (0x004, .lmms, 0x34), (0x006, .lepi, 0x3F), (0x020, .hcpy, 3), (0x021, .hstr, 2),
    (0x022, .htrn, 1), (0x023, .hgath, 0), (0x024, .hfill, 3), (0x025, .hscat, 2), (0x030, .kset, 1), (0x031, .kget, 6), (0x032, .spld, 0), (0x034, .spev, 0x21),
    (0x035, .spdx, 1), (0x036, .spgr, 2), (0x037, .spref, 0), (0x010, .tcfg, 0), (0x011, .tcfgd, 0), (0x040, .coll, 7)] :
    List (BitVec 9 × (Et → Instr) × BitVec 6)),
    reads .engine (0#6 ++ 0#1 ++ p.1 ++ 30#5 ++ 21#5 ++ 9#5 ++ 4#5 ++ 35#6 ++ p.2.2) = some ⟨0, false, p.2.1 ⟨30, 21, 9, 4, 35, p.2.2⟩⟩ := by decide +kernel

theorem test_decode_engine_unused :
    (∀ p ∈ ([(0x002, .lswap, 0), (0x005, .lzero, 0x2A), (0x012, .tgo, 0), (0x033, .spswap, 0)] : List (BitVec 9 × (Et → Instr) × BitVec 6)),
      reads .engine (0#6 ++ 0#1 ++ p.1 ++ 30#5 ++ 21#5 ++ 9#5 ++ 4#5 ++ 0#6 ++ p.2.2) = some ⟨0, false, p.2.1 ⟨30, 21, 9, 4, 0, p.2.2⟩⟩) ∧
    (∀ p ∈ ([(0x013, .tstat, 0), (0x042, .ctest, 3)] : List (BitVec 9 × (Et → Instr) × BitVec 6)),
      reads .engine (0#6 ++ 0#1 ++ p.1 ++ 0#20 ++ 35#6 ++ p.2.2) = some ⟨0, false, p.2.1 ⟨0, 0, 0, 0, 35, p.2.2⟩⟩) ∧
    reads .engine (0#6 ++ 0#1 ++ 0x041#9 ++ 30#5 ++ 0#15 ++ 35#6 ++ 5#6) = some ⟨0, false, .cwait ⟨30, 0, 0, 0, 35, 5⟩⟩ ∧
    reads .engine (0#6 ++ 0#1 ++ 0x043#9 ++ 30#5 ++ 0#15 ++ 0#6 ++ 5#6) = some ⟨0, false, .cabort ⟨30, 0, 0, 0, 0, 5⟩⟩ := by decide +kernel

theorem test_decode_branch :
    (∀ p ∈ ([(0x001, .br), (0x005, .banksw)] : List (BitVec 9 × (Bd → Instr))),
      reads .branch (0#6 ++ 0#1 ++ p.1 ++ 0#6 ++ 0#2 ++ 0xFFFFF0#24) = some ⟨0, false, p.2 ⟨0xFFFFF0⟩⟩) ∧
    (∀ p ∈ ([(0x002, .bri), (0x004, .ret)] : List (BitVec 9 × (Bs → Instr))),
      reads .branch (0#6 ++ 0#1 ++ p.1 ++ 61#6 ++ 0#26) = some ⟨0, false, p.2 ⟨61⟩⟩) ∧
    reads .branch (0#6 ++ 0#1 ++ 0x003#9 ++ 61#6 ++ 0#2 ++ 0xFFFFF0#24) = some ⟨0, false, .call ⟨61, 0xFFFFF0⟩⟩ ∧
    reads .branch (0#6 ++ 0#1 ++ 0x010#9 ++ 61#6 ++ 1#1 ++ 0#4 ++ 0#5 ++ 0xABCD#16) = some ⟨0, false, .loop ⟨61, true, 0xABCD⟩⟩ ∧
    reads .branch (0#6 ++ 0#1 ++ 0x011#9 ++ 61#6 ++ 0#1 ++ 0#4 ++ 19#5 ++ 0xABCD#16) = some ⟨0, false, .mloop ⟨61, false, 19, 0xABCD⟩⟩ := by decide +kernel

theorem test_decode_branch_system :
    (∀ p ∈ ([(0x020, .safe), (0x023, .trap)] : List (BitVec 9 × (Im → Instr))),
      reads .branch (0#6 ++ 0#1 ++ p.1 ++ 0#20 ++ 0xABC#12) = some ⟨0, false, p.2 ⟨0xABC⟩⟩) ∧
    (∀ p ∈ ([(0x021, .tend), (0x022, .yield), (0x024, .eret), (0x028, .ifence)] : List (BitVec 9 × Instr)),
      reads .branch (0#6 ++ 0#1 ++ p.1 ++ 0#32) = some ⟨0, false, p.2⟩) ∧
    reads .branch (0#6 ++ 0#1 ++ 0x025#9 ++ 61#6 ++ 0#6 ++ 0x35#8 ++ 0#12) = some ⟨0, false, .mfs ⟨61, 0x35⟩⟩ ∧
    reads .branch (0#6 ++ 0#1 ++ 0x026#9 ++ 0#6 ++ 61#6 ++ 0x5F#8 ++ 0#12) = some ⟨0, false, .mts ⟨61, 0x5F⟩⟩ ∧
    reads .branch (0#6 ++ 0#1 ++ 0x027#9 ++ 61#6 ++ 0#6 ++ 0#8 ++ 0#12) = some ⟨0, false, .stqrd ⟨61⟩⟩ ∧
    reads .branch (0#6 ++ 0#1 ++ 0x029#9 ++ 61#6 ++ 34#6 ++ 0#8 ++ 1#12) = some ⟨0, false, .dictchk ⟨61, 34, 1⟩⟩ ∧
    reads .branch (0#6 ++ 0#1 ++ 0x02A#9 ++ 0#6 ++ 34#6 ++ 0#8 ++ 1#12) = some ⟨0, false, .dictld ⟨34, 1⟩⟩ ∧
    reads .branch (0#6 ++ 0#1 ++ 0x02B#9 ++ 61#6 ++ 34#6 ++ 0#8 ++ 0#12) = some ⟨0, false, .signal ⟨61, 34⟩⟩ := by decide +kernel

/-- R110: an unassigned opcode of each map, a reserved bit, an unused field, an illegal code and an illegal register. -/
theorem test_decode_refuses : ∀ p ∈ ([(.scalar, 0#7 ++ 0x018#9 ++ 0#32), (.vector, 0#7 ++ 0x00C#9 ++ 0#32), (.memory, 0#7 ++ 0x04B#9 ++ 0#32), (.reduction, 0#7 ++ 0x006#9 ++ 0#32),
    (.engine, 0#7 ++ 0x007#9 ++ 0#32), (.branch, 0#7 ++ 0x02C#9 ++ 0#32), (.scalar, 0#7 ++ 0x001#9 ++ 0#24 ++ 1#8), (.scalar, 0#7 ++ 0x001#9 ++ 0#18 ++ 1#6 ++ 0#8),
    (.vector, 0#7 ++ 0x030#9 ++ 0#28 ++ 0xD#4), (.vector, 0#7 ++ 0x001#9 ++ 192#8 ++ 0#20 ++ 1#4), (.memory, 0#7 ++ 0x030#9 ++ 0#24 ++ 1#3 ++ 2#2 ++ 0#3),
    (.memory, 0#7 ++ 0x010#9 ++ 0#14 ++ 1#3 ++ 0#15), (.branch, 0#7 ++ 0x010#9 ++ 0#32)] : List (SlotClass × Syl48)), reads p.1 p.2 = none := by decide +kernel

/-! Behaviour: one step each, with the values of the spec's worked examples and tables. -/

/-- Strand 0 of core 0 runs a member and stands at a bundle of NOPs at address 0. -/
def base : State := State.reset.withFetchWord 384 0

/-- The strand at a bundle with its registers set. -/
def at_ (sl : Slot) (f : Strand → Strand) : State := { base.onMe f with slot := sl, turn := 1 }

/-- The next state, or the one after reset where there is none. -/
def res (o : Host.Outcome State Fault Refusal) : State :=
  match o with
  | .next t => t
  | _ => State.reset

/-- A step that does not stop. -/
def goes (o : Host.Outcome State Fault Refusal) : Bool :=
  match o with
  | .next _ => true
  | _ => false

/-- Scalar registers. -/
def regs (l : List (BitVec 6 × W64)) (t : Strand) : Strand := l.foldl (fun t p => t.wrS p.1 p.2) t

/-- The worked encodings of the spec. -/
theorem test_decode_manual_words :
    reads .scalar 0x006010ABCDEF = some ⟨0, false, .movi ⟨4, 0, 0xABCDEF⟩⟩ ∧
    reads .vector 0x005214080004 = some ⟨0, false, .vcvtn ⟨20, 8, .fmode, false, 0, .t8⟩⟩ ∧
    reads .vector 0x006828240031 = some ⟨0, false, .vsplitVpart ⟨40, 9, 3, .fp32⟩⟩ ∧
    reads .branch 0x00110C010006 = some ⟨0, false, .mloop ⟨3, false, 1, 6⟩⟩ ∧
    reads .memory 0x000709140001 = some ⟨0, false, .lld ⟨9, 5, 0, 0, .fp32⟩⟩ ∧
    reads .engine 0x002108000102 = some ⟨0, false, .hstr ⟨1, 0, 0, 0, 4, 2⟩⟩ ∧
    reads .engine 0x002410400141 = some ⟨0, false, .hfill ⟨2, 1, 0, 0, 5, 1⟩⟩ ∧
    reads .branch 0x00050000000C = some ⟨0, false, .banksw ⟨12⟩⟩ ∧
    reads .branch 0x002514012000 = some ⟨0, false, .mfs ⟨5, 0x12⟩⟩ ∧
    reads .branch 0x002600511000 = some ⟨0, false, .mts ⟨5, 0x11⟩⟩ ∧
    reads .branch 0x00290C400001 = some ⟨0, false, .dictchk ⟨3, 4, 1⟩⟩ ∧
    reads .branch 0x002A00500001 = some ⟨0, false, .dictld ⟨5, 1⟩⟩ ∧
    reads .branch 0x002B18700000 = some ⟨0, false, .signal ⟨6, 7⟩⟩ := by decide +kernel

/-- The stream of the example under R89: the bundle at 1 spans 11 units and goes on, the one at 12 spans 4 and ends the run. -/
theorem test_stream : readUnits false false [0x0012] = .dict 18 ∧
    (∃ b, readUnits false false [0xFFFF, 0x0089, 1, 2, 3, 4, 5, 6, 7, 8, 9] = .literal b 11 false) ∧
    (∃ b, readUnits true false [0x8002, 1, 2, 3] = .literal b 4 true) ∧ readUnits false false [0x0400] = .illegal :=
  ⟨rfl, ⟨_, rfl⟩, ⟨_, rfl⟩, rfl⟩

theorem test_add_wraps : (res (exec (.add ⟨3, 1, 2⟩) (at_ .s0 (regs [(1, 0xFFFFFFFFFFFFFFFF), (2, 2)])))).me.rdS 3 = 1 := by decide +kernel

/-- R107: a write to s0 is discarded. -/
theorem test_add_to_s0 : (res (exec (.add ⟨0, 1, 1⟩) (at_ .s0 (regs [(1, 5)])))).me.rdS 0 = 0 := by decide +kernel

/-- R164. -/
theorem test_div_corners :
    (res (exec (.div ⟨3, 1, 2⟩) (at_ .s0 (regs [(1, 7)])))).me.rdS 3 = 0xFFFFFFFFFFFFFFFF ∧
    (res (exec (.rem ⟨3, 1, 2⟩) (at_ .s0 (regs [(1, 7)])))).me.rdS 3 = 7 ∧
    (res (exec (.div ⟨3, 1, 2⟩) (at_ .s0 (regs [(1, 0x8000000000000000), (2, 0xFFFFFFFFFFFFFFFF)])))).me.rdS 3 = 0x8000000000000000 ∧
    (res (exec (.rem ⟨3, 1, 2⟩) (at_ .s0 (regs [(1, 0xFFFFFFFFFFFFFFF9), (2, 2)])))).me.rdS 3 = 0xFFFFFFFFFFFFFFFF := by decide +kernel

/-- The example of R168: three steps build 0x0123_4567_89AB_CDEF. -/
theorem test_movi : (res (exec (.movi ⟨4, 0, 0xABCDEF⟩) (at_ .s0 id))).me.rdS 4 = 0xFFFFFFFFFFABCDEF := by decide +kernel
theorem test_movk : (res (exec (.movk ⟨4, 1, 0x456789⟩) (at_ .s0 (regs [(4, 0xFFFFFFFFFFABCDEF)])))).me.rdS 4 = 0xFFFF456789ABCDEF ∧
    (res (exec (.movk ⟨4, 2, 0x0123⟩) (at_ .s1 (regs [(4, 0xFFFF456789ABCDEF)])))).me.rdS 4 = 0x0123456789ABCDEF := by decide +kernel

/-- R169: CMPLT is signed, CMPLTU unsigned. -/
theorem test_compares : (res (exec (.cmplt ⟨9, 1, 2⟩) (at_ .s0 (regs [(1, 0xFFFFFFFFFFFFFFFF), (2, 1)])))).me.rdP 9 = true ∧
    (res (exec (.cmpltu ⟨9, 1, 2⟩) (at_ .s0 (regs [(1, 0xFFFFFFFFFFFFFFFF), (2, 1)])))).me.rdP 9 = false := by decide +kernel

/-- A member with the work identifier fields of the example under R28. -/
def fieldsMember : Member :=
  { loadedMember with header := BitVec.ofNat 1024 (5 * 2 ^ (8 * 9) + 4 * 2 ^ (8 * 0x10) + 2 * 2 ^ (8 * 0x18) + 3 * 2 ^ (8 * 0x20) + 3 * 2 ^ (8 * 0x28) + 2 * 2 ^ (8 * 0x30)) }

/-- The example under R28: the fields of identifier 0x2A5B. -/
theorem test_widf : ((List.range 6).map fun n => (res (exec (.widf ⟨3, BitVec.ofNat 4 n⟩)
    ((at_ .s0 fun t => { t with workid := 0x2A5B }).onLeaf 0 fun l => { l with member := some fieldsMember }))).me.rdS 3) = [11, 1, 1, 5, 2, 0] := by decide +kernel

/-- R95, R174: after BR two delay bundles issue, then the target. -/
theorem test_br : let u := res (exec (.br ⟨200⟩) (at_ .b id))
    u.me.pc = 1 ∧ u.me.pend = some { left := 2, target := some 200, bsw := false } := by decide +kernel

/-- R176: the link is the address after the second delay bundle. -/
theorem test_call : (res (exec (.call ⟨5, 200⟩) (at_ .b id))).me.rdS 5 = 3 := by decide +kernel

/-- The example of R182: three iterations in two stages. -/
theorem test_mloop : let u := res (exec (.mloop ⟨3, false, 1, 6⟩) (at_ .b (regs [(3, 3)])))
    u.me.loop0.lc = 4 ∧ u.me.rdP 63 = true ∧ u.me.rdP 62 = false := by decide +kernel

/-- The example of R412: a misaligned GLDS in the first delay bundle of a taken branch to 300. -/
theorem test_trap_in_delay_bundle :
    let s := at_ .m fun t => { regs [(2, 0x40000102)] t with pc := 101, pend := some { left := 2, target := some 300, bsw := false } }
    let s := s.onLeaf 0 fun l => { l with member := some { loadedMember with header := loadedHeader ||| BitVec.ofNat 1024 (2 ^ (8 * 7 + 1)) } }
    let u := res (exec (.glds ⟨6, 2, 0, 0, .int32⟩) s)
    u.me.trap.cause = ALIGN ∧ u.me.trap.pc = 101 ∧ u.me.trap.addr = 0x40000102 ∧ u.me.trap.ndelay = 1 ∧ u.me.trap.taken = true ∧
    u.me.trap.tgt = 300 ∧ u.me.super = true ∧ u.me.pc = 0 := by decide +kernel

/-- ERET of the same example resumes at 101 with one more delay bundle, then 300. -/
theorem test_eret : let u := res (exec .eret (at_ .b fun t => { t with super := true, trap := { TrapRegs.reset with pc := 101, ndelay := 1, taken := true, tgt := 300 } }))
    u.me.super = false ∧ u.me.pc = 101 ∧ u.me.pend = some { left := 2, target := some 300, bsw := false } := by decide +kernel

/-- R407: ERET in user state traps with PRIV. -/
theorem test_eret_user : (res (exec .eret (at_ .b id))).me.super = false ∧ (res (exec .eret (at_ .b id))).me.pc = 0 := by decide +kernel

/-- The example of R447: `stqrd s9` reads the record of an SPEV at 0x412, then 0. -/
theorem test_stqrd : let s := (at_ .b id).onCore 0 fun c => { c with statCount := 6 }.record 3 1 0 0x412
    (res (exec (.stqrd ⟨9⟩) s)).me.rdS 9 = 0x0007000004120013 ∧ (res (exec (.stqrd ⟨9⟩) (at_ .b id))).me.rdS 9 = 0 := by decide +kernel

/-- The example under R160: EXP2(1) = 2, EXP2(-0) = 1, LOG2(8) = 3, TANH(-0) = -0. -/
theorem test_special_functions : fpRound .fp32 .rne false (exp2_32 (fpDecode .fp32 0x3F800000)) = 0x40000000 ∧
    fpRound .fp32 .rne false (exp2_32 (fpDecode .fp32 0x80000000)) = 0x3F800000 ∧ fpRound .fp32 .rne false (log2_32 (fpDecode .fp32 0x41000000)) = 0x40400000 ∧
    fpRound .fp32 .rne false (tanh32 (fpDecode .fp32 0x80000000)) = 0x80000000 := by decide +kernel

/-- The example of R203: 3,000 and 10,000 both become 0x7F in T8, the second by saturation. -/
theorem test_convert_to_t8 : (convert .fp32 .t8 .rne false false 0x453B8000).bits = 0x7F ∧ (convert .fp32 .t8 .rne false false 0x461C4000).bits = 0x7F ∧
    (convert .fp32 .t8 .rne false false 0x461C4000).sat = true ∧ (convert .fp32 .t8 .rne false false 0x3F800000).bits = 0x40 := by decide +kernel

/-- The example of R144: 2^-133 in BF16 by 256.0 is 2^-125. -/
theorem test_subnormal_product : fpRound .fp32 .rne true ((fpDecode .bf16 0x0001).mul (fpDecode .fp32 0x43800000)) = 0x01000000 := by decide +kernel

/-- The example of R215: QADD adds 1.0 to 0.5, because of its tree. -/
theorem test_qadd_tree : (res (exec (.qadd ⟨10, 1, 0, .fp32⟩) (at_ .q fun t => { t with
      vregs := [(10, { bits := packV .fp32 fun i => [0x4B800000, 0x3F800000, 0x3F800000, 0xCB800000].getD i 0, tag := .fp32 })]
      latches := [(1, { bits := 0x3F000000, int := false })] }))).me.flights.map Flight.lands = [[.ps 1 { bits := 0x3FC00000, int := false }]] := by decide +kernel

/-- The example of R209: VPART lists the odd lanes, then the even ones, and counts 64. -/
theorem test_vpart : (res (exec (.vsplitVpart ⟨40, 9, 3, .fp32⟩) (at_ .v0 fun t => { t with
      kregs := [(3, BitVec.ofNat 512 ((List.range 64).foldl (fun a i => a + 0xF0 * 256 ^ i) 0))] }))).me.flights.map Flight.lands =
    [[.v 40 { bits := packV .int16 fun i => if i < 64 then 2 * i + 1 else if i < 128 then 2 * i - 128 else 0, tag := .int16 }, .s 9 64]] := by decide +kernel

/-- R139: a VADD of FP32 on a register tagged RAW traps with FMTTAG and puts nothing in flight. -/
theorem test_fmttag : let u := res (exec (.vadd ⟨1, 2, 3, 0, .fp32⟩) (at_ .v0 id))
    u.me.flights = [] ∧ u.me.pc = 0 := by decide +kernel

/-- Step 5 of the example of R231: the strand pops 2 of 4 slots of a buffer with PROD 0 and CONS 0. -/
theorem test_cbpop : let d : W64 := BitVec.ofNat 64 (0x100 + 4 * 2 ^ 14 + 4 * 2 ^ 23 + 4 * 2 ^ 48)
    let x := (res (exec (.cbpop ⟨2, 1⟩) (at_ .m fun t => { t with cbs := [(2, d)] }))).me.rdCb 2
    cbNslot d = 4 ∧ cbFilled d = 4 ∧ (cbProd x, cbCons x, cbFilled x) = (0, 2, 2) := by decide +kernel

/-- A bundle placed by withFetchWord runs in one step, and the strand goes on to the next address. -/
theorem test_step_runs : let s := (State.reset.withFetchWord 384 (encodeBundle (.addi ⟨7, 0, 5⟩)).toNat)
    let u := res (step s)
    u.me.rdS 7 = 5 ∧ u.me.pc = 1 := by decide +kernel

/-- Cell (0, 0) of the example "one row under three rules" of spec/16_spline_mode.md. -/
def exampleCell : Nat := 0x30 + 0x40 * 2 ^ 8 + 0x50 * 2 ^ 16 + 0x40 * 2 ^ 24 + 0x20 * 2 ^ 32 + 0x3E80 * 2 ^ 128 + 0x7F0 * 2 ^ 144

/-- kn0 of that example under a rule: XLO -2.0, INVH 1.0, G 4, ORD 1, BASE identity. -/
def exampleKnot (rule : Nat) : BitVec 128 := BitVec.ofNat 128 (0xC0000000 + 0x3F800000 * 2 ^ 32 + 4 * 2 ^ 64 + 1 * 2 ^ 68 + rule * 2 ^ 70 + 2 * 2 ^ 72)

/-- What the cell adds for an input, as an FP32 word. -/
def exampleValue (rule x : Nat) : Nat :=
  fpRound .fp32 .rne false (cellValue exampleCell (exampleKnot rule) (gridPos (exampleKnot rule) (fpDecode .fp32 x)) (fpDecode .fp32 x)).val

/-- 1.625 inside the grid; beyond it 1.0 under CLAMP, 0.25 under EXTEND, 0.75 under ZERO. -/
theorem test_spline_rules : exampleValue 0 0x3F000000 = 0x3FD00000 ∧ exampleValue 0 0x40400000 = 0x3F800000 ∧ exampleValue 1 0x40400000 = 0x3E800000 ∧
    exampleValue 2 0x40400000 = 0x3F400000 := by decide +kernel

/-- The example "refining four intervals to eight": the nine slots, the scale and the weight. -/
theorem test_spline_refined : refineCell exampleCell (exampleKnot 0) =
    0x30 + 0x38 * 2 ^ 8 + 0x40 * 2 ^ 16 + 0x48 * 2 ^ 24 + 0x50 * 2 ^ 32 + 0x48 * 2 ^ 40 + 0x40 * 2 ^ 48 + 0x34 * 2 ^ 56 + 0x20 * 2 ^ 64 +
    0x3E80 * 2 ^ 128 + 0x7F0 * 2 ^ 144 := by decide +kernel

/-! States that meet the hypotheses of the statements. -/

/-- Nothing holds up a bundle of the strand that issues, as Unheld asks of every instruction. -/
def idle (s : State) : Bool :=
  s.me.late == [] && s.me.next == none && s.me.trapReq == none && s.me.retiring == false && s.me.flights == [] &&
  (s.me.loads.all fun e => e.dest == .gone && e.kind == .load) && s.me.reports == [] && s.me.waits == [] &&
  decide ((s.core (coreOf s.cur)).vbusy.get ((s.core (coreOf s.cur)).unitOf s.slot) 0 ≤ s.clkHere)

theorem idle_unheld {s : State} {i : Instr} (h : idle s = true) (w : i.wf = true) : s.Unheld i := by
  simp only [idle, Bool.and_eq_true, beq_iff_eq, decide_eq_true_eq, List.all_eq_true] at h
  obtain ⟨⟨⟨⟨⟨⟨⟨⟨h1, h2⟩, h3⟩, h4⟩, h5⟩, h6⟩, h7⟩, h9⟩, h8⟩ := h
  refine ⟨w, h1, h2, h3, h4, fun r _ => ?_, fun p hp => by simp [h7] at hp, fun _ e he => by rw [(h6 e he).2]; decide, fun _ => h8⟩
  simp only [Strand.busyReg, h5, h9, List.any_nil, Bool.false_or, Bool.or_false, List.any_eq_false]
  intro e he
  rw [(h6 e he).1]
  exact Bool.false_ne_true

/-- And issue goes on to the successor. -/
def clear (s : State) : Bool := idle s && s.me.pend == none && s.me.atEnd s.here false == false && s.me.atEnd s.here true == false

theorem clear_of {s : State} {i : Instr} (h : clear s = true) (w : i.wf = true) : s.Clear i := by
  simp only [clear, Bool.and_eq_true, beq_iff_eq] at h
  exact { toUnheld := idle_unheld h.1.1.1 w, pend := h.1.1.2, body0 := h.1.2, body1 := h.2 }

/-- Every well-formed syllable has a state in which nothing stands before its commit. -/
theorem test_clear_somewhere (sl : Slot) (i : Instr) (h : i.wf = true) : (at_ sl id).Clear i := by
  cases sl <;> exact clear_of (by decide +kernel) h

/-- Vector registers 0 to 5 with a tag. -/
def tagged (f : Fmt) (t : Strand) : Strand := { t with vregs := (List.range 6).map fun n => (n, { bits := 0, tag := f }) }

/-- StorageReadsAsWritten. -/
theorem test_wit_storage : (1 : BitVec 6) ≠ 0 ∧ 63 < Fmt.fp32.count ∧ Mem.wf [(5, 1), (7, 255)] = true := by decide +kernel

/-- ScalarArithmetic: a divisor of 0, the overflowing quotient, and a plain one. -/
theorem test_wit_division : ∀ b ∈ ([0, 0xFFFFFFFFFFFFFFFF, 3] : List W64), ∀ i ∈ ([.div ⟨3, 1, 2⟩, .divu ⟨3, 1, 2⟩, .rem ⟨3, 1, 2⟩, .remu ⟨3, 1, 2⟩] : List Instr),
    (at_ .s0 (regs [(1, 0x8000000000000000), (2, b)])).Clear i := by
  intro b hb i hi
  refine clear_of ?_ (by revert i; decide +kernel)
  simp only [List.mem_cons, List.not_mem_nil, or_false] at hb
  obtain rfl | rfl | rfl := hb <;> decide +kernel

/-- ScalarImmediates: a member to read a field of. -/
theorem test_wit_widf : (at_ .s0 id).memberOf (at_ .s0 id).cur = some loadedMember ∧ (at_ .s0 id).Clear (.widf ⟨3, 5⟩) :=
  ⟨by decide +kernel, test_clear_somewhere _ _ rfl⟩

theorem next_of {o : Host.Outcome State Fault Refusal} (h : goes o = true) : ∃ t, o = .next t := by
  cases o with
  | next t => exact ⟨t, rfl⟩
  | fault _ => cases h
  | refused _ => cases h

/-- ScalarFrame: a scalar and a predicate destination. -/
theorem test_wit_scalar_frame : (∃ t, exec (.add ⟨3, 1, 2⟩) (at_ .s0 id) = .next t) ∧ ∃ t, exec (.cmpeq ⟨3, 1, 2⟩) (at_ .s0 id) = .next t :=
  ⟨next_of (by decide +kernel), next_of (by decide +kernel)⟩

/-- Two bundles that follow a bundle and can be read. -/
def follows (s : State) : Bool :=
  match s.bundleAt s.cur (s.here.addr + s.here.len) s.here.runs with
  | .bundle g => g.cause == none && match s.bundleAt s.cur (g.addr + g.len) g.runs with
    | .bundle h => h.cause == none
    | .miss _ => false
  | .miss _ => false

theorem follows_of {s : State} (h : follows s = true) : ∃ g k, s.bundleAt s.cur (s.here.addr + s.here.len) s.here.runs = .bundle g ∧ g.cause = none ∧
    s.bundleAt s.cur (g.addr + g.len) g.runs = .bundle k ∧ k.cause = none := by
  unfold follows at h
  split at h
  · next g hg =>
    simp only [Bool.and_eq_true, beq_iff_eq] at h
    have h2 := h.2
    split at h2
    · next k hk => exact ⟨g, k, hg, h.1, hk, beq_iff_eq.mp h2⟩
    · cases h2
  · cases h

/-- BranchesAndCalls: the bundles whose addresses a CALL's link needs. -/
theorem test_wit_call : (at_ .b id).Clear (.call ⟨5, 200⟩) ∧ ∃ g k, let s := at_ .b id
    s.bundleAt s.cur (s.here.addr + s.here.len) s.here.runs = .bundle g ∧ g.cause = none ∧ s.bundleAt s.cur (g.addr + g.len) g.runs = .bundle k ∧ k.cause = none :=
  ⟨test_clear_somewhere _ _ rfl, follows_of (by decide +kernel)⟩

/-- DelayBundles: the first delay bundle, the second of a taken branch, the second of one not taken. -/
theorem test_wit_delay : ∀ p ∈ ([⟨2, some 300, false⟩, ⟨1, some 300, true⟩, ⟨1, none, false⟩] : List Pending),
    let s := at_ .b fun t => { t with pend := some p }
    s.me.pend = some p ∧ s.Unheld .nop ∧ s.me.atEnd s.here false = false ∧ s.me.atEnd s.here true = false := by
  intro p hp
  simp only [List.mem_cons, List.not_mem_nil, or_false] at hp
  obtain rfl | rfl | rfl := hp <;> exact ⟨by decide +kernel, idle_unheld (by decide +kernel) rfl, by decide +kernel, by decide +kernel⟩

/-- Loops: entry, with the shortest body, and the end test with trips left and on the last trip. -/
theorem test_wit_loops : (let s := at_ .b (regs [(3, 1)])
    s.me.super = false ∧ s.Clear (.loop ⟨3, false, 1⟩) ∧ s.Clear (.mloop ⟨3, true, 31, 1⟩) ∧ s.here.len ≤ 1 ∧ (s.me.rdS 3).toNat = 1) ∧
    ∀ n ∈ ([1, 2] : List (BitVec 32)), let s := at_ .b fun t => { t with loop0 := { Loop.reset with lc := n, act := true } }
      s.Unheld .nop ∧ s.me.pend = none ∧ s.me.atEnd s.here true = false ∧ s.me.atEnd s.here false = true ∧ s.me.loop0.nstg = none ∧ s.me.lateHeld = [] := by
  refine ⟨⟨by decide +kernel, clear_of (by decide +kernel) rfl, clear_of (by decide +kernel) rfl, by decide +kernel, by decide +kernel⟩, ?_⟩
  intro n hn
  simp only [List.mem_cons, List.not_mem_nil, or_false] at hn
  obtain rfl | rfl := hn <;> exact ⟨idle_unheld (by decide +kernel) rfl, by decide +kernel⟩

/-- The vector statements: every tag, so that each form meets the tags it needs. -/
theorem test_wit_vector (f : Fmt) (i : Instr) (h : i.wf = true) : let s := at_ .v0 (tagged f)
    s.Clear i ∧ (∀ n < 6, tagIs s.me n f = true ∧ tagOrRaw s.me n f = true ∧ ∀ k, destTagOk s.me k n f = true) ∧ groupTag s.me 0 4 f = true := by
  refine ⟨clear_of (by cases f <;> decide +kernel) h, ?_, by cases f <;> decide +kernel⟩
  intro n hn
  have e : tagIs (at_ .v0 (tagged f)).me n f = true := by revert n; cases f <;> decide +kernel
  refine ⟨e, ?_, fun k => ?_⟩
  · simp only [tagOrRaw, tagIs] at e ⊢; simp [e]
  · simp only [destTagOk, tagIs] at e ⊢; simp [e]

/-- VectorArithmetic, VectorLogicAndMoves: sources and destination of two tags. -/
theorem test_wit_two_tags : let s (f g : Fmt) := at_ .v0 fun t => { t with vregs := [(1, { bits := 0, tag := f }), (2, { bits := 0, tag := g })] }
    tagIs (s .int8 .int32).me 1 .int8 = true ∧ tagIs (s .int8 .int32).me 2 .int32 = true ∧ (s .int8 .int32).Clear (.vdot4 ⟨2, 1, 1, 0, .int8⟩) ∧
    tagOrRaw (s .fp32 .int16).me 1 .fp32 = true ∧ groupTag (s .fp32 .int16).me 2 (idxRegs .fp32) .int16 = true ∧
    destTagOk (s .fp32 .int16).me 0 3 .fp32 = true ∧ (s .fp32 .int16).Clear (.vperm ⟨3, 1, 2, 0, .fp32⟩) :=
  ⟨by decide +kernel, by decide +kernel, clear_of (by decide +kernel) rfl, by decide +kernel, by decide +kernel, by decide +kernel, clear_of (by decide +kernel) rfl⟩

/-- VectorConversions: a pair of formats of each ratio. -/
theorem test_wit_conversions : (cvtPair .fp32 .int32 = true ∧ Fmt.fp32.halfBytes = Fmt.int32.halfBytes) ∧
    (cvtPair .int8 .int16 = true ∧ Fmt.int16.halfBytes = 2 * Fmt.int8.halfBytes ∧ (Instr.vcvtw ⟨4, 1, .rne, false, 0, .int16⟩).wf = true) ∧
    (cvtPair .int8 .int32 = true ∧ Fmt.int32.halfBytes = 4 * Fmt.int8.halfBytes ∧ (Instr.vcvtw ⟨4, 1, .rne, false, 0, .int32⟩).wf = true) ∧
    (cvtPair .fp32 .bf16 = true ∧ Fmt.fp32.halfBytes = 2 * Fmt.bf16.halfBytes ∧ (Instr.vcvtn ⟨4, 0, .rne, false, 0, .bf16⟩).wf = true) ∧
    cvtPair .fp32 .t8 = true ∧ Fmt.fp32.halfBytes = 4 * Fmt.t8.halfBytes ∧ (Instr.vcvtn ⟨4, 0, .rne, false, 0, .t8⟩).wf = true := by decide +kernel

/-- Reductions: a latch of either tag. -/
theorem test_wit_reductions : (at_ .q (tagged .fp32)).Clear (.qadd ⟨1, 1, 0, .fp32⟩) ∧ ((at_ .q (tagged .fp32)).me.newPs 1).int = !Fmt.fp32.isF ∧
    (let s := at_ .q fun t => { tagged .int8 t with latches := [(1, { bits := 3, int := true })] }
    s.Clear (.qmax ⟨1, 1, 0, .int8⟩) ∧ (s.me.newPs 1).int = !Fmt.int8.isF) :=
  ⟨clear_of (by decide +kernel) rfl, by decide +kernel, clear_of (by decide +kernel) rfl, by decide +kernel⟩

/-- VectorFrame: a result in flight. -/
theorem test_wit_flew (s : State) (n : Nat) (l : List Landing) : s.Flew (s.setStrand s.cur ((s.me.flying (s.issueClk + n) (s.slot == .m) l).moved s.here)) n l :=
  ⟨State.me_setStrand s _, by rw [State.me_setStrand], fun c => rfl⟩

/-- SaturationAndTags: an element that clamps, none that does, and tags that differ. -/
theorem test_wit_saturation : (intSat .int8 (127 + 1)).2 = true ∧ (intSat .int8 (126 + 1)).2 = false ∧ active ((at_ .v0 id).me.rdK 0) .int8 511 = true ∧
    tagIs (at_ .v0 id).me 1 .int8 = false := by decide +kernel

/-! The memory slot. -/

/-- A region held for the member of withFetchWord. -/
def heldRegion : Region := { Region.reset with owner := some loadedMember.owner, state := .held }

/-- Regions 0, 1 and 63 of core 0 are held. -/
def held (s : State) : State := s.onCore 0 fun c => { c with regions := [(0, heldRegion), (1, heldRegion), (63, heldRegion)] }

/-- LocalReady, computed. -/
def ready (s : State) (l : List Nat) : Bool :=
  match (s.leaf (leafOf s.cur)).member with
  | some m => l.all fun n => (s.region (coreOf s.cur) n).state == .held && match (s.region (coreOf s.cur) n).owner with
    | some o => o.same m.owner && !o.dead
    | none => false
  | none => false

theorem ready_of {s : State} {l : List Nat} (h : ready s l = true) : ∃ m, (s.leaf (leafOf s.cur)).member = some m ∧ ∀ n ∈ l,
    (s.region (coreOf s.cur) n).state = .held ∧ ∃ o, (s.region (coreOf s.cur) n).owner = some o ∧ o.same m.owner = true ∧ o.dead = false := by
  unfold ready at h
  split at h
  · next m hm =>
    refine ⟨m, hm, fun n hn => ?_⟩
    have hx := List.all_eq_true.mp h n hn
    simp only [Bool.and_eq_true, beq_iff_eq] at hx
    refine ⟨hx.1, ?_⟩
    have h2 := hx.2
    split at h2
    · next o ho =>
      simp only [Bool.and_eq_true, Bool.not_eq_true'] at h2
      exact ⟨o, ho, h2.1, h2.2⟩
    · cases h2
  · cases h

theorem local_of {s : State} {a : Nat → Nat} {z mask : Nat} (hw : s.me.walk = none) (hf : s.me.holdsBack = false) (h : ready s (regionsOf a z mask) = true) :
    s.LocalReady a z mask := ⟨⟨hw, ready_of h⟩, hf⟩

/-- A descriptor of two slots of 512 bytes, one of them filled. -/
def buffer : W64 := BitVec.ofNat 64 (8 * 2 ^ 14 + 2 * 2 ^ 23 + 1 * 2 ^ 48)

/-- A strand with that buffer as cb0, registers tagged and regions held. -/
def localState (f : Fmt) : State := held (at_ .m fun t => { tagged f t with cbs := [(0, buffer)] })

/-- LocalAccesses: loads and stores through a buffer's one filled and one free slot. -/
theorem test_wit_buffers : let s := localState .fp32; let d := s.me.rdCb 0
    s.Clear (.ldl ⟨1, 0, 0, 0, 0, .fp32⟩) ∧ s.Clear (.stl ⟨1, 0, 0, 0, 0, .fp32⟩) ∧ s.Clear (.ldls ⟨1, 0, 0, 0, 63, .raw⟩) ∧
    (cbNslot d ≠ 0 ∧ 1 ≤ cbNslot d ∧ memBytes .fp32 ≤ 1 * 64 * cbSlotSz d ∧ 64 * 7 + 8 ≤ 1 * 64 * cbSlotSz d ∧ 1 ≤ cbFilled d ∧ 1 ≤ cbNslot d - cbFilled d) ∧
    s.LocalReady (fun j => cbByte d (cbCons d) (64 * 0 + j)) (memBytes .fp32) (memMask .fp32 (s.me.rdK 0)) ∧
    s.LocalReady (fun j => cbByte d (cbProd d) (64 * 0 + j)) (memBytes .fp32) (memMask .fp32 (s.me.rdK 0)) ∧
    s.LocalReady (fun j => cbByte d (cbCons d) (64 * 7 + j)) 8 (2 ^ (8 * 8) - 1) := by
  refine ⟨clear_of (by decide +kernel) rfl, clear_of (by decide +kernel) rfl, clear_of (by decide +kernel) (by decide +kernel), by decide +kernel, ?_, ?_, ?_⟩ <;>
    exact local_of (by decide +kernel) (by decide +kernel) (by decide +kernel)

/-- LocalAccesses: a displaced access to the last 512 bytes of local store, and gathered ones. -/
theorem test_wit_local : (let s := held (at_ .m (tagged .fp32 ∘ regs [(1, 0xFFE40)])); 
    ((s.me.rdS 1).toNat + 64 * (-1 : BitVec 7).toInt) % 64 = 0 ∧ 0 ≤ (s.me.rdS 1).toNat + 64 * (-1 : BitVec 7).toInt ∧
    (s.me.rdS 1).toNat + 64 * (-1 : BitVec 7).toInt + memBytes .fp32 ≤ 0x100000 ∧ s.Clear (.lld ⟨1, 1, 0, -1, .fp32⟩) ∧ s.Clear (.lst ⟨1, 1, 0, -1, .fp32⟩) ∧
    s.LocalReady (0xFFE00 + ·) (memBytes .fp32) (memMask .fp32 (s.me.rdK 0))) ∧
    (let s := held (at_ .m (tagged .int16)); let a (i : Nat) : Nat := (s.me.rdS 0).toNat + indexElt s.me 0 .int16 i * 2
      s.Clear (.lsgath ⟨1, 0, 0, 0, .int16⟩) ∧ s.Clear (.lsscat ⟨1, 0, 0, 0, .int16⟩) ∧ groupTag s.me 0 (idxRegs .int16) .int16 = true ∧
      (∀ i < Fmt.int16.count, active (s.me.rdK 0) .int16 i = true → a i + 2 ≤ 0x100000) ∧
      s.LocalReady (fun j => a (j / 2) + j % 2) 512 (memMask .int16 (s.me.rdK 0))) := by
  refine ⟨⟨by decide +kernel, by decide +kernel, by decide +kernel, clear_of (by decide +kernel) rfl, clear_of (by decide +kernel) rfl, ?_⟩,
    clear_of (by decide +kernel) rfl, clear_of (by decide +kernel) rfl, by decide +kernel, by decide +kernel, ?_⟩ <;>
    exact local_of (by decide +kernel) (by decide +kernel) (by decide +kernel)

/-- LocalAccesses: behind a FENCE. -/
theorem test_wit_held : let s := held (at_ .m fun t => { tagged .fp32 t with fences := [{ id := 0, scope := .core }], memSeq := 1 })
    s.Clear (.lld ⟨1, 0, 0, 0, .fp32⟩) ∧ s.Clear (.lst ⟨1, 0, 0, 0, .fp32⟩) ∧ s.me.fences ≠ [] ∧ destTagOk s.me 0 1 .fp32 = true ∧ tagOrRaw s.me 1 .fp32 = true ∧
    ((s.me.rdS 0).toNat + 64 * (0 : BitVec 7).toInt) % 64 = 0 ∧ (s.me.rdS 0).toNat + 64 * (0 : BitVec 7).toInt + memBytes .fp32 ≤ 0x100000 ∧
    s.Touched (0 + ·) (memBytes .fp32) (memMask .fp32 (s.me.rdK 0)) :=
  ⟨clear_of (by decide +kernel) rfl, clear_of (by decide +kernel) rfl, by decide +kernel, by decide +kernel, by decide +kernel, by decide +kernel, by decide +kernel,
    by decide +kernel, ready_of (by decide +kernel)⟩

/-- BuffersAndPushes: too little room to push, a core with no neighbour to the north, and the last 512 bytes of one to the east. -/
theorem test_wit_no_room : (let s := localState .fp32; let d := s.me.rdCb 0
    s.Clear (.cbpush ⟨0, 1⟩) ∧ 2 ≤ cbNslot d ∧ cbNslot d - cbFilled d < 2 ∧ s.Clear (.xput ⟨1, 0, .north⟩) ∧ neighbour (coreOf s.cur) .north = none) ∧
    (let s := at_ .m (tagged .fp32 ∘ regs [(1, 0xFFE00)])
    s.Clear (.xput ⟨1, 1, .east⟩) ∧ (s.me.rdS 1).toNat % 64 = 0 ∧ (s.me.rdS 1).toNat + 512 ≤ 0x100000) :=
  ⟨⟨clear_of (by decide +kernel) rfl, by decide +kernel, by decide +kernel, clear_of (by decide +kernel) rfl, by decide +kernel⟩, clear_of (by decide +kernel) rfl, by decide +kernel⟩

/-- BuffersAndPushes: room to push, a slot to pop, more slots than there are, slots not filled, and a neighbour to the east. -/
theorem test_wit_pushes : (let s := localState .fp32; let d := s.me.rdCb 0
    s.Clear (.cbpush ⟨0, 0⟩) ∧ s.Clear (.cbpop ⟨0, 0⟩) ∧ cbNslot d ≠ 0 ∧ 1 ≤ cbNslot d - cbFilled d ∧ 1 ≤ cbNslot d ∧ 1 ≤ cbFilled d ∧
    s.Clear (.cbpush ⟨0, 2⟩) ∧ cbNslot d < 3 ∧ s.Clear (.cbpop ⟨0, 1⟩) ∧ 2 ≤ cbNslot d ∧ cbFilled d < 2 ∧
    s.Clear (.xput ⟨1, 0, .east⟩) ∧ neighbour (coreOf s.cur) .east = some 1 ∧ (s.me.rdS 0).toNat % 64 = 0 ∧ s.me.fences = []) ∧
    cbNslot ((at_ .m id).me.rdCb 5) = 0 :=
  ⟨⟨clear_of (by decide +kernel) rfl, clear_of (by decide +kernel) rfl, by decide +kernel, by decide +kernel, by decide +kernel, by decide +kernel,
    clear_of (by decide +kernel) rfl, by decide +kernel, clear_of (by decide +kernel) rfl, by decide +kernel, by decide +kernel,
    clear_of (by decide +kernel) rfl, by decide +kernel, by decide +kernel, by decide +kernel⟩, by decide +kernel⟩

/-- A leaf that has cached one translation of the first GiB to host memory. -/
def mapped (s : State) : State :=
  s.onLeaf 0 fun l => { l with tlb := [{ vf := 0, base := 0, size := 2 ^ 30, rd := true, wr := true, ex := true, discard := false, phys := .host 0 }] }

/-- Its first lines, and where they lie. -/
def places (n : Nat) : List (Nat × Phys) := (List.range n).map fun l => (l, .host (64 * l))

theorem translated_of {s : State} {need : Need} {lines : List Nat} {ps : List (Nat × Phys)} (h1 : s.me.walk = none) (h2 : s.placeLines (leafOf s.cur) need lines = .inl ps)
    (h3 : ∀ p ∈ ps, s.gate (leafOf s.cur) p.2 = .ok) (h4 : ∀ l ∈ lines, s.isFrozen (leafOf s.cur) l = false) : s.Translated need lines ps :=
  ⟨h1, h2, h3, fun _ => h4⟩

/-- GlobalLoadsAndAtomics, GlobalStores. -/
theorem test_wit_global : let s := mapped (at_ .m (tagged .fp32))
    s.Clear (.gld ⟨1, 0, 0, 0, .fp32⟩) ∧ s.Clear (.ldlu ⟨1, 0, 0, 0, .fp32⟩) ∧ s.Clear (.glds ⟨1, 0, 0, 0, .raw⟩) ∧ s.Clear (.gldacq ⟨1, 0, .gang, 0, .raw⟩) ∧
    s.Clear (.gldacqv ⟨1, 0, .gang, 0, 0, .fp32⟩) ∧ s.Clear (.aadd ⟨1, 0, 2, .gang, true⟩) ∧ s.Clear (.acas ⟨1, 0, 2, 3, .gang, false⟩) ∧
    s.Clear (.gst ⟨1, 0, 0, 0, .fp32⟩) ∧ s.Clear (.gsts ⟨1, 0, 0, 0, .raw⟩) ∧ s.Clear (.gstrel ⟨1, 0, .gang, 0, .raw⟩) ∧ s.Clear (.gstrelv ⟨1, 0, .gang, 0, 0, .fp32⟩) ∧
    s.Clear (.signal ⟨0, 2⟩) ∧
    (s.me.storesTo 0 512 = false ∧ s.me.buffered < 64 ∧ s.me.loads = [] ∧ s.me.stores = [] ∧ s.me.reports = [] ∧ (s.me.rdS 0).toNat % 64 = 0) ∧
    s.Translated needRd (linesOf 0 (memBytes .fp32) (memMask .fp32 (s.me.rdK 0))) (places 8) ∧
    s.Translated needWr (linesOf 0 (memBytes .fp32) (memMask .fp32 (s.me.rdK 0))) (places 8) ∧
    s.Translated needRd (linesOf 0 8 (2 ^ 64 - 1)) (places 1) ∧ s.Translated needRw (linesOf 0 8 (2 ^ 64 - 1)) (places 1) ∧
    s.Translated needRw (linesOf 0 4 (2 ^ 32 - 1)) (places 1) ∧ s.Translated needWr (linesOf 0 8 (2 ^ 64 - 1)) (places 1) := by
  have hc (i : Instr) (h : i.wf = true) : (mapped (at_ .m (tagged .fp32))).Clear i := clear_of (by decide +kernel) h
  refine ⟨hc _ rfl, hc _ rfl, hc _ rfl, hc _ rfl, hc _ rfl, hc _ rfl, hc _ rfl, hc _ rfl, hc _ rfl, hc _ rfl, hc _ rfl, hc _ rfl, by decide +kernel, ?_, ?_, ?_, ?_, ?_, ?_⟩ <;>
    exact translated_of (by decide +kernel) (by decide +kernel) (by decide +kernel) (by decide +kernel)

/-- AlignmentTraps: an address that neither 64, 8 nor 4 divides. -/
theorem test_wit_misaligned : let s := at_ .m (tagged .fp32 ∘ regs [(1, 2)])
    (s.me.rdS 1 + BitVec.ofInt 64 (64 * (0 : BitVec 7).toInt)).toNat % 64 ≠ 0 ∧ (s.me.rdS 1).toNat % scalarBytes .fp32 ≠ 0 ∧ (s.me.rdS 1).toNat % 8 ≠ 0 ∧
    (s.me.rdS 1).toNat % 4 ≠ 0 ∧ s.Clear (.gld ⟨1, 1, 0, 0, .fp32⟩) ∧ s.Clear (.gst ⟨1, 1, 0, 0, .fp32⟩) ∧ s.Clear (.glds ⟨1, 1, 0, 0, .fp32⟩) ∧
    s.Clear (.aadd ⟨1, 1, 2, .gang, true⟩) :=
  ⟨by decide +kernel, by decide +kernel, by decide +kernel, by decide +kernel, clear_of (by decide +kernel) rfl, clear_of (by decide +kernel) rfl,
    clear_of (by decide +kernel) rfl, clear_of (by decide +kernel) rfl⟩

/-- A load in flight of a local line whose register is gone. -/
def aLoad : LoadEntry :=
  { id := 0, kind := .load, dest := .gone, va := 0, len := 8, lines := [(0, .host 0)], scope := .strand, drops := false }

/-- OrderAndEvents: a FENCE with nothing before it and with a load, a token either way, a WAITT either way, a latch either way. -/
theorem test_wit_order : (let s := at_ .m fun t => { t with loads := [aLoad], memSeq := 1 }
    s.Clear (.fence ⟨.gang⟩) ∧ ∃ e ∈ s.me.loads, e.remote = false ∧ e.id < s.me.memSeq) ∧
    (let s := at_ .m fun t => { t with tks := [(2, .pending 7)] }
    s.Clear (.twait ⟨2⟩) ∧ s.me.rdTk 2 = .pending 7 ∧ s.me.rdTk 1 = .complete) ∧
    (let s := at_ .m (regs [(1, 5)])
    s.Clear (.waitt ⟨1⟩) ∧ s.now.toNat < (s.me.rdS 1).toNat ∧ (s.me.rdS 0).toNat ≤ s.now.toNat) ∧
    (let s := at_ .m fun t => { t with latch := true }
    s.Clear .wfe ∧ s.me.latch = true ∧ (at_ .m id).me.latch = false) := by
  refine ⟨⟨clear_of (by decide +kernel) rfl, by decide +kernel⟩, ⟨clear_of (by decide +kernel) rfl, by decide +kernel, by decide +kernel⟩,
    ⟨clear_of (by decide +kernel) rfl, by decide +kernel, by decide +kernel⟩, clear_of (by decide +kernel) rfl, by decide +kernel, by decide +kernel⟩

/-- GlobalStores: a release that has to wait for a load of the leaf's memory. -/
theorem test_wit_release_waits : let s := mapped (at_ .m fun t => { tagged .fp32 t with loads := [aLoad], memSeq := 1 })
    s.Clear (.gstrel ⟨1, 0, .gang, 0, .raw⟩) ∧ s.Clear (.gstrelv ⟨1, 0, .gang, 0, 0, .fp32⟩) ∧ s.Clear (.signal ⟨0, 2⟩) ∧ s.me.buffered < 64 ∧
    (∃ e ∈ s.me.loads, e.remote = false ∧ e.id < s.me.memSeq) ∧ s.Translated needWr (linesOf 0 8 (2 ^ 64 - 1)) (places 1) ∧
    s.Translated needWr (linesOf 0 (memBytes .fp32) (memMask .fp32 (s.me.rdK 0))) (places 8) := by
  refine ⟨clear_of (by decide +kernel) rfl, clear_of (by decide +kernel) rfl, clear_of (by decide +kernel) rfl, by decide +kernel, by decide +kernel, ?_, ?_⟩ <;>
    exact translated_of (by decide +kernel) (by decide +kernel) (by decide +kernel) (by decide +kernel)

/-- OrderAndEvents: a barrier of the gang asked for by a member other than 0, and each answer. -/
theorem test_wit_gang_bar : (let m := { loadedMember with member := 1 }; let s := (at_ .m (regs [(1, 1)])).onLeaf 0 fun l => { l with member := some m }
    s.Clear (.bar ⟨1, .gang⟩) ∧ s.memberOf s.cur = some m ∧ m.member ≠ 0 ∧ s.me.gangBar = none ∧ (s.me.rdS 1).toNat < 2 ^ 36 ∧ (s.me.rdS 1).toNat % 2 ^ 32 = 1) ∧
    ∀ a ∈ ([.differs, .arrived, .over] : List BarAnswer), let s := at_ .m fun t => { regs [(1, 1)] t with gangBar := some (some a) }
      s.Clear (.bar ⟨1, .gang⟩) ∧ s.me.gangBar = some (some a) ∧ s.me.trail = none := by
  refine ⟨⟨clear_of (by decide +kernel) rfl, by decide +kernel⟩, fun a ha => ?_⟩
  simp only [List.mem_cons, List.not_mem_nil, or_false] at ha
  obtain rfl | rfl | rfl := ha <;> exact ⟨clear_of (by decide +kernel) rfl, by decide +kernel⟩

/-- OrderAndEvents: the first of two arrivals at barrier 3 of the core, the second, and an only one. -/
theorem test_wit_bar : (let s := at_ .m (regs [(1, 3 * 2 ^ 32 + 2)])
    s.Clear (.bar ⟨1, .core⟩) ∧ s.memberOf s.cur = some loadedMember ∧ (s.me.rdS 1).toNat < 2 ^ 36 ∧ (s.me.rdS 1).toNat % 2 ^ 32 = 2 ∧
    2 ≤ scopeStrands (some loadedMember) .core ∧ s.episode s.cur .core 3 = none ∧ s.me.sent = [] ∧ s.me.waits = [] ∧
    let u := s.onCore 0 fun c => { c with barriers := [(3, { n := 2, arrived := [1] })] }
    u.Clear (.bar ⟨1, .core⟩) ∧ u.episode u.cur .core 3 = some { n := 2, arrived := [1] }) ∧
    (at_ .m (regs [(1, 1)])).Clear (.bar ⟨1, .gang⟩) ∧ 1 ≤ scopeStrands (some loadedMember) .gang :=
  ⟨⟨clear_of (by decide +kernel) rfl, by decide +kernel, by decide +kernel, by decide +kernel, by decide +kernel, by decide +kernel, by decide +kernel, by decide +kernel,
    clear_of (by decide +kernel) rfl, by decide +kernel⟩, clear_of (by decide +kernel) rfl, by decide +kernel⟩

/-- RegionInstructions: the last region, and a held one with a dirty backed line. -/
theorem test_wit_regions : (let s := at_ .m (regs [(1, 63), (3, 0x601)])
    s.Clear (.rmap ⟨1, 2, 3⟩) ∧ s.Clear (.runmap ⟨1⟩) ∧ (s.me.rdS 1).toNat = 63 ∧ s.regionBusy 0 63 = false ∧ (s.region 0 63).filling = none ∧
    rattrOk (s.me.rdS 2) (s.me.rdS 3) = true) ∧
    (let s := (at_ .m (regs [(1, 0)])).onCore 0 fun c => { c with regions := [(0, { heldRegion with rattr := 0x601, dirty := 1 })] }
    s.Clear (.rflush ⟨1⟩) ∧ (s.leaf 0).member = some loadedMember ∧ (s.region 0 0).owner = some loadedMember.owner ∧ loadedMember.owner.same loadedMember.owner = true ∧
    (s.region 0 0).state = .held ∧ (s.region 0 0).dirtyBacked.length = 1) :=
  ⟨⟨clear_of (by decide +kernel) rfl, clear_of (by decide +kernel) rfl, by decide +kernel, by decide +kernel, by decide +kernel, by decide +kernel⟩,
    clear_of (by decide +kernel) rfl, by decide +kernel, by decide +kernel, by decide +kernel, by decide +kernel, by decide +kernel⟩

/-- RegionInstructions: a saved region whose slot lies in this package. -/
theorem test_wit_saved_region : let s := (at_ .m (regs [(1, 0)])).onCore 0 fun c => { c with regions := [(0, { heldRegion with state := .saved, rattr := 0x601, dirty := 1 })] }
    s.Clear (.rflush ⟨1⟩) ∧ (s.region 0 0).state = .saved ∧ s.memberOf s.cur = some loadedMember ∧ (hbmParts (saveSlot loadedMember.saveBase 0 0)).2.2 = s.pkg :=
  ⟨clear_of (by decide +kernel) rfl, by decide +kernel⟩

/-! The engine slot. -/

/-- Block bytes at local address 0 of core 0, whose regions are held. -/
def block (l : List (Nat × Nat × Nat)) (f : Strand → Strand) : State :=
  (held (at_ .e f)).onCore 0 fun c => { c with local_ := l.foldl (fun m p => m.writeNat p.1 p.2.1 p.2.2) [] }

theorem block_of {s : State} {o : Et} {n : Nat} (h1 : (s.me.rdS o.sa).toNat % 64 = 0) (h2 : (s.me.rdS o.sa).toNat + n ≤ 0x100000) (h3 : s.me.walk = none)
    (h4 : s.heldLocal (coreOf s.cur) = false) (h : ready s (regionSpan (s.me.rdS o.sa).toNat n) = true) : s.BlockReady o n := ⟨h1, h2, h3, h4, ready_of h⟩

/-- LathCommands: LSTA of an INT8 plane, LMM and LMMS on FP32 and scaled T8 planes, LEPI of FP32 rows. -/
theorem test_wit_lath : (let s := block [(17, 1, 8)] id; let o : Et := ⟨1, 0, 0, 0, 0, 7⟩
    s.CmdReady 0 o ∧ s.Clear (.lsta o) ∧ s.Clear (.lswap ⟨1, 0, 0, 0, 0, 0⟩) ∧ s.Clear (.lzero ⟨1, 0, 0, 0, 0, 1⟩) ∧ s.BlockReady o 64 ∧
    bytesAt (s.blockOf o 64) 17 1 = 8 ∧ unused (s.blockOf o 64) [(16, 1), (18, 46)] = true ∧
    LocatorOk s.me (s.blockOf o 64) 0 (Shape.mk .int8 false 8).image (fun z => (Shape.mk .int8 false 8).image % z == 0)) ∧
    (let s := (block [(16, 1, 128), (17, 1, 8)] id).onCore 0 fun c => { c with planeA := { bytes := [], tag := { fmt := .fp32, scaled := false, keep := 8 } } }
    let o : Et := ⟨1, 0, 0, 0, 0, 1⟩
    s.CmdReady 0 o ∧ s.Clear (.lmm o) ∧ s.BlockReady o 64 ∧ bytesAt (s.blockOf o 64) 16 1 = 128 ∧ unused (s.blockOf o 64) [(18, 46)] = true ∧
    LocatorOk s.me (s.blockOf o 64) 0 (128 * (Shape.mk .fp32 false 8).pitch) (fun z => z % (Shape.mk .fp32 false 8).pitch == 0) ∧
    ∃ y j k, s.issueTags 0 = some ((Shape.mk .fp32 false 8).tag, y, j, k) ∧ j = intResult .fp32 false) ∧
    (let s := (block [(16, 1, 1), (17, 1, 4)] id).onCore 0 fun c => { c with planeA := { bytes := [], tag := { fmt := .t8, scaled := true, keep := 4 } } }
    let o : Et := ⟨1, 0, 0, 0, 0, 0x34⟩
    s.CmdReady 0 o ∧ s.Clear (.lmms o) ∧ s.BlockReady o 64 ∧ bytesAt (s.blockOf o 64) 17 1 = 4 ∧
    LocatorOk s.me (s.blockOf o 64) 0 (1 * (Shape.mk .t8 true 4).pitch) (fun z => z % (Shape.mk .t8 true 4).pitch == 0) ∧
    ∃ y j k, s.issueTags 0 = some ((Shape.mk .t8 true 4).tag, y, j, k) ∧ k = intResult .t8 true) ∧
    (let s := block [(16, 1, 1)] id; let o : Et := ⟨1, 0, 0, 0, 0, 0⟩
    s.CmdReady 0 o ∧ s.Clear (.lepi o) ∧ s.BlockReady o 64 ∧ bytesAt (s.blockOf o 64) 16 1 = 1 ∧ bytesAt (s.blockOf o 64) 18 1 < 2 ∧
    unused (s.blockOf o 64) [(17, 1), (19, 5), (32, 32)] = true ∧ bytesAt (s.blockOf o 64) 24 8 = 0 ∧
    LocatorOk s.me (s.blockOf o 64) 0 (1 * epiRow 0) (fun z => z % epiRow 0 == 0)) := by
  refine ⟨⟨⟨by decide +kernel, by decide +kernel⟩, clear_of (by decide +kernel) rfl, clear_of (by decide +kernel) rfl, clear_of (by decide +kernel) rfl,
      block_of (by decide +kernel) (by decide +kernel) (by decide +kernel) (by decide +kernel) (by decide +kernel), by decide +kernel, by decide +kernel, ?_⟩,
    ⟨⟨by decide +kernel, by decide +kernel⟩, clear_of (by decide +kernel) rfl, block_of (by decide +kernel) (by decide +kernel) (by decide +kernel) (by decide +kernel) (by decide +kernel),
      by decide +kernel, by decide +kernel, ?_, { fmt := .raw, scaled := false, keep := 8 }, false, false, by decide +kernel, by decide +kernel⟩,
    ⟨⟨by decide +kernel, by decide +kernel⟩, clear_of (by decide +kernel) rfl, block_of (by decide +kernel) (by decide +kernel) (by decide +kernel) (by decide +kernel) (by decide +kernel),
      by decide +kernel, ?_, { fmt := .raw, scaled := false, keep := 8 }, false, false, by decide +kernel, by decide +kernel⟩,
    ⟨by decide +kernel, by decide +kernel⟩, clear_of (by decide +kernel) rfl, block_of (by decide +kernel) (by decide +kernel) (by decide +kernel) (by decide +kernel) (by decide +kernel),
      by decide +kernel, by decide +kernel, by decide +kernel, by decide +kernel, ?_⟩ <;>
  exact ⟨by decide +kernel, by decide +kernel, by decide +kernel, by decide +kernel, by decide +kernel⟩

/-- Counts of 1 in every dimension, with an element width, a destination and the address of indices. -/
def copyBlock (ew src dst idx : Nat) : State :=
  block [(0, 8, src), (8, 8, dst), (20, 1, ew), (24, 4, 1), (28, 4, 1), (32, 4, 1), (36, 4, 1), (88, 8, idx)] id

/-- TrowelAndHawkCommands: a configuration, every Hawk form in bounds, and a misaligned one. -/
theorem test_wit_trowel_and_hawk : (let s := at_ .e (regs [(1, 0xFFF00)])
    s.CmdReady 0 ⟨1, 0, 0, 0, 1, 0⟩ ∧ s.Clear (.tcfg ⟨1, 0, 0, 0, 1, 0⟩) ∧ s.Clear (.tcfgd ⟨1, 0, 0, 0, 1, 0⟩) ∧ s.Clear (.tgo ⟨1, 0, 0, 0, 0, 0⟩) ∧
    s.Clear (.tstat ⟨0, 0, 0, 0, 1, 0⟩) ∧ (s.me.rdS 1).toNat % 64 = 0 ∧ (s.me.rdS 1).toNat + 256 ≤ 0x100000) ∧
    (∀ f ∈ ([0x20, 0x21, 0x22, 0x24] : List Nat), ccBounds f ((copyBlock 4 0 256 0).blockOf ⟨1, 0, 0, 0, 0, 3⟩ 128) = true) ∧
    (∀ f ∈ ([0x23, 0x25] : List Nat), let b := (copyBlock 4 0 256 512).blockOf ⟨1, 0, 0, 0, 0, 3⟩ 128
      ccBounds f b = true ∧ ccIdx b + 4 * ccCount b 1 ≤ 0x100000 ∧ ccMisaligned f b = none) ∧
    (let s := copyBlock 4 0 256 0; let o : Et := ⟨1, 0, 0, 0, 0, 3⟩; let b := s.blockOf o 128
    s.CmdReady (hawkQueue 0 3) o ∧ s.BlockReady o 128 ∧ s.Clear (.hcpy o) ∧ ccSlots s.me b (ccSkind b) (ccScbn b) = true ∧
    ccSlots s.me b (ccDkind b) (ccDcbn b) = true ∧ ccMisaligned 0x20 b = none) ∧
    ccBounds 0x21 ((copyBlock 4 2 256 0).blockOf ⟨1, 0, 0, 0, 0, 3⟩ 128) = true ∧ ccMisaligned 0x21 ((copyBlock 4 2 256 0).blockOf ⟨1, 0, 0, 0, 0, 3⟩ 128) = some 2 :=
  ⟨⟨⟨by decide +kernel, by decide +kernel⟩, clear_of (by decide +kernel) rfl, clear_of (by decide +kernel) rfl, clear_of (by decide +kernel) rfl, clear_of (by decide +kernel) rfl,
    by decide +kernel, by decide +kernel⟩, by decide +kernel, by decide +kernel,
    ⟨⟨by decide +kernel, by decide +kernel⟩, block_of (by decide +kernel) (by decide +kernel) (by decide +kernel) (by decide +kernel) (by decide +kernel), clear_of (by decide +kernel) rfl,
      by decide +kernel, by decide +kernel, by decide +kernel⟩, by decide +kernel, by decide +kernel⟩

/-- TrowelAndHawkCommands: a TCFGD whose difference can be read at once, and one that waits for a token. -/
theorem test_wit_difference : (let s := block [] id; let o : Et := ⟨1, 0, 0, 0, 0, 0⟩
    s.CmdReady 0 o ∧ s.Clear (.tcfgd o) ∧ (s.me.rdS 0).toNat % 64 = 0 ∧ (s.me.rdS 0).toNat + 8 ≤ 0x100000 ∧ s.BlockReady o 8 ∧
    (s.me.rdS 0).toNat + diffBytes (s.blockOf o 8).toNat ≤ 0x100000) ∧
    (let s := block [] fun t => { t with tks := [(2, .pending 7)] }; let o : Et := ⟨1, 2, 0, 0, 0, 0⟩
    s.CmdReady 0 o ∧ s.Clear (.tcfgd o) ∧ s.me.depsOf o ≠ ([], false)) :=
  ⟨⟨⟨by decide +kernel, by decide +kernel⟩, clear_of (by decide +kernel) rfl, by decide +kernel, by decide +kernel,
    block_of (by decide +kernel) (by decide +kernel) (by decide +kernel) (by decide +kernel) (by decide +kernel), by decide +kernel⟩,
    ⟨by decide +kernel, by decide +kernel⟩, clear_of (by decide +kernel) rfl, by decide +kernel⟩

/-- SplineCommands: KSET and KGET of idle knots, SPREF of row 0, SPLD, and the three that stream. -/
theorem test_wit_spline : (let s := block [] id; let o : Et := ⟨1, 0, 0, 0, 0, 0⟩; let b := s.blockOf o 64
    s.CmdReady 0 o ∧ s.Clear (.kset o) ∧ s.me.depsOf o = ([], false) ∧ s.BlockReady o 512 ∧
    (∀ n < 32, knotOk (BitVec.ofNat 128 ((s.core 0).local_.readNat ((s.me.rdS 0).toNat + 16 * n) 16)) = true) ∧
    s.Clear (.kget ⟨1, 0, 0, 0, 0, 6⟩) ∧ s.Clear (.spswap o) ∧ s.Clear (.spref o) ∧ (s.me.rdS 0).toNat + 512 ≤ 0x100000 ∧
    s.Clear (.spld o) ∧ unused b [(16, 48)] = true ∧ LocatorOk s.me b 0 163840 (fun z => 163840 % z == 0)) ∧
    (let s := (block [] (regs [(1, 1)])).onCore 0 fun c => { c with knots := [(0, exampleKnot 0)] }
    s.Clear (.spref ⟨1, 0, 0, 0, 1, 0⟩) ∧ (s.me.rdS 1).toNat = 1 ∧ (s.core 0).bank 0 ≠ [] ∧
    ∀ p ∈ (s.core 0).bank 0, (s.me.rdS 1).toNat.testBit p.1 = true → p.2 = 0 ∨ refinable p.2 = true) ∧
    (let s := block [(16, 1, 128)] id; let o : Et := ⟨1, 0, 0, 0, 0, 0x21⟩; let b := s.blockOf o 64
    s.Clear (.spev o) ∧ s.BlockReady o 64 ∧ bytesAt b 16 1 = 128 ∧ unused b [(17, 47)] = true ∧
    LocatorOk s.me b 0 (128 * inputPitch .fp32) (fun z => z % inputPitch .fp32 == 0) ∧
    ∃ x y j k, s.issueTags 0 = some (x, y, j, k) ∧ k = false) ∧
    (let s := block [(48, 1, 1), (50, 1, 1)] id; let o : Et := ⟨1, 0, 0, 0, 0, 1⟩; let b := s.blockOf o 64
    s.Clear (.spgr o) ∧ bytesAt b 48 1 = 1 ∧ unused b [(51, 5)] = true ∧ unused b [(32, 16)] = true ∧ bytesAt b 50 1 = 1 ∧ bytesAt b 49 1 + bytesAt b 50 1 ≤ 32 ∧
    bytesAt b 56 8 + 17408 * bytesAt b 50 1 ≤ 0x100000 ∧ bytesAt b 56 8 % 64 = 0 ∧ LocatorOk s.me b 0 (1 * inputPitch .fp32) (fun z => z % inputPitch .fp32 == 0) ∧
    LocatorOk s.me b 16 (1 * 1024) (fun z => z % 1024 == 0)) ∧
    (let s := block [(48, 1, 1)] id; let o : Et := ⟨1, 0, 0, 0, 0, 2⟩; let b := s.blockOf o 64
    s.Clear (.spdx o) ∧ unused b [(49, 2), (56, 8)] = true ∧ LocatorOk s.me b 32 (1 * 128) (fun z => z % 128 == 0)) := by
  refine ⟨⟨⟨by decide +kernel, by decide +kernel⟩, clear_of (by decide +kernel) rfl, by decide +kernel,
      block_of (by decide +kernel) (by decide +kernel) (by decide +kernel) (by decide +kernel) (by decide +kernel), by decide +kernel, clear_of (by decide +kernel) rfl, clear_of (by decide +kernel) rfl,
      clear_of (by decide +kernel) rfl, by decide +kernel, clear_of (by decide +kernel) rfl, by decide +kernel, ?_⟩,
    ⟨clear_of (by decide +kernel) rfl, by decide +kernel, by decide +kernel, by decide +kernel⟩,
    ⟨clear_of (by decide +kernel) rfl, block_of (by decide +kernel) (by decide +kernel) (by decide +kernel) (by decide +kernel) (by decide +kernel), by decide +kernel, by decide +kernel, ?_,
      { fmt := .raw, scaled := false, keep := 8 }, { fmt := .raw, scaled := false, keep := 8 }, false, false, by decide +kernel, rfl⟩,
    ⟨clear_of (by decide +kernel) rfl, by decide +kernel, by decide +kernel, by decide +kernel, by decide +kernel, by decide +kernel, by decide +kernel, by decide +kernel, ?_, ?_⟩,
    clear_of (by decide +kernel) rfl, by decide +kernel, ?_⟩ <;>
  exact ⟨by decide +kernel, by decide +kernel, by decide +kernel, by decide +kernel, by decide +kernel⟩

/-- A block of an all-reduce of 16 FP32 elements by a group of one, with SEQ 1. -/
def collBlock : List (Nat × Nat × Nat) := [(1, 1, 1), (0x0A, 2, 1), (0x0C, 2, 1), (0x20, 8, 16), (0x28, 4, 16), (0x30, 8, 0x400), (0x38, 8, 1)]

/-- A collective of that block in context 0, done or not. -/
def aColl (done : Bool) : Coll :=
  { cmd := { id := 9, who := 0, instr := .nop, tp := 3, deps := [], depFailed := false, addr := 0, base := 0,
             block := BitVec.ofNat 1024 ((collBlock.foldl (fun (m : Mem) p => m.writeNat p.1 p.2.1 p.2.2) []).readNat 0 128), knots := [], stage := .queued, step := 0, row := 0,
             act := 0, tile := false, table := [], notes := 0, low := 0, landAt := 0, unit := none, seq := 0 },
    started := true, placed := true, pieces := [], inPlace := [], sendsLeft := [], nodes := [], sent := 0, recv := 0, done := done, fail := false, aborted := false,
    ccause := 0, abortAt := none, abortTp := [], abortAcks := [], counts := [] }

/-- A state whose member has that collective. -/
def withColl (c : Coll) : State :=
  (block collBlock id).onLeaf 0 fun l => { l with member := some { loadedMember with colls := [(0, { colls := [c], waits := [] })] } }

/-- CollectiveSyllables: a COLL, and the others with no COLL, with one that is done, and with one that runs. -/
theorem test_wit_collectives : (let s := block collBlock id; let o : Et := ⟨1, 0, 0, 0, 0, 0⟩; let b := s.blockOf o 128
    (s.leaf 0).member = some loadedMember ∧ s.Clear (.coll o) ∧ s.BlockReady o 128 ∧ (s.me.rdTk 1).isPending = false ∧ cbCtr b % 64 = 0 ∧ cbSend b % 64 = 0 ∧ cbRecv b % 64 = 0 ∧ s.ownHbm 0 needRd (cbSend b) = true ∧ s.ownHbm 0 needWr (cbRecv b) = true ∧
    cbFieldsOk b loadedMember.gangSize = true ∧ cbRank b 0 = some 0 ∧ cbChunks b 0 = 1 ∧ cbCtr b + 8 + 8 * cbChunks b 0 ≤ 0x100000 ∧
    (s.collCtx 0 0).open_.length < 4 ∧ s.Clear (.ctest ⟨0, 0, 0, 0, 0, 7⟩) ∧ s.Clear (.cabort o) ∧ (s.collCtx 0 0).latest = none) ∧
    (∀ d : Bool, let s := withColl (aColl d)
    s.Clear (.cwait ⟨1, 0, 0, 0, 0, 0⟩) ∧ s.Clear (.ctest ⟨0, 0, 0, 0, 1, 0⟩) ∧ s.Clear (.cabort ⟨1, 0, 0, 0, 0, 0⟩) ∧ (s.collCtx 0 0).latest = some (aColl d) ∧
    (aColl d).prefixOf ≤ 16384 ∧ (∀ e ∈ (s.collCtx 0 0).colls, e.cmd.id = (aColl d).cmd.id → e = aColl d) ∧ (s.collCtx 0 0).waits = [] ∧ (s.collCtx 0 0).colls = [aColl d] ∧
    (s.me.rdS 0).toNat ≤ cbChunks (aColl d).cmd.block 0) := by
  refine ⟨⟨by decide +kernel, clear_of (by decide +kernel) rfl, block_of (by decide +kernel) (by decide +kernel) (by decide +kernel) (by decide +kernel) (by decide +kernel), by decide +kernel,
    by decide +kernel, by decide +kernel, by decide +kernel, by decide +kernel, by decide +kernel, by decide +kernel, by decide +kernel, by decide +kernel, by decide +kernel,
    by decide +kernel, clear_of (by decide +kernel) rfl, clear_of (by decide +kernel) rfl, by decide +kernel⟩, fun d => ?_⟩
  refine ⟨clear_of ?_ rfl, clear_of ?_ rfl, clear_of ?_ rfl, ?_, ?_, ?_, ?_, ?_, ?_⟩ <;> cases d <;> decide +kernel

/-! Control registers, traps and tasks. -/

/-- A member with a supervisor section. -/
def handledMember : Member := { loadedMember with header := loadedHeader ||| BitVec.ofNat 1024 (2 ^ (8 * 7 + 1)) }

/-- Leaf 0 runs it. -/
def handled (s : State) : State := s.onLeaf 0 fun l => { l with member := some handledMember }

/-- ControlRegistersRead, ControlRegistersWritten, PrivilegeTraps. -/
theorem test_wit_control : (at_ .b id).memberOf 0 = some loadedMember ∧ (at_ .b id).Clear (.mfs ⟨1, 0x5F⟩) ∧ (at_ .b id).Clear (.mts ⟨1, 0x40⟩) ∧
    (at_ .b id).me.loop0.act = false ∧ (at_ .b id).me.super = false ∧ cbOk buffer = true ∧ cbOk 0 = false ∧ (at_ .b id).cbNamed 0 0 = false ∧
    (let s := at_ .b fun t => { t with super := true }
    s.Clear (.mfs ⟨1, 0x10⟩) ∧ s.Clear (.mts ⟨1, 0x16⟩) ∧ s.me.super = true ∧ s.Clear (.loop ⟨1, false, 1⟩) ∧ s.here.len ≤ 1) ∧
    (let s := at_ .b fun t => { t with loop0 := { Loop.reset with act := true, le := 5 } }
    s.Clear (.mts ⟨1, 0x30⟩) ∧ s.Clear (.mts ⟨1, 0x32⟩) ∧ s.me.loop0.act = true) :=
  ⟨by decide +kernel, clear_of (by decide +kernel) rfl, clear_of (by decide +kernel) rfl, by decide +kernel, by decide +kernel, by decide +kernel, by decide +kernel, by decide +kernel,
    ⟨clear_of (by decide +kernel) rfl, clear_of (by decide +kernel) rfl, by decide +kernel, clear_of (by decide +kernel) rfl, by decide +kernel⟩,
    clear_of (by decide +kernel) rfl, clear_of (by decide +kernel) rfl, by decide +kernel⟩

theorem handled_of {s : State} {who : Nat} (m : Member) (h1 : s.memberOf who = some m) (h2 : m.flag 1 = true) (h3 : (s.strand who).super = false)
    (h4 : (s.strand who).quiet = true) : s.Handled who := ⟨⟨m, h1, h2⟩, h3, h4⟩

/-- TrapEntry, SoftwareTrapAndReturn: a handler and nothing in flight; a result in flight; supervisor state. -/
theorem test_wit_traps : (handled (at_ .b id)).Handled 0 ∧ (handled (at_ .b id)).Clear (.trap ⟨5⟩) ∧ (handled (at_ .b id)).me.pend = none ∧
    (at_ .b fun t => { t with flights := [{ id := 0, due := 4, load := false, lands := [] }] }).me.quiet = false ∧
    (let s := at_ .b fun t => { t with super := true }
    s.Clear .eret ∧ s.me.super = true ∧ s.me.trap.abort = false) :=
  ⟨handled_of handledMember (by decide +kernel) (by decide +kernel) (by decide +kernel) (by decide +kernel), clear_of (by decide +kernel) rfl, by decide +kernel, by decide +kernel,
    clear_of (by decide +kernel) rfl, by decide +kernel, by decide +kernel⟩

/-- TaskControl. -/
theorem test_wit_tasks : (let s := at_ .b id
    s.Clear .yield ∧ s.Clear (.safe ⟨0⟩) ∧ s.Clear .tend ∧ s.Clear (.stqrd ⟨9⟩) ∧ s.Clear .ifence ∧ s.Clear (.dictchk ⟨1, 2, 1⟩) ∧ s.Clear (.dictld ⟨0, 1⟩) ∧
    s.memberOf 0 = some loadedMember ∧ 0 < loadedMember.nlive ∧ s.me.super = false ∧ s.me.quiet = true ∧ s.me.trail = none ∧ s.tendDone 0 = true ∧ s.me.reports = [] ∧
    s.me.failed = [] ∧ s.xip 0 = false ∧ s.me.stores = [] ∧ s.me.sent = [] ∧ s.me.holdStarted = none ∧ (s.core 0).statq = [] ∧ (s.core 0).statLost = 0 ∧
    (s.me.rdS 0).toNat < loadedMember.ndict) ∧
    (let s := at_ .b fun t => { t with holdStarted := some 2 }
    s.Clear (.dictchk ⟨1, 2, 1⟩) ∧ s.Clear (.dictld ⟨0, 1⟩) ∧ s.me.holdStarted = some 2 ∧ s.me.walk = none) ∧
    (at_ .b (regs [(1, 1)])).Clear (.dictld ⟨1, 1⟩) ∧ loadedMember.ndict ≤ ((at_ .b (regs [(1, 1)])).me.rdS 1).toNat := by
  refine ⟨⟨clear_of ?_ rfl, clear_of ?_ rfl, clear_of ?_ rfl, clear_of ?_ rfl, clear_of ?_ rfl, clear_of ?_ rfl, clear_of ?_ rfl, ?_⟩,
    ⟨clear_of ?_ rfl, clear_of ?_ rfl, ?_⟩, clear_of ?_ rfl, ?_⟩ <;> decide +kernel

/-- IllegalBundles: an ill-formed syllable, a branch in a delay bundle, and one in an end bundle. -/
theorem test_wit_illegal : (Instr.vadd ⟨192, 0, 0, 0, .fp32⟩).isSyllable = true ∧ (Instr.vadd ⟨192, 0, 0, 0, .fp32⟩).wf = false ∧ (at_ .b id).me.late = [] ∧
    (at_ .b id).me.pend = none ∧ (at_ .b fun t => { t with pend := some ⟨1, none, false⟩ }).me.pend = some ⟨1, none, false⟩ ∧
    (at_ .b fun t => { t with loop0 := { Loop.reset with act := true } }).me.atEnd (at_ .b fun t => { t with loop0 := { Loop.reset with act := true } }).here false = true := by
  decide +kernel

/-! Events. -/

/-- A flight that lands at clock 0. -/
def aFlight (l : Landing) : Flight := { id := 3, due := 0, load := false, lands := [l] }

/-- ResultsAndStrandEvents: a flight that is due, one that is not, and each kind of landing. -/
theorem test_wit_results : (∀ l ∈ ([.v 5 { bits := 1, tag := .int8 }, .s 5 1, .k 5 1, .ps 1 { bits := 1, int := true }] : List Landing),
    let s := base.onMe fun t => { t with flights := [aFlight l] }
    (s.strand 0).flights.find? (fun g => g.id == 3) = some (aFlight l) ∧ (aFlight l).due ≤ (s.leaf 0).clk ∧ (aFlight l).lands = [l]) ∧
    (let s := base.onMe fun t => { t with flights := [{ aFlight (.s 5 1) with due := 9 }] }
    (s.strand 0).flights.find? (fun g => g.id == 3) = some { aFlight (.s 5 1) with due := 9 } ∧ (s.leaf 0).clk < 9) := by
  refine ⟨fun l hl => ?_, by decide +kernel⟩
  simp only [List.mem_cons, List.not_mem_nil, or_false] at hl
  obtain rfl | rfl | rfl | rfl := hl <;> decide +kernel

/-- A trap that waits at address 7. -/
def aTrap : TrapReq := { cause := ALIGN, slot := .m, fetch := false, addr := some 8, syl := 0, pc := 7, pend := none }

/-- ResultsAndStrandEvents: a strand that waits for its event, for its time, with a trap, and in DICTCHK's hold. -/
theorem test_wit_strand_events : (base.onMe fun t => { t with trail := some .wfe }).me.trail = some .wfe ∧ base.me.trail ≠ some .wfe ∧
    (let s := base.onMe fun t => { t with trail := some (.waitt 0) }
    s.me.trail = some (.waitt 0) ∧ (0 : W64).toNat ≤ s.now.toNat) ∧
    (let s := handled (base.onMe fun t => { t with trapReq := some aTrap })
    (s.strand 0).trapReq = some aTrap ∧ s.strandActs 0 = true ∧ s.Handled 0) ∧
    (base.onMe fun t => { t with hold := some 5 }).me.hold = some 5 ∧ base.timers = [] :=
  ⟨by decide +kernel, by decide +kernel, by decide +kernel, ⟨by decide +kernel, by decide +kernel,
    handled_of handledMember (by decide +kernel) (by decide +kernel) (by decide +kernel) (by decide +kernel)⟩, by decide +kernel, by decide +kernel⟩

/-- LoadsReturn: a load and an atomic of host memory. -/
theorem test_wit_loads : ∀ k ∈ ([.load, .atomic 0 true 5 6] : List AccessKind),
    let e : LoadEntry := { aLoad with kind := k, dest := .scalar 1 .raw }
    let s := mapped (base.onMe fun t => { t with loads := [e] })
    (s.strand 0).loads = [e] ∧ (s.strand 0).fences = [] ∧ (s.strand 0).stores = [] ∧ s.enginesRun 0 = true ∧ e.dest.reg = some (.s 1) ∧ e.lines = [(0, .host 0)] ∧
    e.va / 64 = 0 ∧ e.len = scalarBytes .raw ∧ e.va % 64 + e.len ≤ 64 ∧ s.loadGate 0 e = .ok ∧ s.isFrozen 0 0 = false := by
  intro k hk
  simp only [List.mem_cons, List.not_mem_nil, or_false] at hk
  obtain rfl | rfl := hk <;> decide +kernel

/-- A store of 8 bytes at address 0. -/
def aStore : StoreEntry := { id := 4, kind := .weak, va := 0, len := 8, data := 0x1122, mask := 0xFFFFFFFFFFFFFFFF, stage := .buffered, lines := [] }

/-- A push of core 0 to offset 64. -/
def aPush : Push := { id := 1, who := 4, dir := .west, off := 64, data := 5, due := 0, waiting := false, seq := 0 }

/-- StoresAndPushesPerform. -/
theorem test_wit_stores : (let s := mapped (base.onMe fun t => { t with stores := [aStore] })
    (s.strand 0).stores.find? (fun d => d.id == 4) = some aStore ∧ aStore.lines = [] ∧ s.enginesRun 0 = true ∧ s.storeReady 0 aStore = true ∧ s.isFrozen 0 0 = false ∧
    (∃ p x, aStore.part 64 = some p ∧ s.xlate 0 needWr p.va = .mapped x ∧ x.at p.va = .host 0 ∧
      aStore.mask &&& ~~~(BitVec.ofNat 4096 ((2 ^ (8 * p.n) - 1) * 2 ^ (8 * (p.va - aStore.va)))) = 0)) ∧
    (let s := (held base).onCore 0 fun c => { c with pushes := [aPush] }
    (s.core 0).pushes = [aPush] ∧ (s.strand aPush.who).fences = [] ∧ (s.leaf 0).member = some loadedMember ∧ aPush.due ≤ (s.leaf 0).clk ∧ s.enginesRun 0 = true ∧ aPush.off + 512 ≤ 0x100000 ∧ (s.leaf 0).walks = [] ∧
    ready s (regionSpan aPush.off 512) = true) :=
  ⟨⟨by decide +kernel, by decide +kernel, by decide +kernel, by decide +kernel, by decide +kernel, { va := 0, n := 8, data := 0x1122, mask := 0xFFFFFFFFFFFFFFFF },
    { vf := 0, base := 0, size := 2 ^ 30, rd := true, wr := true, ex := true, discard := false, phys := .host 0 }, by decide +kernel, by decide +kernel, by decide +kernel,
    by decide +kernel⟩, by decide +kernel⟩

theorem done_of {r : Reach} {p : State → Bool} (h : (match r with
    | .done u _ => p u
    | _ => false) = true) : ∃ u x, r = .done u x ∧ p u = true := by
  cases r with
  | done u x => exact ⟨u, x, rfl, h⟩
  | _ => cases h

theorem got_of {r : CpGot} {p : State → Bool} (h : (match r with
    | .done u _ => p u
    | _ => false) = true) : ∃ u x, r = .done u x ∧ p u = true := by
  cases r with
  | done u x => exact ⟨u, x, rfl, h⟩
  | _ => cases h

theorem bundle_of {r : FetchResult} (h : (match r with
    | .bundle _ => true
    | .miss _ => false) = true) : ∃ f, r = .bundle f := by
  cases r with
  | bundle f => exact ⟨f, rfl⟩
  | miss _ => cases h

/-- FetchAndFills: a bundle to fetch, a line of code, a dictionary, and a backed region that a bundle touches. -/
theorem test_wit_fetch : ((base.strand 0).running.isSome = true ∧ base.strandActs 0 = true ∧ (base.strand 0).ibuf = [] ∧ (base.strand 0).pend = none ∧ (base.strand 0).stale = [] ∧
      ∃ f, base.fetchAt 0 0 false = .bundle f) ∧
    (let s := mapped base
    (s.leaf 0).member.isSome = true ∧ s.enginesRun 0 = true ∧ s.reachLine 0 needEx 0 = .inl (.host 0)) ∧
    (let s := mapped (base.onMe fun t => { t with hold := some 0 })
    (s.strand 0).hold = some 0 ∧ (s.leaf 0).member = some loadedMember ∧ s.strandActs 0 = true ∧
      ∃ u x, s.readFor 0 (.bundle 0) true (loadedMember.dictAt 0) 49152 = .done u x ∧ (u.strand 0).stores.isEmpty = true) ∧
    (let s := mapped (base.onCore 0 fun c => { c with regions := [(2, { Region.reset with rattr := 0x201, filling := some (.bundle 0) })] }); let r := s.region 0 2
    r.filling = some (.bundle 0) ∧ r.fillParked = false ∧ r.state = .fresh ∧ r.back = true ∧ r.backed ≤ 16384 ∧ ((s.strand 0).loads = [] ∧ (s.strand 0).fences = [] ∧ s.enginesRun 0 = true) ∧
      ∃ u x, s.readFor 0 (.region 0 2) true r.vbase.toNat r.backed = .done u x ∧ ((u.strand 0).stores.isEmpty && (u.core 0).local_ == (s.core 0).local_) = true) := by
  refine ⟨⟨by decide +kernel, by decide +kernel, by decide +kernel, by decide +kernel, by decide +kernel, ?_⟩, ⟨by decide +kernel, by decide +kernel, rfl⟩, ⟨by decide +kernel, by decide +kernel, by decide +kernel,
    done_of (p := fun u => (u.strand 0).stores.isEmpty) (by decide +kernel)⟩,
    by decide +kernel, by decide +kernel, by decide +kernel, by decide +kernel, by decide +kernel, by decide +kernel, done_of (by decide +kernel)⟩
  exact bundle_of (by decide +kernel)

/-- A member whose dispatcher has one task. -/
def busyMember : Member := { loadedMember with workLeft := true }

/-- TaskEvents. -/
theorem test_wit_task_events : (let s := base.onLeaf 0 fun l => { l with member := some busyMember }
    (s.leaf 0).member = some busyMember ∧ busyMember.workLeft = true ∧ busyMember.nextWork < busyMember.workCount ∧ (s.leaf 0).phase = .run ∧ (s.leaf 0).freezeLeft = 0 ∧
    (let who := s.taskStrand 0 (workAt 0 busyMember.fields 0).2
    (s.strand who).tasks.length < taskPlaces ∧ busyMember.readyFor who = false)) ∧
    (let s := base.onMe fun t => { t with running := none, tasks := [{ work := 5 }] }
    s.memberOf 0 = some loadedMember ∧ s.strandActs 0 = true ∧ (s.strand 0).abortWait = none ∧ loadedMember.pool = [] ∧ (s.strand 0).running = none ∧
    (s.strand 0).tasks = [{ work := 5 }]) ∧
    (let s := base.onMe fun t => { t with retiring := true }
    (s.strand 0).retiring = true ∧ s.strandActs 0 = true ∧ (s.strand 0).loads = [] ∧ (s.strand 0).waits = [] ∧ (s.strand 0).reports = []) := by decide +kernel

/-- A command of strand 0 at a stage. -/
def aCmd (i : Instr) (st : CmdStage) : Cmd := { (aColl false).cmd with instr := i, stage := st }

/-- CommandsRunAndComplete. -/
theorem test_wit_commands : ∀ i ∈ ([.lswap ⟨3, 0, 0, 0, 0, 0⟩, .lzero ⟨3, 0, 0, 0, 0, 0x21⟩] : List Instr), ∀ st ∈ ([.queued, .running, .finishing, .failing 2] : List CmdStage),
    let c := aCmd i st
    let s := { base.onMe fun t => { t with tks := [(3, .pending 9)] } with queues := [(0, [c])] }
    s.enginesRun (queueLeaf 0) = true ∧ s.heldLocal (coreOf c.who) = false ∧ c.stage = st ∧ c.deps = [] ∧ c.depFailed = false ∧ s.cmds 0 = [c] ∧ (s.leaf (leafOf c.who)).remotes = [] ∧ (s.strand c.who).rdTk c.tp = .pending c.id ∧ c.tp ≠ 0 ∧
    (st = .finishing ∨ st = .failing 2 → s.overCmd 0 = some c) := by
  intro i hi st hs
  simp only [List.mem_cons, List.not_mem_nil, or_false] at hi hs
  obtain rfl | rfl := hi <;> obtain rfl | rfl | rfl | rfl := hs <;> decide +kernel

/-- A walk for a party. -/
def aWalk (p : Party) (parked : Bool) (line : Option Phys) : Walk :=
  { id := 6, party := p, vf := 0, va := 64, write := true, read := false, exec := false, parked := parked, line := line, since := 0 }

/-- Function 0's tables in host memory: virtual addresses below 1 GiB are host memory, the next GiB is HBM of the leaf. -/
def paged (s : State) : State :=
  { s.onVf 0 fun v => { v with ptroot := 0x1003 } with
    host := ((s.host.writeNat 0x1000 8 0x2001).writeNat 0x2000 8 0x40000000001F).writeNat 0x2008 8 0x1F
    allot := s.allot.set 0 1 }

/-- WalkEvents. -/
theorem test_wit_walks : (let w := aWalk (.bundle 0) false none
    let s := paged ((base.onMe fun t => { t with walk := some (.walking 64 true) }).onLeaf 0 fun l => { l with walks := [w] })
    (s.leaf 0).walks = [w] ∧ (s.strand 0).walk = some (.walking 64 w.write) ∧ ∃ x, s.walk 0 w.vf (s.keyVf 0).1 w.need w.va = .mapped x) ∧
    (let w := aWalk (.store 0 4) true none; let e := { aStore with stage := .parked }
    let s := { (base.onMe fun t => { t with stores := [e] }).onLeaf 0 fun l => { l with walks := [w] } with now := 1024000 }
    (s.leaf 0).walks = [w] ∧ w.parked = true ∧ w.line = none ∧ w.late s.now = true ∧ (s.strand 0).stores = [e] ∧ e.id = 4 ∧ e.stage = .parked) ∧
    (let w := aWalk (.store 0 4) true (some (.host 0x2000)); let e := { aStore with stage := .parked }
    let s := (base.onMe fun t => { t with stores := [e] }).onLeaf 0 fun l => { l with walks := [w] }
    w.line.map Phys.lineKey = some 513 ∧ (s.strand 0).stores = [e] ∧ (s.leaf 0).member = some loadedMember ∧ loadedMember.pool = []) :=
  ⟨⟨by decide +kernel, by decide +kernel, { vf := 0, base := 0, size := 2 ^ 30, rd := true, wr := true, ex := true, discard := false, phys := .host 0 }, by decide +kernel⟩,
    by decide +kernel, by decide +kernel⟩

/-! Queues, packets and gangs. -/

/-- A gang of one member whose leaf it holds in the one slot of a stencil in force, in a package that serves it. -/
def gangRuns (s : State) : State :=
  { (paged s).onLeaf 0 fun l => { l with member := some { loadedMember with launchBase := 2 ^ 30 }, inForce := true, cells := [(0, 1)],
                                         active := { frame0 := 0, cfg := 1, slot := 1000 } } with
    isReady := true, minimal := false, leafOk := 3, gangs := [(1, 0x10000)] }

/-- Queue 0 of function 0 with one packet. -/
def queued (b : Nat) : State :=
  let s := gangRuns base
  { s.onQueue 0 0 fun x => { x with base := 0x10000, en := true, logsz := 4, tail := 1 } with host := s.host.writeNat 0x10000 64 b }

/-- A number in host memory. -/
def withHost (s : State) (a n x : Nat) : State := { s with host := s.host.writeNat a n x }

/-- A program image of one NOP at 0x20000. -/
def withImage (s : State) : State :=
  withHost s 0x20000 128 0xb02ed184000000000000000000000000000000000000000000000000000000000000c0c0000100000000000000000001000000c0000000020000008000000000000000000000000000000000000000000000000000000000000000000000000000000000000000010000020100000000000001000000000100800001

/-- A packet from its type, FLAGS and fields, each an offset and a value. -/
def packetOf (t : Nat) (l : List (Nat × Nat)) : Nat := t + (l.map fun x => x.2 * 2 ^ (8 * x.1)).sum

/-- The head packet of queue 0 is admitted by a consumption. -/
def Admits (s : State) (ev : Ev) (k : State → Pkt → Consumed) : Prop :=
  s.takeSlots = s ∧ ∃ l t d, s.nextPacket 0 = some (0, 0, l) ∧ s.pending 0 0 = true ∧ consumeEv 0 0 0 (bytesAt (s.headSlot 0 0) 0 1) = ev ∧
    k ((s.setLeaf 0 l).newPkt 0 0 0 (s.headSlot 0 0)).2 ((s.setLeaf 0 l).newPkt 0 0 0 (s.headSlot 0 0)).1 = .letIn t d

/-- With no slot written of late, the slots stand as they are. -/
theorem takeSlots_of {s : State} (h : s.slotWas = []) : s.takeSlots = s := by
  unfold State.takeSlots
  rw [h]
  simp only [List.map_nil, List.eraseDups_nil, List.foldl_nil]
  rw [← h]

theorem admits_of {s : State} {ev : Ev} {k : State → Pkt → Consumed} (hs : s.takeSlots = s) (h : (match s.nextPacket 0 with
    | some (0, 0, l) => s.pending 0 0 && decide (consumeEv 0 0 0 (bytesAt (s.headSlot 0 0) 0 1) = ev) &&
      match k ((s.setLeaf 0 l).newPkt 0 0 0 (s.headSlot 0 0)).2 ((s.setLeaf 0 l).newPkt 0 0 0 (s.headSlot 0 0)).1 with
      | .letIn _ _ => true
      | _ => false
    | _ => false) = true) : Admits s ev k := by
  split at h
  · next l hl =>
    simp only [Bool.and_eq_true, decide_eq_true_eq] at h
    obtain ⟨⟨hp, he⟩, hk⟩ := h
    split at hk
    · next t d hd => exact ⟨hs, l, t, d, hl, hp, he, hd⟩
    · cases hk
  · cases h

theorem test_wit_packets :
    Admits (queued (packetOf 3 [(0x18, 0x3000)])) (.waitsig 0 0 0) (waitsigConsumed 0 0) ∧
    Admits (queued (packetOf 4 [])) (.signalPacket 0 0 0) (plainConsumed 0 0 4 (fun p => p.at 0x18 40 == 0) (fun _ => []) fun s p => .letIn s p) ∧
    Admits (queued (packetOf 6 [(0x18, 0x3000)])) (.meter 0 0 0) (plainConsumed 0 0 6 (fun _ => true) (fun _ => []) fun s p => .letIn s p) ∧
    Admits (queued (packetOf 2 [(0x18, 0x3000), (0x20, 0x4000), (0x28, 64)])) (.copy 0 0 0) (copyConsumed 0 0) ∧
    Admits (withHost (queued (packetOf 5 [(0x18, 0x3000), (0x20, 1), (0x28, 0x4000)])) 0x3000 16 (2 ^ 30 + 2 ^ 64)) (.ckpt 0 0 0) (ckptConsumed 0 0) ∧
    Admits (withHost (queued (packetOf 7 [(0x18, 0x3000), (0x20, 1)])) 0x3010 8 1) (.resize 0 0 0) (resizeConsumed 0 0) := by
  refine ⟨?_, ?_, ?_, ?_, ?_, ?_⟩ <;> exact admits_of (takeSlots_of (by decide +kernel)) (by decide +kernel)

theorem test_wit_launch : Admits (withImage (queued (packetOf 1 [(0x18, 0x20000)]))) (.launch 0 0 0) (launchConsumed 0 0) := admits_of (takeSlots_of (by decide +kernel)) (by decide +kernel)

/-- QueuesAndPackets: a head packet of each type that is malformed. -/
theorem test_wit_malformed : ∀ t ∈ ([1, 2, 3, 4, 5, 6, 7] : List Nat), let s := queued (packetOf t [(1, 4)]); let k := s.headSlot 0 0
    ((s.nextPacket 0).any fun x => x.1 == 0 && x.2.1 == 0) = true ∧ s.pending 0 0 = true ∧ headOk k = false ∧ (s.leaf 0).pkts = [] := by decide +kernel

/-- QueuesAndPackets: doorbells within and beyond the ring, a halted queue, one that is not enabled. -/
theorem test_wit_doorbell : (let s := queued 3
    2 ^ (s.queue 0 0).logsz.toNat ≤ (99 : BitVec 32).toNat ∧ (2 : BitVec 32).toNat < 2 ^ (s.queue 0 0).logsz.toNat ∧ s.pending 0 0 = true ∧ s.servedBy 0 0 = true) ∧
    ((base.onQueue 0 0 fun x => { x with halt := true }).queue 0 0).halt = true ∧ (base.queue 0 0).en = false := by decide +kernel

/-- A packet that the command processor of leaf 0 holds. -/
def aPkt (t : Nat) (l : List (Nat × Nat)) (st : PktStage) : Pkt :=
  { pid := 0, vf := 0, queue := 0, index := 0, bytes := BitVec.ofNat 512 (packetOf t l), waits := [], handles := [], gang := 1, stage := st, at_ := 0, progress := 0, pages := [],
    launch := none, block := 0, table := [], owed := [], bad := false }

/-- Leaf 0 holds that packet. -/
def holding (p : Pkt) : State := (gangRuns base).onLeaf 0 fun l => { l with pkts := [p], member := some { loadedMember with running := none } }

/-- A launch with its data. -/
def aLaunch : LaunchData :=
  { image := 0, pred := none, header := 0, cfg3 := 0, argBytes := [], args := [], bhl := [], live := [], code := [], dicts := [], cbt := [], sup := [], diff := [] }

/-- PacketsStartAndComplete: packets of each type that may start. -/
theorem test_wit_starts : (∀ t ∈ ([2, 3, 4, 5, 6, 7] : List Nat), let p := aPkt t [(0x18, 0x3000)] .waiting
      (holding p).pkt 0 0 = some p ∧ p.type = t ∧ (holding p).mayStart 0 p = true ∧ (holding p).mpDown = false) ∧
    (let p := { aPkt 1 [] .waiting with launch := some aLaunch }; let s := holding p; let m := { loadedMember with running := none }
    s.pkt 0 0 = some p ∧ p.type = 1 ∧ s.mayStart 0 p = true ∧ (s.leaf 0).member = some m ∧ (s.leaf 0).phase = .run ∧ m.gang = p.gang) ∧
    (let p := aPkt 6 [(0x18, 2 ^ 30)] .waiting; ∃ u x, (holding p).meterReport 0 p = .done u x ∧ (u.pkt 0 0).isSome = true) :=
  ⟨by decide +kernel, by decide +kernel, got_of (p := fun u => (u.pkt 0 0).isSome) (by decide +kernel)⟩

/-- PacketsStartAndComplete: a flag that meets its condition, a timeout that has elapsed, a COPY's one line, a signal in host memory. -/
theorem test_wit_completes : (let p := aPkt 3 [(0x18, 0x3000)] .started; let s := holding p
      s.pkt 0 0 = some p ∧ p.at 0x18 8 % 8 = 0 ∧ s.cpPlace 0 0 needRd (64 * (p.at 0x18 8 / 64)) = .inl (.host 0x3000) ∧
      condMet (p.at 0x28 1) (s.host.readNat 0x3000 64 / 2 ^ (8 * (p.at 0x18 8 % 64)) % 2 ^ 64) (p.at 0x20 8) = true) ∧
    (let p := aPkt 3 [(0x18, 0x3000), (0x30, 1)] .started; let s := { holding p with now := 1 }
      s.pkt 0 0 = some p ∧ p.at 0x30 8 ≠ 0 ∧ p.at_.toNat + p.at 0x30 8 ≤ s.now.toNat) ∧
    (∀ n ∈ ([1, 2] : List Nat), let q := aPkt 2 [(0x18, 0x3000), (0x20, 0x4000), (0x28, n)] .started; let p := { q with block := linearBlock q + 63 <<< 160 }; let s := holding p
      s.pkt 0 0 = some p ∧ p.owed = [] ∧ ccTotal p.block = n ∧ ∃ u x, s.copyStep 0 p = .done u x ∧ (u.pkt 0 0).isSome = true) ∧
    (∀ a ∈ ([0, 0x5000] : List Nat), let p := aPkt 4 [(8, a), (0x10, 7)] .writing; let s := holding p
      s.pkt 0 0 = some p ∧ p.owed = [] ∧ (s.leaf 0).remotes = [] ∧ p.sigAddr = a ∧ s.frozenFor 0 0 (a / 64) = false ∧
      (a = 0x5000 → s.cpMapped 0 0 needWr a 8 = none ∧ s.cpPlace 0 0 needWr (64 * (a / 64)) = .inl (.host a))) := by
  refine ⟨by decide +kernel, by decide +kernel, fun n hn => ?_, by decide +kernel⟩
  simp only [List.mem_cons, List.not_mem_nil, or_false] at hn
  obtain rfl | rfl := hn <;>
    exact ⟨by decide +kernel, by decide +kernel, by decide +kernel, got_of (p := fun u => (u.pkt 0 0).isSome) (by decide +kernel)⟩

/-- MemberWidePackets: a RESIZE, and a CKPT with a page of HBM to copy. -/
theorem test_wit_member_wide : (∀ n ∈ ([0, 1] : List Nat), let p := { aPkt 7 [(0x20, 1)] .started with progress := n }; (holding p).pkt 0 0 = some p ∧ p.stage = .started) ∧
    (let p := { aPkt 5 [(0x20, 1)] .started with pages := [(2 ^ 30, 0x4000)], progress := 1 }; let s := holding p
    s.pkt 0 0 = some p ∧ p.at 0x30 8 = 0 ∧ (p.pages.find? fun q => q.1 / 4096 == 2 ^ 18) = some (2 ^ 30, 0x4000) ∧
      ∃ u x, ((s.cpRead 0 0 0 (2 ^ 30) 64).andThen fun v x => v.cpWrite 0 0 0 (v.pktKey p) 0x4000 64 x) = .done u x ∧ (u.pkt 0 0).isSome = true) :=
  ⟨by decide +kernel, by decide +kernel, by decide +kernel, by decide +kernel, got_of (p := fun u => (u.pkt 0 0).isSome) (by decide +kernel)⟩

/-- StencilEvents. -/
theorem test_wit_stencil : base.mpDown = false ∧ ({ base with mpDown := true }).mpDown = true ∧
    (let s := base.onLeaf 0 fun l => { l with arm := true }
    (s.leaf 0).member.isSome = true ∧ s.applyDue 0 = true) ∧
    (base.onLeaf 0 fun l => { l with inForce := true, active := { frame0 := 0, cfg := 2, slot := 1 } }).slotDue 0 = true := by decide +kernel

/-- A stencil of two slots of 100 µs, with LEAD 10 µs, PREPDL 2 µs and VOTEDL 5 µs; gang 1 holds the leaf in slot 0 only. -/
def sliced (s : State) (now : Nat) (ph : Phase) (r : List Leader) : State :=
  { s.onLeaf 0 fun l => { l with inForce := true, cells := [(0, 1)], active := { frame0 := 0, cfg := 0x00050002000A0002, slot := 100000 }, boundary := 102400000, phase := ph,
                                 refTime := 92160000, leaders := r } with now := BitVec.ofNat 64 now }

/-- A leader of gang 1 with its one member on leaf 0. -/
def aLeader (ph : LeaderPhase) : Leader :=
  { gang := 1, phase := ph, size := 1, places := [0], routers := [], start := 92160000, round := 0, readys := [], replies := [], dones := [] }

/-- GangSwitch: a member that begins to prepare, one whose strands are captured, one that is PREPARED, a leader's round, and a member that counts. -/
theorem test_wit_prepare : (let s := sliced base 92160000 .run [];
      s.prepareDue 0 = some 92160000 ∧ (s.leaf 0).member = some loadedMember) ∧
    (sliced base 94208000 .preparing []).captureDue 0 = true ∧
    (let s := sliced (base.onMe fun t => { t with stop := .captured }) 94208000 .preparing [];
      (s.leaf 0).member = some loadedMember ∧ (s.leaf 0).phase = .preparing ∧ s.preparedNow 0 = true ∧ (s.leaf 0).freezeLeft = 0 ∧ s.enrolled 1 = false ∧
      ((leafCores 0).foldl State.saveWaiting (s.unpost (.memberPrepared 0))).replayOver 0 = false) ∧
    (sliced base 94208000 .preparing [aLeader .counting]).roundDue 0 = some (aLeader .counting) := by decide +kernel

/-- GangSwitch: the last count, which is equal. -/
theorem test_wit_counts : let r := aLeader .counting; let s := sliced base 94208000 .prepared [r];
    (s.leaf 0).leader 1 = some r ∧ r.phase = .counting ∧ r.round = 0 ∧ r.gang = 1 ∧
    let replies := (r.replies.filter fun x => x.member != 0) ++ [{ member := 0, prepared := true, sent := 4, recv := 4 }]
    (∀ m ∈ List.range r.size ++ r.routers, ∃ x ∈ replies, x.member = m ∧ x.prepared = true) ∧
    replies.foldl (fun a x => a + x.sent) 0 = replies.foldl (fun a x => a + x.recv) 0 := by decide +kernel

/-- What every gang fault record begins with, here of gang 1. -/
def aHead : FaultHead := { cause := 3, gang := 1, pkg := 0, leaf := 0, member := 0, core := 0, strand := 0, tcause := 0, pc := 0, addr := 0, now := 0, work := 0 }

/-- GangSwitch: COMMIT, the saved context, DONE, ABORT at a leader and at a member, and a vote past VOTEDL. -/
theorem test_wit_commit : ((sliced base 0 .prepared []).leaf 0).member = some loadedMember ∧ ((sliced base 0 .prepared []).leaf 0).phase = .prepared ∧
    (let s := sliced base 0 .saving [];
      (s.leaf 0).member = some loadedMember ∧ (s.leaf 0).phase = .saving ∧ (s.leaf 0).nextBoundary ≤ (s.leaf 0).refTime.toNat + us (s.leaf 0).active.lead) ∧
    (let r := aLeader .committing; let s := sliced base 0 .saving [r];
      (s.leaf 0).leader 1 = some r ∧ r.phase = .committing ∧ ∀ m < r.size, m ∈ r.dones ++ [0]) ∧
    aHead.gang = 1 ∧ (base.faultedGangs.find? 1).isSome = false ∧
    (sliced base 97280000 .preparing [aLeader .counting]).voteLate 0 = some (aLeader .counting) := by decide +kernel

/-- MembersReturn. -/
theorem test_wit_return : (let s := { sliced base 0 .resuming [] with leafOk := 3 };
      (s.leaf 0).member = some loadedMember ∧ s.leafUp 0 = true) ∧
    (let r := aLeader .starting; let s := sliced base 0 .resuming [r];
      (s.leaf 0).leader loadedMember.gang = some r ∧ r.phase = .starting ∧ ∀ n < r.size, n ∈ r.readys ++ [0]) ∧
    loadedMember.dust = [] ∧ loadedMember.held = [] ∧
    (let s := sliced base 97280000 .resuming [];
      (s.leaf 0).phase = .resuming ∧ (s.leaf 0).refTime.toNat + us (s.leaf 0).active.votedl ≤ s.now.toNat) ∧
    (let s := base.onMe fun t => { t with running := none };
      loadedMember.running.isSome = true ∧ loadedMember.complete = false ∧ s.enginesRun 0 = true ∧ s.memberIdle 0 loadedMember = true ∧ s.dirtyRegions 0 loadedMember = [] ∧
      loadedMember.unread = [] ∧ (s.leaf 0).remotes = []) ∧
    base.leafHolding loadedMember.gang 0 = some 0 ∧ loadedMember.running = some 0 ∧ ∀ n < loadedMember.size, n ∈ loadedMember.mdones ++ [0] := by decide +kernel

/-- MembersReturn: the context of a member that owes no fault. -/
theorem test_wit_owed : ((sliced base 0 .resuming []).savedOf 0 1 0).owed = 0 := by decide +kernel

/-! The fabric, errors, collectives and the Scrim die. -/

/-- A packet of gang 1 to its member 0. -/
def aPacket (b : PacketBody) : Packet :=
  { gang := 1, key := 0, srcPkg := 1, srcLeaf := 0, srcMember := 1, dstMember := 0, seq := 0, flits := 1, nonce := 0, under := sealKeyOf 1 0 b, tagOk := true, body := b }

/-- A remote request of leaf 0, sent at 0. -/
def aRemote (party : Party) (again : Bool) : Remote := { txn := 7, party := party, vline := 0, pkt := aPacket (.read 7 0 8), sentAt := 0, resent := again, place := 0 }

/-- FabricAndLinks. -/
theorem test_wit_frozen : ((base.onLeaf 0 fun l => { l with freezeLeft := 3 }).leaf 0).freezeLeft ≠ 0 := by decide +kernel

theorem test_wit_arrival : (let p := aPacket (.read 7 0 8); let l := base.leaf 0
      l.freezeLeft = 0 ∧ p.gang ≠ 0 ∧ opens p = true ∧ sequenced p = true ∧ p.seq = l.seqIn.get (inKey p) 0 ∧ l.member = some loadedMember ∧
      loadedMember.gang = p.gang ∧ loadedMember.member = p.dstMember ∧ l.phase = .run ∧ l.early = [] ∧ l.recorded p = none) ∧
    (let p := { aPacket (.read 7 0 8) with tagOk := false }; let l := (base.onLeaf 0 fun l => { l with member := none, edge := [p] }).leaf 0
      l.freezeLeft = 0 ∧ l.member = none ∧ p.gang ≠ 0 ∧ opens p = false ∧ l.edge = [p]) ∧
    (let p := aPacket (.store 7 0 8 5 0xFF); let s := gangRuns base;
      (s.leaf 0).member.isSome = true ∧ (s.leaf 0).freezeLeft = 0 ∧ s.requestBefore 0 p = false ∧ s.mayReach 0 0 0 8 = true ∧ s.frozenAt 0 0 0 = false ∧
      s.mayReach 0 0 (2 ^ 30) 8 = false) ∧
    (∀ again : Bool, let r := aRemote (.packet 0) again; let s := { base.onLeaf 0 fun l => { l with remotes := [r] } with now := 20480000 };
      (s.leaf 0).remotes.find? (fun x => x.txn == 7) = some r ∧ s.timersRun 0 = true ∧ r.sentAt + resendAfter ≤ s.now.toNat ∧ r.resent = again ∧
      (s.leaf 0).member = some loadedMember) := by
  refine ⟨by decide +kernel, by decide +kernel, by decide +kernel, fun again => ?_⟩
  cases again <;> decide +kernel

theorem test_wit_links : base.link 3 = .up ∧ ({ base with links := base.links.set 3 .retraining }).link 3 = .retraining := by decide +kernel

/-- ErrorEvents. -/
theorem test_wit_errors : (base.leaf 0).retired 0 = false ∧ (base.leaf 0).retpg.length < 64 ∧
    (let s := held base;
      (s.region 0 1).owner = some loadedMember.owner ∧ (s.leaf 0).member = some loadedMember ∧ loadedMember.owner.same loadedMember.owner = true ∧ (s.leaf 0).phase = .run) ∧
    (base.leaf (leafOfCore 0)).freezeLeft = 0 := by decide +kernel

/-- A gather by a group of one, in place but for its token. -/
def gathered (f : Coll → Coll) : Coll :=
  f { aColl false with cmd := { (aColl false).cmd with block := (aColl false).cmd.block + 2 } }

/-- Its placement. -/
def aTree : Tree := { gang := 1, block := (gathered id).cmd.block, routers := [], places := [0], sent := 0, recv := 0, dropped := false }

/-- A member with that collective, and its placement. -/
def collMember (c : Coll) (ts : List Tree) : Member := { loadedMember with colls := [(0, { colls := [c], waits := [] })], trees := ts }

/-- Leaf 0 runs it. -/
def collState (c : Coll) : State := held (mapped (base.onLeaf 0 fun l => { l with member := some (collMember c [aTree]) }))

theorem reach0_of {r : Reach} (h : (match r with
    | .done _ x => x == 0
    | _ => false) = true) : ∃ u, r = .done u 0 := by
  cases r with
  | done u x => exact ⟨u, by rw [beq_iff_eq.mp h]⟩
  | _ => cases h

/-- CollectiveEvents: a COLL whose work is done, one to which bytes come, and one that an acknowledgement reaches. -/
theorem test_wit_coll_events : (let c := gathered fun c => { c with inPlace := [0] }; let s := collState c; let m := collMember c [aTree]
      (s.leaf 0).member = some m ∧ (s.collCtx 0 0).open_ = [c] ∧ (s.collCtx 0 0).waits = [] ∧ s.enginesRun 0 = true ∧ c.started = true ∧
      m.treeOf (cbSeq c.cmd.block) = some aTree ∧ c.sendsLeft = [] ∧ s.collParked 0 0 = false ∧ s.collOver 0 0 m c aTree = true) ∧
    (let c := gathered id; let s := collState c; let m := collMember c [aTree]; let p := aPacket (.deliver 7 1 0 0 1 [1, 2, 3, 4])
      (p.gang = m.gang ∧ c.started = true ∧ s.enginesRun 0 = true ∧ s.collParked 0 0 = false) ∧ m.dropped = [] ∧ m.collOf 1 = some (0, c) ∧ m.treeOf 1 = some aTree ∧ c.done = false ∧ cbOp aTree.block ≠ 0 ∧
      ∃ u, s.chunkBytes 0 0 c 0 0 [1, 2, 3, 4] = .done u 0) ∧
    (let c := gathered id; let r := aRemote (.coll 0) false; let s := (collState c).onLeaf 0 fun l => { l with remotes := [r] };
      (s.leaf 0).remotes.find? (fun x => x.txn == 7 && x.party == .coll 0) = some r ∧ (s.collCtx 0 0).running = some c ∧ cbOp c.cmd.block ≠ 4) ∧
    loadedMember.treeOf 1 = none ∧ loadedMember.collOf 1 = none ∧ base.trees = [] := by
  refine ⟨by decide +kernel, ⟨by decide +kernel, by decide +kernel, by decide +kernel, by decide +kernel, by decide +kernel, by decide +kernel, ?_⟩, by decide +kernel⟩
  exact reach0_of (by decide +kernel)

/-- CollectiveEvents: an abort past VOTEDL, and one whose next count is due. -/
theorem test_wit_abort : (let c := gathered fun c => { c with abortTp := [(3, 0, 9)], abortAt := some 0 }; let s := sliced (collState c) 97280000 .run [];
      (s.collCtx 0 0).colls.find? (fun x => !x.abortTp.isEmpty) = some c ∧ s.abortLate 0 c = true ∧ (s.leaf 0).phase = .run) ∧
    (let c := gathered fun c => { c with abortTp := [(3, 0, 9)], abortAt := some 0, abortAcks := [0] }; let s := sliced (collState c) 2048000 .run [];
      (s.collCtx 0 0).colls.find? (fun x => !x.abortTp.isEmpty) = some c ∧ s.abortLate 0 c = false ∧ (∀ d ∈ (collMember c [aTree]).partners c.cmd.block, d ∈ c.abortAcks) ∧
      c.nextRound ≤ s.now.toNat ∧ s.enginesRun 0 = true) := by decide +kernel

/-- PodTime: a port from above and one that is not, offsets that lose and gain LOCK, and a grandmaster. -/
theorem test_wit_time : (let s := { base with ptcfg := 1, lock := true };
      s.fromUp 0 = true ∧ s.fromUp 1 = false ∧ nowDiff s.syncAt (0x5001 + 0 + s.linkDelay.get 0 0) < -2 * tenNs ∧
      (let x := nowDiff s.syncAt (0x5001 + 0 + s.linkDelay.get 0 0); -2 ^ 31 ≤ x ∧ x < 2 ^ 31) ∧ s.lock = true) ∧
    (let s := { base with ptcfg := 1, goodSyncs := 15 };
      s.fromUp 0 = true ∧ nowDiff s.syncAt (0 + 0 + s.linkDelay.get 0 0) = 0 ∧ s.lock = false ∧ s.goodSyncs = 15 ∧ ({ s with leaves := [] }).launchRuns = false) ∧
    (let s := { base with ptcfg := 0xFD03 };
      s.ptEn = true ∧ s.ptGm = true ∧ s.link 0 = .up ∧ s.syncEvery = some (nowPerSecond / 8) ∧ s.syncNext.toNat ≤ s.now.toNat) := by decide +kernel

/-- A key slot that gang 1 holds. -/
def aSlot (r : Bool) : KeySlot := { gang := 1, enrolled := true, key := 5, revoke := r, next := some 6 }

/-- SessionAndKeys. -/
theorem test_wit_session : (∀ p ∈ ([.version, .capabilities, .algorithms, .digests, .certificate, .measured, .keyed, .session] : List SpdmPhase), ({ base with spdm := p }).spdm = p) ∧
    (let s := { base with spdm := .session };
      s.mpDown = false ∧ (∀ k ∈ s.rkslots, k.2.enrolled = true → k.2.gang.toNat ≠ 1) ∧ (s.slotOf 63).enrolled = false) ∧
    (let s := { base with spdm := .session, rkslots := [(63, aSlot false)] };
      s.mpDown = false ∧ List.find? (fun (x : Nat × KeySlot) => x.2.enrolled && x.2.gang.toNat == 1) s.rkslots = some (63, aSlot false)) ∧
    (∀ r : Bool, let s := { base with rkslots := [(63, aSlot r)] };
      (s.slotOf 63).enrolled = true ∧ s.combining (s.slotOf 63).gang.toNat = false ∧ (s.slotOf 63).revoke = r ∧ (s.slotOf 63).next = some 6) := by
  refine ⟨fun p _ => rfl, by decide +kernel, by decide +kernel, fun r => ?_⟩
  cases r <;> decide +kernel

theorem test_wit_shares : (let s := base;
      ((List.range 256).map fun j => if j = 255 then ((63 : W64).setWidth 6).toNat else (s.resv j).toNat).sum ≤ 8192 ∧
      ((List.range 256).map fun j => if j = 255 then ((2048 : W64).setWidth 12).toNat else (s.plcshare.get j 0).toNat).sum ≤ 2048 ∧
      2048 < ((List.range 256).map fun j => if j = 255 then ((2049 : W64).setWidth 12).toNat else (s.plcshare.get j 0).toNat).sum) ∧
    (let s := { base with kbshare := (List.range 256).map fun k => (k, 63) };
      8192 < ((List.range 256).map fun j => if j = 255 then ((1 : W64).setWidth 6).toNat else (s.resv j).toNat).sum) := by decide +kernel

/-- A pool region in a state. -/
def aRegion (st : BitVec 2) : PoolRegion := { PoolRegion.reset with base := 0x800000000000, en := true, size := 1, state := st }

/-- PoolAndHostAccesses: the pool. -/
theorem test_wit_pool : (base.poolReg 0).en = false ∧ (3 * 2 ^ 16 + 1 : W64).getLsbD 0 = true ∧
    (let s := { base with poolRegions := [(0, { PoolRegion.reset with base := 0x800000000000 })] }; s.regionFits 0 { s.poolReg 0 with size := 3 } = true) ∧
    base.regionFits 0 (base.poolReg 0) = false ∧ (aRegion 1).state = 1 ∧ (aRegion 2).state = 2 ∧ (aRegion 2).late 0 = false ∧ (aRegion 2).late 0xFFFFFFFFFF = true ∧
    base.bisnpWaits 0x20000000000 = false ∧ base.slotsOf 0x20000000000 = [] ∧ base.pool.readNat 0x800000000000 64 ≠ (5 : BitVec 512).toNat ∧
    (let s := { base.onMe fun t => { t with stores := [{ aStore with stage := .owning 0x20000000000 }] } with poolRegions := [(0, aRegion 1)], plcshare := [(0, 1)] };
      s.wantsOwner 0x20000000000 = some (0, false) ∧ s.poolGate (s.keyVf 0).1 (64 * 0x20000000000) = .ok ∧ s.poolLines = []) := by decide +kernel

/-- PoolAndHostAccesses: the host's registers and windows. -/
theorem test_wit_registers : bufCounter 0x8008 = some 1 ∧ bufCounter 0x8004 = none ∧ base.minimal = false ∧ 8 ≤ windowSize ∧ (base.vf 0).tlbBusy = false ∧
    (invSize ((0 : W64).extractLsb' 0 3).toNat).isSome = true ∧
    (let s := base.onVf 0 fun v => { v with tlbBusy := true };
      (s.vf 0).tlbBusy = true ∧ s.invQuiet 0 0 = true ∧ s.invQuiet 0 1 = true) ∧
    (let s := (base.onVf 1 fun v => { v with tlbBusy := true });
      s.invQuiet 1 0 = true ∧ s.invQuiet 1 1 = true ∧ s.holds 1 0 = false ∧ s.holds 1 1 = false) ∧
    pfReg 4 = none ∧ pfReg 0x5008 = some (.vfallot 1) ∧ pfReg 0x10004 = some (.cell 0 1) := by decide +kernel

theorem test_wit_weight : vfReg 0x0818 = some (.pweight 3) := by decide +kernel

/-- PowerAndBoot. -/
theorem test_wit_power : (∀ n ∈ ([0, 2] : List (BitVec 2)), let s := { base with starting := true, agenda := [.bringUp 2], startAt := 0, starts := n, now := 2048000000000 };
      s.readyLate = true ∧ s.starts = n) ∧
    base.minimal = false ∧ ({ base with starting := false }).starting = false ∧ ({ base with mpNext := 0 }).beatDue = true ∧
    (let s := base.onLeaf 0 fun l => { l with pwrPend := some 1, member := none };
      (s.leaf 0).pwrPend = some 1 ∧ (s.leaf 0).member = none ∧ s.pwrState 0 ≠ 2 ∧ (1 : W64).extractLsb' 0 2 ≠ 2) ∧
    ({ base with minimal := true, flashen := true }).minimal = true ∧ flashWindow ≤ flashWindow ∧ 0 < flashWindow := by decide +kernel

/-- DecodeEncode: a syllable, and a word. -/
theorem test_wit_encode : (Instr.add ⟨4, 4, 6⟩).isSyllable = true ∧ (Instr.add ⟨4, 4, 6⟩).wf = true ∧ ∃ y, decodeSyllable .scalar (0#6 ++ 0#1 ++ 0x001#9 ++ 4#6 ++ 4#6 ++ 6#6 ++ 0#14) = .ok y :=
  ⟨rfl, rfl, ⟨0, false, .add ⟨4, 4, 6⟩⟩, by decide +kernel⟩

/-- StepRunsDecoded: a step with one instruction to run, and one with an event that is due. -/
theorem test_wit_step : (let s := State.reset.withFetchWord 384 (encodeBundle (.addi ⟨7, 0, 5⟩)).toNat; let u := { s.arbited s.turn with turn := s.turn + 1 };
      s.powered = true ∧ s.overdue = none ∧ s.turn < 128 ∧ u.canIssue u.cur = true ∧ u.me.refetch = 0 ∧
      (∃ f, u.bundleAt u.cur u.me.pc u.me.inRun = .bundle f) ∧
      decodeSyllable Slot.s0.cls (rawSyllable (encodeBundle (.addi ⟨7, 0, 5⟩)) .s0) = .ok ⟨0, false, .addi ⟨7, 0, 5⟩⟩ ∧ u.me.rdP 0 ≠ false ∧
      ∀ x, x ≠ Slot.s0 → ∃ z, decodeSyllable x.cls (rawSyllable (encodeBundle (.addi ⟨7, 0, 5⟩)) x) = .ok z ∧ z.instr = .nop) ∧
    (base.onMe fun t => { t with flights := [aFlight (.s 5 1)] }).overdue.isSome = true := by
  refine ⟨⟨by decide +kernel, by decide +kernel, by decide +kernel, by decide +kernel, by decide +kernel, bundle_of (by decide +kernel), by decide +kernel, by decide +kernel, ?_⟩,
    by decide +kernel⟩
  intro x hx
  cases x <;> first
    | exact absurd rfl hx
    | exact ⟨⟨0, false, .nop⟩, by decide +kernel, rfl⟩

/-- StepRunsDecoded: a strand whose bundle is a dictionary entry. -/
theorem test_wit_dictionary : let t := base.strand 0
    t.ibuf = [] ∧ t.view = [] ∧ base.memberOf 0 = some loadedMember ∧ t.super = false ∧ loadedMember.flag 2 = false ∧ t.inRun = false ∧ t.pc < loadedMember.codeLim ∧
    (base.core 0).istore.readNat (2 * t.pc) 2 < 1024 := by decide +kernel

/-- StepKeepsMemoryForm. -/
theorem test_wit_memory_form : base.memWf = true ∧ ∃ t, step base = .next t := ⟨by decide +kernel, next_of (by decide +kernel)⟩

end Sys2Proof.Tests
end

section
/-! PROOFS. What a bundle whose results are in flight leaves unchanged (O16), and how far steps keep memories in canonical
form (O60). -/

namespace Sys2Proof

/-- A value that a map lists at a key stands in the map with that key. -/
theorem FMap.mem_of_find {β : Type} {m : FMap β} {k : Nat} {v : β} (h : m.find? k = some v) : (k, v) ∈ m := by
  induction m with
  | nil => simp [FMap.find?] at h
  | cons c t ih =>
    obtain ⟨a, b⟩ := c
    by_cases hk : a = k
    · have hb : b = v := by simpa [FMap.find?, hk] using h
      simp [hk, hb]
    · have ht : FMap.find? t k = some v := by simpa [FMap.find?, hk] using h
      exact List.mem_cons_of_mem _ (ih ht)

namespace Machine

/-! A bundle whose results are in flight (R191): the strand has moved on with its registers as they were, and of the rest only
statistics records and meters differ. -/

/-- The strand cur keeps every register until the results land. -/
theorem State.Flew.keepsRegisters {s u : State} {n : Nat} {lands : List Landing} (h : s.Flew u n lands) :
    (∀ r v k p, u.me.rdS r = s.me.rdS r ∧ u.me.rdV v = s.me.rdV v ∧ u.me.rdK k = s.me.rdK k ∧ u.me.rdP p = s.me.rdP p) ∧
    ∀ i, u.me.rdPs i = s.me.rdPs i ∧ u.me.rdTk i = s.me.rdTk i ∧ u.me.rdCb i = s.me.rdCb i := by
  rw [h.me]
  exact ⟨fun _ _ _ _ => ⟨rfl, rfl, rfl, rfl⟩, fun _ => ⟨rfl, rfl, rfl⟩⟩

/-- HBM, host memory, the pool and the flash are as they were. -/
theorem State.Flew.sameGlobal {s u : State} {n : Nat} {lands : List Landing} (h : s.Flew u n lands) : s.SameGlobal u := by
  rw [h.rest]
  exact fun _ => ⟨rfl, rfl, rfl, rfl⟩

/-- The byte stores of every core are as they were. -/
theorem State.Flew.sameCoreBytes {s u : State} {n : Nat} {lands : List Landing} (h : s.Flew u n lands) (c : Nat) :
    (s.core c).SameBytes (u.core c) := by
  rw [h.cores c]
  exact fun _ => ⟨rfl, rfl, rfl, rfl, rfl, rfl, rfl, rfl⟩

/-- Every other strand is as it was. -/
theorem State.Flew.sameOthers {s u : State} {n : Nat} {lands : List Landing} (h : s.Flew u n lands) : s.SameOthers u := by
  intro w hw
  rw [h.rest]
  exact State.strand_setStrand_other s u.me hw

/-- The accumulators, knots, regions and barriers of every core are as they were. -/
theorem State.Flew.keepsCore {s u : State} {n : Nat} {lands : List Landing} (h : s.Flew u n lands) (c : Nat) :
    (u.core c).acc0 = (s.core c).acc0 ∧ (u.core c).acc1 = (s.core c).acc1 ∧ (u.core c).knots = (s.core c).knots ∧
    (u.core c).regions = (s.core c).regions ∧ (u.core c).barriers = (s.core c).barriers := by
  rw [h.cores c]
  exact ⟨rfl, rfl, rfl, rfl, rfl⟩

/-- Settles O16: the strand cur has put results in flight and moved on (State.Flew), which touches no register, and nothing but
statistics records and meters differs elsewhere. -/
theorem vectorFrame : Obligations.VectorFrame := by
  intro s u n lands h
  obtain ⟨hregs, hothers⟩ := h.keepsRegisters
  have hmode : u.me.trap = s.me.trap ∧ u.me.loop0 = s.me.loop0 ∧ u.me.loop1 = s.me.loop1 ∧ u.me.rmode = s.me.rmode ∧
      u.me.ftz = s.me.ftz ∧ u.me.pc = s.here.addr + s.here.len := by
    rw [h.me]
    exact ⟨rfl, rfl, rfl, rfl, rfl, rfl⟩
  obtain ⟨htrap, hloop0, hloop1, hrmode, hftz, hpc⟩ := hmode
  exact ⟨hregs, hothers, htrap, hloop0, hloop1, hrmode, hftz, hpc, ⟨h.sameGlobal, h.sameCoreBytes⟩, h.sameOthers, h.keepsCore⟩

/-! A context that arrives (R63; log 45). The event that brings a member's context carries it as its operand, and the context
is then saved as it came, so the form of the package's saved contexts is that of contexts which events carry. State.memWf
asks nothing of those: not of the agenda, the timers or the inbox, by which a message of another package brings one. -/

/-- Every byte memory of a saved context is in canonical form. -/
def Saved.memWf (c : Saved) : Bool := c.cores.all fun p => p.2.memWf

/-- The contexts of a package whose memories are in canonical form are so too. -/
theorem State.memWf_context {s : State} (h : s.memWf = true) {k : Nat} {c : Saved} (hc : s.contexts.find? k = some c) : c.memWf = true := by
  simp only [State.memWf, Bool.and_eq_true] at h
  exact List.all_eq_true.mp h.2 (k, c) (FMap.mem_of_find hc)

/-- A context that has come stands among the saved ones as it came. -/
theorem State.find_contextHere (s : State) (leaf : Nat) (c : Saved) :
    (s.contextHere leaf c).contexts.find? (contextKey c.member.gang c.member.member) = some c :=
  FMap.find_set_same _ _ _

/-- After a context has come, memories can be in canonical form only if those of the context are. -/
theorem State.memWf_of_contextHere {s : State} {leaf : Nat} {c : Saved} (h : (s.contextHere leaf c).memWf = true) : c.memWf = true :=
  State.memWf_context h (s.find_contextHere leaf c)

/-- The context of a member whose core 0 lists the byte 0 at address 0 of local store, where a canonical memory lists nothing. -/
def contextOffForm : Saved :=
  { member := loadedMember, leaf := 0, strands := [], cores := [(0, { Core.reset with local_ := [(0, 0)] })], queues := [],
    remotes := [], answers := [], faulted := false, captured := false, savedAt := 0, cmdSeq := 0, owed := 0 }

/-- Its memories are not in canonical form. -/
theorem contextOffForm_memWf : contextOffForm.memWf = false := by decide

/-- The package after reset, at which one event is due at the clock of leaf 0. -/
def resetDue (e : Ev) : State := { State.reset with timers := [(0, 0, e)] }

/-- Its memories, all empty, are in canonical form. -/
theorem resetDue_memWf (e : Ev) : (resetDue e).memWf = true := rfl

/-- No push and no result is on its way after reset, so the timer is the first thing that is overdue. -/
theorem resetDue_overdue (e : Ev) : (resetDue e).overdue = some (e, State.reset) := by
  have htimer : (resetDue e).dueTimer = some (0, 0, e) := rfl
  have herase : ({ resetDue e with timers := (resetDue e).timers.erase (0, 0, e) } : State) = State.reset := by
    simp [resetDue, State.reset]
  have hearlier : ((resetDue e).duePush.orElse fun _ => (resetDue e).dueFlight) = none := rfl
  simp only [State.overdue, hearlier, htimer, herase]

/-- The step of a powered package at which an event is overdue is that event. -/
theorem step_overdue {s u : State} {e : Ev} (hon : s.powered = true) (hdue : s.overdue = some (e, u)) : step s = runEv e u := by
  simp [step, hon, hdue]

/-- The arrival of a context is a step of that package. -/
theorem step_resetDue_contextHere (leaf : Nat) (c : Saved) :
    step (resetDue (.contextHere leaf c)) = .next (State.reset.contextHere leaf c) :=
  step_overdue rfl (resetDue_overdue _)

/-- Refutes O60: a context that an event carries is saved as it came (R63; log 45), and State.memWf says nothing of contexts that
events carry. From a package after reset at which a context with a listed 0 byte is due, one step saves it. -/
theorem not_stepKeepsMemoryForm : ¬ Obligations.StepKeepsMemoryForm := by
  intro h
  have hform : contextOffForm.memWf = true := State.memWf_of_contextHere (h _ _ (resetDue_memWf _) (step_resetDue_contextHere 0 contextOffForm))
  exact absurd hform (Bool.eq_false_iff.mp contextOffForm_memWf)

end Machine

end Sys2Proof
end

section
/-! PROOFS. What registers and memories hold after reset (O59). -/

namespace Sys2Proof

namespace Machine

@[simp] theorem State.leaf_reset (l : Nat) : State.reset.leaf l = Leaf.reset := rfl
@[simp] theorem State.queue_reset (v q : Nat) : State.reset.queue v q = Queue.reset := rfl
@[simp] theorem State.route_reset (d : Nat) : State.reset.route d = routeReset := rfl
@[simp] theorem State.poolReg_reset (n : Nat) : State.reset.poolReg n = PoolRegion.reset := rfl
@[simp] theorem State.orphans_reset (n : Nat) : State.reset.orphans n = [] := rfl
@[simp] theorem State.slotOf_reset (n : Nat) : State.reset.slotOf n = KeySlot.reset := rfl
@[simp] theorem State.gangRec_reset (g : Nat) : State.reset.gangRec g = 0 := rfl

/-- A route word at reset: not VALID, VIA 0x3FF (R357). -/
theorem routeReset_word {i : Nat} (h : i < 9) : routeReset.extractLsb' (32 * i) 32 = 0x3FF0000#32 := by
  interval_cases i <;> decide +kernel

/-- ACTIVE of a route entry at reset, with the reserved bits of its word (R357). -/
theorem routeReset_active : routeReset.extractLsb' (32 * 9) 32 = 0#32 := by
  decide +kernel

theorem State.readPf_route_reset {d i : Nat} (h : i < 9) : State.reset.readPf (.route d i) = 0x3FF0000 := by
  simp only [State.readPf, State.route_reset, routeReset_word h]
  rfl

theorem State.readPf_active_reset (d : Nat) : State.reset.readPf (.route d 9) = 0 := by
  simp only [State.readPf, State.route_reset, routeReset_active]
  rfl

theorem State.readPf_rkslot_reset (n : Nat) : State.reset.readPf (.rkslot n) = 0 := by
  simp only [State.readPf, State.slotOf_reset]
  decide

theorem State.readPf_gang_reset (g h : Nat) : State.reset.readPf (.gang g h) = 0 := by
  simp only [State.readPf, State.gangRec_reset]
  simp

theorem State.readPf_cell_reset (l n : Nat) : State.reset.readPf (.cell l n) = 0 := by
  simp only [State.readPf, State.leaf_reset, Leaf.reset, FMap.get_nil]
  decide

/-- BASE, CFG, PRSTAT and DUMP of a pool region all read 0 at reset (R269). -/
theorem State.readPf_pool_reset (n i : Nat) : State.reset.readPf (.pool n i) = 0 := by
  match i with
  | 0 | _ + 3 => rfl
  | 1 => simp only [State.readPf, State.poolReg_reset]; decide
  | 2 => simp only [State.readPf, State.prstat, State.poolReg_reset, State.orphans_reset]; decide

/-- QTAIL, QHEAD and QSTAT of a queue read 0 at reset, and its EN is 0 (R34, R35). -/
theorem State.readVf_queue_reset (v q : Nat) : State.reset.readVf v (.queue q 2) = 0 ∧ State.reset.readVf v (.queue q 3) = 0 ∧
    State.reset.readVf v (.queue q 4) = 0 ∧ (State.reset.readVf v (.queue q 1)).getLsbD 0 = false := by
  simp only [State.readVf, State.queue_reset]
  decide

/-- Settles O59, register by register: a map that lists nothing answers its default. -/
theorem resetState : Obligations.ResetState := by
  have hptstat : State.reset.readPf .ptstat = 0 := by decide
  exact ⟨rfl, rfl, rfl, rfl, rfl, fun _ => rfl, fun _ => rfl,
    fun _ _ => State.readPf_route_reset, State.readPf_active_reset, fun _ => rfl, fun _ => rfl,
    State.readPf_rkslot_reset, State.readPf_gang_reset, State.readPf_cell_reset, State.readPf_pool_reset,
    fun _ => rfl, rfl, hptstat, rfl,
    fun _ => rfl, fun _ => rfl, fun _ _ => rfl, fun _ _ => rfl, State.readVf_queue_reset⟩

end Machine

end Sys2Proof
end

section
/-! PROOFS. Queues and their packets: doorbells, SKIP and RESET, the consumption of head packets (O43), and how packets start, work and
complete (O44). -/

namespace Sys2Proof

namespace Machine

/-! What the command processors change (R33 to R46): their packets and queues, messages, and events to come. -/

/-- Only leaves, functions, the agenda and what has been sent differ: no strand, core or memory. -/
def State.Booked (s u : State) : Prop := u = { s with leaves := u.leaves, vfs := u.vfs, agenda := u.agenda, out := u.out }

theorem State.Booked.trans {s t u : State} (h : s.Booked t) (k : t.Booked u) : s.Booked u := by
  unfold State.Booked at h k ⊢
  rw [h] at k
  exact k

theorem State.Booked.sameBytes {s u : State} (h : s.Booked u) : s.SameBytes u := by
  rw [h]
  exact ⟨fun _ => ⟨rfl, rfl, rfl, rfl⟩, fun _ _ => ⟨rfl, rfl, rfl, rfl, rfl, rfl, rfl, rfl⟩⟩

theorem State.Booked.host_eq {s u : State} (h : s.Booked u) : u.host = s.host := by rw [h]

/-- Events have been added to the agenda and messages sent, and nothing else has changed. -/
def State.Sent (s u : State) : Prop := ∃ a o, u = { s with agenda := s.agenda ++ a, out := s.out ++ o }

theorem State.Sent.refl (s : State) : s.Sent s := ⟨[], [], by simp⟩

theorem State.Sent.trans {s t u : State} (h : s.Sent t) (k : t.Sent u) : s.Sent u := by
  obtain ⟨a, o, rfl⟩ := h
  obtain ⟨b, p, rfl⟩ := k
  exact ⟨a ++ b, o ++ p, by simp⟩

/-- Steps that only send, taken in turn, only send. -/
theorem State.Sent.foldl {α : Type} {f : State → α → State} (hf : ∀ (s : State) x, s.Sent (f s x)) (l : List α) (s : State) : s.Sent (l.foldl f s) := by
  induction l generalizing s with
  | nil => exact .refl s
  | cons x t ih => exact (hf s x).trans (ih (f s x))

section
variable {s u : State} (h : s.Sent u)
include h

theorem State.Sent.booked : s.Booked u := by
  obtain ⟨a, o, rfl⟩ := h
  rfl

theorem State.Sent.mem_agenda {e : Ev} (he : e ∈ s.agenda) : e ∈ u.agenda := by
  obtain ⟨a, o, rfl⟩ := h
  exact List.mem_append_left a he

theorem State.Sent.leaf_eq (l : Nat) : u.leaf l = s.leaf l := by
  obtain ⟨a, o, rfl⟩ := h
  rfl

theorem State.Sent.pkt_eq (leaf pid : Nat) : u.pkt leaf pid = s.pkt leaf pid := by
  simp only [State.pkt, h.leaf_eq]

theorem State.Sent.queue_eq (vf q : Nat) : u.queue vf q = s.queue vf q := by
  obtain ⟨a, o, rfl⟩ := h
  rfl

end

theorem State.sent_post (s : State) (e : Ev) : s.Sent (s.post e) := ⟨[e], [], by simp [State.post]⟩

theorem State.sent_emit (s : State) (x : Out) : s.Sent (s.emit x) := ⟨[], [x], by simp [State.emit]⟩

theorem State.sent_postOnce (s : State) (e : Ev) : s.Sent (s.postOnce e) := by
  unfold State.postOnce
  split
  · exact .refl s
  · exact s.sent_post e

theorem State.mem_agenda_post (s : State) (e : Ev) : e ∈ (s.post e).agenda := List.mem_append_right _ (List.mem_singleton_self e)

theorem State.mem_agenda_postOnce (s : State) (e : Ev) : e ∈ (s.postOnce e).agenda := by
  unfold State.postOnce
  split
  · next h => simpa using h
  · exact s.mem_agenda_post e

theorem State.sent_tell (s : State) (place : Nat) (m : Nat → Ev) : s.Sent (s.tell place m) := by
  unfold State.tell
  split
  · exact s.sent_post _
  · exact s.sent_emit _

/-- An event that one of the steps taken in turn puts on the agenda is there at the end. -/
theorem State.Sent.mem_foldl {α : Type} {f : State → α → State} (hf : ∀ (s : State) x, s.Sent (f s x)) {l : List α} {s : State} {x : α} {e : Ev}
    (hx : x ∈ l) (he : ∀ t, s.Sent t → e ∈ (f t x).agenda) : e ∈ (l.foldl f s).agenda := by
  induction l generalizing s with
  | nil => cases hx
  | cons y t ih =>
    rcases List.mem_cons.mp hx with rfl | hx
    · exact (State.Sent.foldl hf t _).mem_agenda (he s (.refl s))
    · exact ih hx fun u hu => he u ((hf s y).trans hu)

/-- Waking what is parked on lines posts events alone (R401). -/
theorem State.sent_wakeLines (s : State) (keys : List Nat) : s.Sent (s.wakeLines keys) := by
  refine State.Sent.foldl (fun s k => State.Sent.foldl (fun s l => ?_) _ s) keys s
  split
  · exact s.sent_post _
  · exact .refl s

/-- A command processor that serves a function is offered the head packet of its queue (R33). -/
def State.offerTo (vf q : Nat) (s : State) (l : Nat) : State :=
  if s.servedBy l vf then s.postOnce (consumeEv l vf q (bytesAt (s.headSlot vf q) 0 1)) else s

theorem State.offer_eq (s : State) (vf q : Nat) : s.offer vf q = if s.pending vf q then [0, 1].foldl (State.offerTo vf q) s else s := rfl

theorem State.sent_offerTo (vf q : Nat) (s : State) (l : Nat) : s.Sent (s.offerTo vf q l) := by
  unfold State.offerTo
  split
  · exact s.sent_postOnce _
  · exact .refl s

/-- Offering a queue's head to the command processors posts events alone (R33). -/
theorem State.sent_offer (s : State) (vf q : Nat) : s.Sent (s.offer vf q) := by
  rw [State.offer_eq]
  split
  · exact .foldl (State.sent_offerTo vf q) _ s
  · exact .refl s

/-- A pending head is on the agenda of each command processor that serves the queue once it has been offered (R33). -/
theorem State.mem_agenda_offer {s : State} {vf q l : Nat} (hl : l < 2) (hp : s.pending vf q = true) (hs : s.servedBy l vf = true) :
    consumeEv l vf q (bytesAt (s.headSlot vf q) 0 1) ∈ (s.offer vf q).agenda := by
  have hmem : l ∈ [0, 1] := by
    simp only [List.mem_cons, List.not_mem_nil, or_false]
    omega
  rw [State.offer_eq, if_pos hp]
  refine State.Sent.mem_foldl (State.sent_offerTo vf q) hmem fun t ht => ?_
  obtain ⟨a, o, rfl⟩ := ht
  have hs' : State.servedBy { s with agenda := s.agenda ++ a, out := s.out ++ o } l vf = true := hs
  rw [State.offerTo, if_pos hs']
  exact State.mem_agenda_postOnce _ _

/-! Queues (R33, R35). -/

@[simp] theorem State.queue_onLeaf (s : State) (l : Nat) (f : Leaf → Leaf) (vf q : Nat) : (s.onLeaf l f).queue vf q = s.queue vf q := rfl
@[simp] theorem State.queue_post (s : State) (e : Ev) (vf q : Nat) : (s.post e).queue vf q = s.queue vf q := rfl

@[simp] theorem State.queue_onQueue (s : State) (vf q : Nat) (f : Queue → Queue) : (s.onQueue vf q f).queue vf q = f (s.queue vf q) := by
  simp [State.queue, State.onQueue, State.onVf]

theorem State.queue_haltQueue (s : State) (vf q : Nat) (cause : BitVec 8) (index : Nat) :
    (s.haltQueue vf q cause index).queue vf q = { s.queue vf q with halt := true, cause := cause, index := BitVec.ofNat 32 index } :=
  s.queue_onQueue vf q fun x => { x with halt := true, cause := cause, index := BitVec.ofNat 32 index }

/-- A change of a queue that keeps QHEAD keeps it for every queue. -/
theorem State.head_onQueue (s : State) (vf q : Nat) {f : Queue → Queue} (hf : ∀ x, (f x).head = x.head) (v r : Nat) :
    ((s.onQueue vf q f).queue v r).head = (s.queue v r).head := by
  by_cases hv : v = vf
  · by_cases hr : r = q
    · subst hv hr
      rw [State.queue_onQueue, hf]
    · simp [State.queue, State.onQueue, State.onVf, hv, FMap.get_set_other _ _ _ hr]
  · simp [State.queue, State.onQueue, State.onVf, State.vf_setVf_other _ _ hv]

theorem State.head_haltQueue (s : State) (vf q : Nat) (cause : BitVec 8) (index v r : Nat) :
    ((s.haltQueue vf q cause index).queue v r).head = (s.queue v r).head :=
  s.head_onQueue vf q (f := fun x => { x with halt := true, cause := cause, index := BitVec.ofNat 32 index }) (fun _ => rfl) v r

/-- Failed packets that leave their queue change no queue and only packets (R35, R41). -/
theorem State.queue_skipFailed (s : State) (vf q v r : Nat) : (s.skipFailed vf q).queue v r = s.queue v r := rfl

/-! Packets by number (R37 to R41). -/

theorem State.pid_of_pkt {s : State} {leaf pid : Nat} {p : Pkt} (h : s.pkt leaf pid = some p) : p.pid = pid := by
  simpa using List.find?_some h

@[simp] theorem State.pkt_unpost (s : State) (e : Ev) (leaf pid : Nat) : (s.unpost e).pkt leaf pid = s.pkt leaf pid := rfl
@[simp] theorem State.queue_onPkt (s : State) (leaf pid : Nat) (f : Pkt → Pkt) (vf q : Nat) : (s.onPkt leaf pid f).queue vf q = s.queue vf q := rfl

@[simp] theorem State.pkt_forget (s : State) (leaf : Nat) (party : Party) (pid : Nat) : (s.forget leaf party).pkt leaf pid = s.pkt leaf pid := by
  simp [State.pkt, State.forget, State.onLeaf]

/-- A packet that is changed and keeps its number is found as changed. -/
theorem State.pkt_onPkt {s : State} {leaf pid : Nat} {p : Pkt} {f : Pkt → Pkt} (h : s.pkt leaf pid = some p) (hf : ∀ p, (f p).pid = p.pid) :
    (s.onPkt leaf pid f).pkt leaf pid = some (f p) := by
  have hpid := State.pid_of_pkt h
  have hkeeps : ((fun x : Pkt => x.pid == pid) ∘ fun x => if x.pid = pid then f x else x) = fun x => x.pid == pid := by
    funext x
    by_cases hx : x.pid = pid <;> simp [hx, hf]
  simp only [State.pkt, State.onPkt, State.onLeaf, State.leaf_setLeaf_same, List.find?_map, hkeeps]
  rw [← State.pkt, h, Option.map_some, if_pos hpid]

theorem State.booked_onPkt (s : State) (leaf pid : Nat) (f : Pkt → Pkt) : s.Booked (s.onPkt leaf pid f) := rfl

/-! An L1 action on a packet's ranges (R46): the packet notes whom it awaits, and messages are sent. -/

theorem State.rangesOf_eq_or_sent (s : State) (leaf : Nat) (p : Pkt) (ranges : List (Nat × Nat)) (drop : Bool) :
    s.rangesOf leaf p ranges drop = s ∨
    (s.onPkt leaf p.pid fun q => { q with owed := s.gangPlaces p.gang }).Sent (s.rangesOf leaf p ranges drop) := by
  unfold State.rangesOf
  split
  · exact .inl rfl
  · exact .inr (.foldl (fun t place => t.sent_tell place _) _ _)

theorem State.booked_rangesOf (s : State) (leaf : Nat) (p : Pkt) (ranges : List (Nat × Nat)) (drop : Bool) : s.Booked (s.rangesOf leaf p ranges drop) := by
  rcases s.rangesOf_eq_or_sent leaf p ranges drop with h | h
  · rw [h]; rfl
  · exact (s.booked_onPkt leaf p.pid _).trans h.booked

/-- The packet is as before but for the places it awaits. -/
theorem State.pkt_rangesOf {s : State} {leaf : Nat} {p w : Pkt} (h : s.pkt leaf p.pid = some w) (ranges : List (Nat × Nat)) (drop : Bool) :
    ∃ o, (s.rangesOf leaf p ranges drop).pkt leaf p.pid = some { w with owed := o } := by
  rcases s.rangesOf_eq_or_sent leaf p ranges drop with hr | hr
  · exact ⟨w.owed, by rw [hr, h]⟩
  · exact ⟨s.gangPlaces p.gang, (hr.pkt_eq leaf p.pid).trans (State.pkt_onPkt h fun _ => rfl)⟩

/-! The start of a packet (R37, R46). -/

/-- A packet marked as started now, its start event past. -/
def State.markStarted (s : State) (leaf : Nat) (p : Pkt) : State :=
  (s.unpost (.packetStart leaf p.pid)).onPkt leaf p.pid fun p => { p with stage := .started, at_ := s.now, progress := 0, owed := [] }

theorem State.startPkt_eq (s : State) (leaf : Nat) (p : Pkt) : s.startPkt leaf p = (s.markStarted leaf p).rangesOf leaf p p.ranges true := rfl

theorem State.booked_startPkt (s : State) (leaf : Nat) (p : Pkt) : s.Booked (s.startPkt leaf p) := by
  have hmark : s.Booked (s.markStarted leaf p) := rfl
  rw [State.startPkt_eq]
  exact hmark.trans (State.booked_rangesOf _ leaf p p.ranges true)

/-- The packet is started now; as to its data it is as before. -/
theorem State.pkt_startPkt {s : State} {leaf : Nat} {p w : Pkt} (h : s.pkt leaf p.pid = some w) :
    ∃ o, (s.startPkt leaf p).pkt leaf p.pid = some { w with stage := .started, at_ := s.now, progress := 0, owed := o } := by
  have hmark : (s.markStarted leaf p).pkt leaf p.pid = some { w with stage := .started, at_ := s.now, progress := 0, owed := [] } :=
    State.pkt_onPkt (s := s.unpost _) h fun _ => rfl
  rw [State.startPkt_eq]
  exact State.pkt_rangesOf hmark p.ranges true

/-! The end of a packet's work (R41, R46). -/

/-- A packet that has its work done and its signal to be written. -/
def State.worked (s : State) (leaf pid : Nat) : State := s.onPkt leaf pid fun p => { p with stage := .writing, owed := [] }

theorem State.finishPkt_of_pkt {s : State} {leaf pid : Nat} {p : Pkt} (h : s.pkt leaf pid = some p) :
    s.finishPkt leaf pid = ((s.worked leaf pid).rangesOf leaf p p.cleans false).postOnce (.completionSignalRetry leaf pid) := by
  simp only [State.finishPkt, h, State.worked]

theorem State.ends_finishPkt {s : State} {leaf pid : Nat} (h : (s.pkt leaf pid).isSome = true) : (s.finishPkt leaf pid).Ends leaf pid := by
  obtain ⟨p, hp⟩ := Option.isSome_iff_exists.mp h
  obtain rfl := State.pid_of_pkt hp
  obtain ⟨o, ho⟩ := State.pkt_rangesOf (s := s.worked leaf p.pid) (State.pkt_onPkt hp fun _ => rfl) p.cleans false
  rw [State.finishPkt_of_pkt hp]
  exact ⟨State.mem_agenda_postOnce _ _, _, ((State.sent_postOnce _ _).pkt_eq leaf p.pid).trans ho, rfl⟩

theorem State.booked_finishPkt (s : State) (leaf pid : Nat) : s.Booked (s.finishPkt leaf pid) := by
  cases h : s.pkt leaf pid with
  | none => simp only [State.finishPkt, h]; rfl
  | some p =>
    rw [State.finishPkt_of_pkt h]
    exact ((s.booked_onPkt leaf pid _).trans (State.booked_rangesOf _ leaf p p.cleans false)).trans (State.sent_postOnce _ _).booked

/-! A failed packet (R41). -/

theorem State.failPkt_of_pkt {s : State} {leaf pid : Nat} {p : Pkt} (h : s.pkt leaf pid = some p) (cause : BitVec 8) (started : Bool) :
    s.failPkt leaf pid cause started =
      (s.onPkt leaf pid fun p => { p with stage := if started then .failed cause else .refused cause }).haltQueue p.vf p.queue cause p.index := by
  simp only [State.failPkt, h]

theorem State.halts_failPkt {s : State} {leaf pid : Nat} {p : Pkt} (h : s.pkt leaf pid = some p) (cause : BitVec 8) (started : Bool) :
    (s.failPkt leaf pid cause started).Halts p cause := by
  rw [State.failPkt_of_pkt h, State.Halts, State.queue_haltQueue]
  exact ⟨rfl, rfl, rfl⟩

theorem State.booked_failPkt (s : State) (leaf pid : Nat) (cause : BitVec 8) (started : Bool) : s.Booked (s.failPkt leaf pid cause started) := by
  cases h : s.pkt leaf pid with
  | none => simp only [State.failPkt, h]; rfl
  | some p => rw [State.failPkt_of_pkt h]; rfl

theorem State.head_failPkt (s : State) (leaf pid : Nat) (cause : BitVec 8) (started : Bool) (vf q : Nat) :
    ((s.failPkt leaf pid cause started).queue vf q).head = (s.queue vf q).head := by
  cases h : s.pkt leaf pid with
  | none => simp only [State.failPkt, h]
  | some p => rw [State.failPkt_of_pkt h, State.head_haltQueue, State.queue_onPkt]

/-! Queue registers (R33, R35). -/

theorem exec_qtailDoorbell_beyond {s : State} {vf q : Nat} {tail : BitVec 32} (h : 2 ^ (s.queue vf q).logsz.toNat ≤ tail.toNat) :
    exec (.qtailDoorbell vf q tail) s = .next (s.onQueue vf q fun x => { x with dberr := true }) :=
  if_pos h

theorem exec_qtailDoorbell_within {s : State} {vf q : Nat} {tail : BitVec 32} (h : tail.toNat < 2 ^ (s.queue vf q).logsz.toNat) :
    exec (.qtailDoorbell vf q tail) s = .next ((s.onQueue vf q fun x => x.rung s.nextBell tail.toNat).offer vf q) :=
  if_neg (Nat.not_le.mpr h)

/-- Offering a queue's head changes neither queues nor what the command processors see of them. -/
theorem State.Sent.same_head {s u : State} (h : s.Sent u) (l vf q : Nat) :
    u.pending vf q = s.pending vf q ∧ u.servedBy l vf = s.servedBy l vf ∧ u.headSlot vf q = s.headSlot vf q := by
  obtain ⟨a, o, rfl⟩ := h
  exact ⟨rfl, rfl, rfl⟩

/-- After a queue has been offered its head stands offered. -/
theorem State.offered_offer (s : State) {vf q l : Nat} (hl : l < 2) (hp : (s.offer vf q).pending vf q = true)
    (hs : (s.offer vf q).servedBy l vf = true) :
    consumeEv l vf q (bytesAt ((s.offer vf q).headSlot vf q) 0 1) ∈ (s.offer vf q).agenda := by
  obtain ⟨epend, eserved, ehead⟩ := (s.sent_offer vf q).same_head l vf q
  rw [ehead]
  exact State.mem_agenda_offer hl (epend ▸ hp) (eserved ▸ hs)

/-- A doorbell within the ring sets QTAIL and offers the head (R33). -/
theorem doorbell_rings (s : State) (vf q : Nat) (tail : BitVec 32) (h : tail.toNat < 2 ^ (s.queue vf q).logsz.toNat) :
    ∃ u, exec (.qtailDoorbell vf q tail) s = .next u ∧ (u.queue vf q).tail = tail ∧ (u.queue vf q).head = (s.queue vf q).head ∧
    s.SameBytes u ∧ ∀ l < 2, u.pending vf q = true → u.servedBy l vf = true → consumeEv l vf q (bytesAt (u.headSlot vf q) 0 1) ∈ u.agenda := by
  let rung := s.onQueue vf q fun x => x.rung s.nextBell tail.toNat
  have hsent := rung.sent_offer vf q
  have hqueue : (rung.offer vf q).queue vf q = (s.queue vf q).rung s.nextBell tail.toNat := by
    rw [hsent.queue_eq, State.queue_onQueue]
  have hbooked : s.Booked rung := rfl
  refine ⟨_, exec_qtailDoorbell_within h, ?_, ?_, (hbooked.trans hsent.booked).sameBytes, fun l hl => rung.offered_offer hl⟩
  · rw [hqueue]
    simp [Queue.rung]
  · rw [hqueue]
    rfl

/-- SKIP of a halted queue clears HALT (R35). -/
theorem skip_resumes (s : State) (vf q : Nat) (h : (s.queue vf q).halt = true) :
    ∃ u, exec (.qstatSkip vf q) s = .next u ∧ u.queue vf q = { s.queue vf q with halt := false } ∧ s.SameBytes u := by
  let resumed := (s.onQueue vf q fun x => { x with halt := false }).skipFailed vf q
  have hexec : exec (.qstatSkip vf q) s = .next (resumed.offer vf q) := congrArg _ (if_pos h)
  have hbooked : s.Booked resumed := rfl
  refine ⟨_, hexec, ?_, (hbooked.trans (resumed.sent_offer vf q).booked).sameBytes⟩
  rw [(resumed.sent_offer vf q).queue_eq, State.queue_skipFailed, State.queue_onQueue]

/-- RESET of a queue that is not enabled empties it (R35). -/
theorem reset_empties (s : State) (vf q : Nat) (h : (s.queue vf q).en = false) :
    ∃ u, exec (.qstatReset vf q) s = .next u ∧ s.SameBytes u ∧
    u.queue vf q = { s.queue vf q with head := (s.queue vf q).tail, halt := false, cause := 0, dberr := false, bells := [] } := by
  let emptied := (s.onQueue vf q fun x => { x with head := x.tail, halt := false, cause := 0, dberr := false, bells := [] }).skipFailed vf q
  have hexec : exec (.qstatReset vf q) s = .next emptied := congrArg _ (if_neg (by simp [h]))
  have hbooked : s.Booked emptied := rfl
  refine ⟨_, hexec, hbooked.sameBytes, ?_⟩
  rw [State.queue_skipFailed, State.queue_onQueue]

/-! Consumption of a head packet (R33, R43, R50). -/

/-- The head of a queue is passed: its event is past, what was asked for it is of no use, and QHEAD advances (R33). -/
def State.passHead (t : State) (leaf head : Nat) (ev : Ev) (vf q : Nat) : State :=
  (((t.forgetHead leaf head).unpost ev).advanceHead vf q).prune leaf

theorem State.queue_passHead (t : State) (leaf head : Nat) (ev : Ev) (vf q : Nat) :
    (t.passHead leaf head ev vf q).queue vf q = (t.queue vf q).advanced :=
  State.queue_onQueue _ vf q Queue.advanced

theorem State.pkts_forgetHead (s : State) (leaf head : Nat) : ((s.forgetHead leaf head).leaf leaf).pkts = (s.leaf leaf).pkts := by
  simp [State.forgetHead, State.forget, State.onLeaf]

/-- Forgetting packets leaves some of those there were. -/
theorem State.mem_pkts_of_prune {s : State} {leaf : Nat} {w : Pkt} (h : w ∈ ((s.prune leaf).leaf leaf).pkts) : w ∈ (s.leaf leaf).pkts := by
  rw [State.prune, State.onLeaf, State.leaf_setLeaf_same] at h
  exact List.mem_of_mem_filter h

theorem State.mem_pkts_of_passHead {t : State} {leaf head vf q : Nat} {ev : Ev} {w : Pkt}
    (h : w ∈ ((t.passHead leaf head ev vf q).leaf leaf).pkts) : w ∈ (t.leaf leaf).pkts := by
  have hbefore := State.mem_pkts_of_prune (s := ((t.forgetHead leaf head).unpost ev).advanceHead vf q) h
  rwa [← t.pkts_forgetHead leaf head]

/-- What consuming the head packet of a queue leaves once its checks have decided. -/
def State.decided (s : State) (leaf vf q : Nat) (ev : Ev) (new : Pkt) : Consumed → State
  | .wait => s
  | .ask t => t.onLeaf leaf fun x => { x with deficits := (s.leaf leaf).deficits, rrVf := (s.leaf leaf).rrVf }
  | .fail t cause => t.failHead leaf ev new cause
  | .letIn t p =>
    ((((t.passHead leaf (s.headPid vf q) ev vf q).letIn leaf p).noteLaunch leaf p).post (.packetStart leaf p.pid)).offer vf q

/-- The head packet of the queue whose turn it is, consumed by the event of its type, is what its checks decide (R43). -/
theorem State.consume_of_turn {before : State} {leaf vf q : Nat} {l : Leaf} {ev : Ev} (k : State → Pkt → Consumed)
    (hnext : before.takeSlots.nextPacket leaf = some (vf, q, l)) (hpend : before.takeSlots.pending vf q = true)
    (hev : consumeEv leaf vf q (bytesAt (before.takeSlots.headSlot vf q) 0 1) = ev) :
    let new := (before.takeSlots.setLeaf leaf l).newPkt leaf vf q (before.takeSlots.headSlot vf q)
    before.consume leaf vf q ev k = before.takeSlots.decided leaf vf q ev new.1 (k new.2 new.1) := by
  intro new
  unfold State.consume
  simp only [hnext]
  rw [if_neg (by simp [hpend]), if_neg (not_not_intro hev), if_neg (by simp)]
  generalize k new.2 new.1 = c
  cases c <;> rfl

@[simp] theorem State.queue_letIn (s : State) (leaf : Nat) (p : Pkt) (vf q : Nat) : (s.letIn leaf p).queue vf q = s.queue vf q := rfl

@[simp] theorem State.queue_noteLaunch (s : State) (leaf : Nat) (p : Pkt) (vf q : Nat) : (s.noteLaunch leaf p).queue vf q = s.queue vf q := by
  unfold State.noteLaunch
  split <;> rfl

@[simp] theorem State.pkts_noteLaunch (s : State) (leaf : Nat) (p : Pkt) : ((s.noteLaunch leaf p).leaf leaf).pkts = (s.leaf leaf).pkts := by
  unfold State.noteLaunch
  split
  · simp [State.onLeaf]
  · rfl

/-- An admitted packet stands last among the packets of its command processor, with what it waits for added (R44). -/
theorem State.pkts_letIn (s : State) (leaf : Nat) (p : Pkt) :
    ((s.letIn leaf p).leaf leaf).pkts = (s.leaf leaf).pkts ++ [{ p with waits := (p.waits ++ (s.leaf leaf).waitsOf p).eraseDups }] := by
  simp [State.letIn]

/-- QHEAD after a consumption, by what its checks left of the queue (R33). -/
def State.HeadNext (t u : State) (vf q : Nat) : Prop :=
  (u.queue vf q).head = BitVec.ofNat 32 (((t.queue vf q).head.toNat + 1) % 2 ^ (t.queue vf q).logsz.toNat)

/-- A head packet that passes its checks is admitted and to start (R37, R44). -/
theorem State.decided_letIn (s t : State) (leaf vf q : Nat) (ev : Ev) (new d : Pkt) :
    let u := s.decided leaf vf q ev new (.letIn t d)
    t.HeadNext u vf q ∧ Ev.packetStart leaf d.pid ∈ u.agenda ∧ ∃ w ∈ (u.leaf leaf).pkts, w.pid = d.pid ∧ w.bytes = d.bytes ∧ w.stage = d.stage := by
  intro u
  let past := t.passHead leaf (s.headPid vf q) ev vf q
  let noted := (past.letIn leaf d).noteLaunch leaf d
  have hsent : (noted.post (.packetStart leaf d.pid)).Sent u := State.sent_offer _ vf q
  have hmem : { d with waits := (d.waits ++ (past.leaf leaf).waitsOf d).eraseDups } ∈ (u.leaf leaf).pkts := by
    rw [hsent.leaf_eq, State.leaf_post, State.pkts_noteLaunch, State.pkts_letIn]
    exact List.mem_append_right _ (List.mem_singleton_self _)
  refine ⟨?_, hsent.mem_agenda (State.mem_agenda_post _ _), _, hmem, rfl, rfl, rfl⟩
  rw [State.HeadNext, hsent.queue_eq, State.queue_post, State.queue_noteLaunch, State.queue_letIn, State.queue_passHead]
  rfl

/-- The state of a refused head packet before its queue halts. -/
def State.refusing (t : State) (leaf : Nat) (ev : Ev) (p : Pkt) : State :=
  ((t.passHead leaf (t.headPid p.vf p.queue) ev p.vf p.queue).onLeaf leaf fun l => { l with pkts := l.pkts ++ [p] }).noteLaunch leaf p

theorem State.failHead_eq (t : State) (leaf : Nat) (ev : Ev) (p : Pkt) (cause : BitVec 8) :
    t.failHead leaf ev p cause = (t.refusing leaf ev p).failPkt leaf p.pid cause false := rfl

theorem State.queue_refusing (t : State) (leaf : Nat) (ev : Ev) (p : Pkt) :
    (t.refusing leaf ev p).queue p.vf p.queue = (t.queue p.vf p.queue).advanced := by
  rw [State.refusing, State.queue_noteLaunch, State.queue_onLeaf, State.queue_passHead]

/-- Where no other packet has its number, the refused one is found by it. -/
theorem State.pkt_refusing {t : State} {leaf : Nat} {p : Pkt} (h : ∀ w ∈ (t.leaf leaf).pkts, w.pid ≠ p.pid) (ev : Ev) :
    (t.refusing leaf ev p).pkt leaf p.pid = some p := by
  let past := t.passHead leaf (t.headPid p.vf p.queue) ev p.vf p.queue
  have hnone : (past.leaf leaf).pkts.find? (fun w => w.pid == p.pid) = none := by
    rw [List.find?_eq_none]
    intro w hw
    simpa using h w (State.mem_pkts_of_passHead hw)
  simp [State.pkt, State.refusing, State.onLeaf, List.find?_append, past, hnone]

/-- A head packet that fails a check is passed, and its queue halts on it where no other packet has its number (R41, R50). -/
theorem State.failHead_halts (t : State) (leaf : Nat) (ev : Ev) (p : Pkt) (cause : BitVec 8) :
    let u := t.failHead leaf ev p cause
    t.HeadNext u p.vf p.queue ∧ ((∀ w ∈ (t.leaf leaf).pkts, w.pid ≠ p.pid) → u.Halts p cause) := by
  refine ⟨?_, fun h => ?_⟩
  · rw [State.HeadNext, State.failHead_eq, State.head_failPkt, State.queue_refusing]
    rfl
  · rw [State.failHead_eq]
    exact State.halts_failPkt (State.pkt_refusing h ev) cause false

/-- The packets by type, each with its event and its checks. -/
def consumptions (leaf vf q : Nat) : List (Instr × Ev × (State → Pkt → Consumed)) :=
  [(.launch leaf vf q, .launch leaf vf q, launchConsumed leaf vf), (.copy leaf vf q, .copy leaf vf q, copyConsumed leaf vf),
    (.waitsig leaf vf q, .waitsig leaf vf q, waitsigConsumed leaf vf),
    (.signalPacket leaf vf q, .signalPacket leaf vf q, plainConsumed leaf vf 4 (fun p => p.at 0x18 40 == 0) (fun _ => []) fun s p => .letIn s p),
    (.ckpt leaf vf q, .ckpt leaf vf q, ckptConsumed leaf vf),
    (.meter leaf vf q, .meter leaf vf q, plainConsumed leaf vf 6 (fun _ => true) (fun _ => []) fun s p => .letIn s p),
    (.resize leaf vf q, .resize leaf vf q, resizeConsumed leaf vf)]

/-- Each type's instruction consumes the head packet by its event and its checks (R50). -/
theorem exec_consumption {leaf vf q : Nat} {e : Instr × Ev × (State → Pkt → Consumed)} (he : e ∈ consumptions leaf vf q) (s : State) :
    exec e.1 s = .next (s.consume leaf vf q e.2.1 e.2.2) := by
  simp only [consumptions, List.mem_cons, List.not_mem_nil, or_false] at he
  rcases he with rfl | rfl | rfl | rfl | rfl | rfl | rfl <;> rfl

/-- Settles O43: a doorbell, SKIP and RESET by their effect on the queue; a head packet, of each type alike, by what its checks decide
(State.decided). That it stays at the head while another package is asked (R396), and which contents of a slot written of late are
taken, are the model's choices (log 15, log 72). -/
theorem queuesAndPackets : Obligations.QueuesAndPackets := by
  refine ⟨fun s vf q tail => ⟨exec_qtailDoorbell_beyond, doorbell_rings s vf q tail, skip_resumes s vf q, reset_empties s vf q⟩, ?_⟩
  intro before leaf vf q l s hnext hpend new next e he hev
  have hexec : exec e.1 before = .next (s.decided leaf vf q e.2.1 new.1 (e.2.2 new.2 new.1)) := by
    rw [exec_consumption he, State.consume_of_turn e.2.2 hnext hpend hev]
  refine ⟨fun t d hk => ?_, fun t cause hk => ?_, fun t hk => ?_, fun hk => ?_⟩ <;> rw [hk] at hexec
  · exact ⟨_, hexec, s.decided_letIn t leaf vf q e.2.1 new.1 d⟩
  · exact ⟨_, hexec, t.failHead_halts leaf e.2.1 new.1 cause⟩
  · exact ⟨_, hexec, rfl, rfl⟩
  · exact hexec

/-! The start of each type of packet (R37, R46). -/

/-- Events posted in turn. -/
def State.postAll (s : State) (l : List Ev) : State := l.foldl State.post s

theorem State.sent_postAll (s : State) (l : List Ev) : s.Sent (s.postAll l) := .foldl State.sent_post l s

theorem State.mem_agenda_postAll (s : State) {l : List Ev} {e : Ev} (h : e ∈ l) : e ∈ (s.postAll l).agenda :=
  State.Sent.mem_foldl State.sent_post h fun t _ => t.mem_agenda_post e

theorem exec_packetStart (leaf pid : Nat) (s : State) : exec (.packetStart leaf pid) s = execPacketStart leaf pid s := rfl

/-- The types whose work is set going by events alone, with those events. -/
def startEvents (leaf pid : Nat) : List (Nat × List Ev) :=
  [(2, [.copyComplete leaf pid]), (3, [.waitsigPoll leaf pid, .waitto leaf pid]), (5, [.ckptStart leaf pid]), (7, [.resizeApply leaf pid])]

section
variable {s : State} {leaf pid : Nat} {p : Pkt} (hp : s.pkt leaf pid = some p) (hwaiting : p.stage = .waiting) (hmay : s.mayStart leaf p = true)
include hp hwaiting hmay

theorem exec_packetStart_events {c : Nat × List Ev} (hc : c ∈ startEvents leaf pid) (ht : p.type = c.1) :
    exec (.packetStart leaf pid) s = .next ((s.startPkt leaf p).postAll c.2) := by
  simp only [startEvents, List.mem_cons, List.not_mem_nil, or_false] at hc
  rcases hc with rfl | rfl | rfl | rfl <;> simp [exec_packetStart, execPacketStart, hp, hwaiting, hmay, ht, State.postAll]

theorem exec_packetStart_signal (ht : p.type = 4) : exec (.packetStart leaf pid) s = .next ((s.startPkt leaf p).finishPkt leaf pid) := by
  simp [exec_packetStart, execPacketStart, hp, hwaiting, hmay, ht]

theorem exec_packetStart_meter (ht : p.type = 6) (hup : s.mpDown = false) {u : State} {x : Nat} (hr : s.meterReport leaf p = .done u x) :
    exec (.packetStart leaf pid) s = .next ((u.startPkt leaf p).finishPkt leaf pid) := by
  simp [exec_packetStart, execPacketStart, hp, hwaiting, hmay, ht, hup, hr]

theorem exec_packetStart_launch (ht : p.type = 1) : exec (.packetStart leaf pid) s = .next (s.startLaunchPkt leaf p) := by
  simp [exec_packetStart, execPacketStart, hp, hwaiting, hmay, ht]

end

/-- A LAUNCH without predecessor starts while its gang runs no launch (R60). -/
theorem State.startLaunchPkt_first {s : State} {leaf : Nat} {p : Pkt} {x : LaunchData} {m : Member} (hx : p.launch = some x) (hpred : x.pred = none)
    (hm : (s.leaf leaf).member = some m) (hrun : (s.leaf leaf).phase = .run) (hgang : m.gang = p.gang) (hidle : m.running = none) :
    s.startLaunchPkt leaf p = (s.startPkt leaf p).post (.launchGo leaf p.pid) := by
  simp [State.startLaunchPkt, hx, hm, hrun, hgang, hidle, hpred, State.predBad]

/-- A packet stands started as of now (R37). -/
theorem State.started_startPkt {s : State} {leaf pid : Nat} {p : Pkt} (hp : s.pkt leaf pid = some p) :
    ∃ w, (s.startPkt leaf p).pkt leaf pid = some w ∧ w.stage = .started ∧ w.at_ = s.now := by
  obtain rfl := State.pid_of_pkt hp
  obtain ⟨o, ho⟩ := State.pkt_startPkt hp
  exact ⟨_, ho, rfl, rfl⟩

/-- A packet that starts and whose work is done at once ends with its signal to be written. -/
theorem State.ends_start_finish {s : State} {leaf pid : Nat} {p w : Pkt} (hpid : p.pid = pid) (h : s.pkt leaf pid = some w) :
    ((s.startPkt leaf p).finishPkt leaf pid).Ends leaf pid := by
  subst hpid
  obtain ⟨o, ho⟩ := State.pkt_startPkt h
  exact State.ends_finishPkt (Option.isSome_iff_exists.mpr ⟨_, ho⟩)

theorem State.booked_start_finish (s : State) (leaf : Nat) (p : Pkt) (pid : Nat) : s.Booked ((s.startPkt leaf p).finishPkt leaf pid) :=
  (s.booked_startPkt leaf p).trans (State.booked_finishPkt _ leaf pid)

/-! Bytes of one line of host memory (R3), as the command processor reads and writes them. -/

/-- n bytes are a number of 8 n bits. -/
theorem Mem.readNat_lt (m : Mem) (a : Nat) {n k : Nat} (hk : 8 * n = k) : m.readNat a n < 2 ^ k := by
  subst hk
  induction n generalizing a with
  | zero => simp [Mem.readNat]
  | succ n ih =>
    have hbyte := (m.read a).isLt
    have hrest := ih (a + 1)
    have hpow : 2 ^ (8 * (n + 1)) = 256 * 2 ^ (8 * n) := by rw [Nat.mul_succ, Nat.pow_add, Nat.mul_comm]
    simp only [Mem.readNat]
    omega

theorem Mem.toNat_readNat (m : Mem) (a : Nat) {n k : Nat} (hk : 8 * n = k) : (BitVec.ofNat k (m.readNat a n)).toNat = m.readNat a n := by
  rw [BitVec.toNat_ofNat, Nat.mod_eq_of_lt (Mem.readNat_lt m a hk)]

/-- Bytes that do not cross a line's end lie in one line. -/
theorem linesOf_within {va n : Nat} (hpos : 0 < n) (hn : va % 64 + n ≤ 64) :
    (List.range ((va + n + 63) / 64 - va / 64)).map (va / 64 + ·) = [va / 64] := by
  have hone : (va + n + 63) / 64 - va / 64 = 1 := by omega
  simp [hone]

theorem State.cpLine_host (s : State) (leaf vf pid l a : Nat) :
    s.cpLine leaf vf pid l (.host a) = (s, some (BitVec.ofNat 512 (s.host.readNat a 64))) := rfl

theorem State.cpRead_within {s : State} {leaf vf pid va n a : Nat} (hpos : 0 < n) (hn : va % 64 + n ≤ 64)
    (hplace : s.cpPlace leaf vf needRd (64 * (va / 64)) = .inl (.host a)) :
    s.cpRead leaf vf pid va n = .done s (s.host.readNat a 64 / 2 ^ (8 * (va % 64)) % 2 ^ (8 * n)) := by
  have hline : (BitVec.ofNat 512 (s.host.readNat a 64)).toNat = s.host.readNat a 64 := Mem.toNat_readNat s.host a rfl
  simp only [State.cpRead, linesOf_within hpos hn, State.cpLines, hplace, State.cpLine_host, hline, Nat.mul_zero, Nat.pow_zero, Nat.mul_one,
    Nat.zero_add]

theorem State.cpWrite_within {s : State} {leaf vf pid va n a : Nat} (key : BitVec 8) (x : Nat) (hpos : 0 < n) (hn : va % 64 + n ≤ 64)
    (hmapped : s.cpMapped leaf vf needWr va n = none) (hthawed : s.frozenFor leaf vf (va / 64) = false)
    (hplace : s.cpPlace leaf vf needWr (64 * (va / 64)) = .inl (.host a)) :
    s.cpWrite leaf vf pid key va n x =
      .done (s.hostBits a 64 (x * 2 ^ (8 * (va % 64)) % 2 ^ 512) ((2 ^ (8 * n) - 1) * 2 ^ (8 * (va % 64)) % 2 ^ 512)) 0 := by
  have hfirst (y : Nat) : y / 2 ^ (512 * (va / 64 - va / 64)) = y := by rw [Nat.sub_self, Nat.mul_zero, Nat.pow_zero, Nat.div_one]
  simp only [State.cpWrite, hmapped, linesOf_within hpos hn, List.any_cons, List.any_nil, hthawed, Bool.or_self, Bool.false_eq_true, if_false,
    List.foldl_cons, List.foldl_nil, hplace, State.cpPutLine, hfirst]

/-- A write of host memory changes no packet. -/
theorem State.pkt_hostBits (s : State) (a n data mask leaf pid : Nat) : (s.hostBits a n data mask).pkt leaf pid = s.pkt leaf pid :=
  (State.sent_wakeLines { s with host := s.host.scatter (a + ·) data mask n } _).pkt_eq leaf pid

/-! The work of a started packet (R38, R39, R331). -/

theorem exec_waitsigPoll (leaf pid : Nat) (s : State) : exec (.waitsigPoll leaf pid) s = execWaitsigPoll leaf pid s := rfl
theorem exec_waitto (leaf pid : Nat) (s : State) : exec (.waitto leaf pid) s = execWaitto leaf pid s := rfl
theorem exec_copyComplete (leaf pid : Nat) (s : State) : exec (.copyComplete leaf pid) s = execCopyComplete leaf pid s := rfl
theorem exec_completionSignalRetry (leaf pid : Nat) (s : State) :
    exec (.completionSignalRetry leaf pid) s = execCompletionSignalRetry leaf pid s := rfl

theorem Pkt.begun_of_started {p : Pkt} (h : p.stage = .started) : p.begun = true := by simp [Pkt.begun, h]

section
variable {s : State} {leaf pid : Nat} {p : Pkt} (hp : s.pkt leaf pid = some p) (hstarted : p.stage = .started)
include hp hstarted

/-- A WAITSIG whose flag is read and meets its condition is done (R39). -/
theorem exec_waitsigPoll_met {u : State} {x : Nat} (hread : s.cpRead leaf p.vf pid (p.at 0x18 8) 8 = .done u x)
    (hmet : condMet (p.at 0x28 1) x (p.at 0x20 8) = true) :
    exec (.waitsigPoll leaf pid) s = .next (((u.forget leaf (.packet pid)).unpost (.waitsigPoll leaf pid)).finishPkt leaf pid) := by
  simp [exec_waitsigPoll, execWaitsigPoll, hp, Pkt.begun_of_started hstarted, hread, hmet]

/-- A WAITSIG fails once its TIMEOUT has elapsed since it started (R39; log 49). -/
theorem exec_waitto_elapsed (hset : p.at 0x30 8 ≠ 0) (hlate : p.at_.toNat + p.at 0x30 8 ≤ s.now.toNat) :
    exec (.waitto leaf pid) s = .next ((s.unpost (.waitto leaf pid)).failPkt leaf pid 0x11 true) := by
  simp [exec_waitto, execWaitto, hp, Pkt.begun_of_started hstarted, hset, Nat.not_lt.mpr hlate]

/-- A COPY that awaits no place moves its next unit, and its work is done with the last (R331). -/
theorem exec_copyComplete_moved (howed : p.owed = []) {u : State} {n : Nat} (hstep : s.copyStep leaf p = .done u n) :
    exec (.copyComplete leaf pid) s =
      .next (if ccTotal p.block ≤ n then (u.unpost (.copyComplete leaf pid)).finishPkt leaf pid else u) := by
  simp only [exec_copyComplete, execCopyComplete, hp, Pkt.begun_of_started hstarted, howed, List.isEmpty_nil, Bool.not_true, Bool.false_eq_true,
    if_false, hstep]
  split <;> rfl

end

section
variable {s : State} {leaf pid : Nat} {p : Pkt} (hp : s.pkt leaf pid = some p)
include hp

/-- A packet whose work is done and that awaits nothing writes its signal (R41). -/
theorem exec_completionSignalRetry_due (hwriting : p.stage = .writing) (howed : p.owed = [])
    (hremotes : ∀ r ∈ (s.leaf leaf).remotes, r.party ≠ .packet pid) :
    exec (.completionSignalRetry leaf pid) s = .next (s.writeSignal leaf p) := by
  have hany : ((s.leaf leaf).remotes.any fun r => r.party == .packet pid) = false := by simpa using hremotes
  simp [exec_completionSignalRetry, execCompletionSignalRetry, hp, hwriting, howed, hany]

/-- A packet without a signal is complete at once (R41). -/
theorem State.writeSignal_none (hsig : p.sigAddr = 0) :
    s.Booked (s.writeSignal leaf p) ∧ ∃ w, (s.writeSignal leaf p).pkt leaf pid = some w ∧ w.stage = .done := by
  obtain rfl := State.pid_of_pkt hp
  rw [State.writeSignal, if_pos hsig]
  exact ⟨rfl, _, State.pkt_onPkt (s := s.unpost _) hp fun _ => rfl, rfl⟩

/-- A packet whose signal can be written is complete with it (R41). -/
theorem State.writeSignal_done (hsig : p.sigAddr ≠ 0) {u : State} {x : Nat}
    (hwrite : s.cpWrite leaf p.vf p.pid (s.pktKey p) p.sigAddr 8 p.sigVal = .done u x) (hkept : u.pkt leaf pid = some p) :
    u.Booked (s.writeSignal leaf p) ∧ ∃ w, (s.writeSignal leaf p).pkt leaf pid = some w ∧ w.stage = .done := by
  obtain rfl := State.pid_of_pkt hp
  simp only [State.writeSignal, if_neg hsig, hwrite]
  exact ⟨rfl, _, State.pkt_onPkt (s := u.unpost _) hkept fun _ => rfl, rfl⟩

end

/-! What becomes of a waiting packet that may start (R37, R46). -/

section
variable {s : State} {leaf pid : Nat} {p : Pkt} (hp : s.pkt leaf pid = some p) (hwaiting : p.stage = .waiting) (hmay : s.mayStart leaf p = true)
include hp hwaiting hmay

/-- A COPY, a WAITSIG, a CKPT or a RESIZE is started and its work set going. -/
theorem work_set_going {c : Nat × List Ev} (hc : c ∈ startEvents leaf pid) (ht : p.type = c.1) :
    ∃ u, exec (.packetStart leaf pid) s = .next u ∧ (∀ e ∈ c.2, e ∈ u.agenda) ∧
      (∃ w, u.pkt leaf pid = some w ∧ w.stage = .started ∧ w.at_ = s.now) ∧ s.SameBytes u := by
  have hsent := (s.startPkt leaf p).sent_postAll c.2
  refine ⟨_, exec_packetStart_events hp hwaiting hmay hc ht, fun e he => State.mem_agenda_postAll _ he, ?_,
    ((s.booked_startPkt leaf p).trans hsent.booked).sameBytes⟩
  rw [hsent.pkt_eq]
  exact State.started_startPkt hp

theorem signal_ends_at_start (ht : p.type = 4) : ∃ u, exec (.packetStart leaf pid) s = .next u ∧ u.Ends leaf pid ∧ s.SameBytes u :=
  ⟨_, exec_packetStart_signal hp hwaiting hmay ht, State.ends_start_finish (State.pid_of_pkt hp) hp, (s.booked_start_finish leaf p pid).sameBytes⟩

theorem meter_ends_at_report (ht : p.type = 6) (hup : s.mpDown = false) {u : State} {x : Nat} {w : Pkt} (hr : s.meterReport leaf p = .done u x)
    (hw : u.pkt leaf pid = some w) : ∃ v, exec (.packetStart leaf pid) s = .next v ∧ v.Ends leaf pid ∧ v.host = u.host :=
  ⟨_, exec_packetStart_meter hp hwaiting hmay ht hup hr, State.ends_start_finish (State.pid_of_pkt hp) hw, (u.booked_start_finish leaf p pid).host_eq⟩

theorem first_launch_goes (ht : p.type = 1) {x : LaunchData} {m : Member} (hx : p.launch = some x) (hpred : x.pred = none)
    (hm : (s.leaf leaf).member = some m) (hrun : (s.leaf leaf).phase = .run) (hgang : m.gang = p.gang) (hidle : m.running = none) :
    ∃ u, exec (.packetStart leaf pid) s = .next u ∧ (∃ w, u.pkt leaf pid = some w ∧ w.stage = .started ∧ w.at_ = s.now) ∧
      Ev.launchGo leaf pid ∈ u.agenda := by
  have hexec := exec_packetStart_launch hp hwaiting hmay ht
  rw [State.startLaunchPkt_first hx hpred hm hrun hgang hidle, State.pid_of_pkt hp] at hexec
  exact ⟨_, hexec, State.started_startPkt hp, State.mem_agenda_post _ _⟩

end

/-! What becomes of a started packet, and of one whose work is done (R38, R39, R41, R331). -/

section
variable {s : State} {leaf pid : Nat} {p : Pkt} (hp : s.pkt leaf pid = some p)
include hp

theorem waitsig_ends_when_met (hstarted : p.stage = .started) {a : Nat} (halign : p.at 0x18 8 % 8 = 0)
    (hplace : s.cpPlace leaf p.vf needRd (64 * (p.at 0x18 8 / 64)) = .inl (.host a))
    (hmet : condMet (p.at 0x28 1) (s.host.readNat a 64 / 2 ^ (8 * (p.at 0x18 8 % 64)) % 2 ^ 64) (p.at 0x20 8) = true) :
    ∃ u, exec (.waitsigPoll leaf pid) s = .next u ∧ u.Ends leaf pid ∧ s.SameBytes u := by
  have hwithin : p.at 0x18 8 % 64 + 8 ≤ 64 := by omega
  have hread := State.cpRead_within (pid := pid) (by omega) hwithin hplace
  let past := (s.forget leaf (.packet pid)).unpost (.waitsigPoll leaf pid)
  have hkept : past.pkt leaf pid = some p := by rw [State.pkt_unpost, State.pkt_forget, hp]
  have hbooked : s.Booked past := rfl
  exact ⟨_, exec_waitsigPoll_met hp hstarted hread hmet, State.ends_finishPkt (Option.isSome_iff_exists.mpr ⟨p, hkept⟩),
    (hbooked.trans (past.booked_finishPkt leaf pid)).sameBytes⟩

theorem waitsig_halts_at_timeout (hstarted : p.stage = .started) (hset : p.at 0x30 8 ≠ 0) (hlate : p.at_.toNat + p.at 0x30 8 ≤ s.now.toNat) :
    ∃ u, exec (.waitto leaf pid) s = .next u ∧ u.Halts p 0x11 ∧ s.SameBytes u := by
  have hbooked : s.Booked (s.unpost (.waitto leaf pid)) := rfl
  exact ⟨_, exec_waitto_elapsed hp hstarted hset hlate, State.halts_failPkt (s := s.unpost _) hp 0x11 true,
    (hbooked.trans (State.booked_failPkt _ leaf pid 0x11 true)).sameBytes⟩

theorem copy_goes_on_or_ends (hstarted : p.stage = .started) {u : State} {n : Nat} (howed : p.owed = []) (hstep : s.copyStep leaf p = .done u n) :
    (n < ccTotal p.block → exec (.copyComplete leaf pid) s = .next u) ∧
    (ccTotal p.block ≤ n → (u.pkt leaf pid).isSome = true → ∃ v, exec (.copyComplete leaf pid) s = .next v ∧ v.Ends leaf pid) := by
  rw [exec_copyComplete_moved hp hstarted howed hstep]
  refine ⟨fun hn => by rw [if_neg (Nat.not_le.mpr hn)], fun hn hkept => ⟨_, rfl, ?_⟩⟩
  rw [if_pos hn]
  exact State.ends_finishPkt hkept

theorem complete_without_signal (hwriting : p.stage = .writing) (howed : p.owed = []) (hremotes : ∀ r ∈ (s.leaf leaf).remotes, r.party ≠ .packet pid)
    (hsig : p.sigAddr = 0) :
    ∃ u, exec (.completionSignalRetry leaf pid) s = .next u ∧ s.SameBytes u ∧ ∃ w, u.pkt leaf pid = some w ∧ w.stage = .done := by
  obtain ⟨hbooked, hdone⟩ := State.writeSignal_none hp hsig
  exact ⟨_, exec_completionSignalRetry_due hp hwriting howed hremotes, hbooked.sameBytes, hdone⟩

theorem complete_with_signal (hwriting : p.stage = .writing) (howed : p.owed = []) (hremotes : ∀ r ∈ (s.leaf leaf).remotes, r.party ≠ .packet pid)
    {a : Nat} (hsig : p.sigAddr ≠ 0) (halign : p.sigAddr % 8 = 0) (hmapped : s.cpMapped leaf p.vf needWr p.sigAddr 8 = none)
    (hthawed : s.frozenFor leaf p.vf (p.sigAddr / 64) = false) (hplace : s.cpPlace leaf p.vf needWr (64 * (p.sigAddr / 64)) = .inl (.host a)) :
    ∃ u, exec (.completionSignalRetry leaf pid) s = .next u ∧ (∃ w, u.pkt leaf pid = some w ∧ w.stage = .done) ∧
      let z := 2 ^ (8 * (p.sigAddr % 64))
      u.host = (s.hostBits a 64 (p.sigVal * z % 2 ^ 512) ((2 ^ 64 - 1) * z % 2 ^ 512)).host := by
  have hwithin : p.sigAddr % 64 + 8 ≤ 64 := by omega
  have hwrite := State.cpWrite_within (pid := p.pid) (s.pktKey p) p.sigVal (by omega) hwithin hmapped hthawed hplace
  obtain ⟨hbooked, hdone⟩ := State.writeSignal_done hp hsig hwrite (by rw [State.pkt_hostBits, hp])
  exact ⟨_, exec_completionSignalRetry_due hp hwriting howed hremotes, hdone, hbooked.host_eq⟩

end

/-- Settles O44: each event by what it leaves of its packet (State.pkt_startPkt, State.ends_finishPkt, State.halts_failPkt,
State.writeSignal_done); what it changes beside it are the command processors' own records (State.Booked). That TIMEOUT runs from the
packet's start is the model's choice (log 49). -/
theorem packetsStartAndComplete : Obligations.PacketsStartAndComplete :=
  ⟨fun _ _ _ _ hp hwaiting hmay =>
    ⟨fun _ hc ht => work_set_going hp hwaiting hmay hc ht,
     fun ht => signal_ends_at_start hp hwaiting hmay ht,
     fun ht hup _ _ _ hr hw => meter_ends_at_report hp hwaiting hmay ht hup hr hw,
     fun ht _ _ hx hpred hm hrun hgang hidle => first_launch_goes hp hwaiting hmay ht hx hpred hm hrun hgang hidle⟩,
   fun _ _ _ _ hp =>
    ⟨fun hstarted =>
      ⟨fun _ halign hplace hmet => waitsig_ends_when_met hp hstarted halign hplace hmet,
       fun hset hlate => waitsig_halts_at_timeout hp hstarted hset hlate,
       fun _ _ howed hstep => copy_goes_on_or_ends hp hstarted howed hstep⟩,
     fun hwriting howed hremotes =>
      ⟨fun hsig => complete_without_signal hp hwriting howed hremotes hsig,
       fun _ hsig halign hmapped hthawed hplace => complete_with_signal hp hwriting howed hremotes hsig halign hmapped hthawed hplace⟩⟩⟩

end Machine

end Sys2Proof
end

section
/-! PROOFS. Messages to the places of a gang; the tasks of a strand: their dispatch, start and retirement (O40). -/

namespace Sys2Proof

namespace Machine

/-! Messages to places (R70). -/

theorem State.Sent.ite {s t u : State} {p : Prop} [Decidable p] (ht : s.Sent t) (hu : s.Sent u) : s.Sent (if p then t else u) := by
  split
  · exact ht
  · exact hu

/-- A message that has been sent stays sent. -/
theorem State.Sent.told {s u : State} (h : s.Sent u) {place : Nat} {m : Nat → Ev} (ht : s.Told place m) : u.Told place m := by
  obtain ⟨a, o, rfl⟩ := h
  unfold State.Told at ht ⊢
  split at ht
  · next here => rw [if_pos here]; exact List.mem_append_left a ht
  · next away => rw [if_neg away]; exact List.mem_append_left o ht

theorem State.told_tell (s : State) (place : Nat) (m : Nat → Ev) : (s.tell place m).Told place m := by
  by_cases here : place / 2 = s.pkg
  · simp [State.tell, State.Told, here, State.mem_agenda_post]
  · simp [State.tell, State.Told, here, State.emit]

/-- One message told to some places in turn. -/
def State.tellAll (s : State) (places : List Nat) (m : Nat → Ev) : State := places.foldl (fun s place => s.tell place m) s

theorem State.sent_tellAll (s : State) (places : List Nat) (m : Nat → Ev) : s.Sent (s.tellAll places m) :=
  .foldl (fun s place => s.sent_tell place m) places s

/-- Each of the places is told. -/
theorem State.told_tellAll (s : State) {places : List Nat} (m : Nat → Ev) {place : Nat} (h : place ∈ places) : (s.tellAll places m).Told place m := by
  induction places generalizing s with
  | nil => cases h
  | cons p l ih =>
    rcases List.mem_cons.mp h with rfl | h
    · exact ((s.tell place m).sent_tellAll l m).told (s.told_tell place m)
    · exact ih (s.tell p m) h

theorem State.sent_tellRouter (s : State) (router : Nat) (m : Nat → Ev) : s.Sent (s.tellRouter router m) :=
  .ite (s.sent_post _) (s.sent_emit _)

/-! The member on a leaf. -/

theorem State.booked_onLeaf (s : State) (leaf : Nat) (f : Leaf → Leaf) : s.Booked (s.onLeaf leaf f) := rfl
theorem State.booked_unpost (s : State) (e : Ev) : s.Booked (s.unpost e) := rfl

@[simp] theorem State.leaf_onLeaf (s : State) (leaf : Nat) (f : Leaf → Leaf) : (s.onLeaf leaf f).leaf leaf = f (s.leaf leaf) := by
  rw [State.onLeaf, State.leaf_setLeaf_same]

theorem State.leaf_onLeaf_other (s : State) {leaf l : Nat} (f : Leaf → Leaf) (h : l ≠ leaf) : (s.onLeaf leaf f).leaf l = s.leaf l := by
  rw [State.onLeaf, State.leaf_setLeaf_other _ _ h]

@[simp] theorem State.leaf_onStrand (s : State) (w : Nat) (f : Strand → Strand) (l : Nat) : (s.onStrand w f).leaf l = s.leaf l := rfl
@[simp] theorem State.leaf_onCore (s : State) (c : Nat) (f : Core → Core) (l : Nat) : (s.onCore c f).leaf l = s.leaf l := rfl
@[simp] theorem State.leaf_onVf (s : State) (v : Nat) (f : Vf → Vf) (l : Nat) : (s.onVf v f).leaf l = s.leaf l := rfl
@[simp] theorem State.strand_onMember (s : State) (leaf : Nat) (f : Member → Member) (w : Nat) : (s.onMember leaf f).strand w = s.strand w := rfl
@[simp] theorem State.strand_onStrand (s : State) (w : Nat) (f : Strand → Strand) : (s.onStrand w f).strand w = f (s.strand w) := by
  rw [State.onStrand, State.strand_setStrand_same]

@[simp] theorem State.member_onMember (s : State) (leaf : Nat) (f : Member → Member) :
    ((s.onMember leaf f).leaf leaf).member = (s.leaf leaf).member.map f := by
  rw [State.onMember, State.leaf_onLeaf]
  rfl

/-- Sending changes no strand. -/
theorem State.Sent.strand_eq {s u : State} (h : s.Sent u) (w : Nat) : u.strand w = s.strand w := by
  obtain ⟨a, o, rfl⟩ := h
  rfl

/-! Tasks (R79, R81, R434). -/

theorem exec_taskDispatch (leaf : Nat) (s : State) : exec (.taskDispatch leaf) s = execTaskDispatch leaf s := rfl
theorem exec_taskStart (who : Nat) (s : State) : exec (.taskStart who) s = execTaskStart who s := rfl
theorem exec_taskRetire (who : Nat) (s : State) : exec (.taskRetire who) s = execTaskRetire who s := rfl

/-- A task of a work identifier queued at a strand, the dispatcher gone on to the next identifier. -/
def State.queueTask (s : State) (leaf who work : Nat) : State :=
  let s := s.onStrand who fun t => { t with tasks := t.tasks ++ [{ work := BitVec.ofNat 64 work }] }
  (s.onMember leaf fun m => { m with nextWork := m.nextWork + 1 }).postOnce (.taskStart who)

theorem State.strand_queueTask (s : State) (leaf who work : Nat) :
    ((s.queueTask leaf who work).strand who).tasks = (s.strand who).tasks ++ [{ work := BitVec.ofNat 64 work }] := by
  rw [State.queueTask, (State.sent_postOnce _ _).strand_eq, State.strand_onMember, State.strand_onStrand]

theorem State.nextWork_queueTask {s : State} {leaf : Nat} {m : Member} (hm : (s.leaf leaf).member = some m) (who work : Nat) :
    ((s.queueTask leaf who work).leaf leaf).member.map Member.nextWork = some (m.nextWork + 1) := by
  rw [State.queueTask, (State.sent_postOnce _ _).leaf_eq, State.member_onMember, State.leaf_onStrand, hm]
  rfl

/-- The dispatcher queues the next task at the strand its identifier names, where that has a place (R79). -/
theorem exec_taskDispatch_place {s : State} {leaf : Nat} {m : Member} (hm : (s.leaf leaf).member = some m) (hleft : m.workLeft = true)
    (hnext : m.nextWork < m.workCount) (hrun : (s.leaf leaf).phase = .run) (hthawed : (s.leaf leaf).freezeLeft = 0)
    (hplace : (s.strand (s.taskStrand leaf (workAt m.member m.fields m.nextWork).2)).tasks.length < taskPlaces)
    (hready : m.readyFor (s.taskStrand leaf (workAt m.member m.fields m.nextWork).2) = false) :
    exec (.taskDispatch leaf) s =
      .next (s.queueTask leaf (s.taskStrand leaf (workAt m.member m.fields m.nextWork).2) (workAt m.member m.fields m.nextWork).1) := by
  simp [exec_taskDispatch, execTaskDispatch, hm, hleft, Nat.not_le.mpr hnext, hrun, hthawed, Nat.not_le.mpr hplace, hready, State.queueTask]

theorem task_dispatched {s : State} {leaf : Nat} {m : Member} (hm : (s.leaf leaf).member = some m) (hleft : m.workLeft = true)
    (hnext : m.nextWork < m.workCount) (hrun : (s.leaf leaf).phase = .run) (hthawed : (s.leaf leaf).freezeLeft = 0) :
    let w := workAt m.member m.fields m.nextWork
    let who := s.taskStrand leaf w.2
    (s.strand who).tasks.length < taskPlaces → m.readyFor who = false → ∃ u, exec (.taskDispatch leaf) s = .next u ∧
      (u.strand who).tasks = (s.strand who).tasks ++ [{ work := BitVec.ofNat 64 w.1 }] ∧ Ev.taskStart who ∈ u.agenda ∧
      (u.leaf leaf).member.map Member.nextWork = some (m.nextWork + 1) := by
  intro w who hplace hready
  exact ⟨_, exec_taskDispatch_place hm hleft hnext hrun hthawed hplace hready, s.strand_queueTask leaf who w.1, State.mem_agenda_postOnce _ _,
    State.nextWork_queueTask hm who w.1⟩

/-- With no requeued task there is none to put back (R399). -/
theorem State.requeue_none {s : State} {who : Nat} {m : Member} (hm : s.memberOf who = some m) (hpool : m.pool = []) : s.requeue who = s := by
  have hmember : (s.leaf (leafOf who)).member = some m := hm
  simp [State.requeue, hmember, hpool]

/-- With no abort that waits there is none to make (R398). -/
theorem State.retryAbort_none {s : State} {who : Nat} (h : (s.strand who).abortWait = none) : s.retryAbort who = s := by
  simp [State.retryAbort, h]

/-- A strand that has begun the first task of its queue, to be fetched for. -/
def State.beginTask (s : State) (who entry : Nat) : State := (s.onStrand who fun t => t.begin_ entry).postOnce (.bundleFetch who)

theorem State.strand_beginTask (s : State) (who entry : Nat) : (s.beginTask who entry).strand who = (s.strand who).begin_ entry := by
  rw [State.beginTask, (State.sent_postOnce _ _).strand_eq, State.strand_onStrand]

theorem State.memberOf_beginTask (s : State) (who entry : Nat) : (s.beginTask who entry).memberOf who = s.memberOf who := by
  rw [State.memberOf, State.beginTask, (State.sent_postOnce _ _).leaf_eq, State.leaf_onStrand]
  rfl

theorem exec_taskStart_first {s : State} {who : Nat} {m : Member} {a : Task} {l : List Task} (hm : s.memberOf who = some m)
    (hacts : s.strandActs who = true) (habort : (s.strand who).abortWait = none) (hpool : m.pool = []) (hidle : (s.strand who).running = none)
    (htasks : (s.strand who).tasks = a :: l) :
    exec (.taskStart who) s = .next ((s.unpost (.taskStart who)).beginTask who m.entry) := by
  let past := s.unpost (.taskStart who)
  have hretry : past.retryAbort who = past := State.retryAbort_none habort
  have hbefore : past.requeue who = past := State.requeue_none (m := m) hm hpool
  have hafter : (past.beginTask who m.entry).requeue who = past.beginTask who m.entry :=
    State.requeue_none (m := m) ((past.memberOf_beginTask who m.entry).trans hm) hpool
  have hbegins : ((past.strand who).running.isSome || (past.strand who).tasks.isEmpty) = false := by
    simp [past, hidle, htasks]
  simp only [exec_taskStart, execTaskStart, hm, hacts, Bool.not_true, Bool.false_eq_true, if_false]
  rw [hretry, hbefore, hbegins, if_neg Bool.false_ne_true]
  exact congrArg Host.Outcome.next hafter

theorem task_started {s : State} {who : Nat} {m : Member} {a : Task} {l : List Task} (hm : s.memberOf who = some m) (hacts : s.strandActs who = true)
    (habort : (s.strand who).abortWait = none) (hpool : m.pool = []) (hidle : (s.strand who).running = none) (htasks : (s.strand who).tasks = a :: l) :
    ∃ u, exec (.taskStart who) s = .next u ∧ (u.strand who).running = some a ∧ (u.strand who).tasks = l ∧
      (u.strand who).workid = a.work ∧ (u.strand who).pc = m.entry ∧ (u.strand who).sregs = (s.strand who).sregs ∧ Ev.bundleFetch who ∈ u.agenda := by
  refine ⟨_, exec_taskStart_first hm hacts habort hpool hidle htasks, ?_⟩
  rw [State.strand_beginTask, State.strand_unpost, Strand.begin_, htasks]
  exact ⟨rfl, rfl, rfl, rfl, rfl, State.mem_agenda_postOnce _ _⟩

theorem State.strand_retire (s : State) (who : Nat) :
    (s.retire who).strand who = { s.strand who with running := none, retiring := false, ibuf := [], issued := [], failed := [] } := by
  rw [State.retire, (State.sent_postOnce _ _).strand_eq, State.strand_onMember, State.strand_onStrand]

theorem task_retired {s : State} {who : Nat} (hover : (s.strand who).retiring = true) (hacts : s.strandActs who = true)
    (hloads : (s.strand who).loads = []) (hwaits : (s.strand who).waits = []) (hreports : (s.strand who).reports = []) :
    ∃ u, exec (.taskRetire who) s = .next u ∧ (u.strand who).running = none ∧ (u.strand who).retiring = false ∧ Ev.taskStart who ∈ u.agenda := by
  have hexec : exec (.taskRetire who) s = .next ((s.unpost (.taskRetire who)).retire who) := by
    simp [exec_taskRetire, execTaskRetire, hover, hacts, hloads, hwaits, hreports]
  refine ⟨_, hexec, ?_, ?_, State.mem_agenda_postOnce _ _⟩ <;> rw [State.strand_retire]

/-- Settles O40, event by event: what the dispatcher queues (State.queueTask), what a strand begins (State.beginTask) and what it leaves
when its task retires (State.strand_retire). -/
theorem taskEvents : Obligations.TaskEvents := fun _ =>
  ⟨fun _ _ hm hleft hnext hrun hthawed => task_dispatched hm hleft hnext hrun hthawed,
   fun _ _ _ _ hm hacts habort hpool hidle htasks => task_started hm hacts habort hpool hidle htasks,
   fun _ hover hacts hloads hwaits hreports => task_retired hover hacts hloads hwaits hreports⟩

end Machine

end Sys2Proof
end

section
/-! PROOFS. The stencil of a leaf: arming, application and the beginning of a slot (O46). -/

namespace Sys2Proof

namespace Machine

/-! Stencils (R54, R55, R58). -/

/-- Beside the command processors' records, only the error counts of a leaf differ on it. -/
def State.Erred (leaf : Nat) (s u : State) : Prop := s.Booked u ∧ u.leaf leaf = { s.leaf leaf with err := (u.leaf leaf).err }

theorem State.Erred.refl (leaf : Nat) (s : State) : s.Erred leaf s := ⟨rfl, rfl⟩

theorem State.Erred.trans {leaf : Nat} {s t u : State} (h : s.Erred leaf t) (k : t.Erred leaf u) : s.Erred leaf u := by
  obtain ⟨hbooked, hleaf⟩ := h
  obtain ⟨kbooked, kleaf⟩ := k
  refine ⟨hbooked.trans kbooked, ?_⟩
  rw [hleaf] at kleaf
  exact kleaf

theorem State.erred_keyMiss (s : State) (leaf : Nat) : s.Erred leaf (s.keyMiss leaf) := by
  refine ⟨rfl, ?_⟩
  rw [State.keyMiss, State.leaf_onLeaf]

/-- Steps taken in turn change no more than error counts where each does not. -/
theorem State.Erred.foldl {α : Type} {leaf : Nat} {f : State → α → State} (hf : ∀ (s : State) x, s.Erred leaf (f s x)) (l : List α) (s : State) :
    s.Erred leaf (l.foldl f s) :=
  List.foldlRecOn l f (.refl leaf s) fun _ h x _ => h.trans (hf _ x)

/-- The hop matrices that an arming reads are counted where their lines stand under another key (R62, R234). -/
theorem State.erred_matricesRead (s : State) (leaf : Nat) : s.Erred leaf (s.matricesRead leaf) := by
  refine .foldl (fun s g => .foldl (fun s i => ?_) _ s) _ s
  split
  · exact .refl leaf s
  · exact s.erred_keyMiss leaf

theorem stencil_armed_or_refused {s : State} (leaf : Nat) (hup : s.mpDown = false) :
    ∃ u, exec (.stencilArm leaf) s = .next u ∧ s.SameBytes u ∧
      u.leaf leaf = { s.leaf leaf with arm := s.shadowOk leaf, sterr := !s.shadowOk leaf, err := (u.leaf leaf).err } := by
  obtain ⟨hbooked, hleaf⟩ := s.erred_matricesRead leaf
  refine ⟨_, if_neg (by simp [hup]), (hbooked.trans (State.booked_onLeaf _ leaf _)).sameBytes, ?_⟩
  rw [State.leaf_onLeaf, hleaf]

theorem stencil_ignored {s : State} (leaf : Nat) (hdown : s.mpDown = true) : exec (.stencilArm leaf) s = .next s := if_pos hdown

theorem State.sent_offerAll (s : State) : s.Sent s.offerAll := by
  unfold State.offerAll
  exact .foldl (fun s v => .foldl (fun s q => s.sent_offer v.1 q.1) v.2.queues s) s.vfs s

/-- A leaf that a member holds is not handed over. -/
theorem State.handOver_held {s : State} {leaf : Nat} (h : (s.leaf leaf).member.isSome = true) : s.handOver leaf = s := by
  simp [State.handOver, h]

/-- The slot's time is metered for the member that holds the leaf in it (R443; log 44). -/
def State.meterSlot (s : State) (leaf : Nat) : State :=
  match (s.leaf leaf).member with
  | some m => s.onVf m.vf fun v => v.meter 12 ((s.leaf leaf).active.slotLen / 1024)
  | none => s

theorem State.slotBegun_eq (s : State) (leaf : Nat) : s.slotBegun leaf = ((s.meterSlot leaf).handOver leaf).offerAll := rfl

theorem State.booked_meterSlot (s : State) (leaf : Nat) : s.Booked (s.meterSlot leaf) := by
  unfold State.meterSlot
  split <;> rfl

@[simp] theorem State.leaf_meterSlot (s : State) (leaf l : Nat) : (s.meterSlot leaf).leaf l = s.leaf l := by
  unfold State.meterSlot
  split <;> rfl

/-- The beginning of a slot on a leaf that a member holds changes nothing of the leaf. -/
theorem State.slotBegun_held {s : State} {leaf : Nat} (h : (s.leaf leaf).member.isSome = true) :
    s.Booked (s.slotBegun leaf) ∧ (s.slotBegun leaf).leaf leaf = s.leaf leaf := by
  have hheld : (s.meterSlot leaf).handOver leaf = s.meterSlot leaf := State.handOver_held (by rw [State.leaf_meterSlot]; exact h)
  have hsent := (s.meterSlot leaf).sent_offerAll
  rw [State.slotBegun_eq, hheld]
  exact ⟨(s.booked_meterSlot leaf).trans hsent.booked, (hsent.leaf_eq leaf).trans (s.leaf_meterSlot leaf leaf)⟩

/-- Fault marks that clear (R60) concern gangs and their saved contexts alone. -/
theorem State.clearFault_eq (s : State) (g : Nat) : ∃ f c, s.clearFault g = { s with faultedGangs := f, contexts := c } := by
  unfold State.clearFault
  split
  · exact ⟨_, _, rfl⟩
  · exact ⟨_, _, rfl⟩

theorem State.clearFaults_eq (s : State) (gangs : List Nat) : ∃ f c, gangs.foldl State.clearFault s = { s with faultedGangs := f, contexts := c } := by
  refine List.foldlRecOn (motive := fun u : State => ∃ f c, u = { s with faultedGangs := f, contexts := c }) gangs _ ⟨s.faultedGangs, s.contexts, rfl⟩ ?_
  rintro _ ⟨f, c, rfl⟩ g -
  obtain ⟨f', c', h⟩ := State.clearFault_eq { s with faultedGangs := f, contexts := c } g
  exact ⟨f', c', h⟩

/-- A leaf with its shadow in force, at slot 0 of the shadow's first frame (R54, R58). -/
def Leaf.applied (l : Leaf) : Leaf :=
  { l with active := l.shadow, cells := l.shadowCells, arm := false, inForce := true, slotNow := 0, slotStart := l.shadow.frame0,
           boundary := l.shadow.frame0 + BitVec.ofNat 64 l.shadow.slotLen }

/-- A leaf at its next slot (R58). -/
def Leaf.nextSlotBegun (l : Leaf) : Leaf :=
  { l with slotNow := (l.slotNow + 1) % l.active.nslot, slotStart := l.boundary, boundary := l.boundary + BitVec.ofNat 64 l.active.slotLen }

/-- A change of a leaf that a member holds and keeps, at the beginning of a slot. -/
theorem State.slotBegun_onLeaf {s : State} {leaf : Nat} {f : Leaf → Leaf} (h : (f (s.leaf leaf)).member.isSome = true) :
    s.Booked ((s.onLeaf leaf f).slotBegun leaf) ∧ ((s.onLeaf leaf f).slotBegun leaf).leaf leaf = f (s.leaf leaf) := by
  obtain ⟨hbooked, hleaf⟩ := State.slotBegun_held (s := s.onLeaf leaf f) (leaf := leaf) (by rw [State.leaf_onLeaf]; exact h)
  exact ⟨(s.booked_onLeaf leaf f).trans hbooked, hleaf.trans (s.leaf_onLeaf leaf f)⟩

theorem shadow_applied {s : State} {leaf : Nat} (hheld : (s.leaf leaf).member.isSome = true) (hdue : s.applyDue leaf = true) :
    ∃ u, exec (.stencilApply leaf) s = .next u ∧ s.SameBytes u ∧ u.leaf leaf = (s.leaf leaf).applied := by
  obtain ⟨f, c, hcleared⟩ := s.clearFaults_eq (s.faultedGangs.map Prod.fst)
  have hexec : exec (.stencilApply leaf) s = .next (({ s with faultedGangs := f, contexts := c }.onLeaf leaf Leaf.applied).slotBegun leaf) := by
    rw [← hcleared]
    exact if_neg (by simp [hdue])
  obtain ⟨hbooked, hleaf⟩ := State.slotBegun_onLeaf (s := { s with faultedGangs := f, contexts := c }) (leaf := leaf) (f := Leaf.applied) hheld
  exact ⟨_, hexec, hbooked.sameBytes, hleaf⟩

theorem slot_begun {s : State} {leaf : Nat} (hheld : (s.leaf leaf).member.isSome = true) (hdue : s.slotDue leaf = true) :
    ∃ u, exec (.slotBegin leaf) s = .next u ∧ s.SameBytes u ∧ u.leaf leaf = (s.leaf leaf).nextSlotBegun := by
  have hexec : exec (.slotBegin leaf) s = .next ((s.onLeaf leaf Leaf.nextSlotBegun).slotBegun leaf) := if_neg (by simp [hdue])
  obtain ⟨hbooked, hleaf⟩ := State.slotBegun_onLeaf (s := s) (leaf := leaf) (f := Leaf.nextSlotBegun) hheld
  exact ⟨_, hexec, hbooked.sameBytes, hleaf⟩

/-- Settles O46: an arming changes the arm bits and error counts of its leaf (State.erred_matricesRead); an application and a slot's
beginning leave the leaf as Leaf.applied and Leaf.nextSlotBegun say (State.slotBegun_held). That a successful arming clears STERR is the
model's choice (log 52). -/
theorem stencilEvents : Obligations.StencilEvents := by
  intro s leaf l
  refine ⟨stencil_armed_or_refused leaf, stencil_ignored leaf, fun hheld hdue => ?_, fun hheld hdue => ?_⟩
  · obtain ⟨u, hexec, hbytes, hleaf⟩ := shadow_applied hheld hdue
    refine ⟨u, hexec, hbytes, ?_⟩
    rw [hleaf]
    exact ⟨rfl, rfl, rfl, rfl, rfl, rfl⟩
  · obtain ⟨u, hexec, hbytes, hleaf⟩ := slot_begun hheld hdue
    refine ⟨u, hexec, hbytes, ?_⟩
    rw [hleaf]
    exact ⟨rfl, rfl, rfl⟩

end Machine

end Sys2Proof
end

section
/-! PROOFS. A round of the vote that takes a gang off its leaves (O47). -/

namespace Sys2Proof

namespace Machine

/-! A leader's round (R66, R70). -/

theorem Leaf.leader_setLeader (l : Leaf) (r : Leader) : (l.setLeader r).leader r.gang = some r := by
  have hnone : (l.leaders.filter fun x => x.gang != r.gang).find? (fun x => x.gang == r.gang) = none := by
    rw [List.find?_eq_none]
    intro x hx
    simpa using (List.mem_filter.mp hx).2
  simp [Leaf.leader, Leaf.setLeader, List.find?_append, hnone]

/-- The routers a leader asks in its next round: those it knows of, and those that have come to count for its own member since. -/
def State.routersAsked (s : State) (leaf : Nat) (r : Leader) : List Nat :=
  (r.routers ++ ((s.leaf leaf).member.map Member.countingRouters).getD []).eraseDups

/-- A leader that has begun its next round. -/
def State.nextRound (s : State) (leaf : Nat) (r : Leader) : Leader :=
  { r with routers := s.routersAsked leaf r, round := r.round + 1, replies := [] }

/-- After a round has been asked for, the leader's record is of that round, with the routers it has asked. -/
theorem round_asked {s : State} {leaf : Nat} {r : Leader} (hdue : s.roundDue leaf = some r) :
    ∃ u, exec (.voteRound leaf) s = .next u ∧ (u.leaf leaf).leader r.gang = some (s.nextRound leaf r) := by
  let noted := s.onLeaf leaf fun l => l.setLeader (s.nextRound leaf r)
  let told := noted.tellAll r.places fun l => .countreq l r.gang (r.round + 1)
  let asked := (s.routersAsked leaf r).foldl (fun s k => s.tellRouter k fun l => .countreq l r.gang (r.round + 1)) told
  have hexec : exec (.voteRound leaf) s = .next asked := by
    change execVoteRound leaf s = _
    simp only [execVoteRound, hdue]
    rfl
  have hsent : noted.Sent asked := (State.sent_tellAll _ _ _).trans (.foldl (fun s k => s.sent_tellRouter k _) _ _)
  refine ⟨asked, hexec, ?_⟩
  rw [hsent.leaf_eq, State.leaf_onLeaf]
  exact Leaf.leader_setLeader _ (s.nextRound leaf r)

/-- The leader of gang 1, which has one member, before its first round; no router counts for the gang. -/
def countingLeader : Leader :=
  { gang := 1, phase := .counting, size := 1, places := [0], routers := [], start := 0, round := 0, readys := [], replies := [], dones := [] }

/-- Gang 1 prepares on leaf 0, its first round is due, and since it began to prepare the router of package 0 has come to count for its
member, as when a collective's nodes are placed there (R373). -/
def routerJoined : State :=
  { State.reset.onLeaf 0 fun l => { l with member := some { loadedMember with routers := [2048] }, phase := .preparing, leaders := [countingLeader] } with
    now := BitVec.ofNat 64 (us 2) }

theorem routerJoined_roundDue : routerJoined.roundDue 0 = some countingLeader := by decide +kernel

/-- The leader asks that router too. -/
theorem routerJoined_asked : routerJoined.routersAsked 0 countingLeader = [2048] := by decide +kernel

/-- Refutes O47 at the clause of the leader's round. A round adds to the leader's record the routers that have come to count for its
member since the vote began, for it asks every counting router (R70); the statement has the record differ in its round and replies
alone. In routerJoined the record holds no router before the round and the package's router after it. -/
theorem not_gangSwitch : ¬ Obligations.GangSwitch := by
  rintro ⟨hvote, -⟩
  obtain ⟨-, -, -, hround, -⟩ := hvote routerJoined 0 1
  obtain ⟨u, hexec, -, hclaimed, -⟩ := hround countingLeader routerJoined_roundDue
  obtain ⟨v, hexec', hrecord⟩ := round_asked routerJoined_roundDue
  obtain rfl : u = v := by simpa [hexec] using hexec'
  rw [hclaimed, Option.some_inj] at hrecord
  have hrouters : countingLeader.routers = routerJoined.routersAsked 0 countingLeader := congrArg Leader.routers hrecord
  rw [routerJoined_asked] at hrouters
  exact absurd hrouters (by decide)

end Machine

end Sys2Proof
end

section
/-! PROOFS. The start exchange that brings a gang back, and the completion of members and gangs (O48). -/

namespace Sys2Proof

namespace Machine

/-! Restoration, and the start exchange at the leader (R75). -/

theorem restored_tells_ready {s : State} {leaf : Nat} {m : Member} (hm : (s.leaf leaf).member = some m) (hup : s.leafUp leaf = true)
    (howed : (s.savedOf leaf m.gang m.member).owed = 0) :
    ∃ u, exec (.restoreComplete leaf) s = .next u ∧ u.Told (s.placeOf leaf 0) fun k => .ready k m.gang m.member := by
  have hexec : exec (.restoreComplete leaf) s =
      .next (((s.unpost (.restoreComplete leaf)).restore leaf m).tell (s.placeOf leaf 0) fun k => .ready k m.gang m.member) := by
    change execRestoreComplete leaf s = _
    simp [execRestoreComplete, hm, hup, howed]
  exact ⟨_, hexec, State.told_tell _ _ _⟩

/-- The numbers below n all stand in a list. -/
theorem all_contains_of_mem {n : Nat} {l : List Nat} (h : ∀ i < n, i ∈ l) : (List.range n).all l.contains = true := by
  simpa using h

theorem last_ready_tells_go {s : State} {leaf gang member : Nat} {r : Leader} (hr : (s.leaf leaf).leader gang = some r) (hstarting : r.phase = .starting)
    (hall : ∀ n < r.size, n ∈ r.readys ++ [member]) :
    ∃ u, exec (.ready leaf gang member) s = .next u ∧ s.SameBytes u ∧ ∀ place ∈ r.places, u.Told place fun k => .go k gang := by
  let idle := (s.unpost (.ready leaf gang member)).onLeaf leaf fun l => l.setLeader { r with readys := r.readys ++ [member], phase := .idle }
  have hexec : exec (.ready leaf gang member) s = .next (idle.tellAll r.places fun k => .go k gang) := by
    change execReady leaf gang member s = _
    simp only [execReady, hr, hstarting, ne_eq, not_true_eq_false, if_false, all_contains_of_mem hall, if_true]
    rfl
  have hbooked : s.Booked idle := rfl
  exact ⟨_, hexec, (hbooked.trans (idle.sent_tellAll _ _).booked).sameBytes, fun place hplace => idle.told_tellAll _ hplace⟩

/-! GO (R67, R76, R419): of what is set going again, nothing changes the phase of a leaf but a switch that begins. -/

/-- Every leaf is in the phase it was in. -/
def State.SamePhases (s u : State) : Prop := ∀ l, (u.leaf l).phase = (s.leaf l).phase

theorem State.SamePhases.refl (s : State) : s.SamePhases s := fun _ => rfl

theorem State.SamePhases.trans {s t u : State} (h : s.SamePhases t) (k : t.SamePhases u) : s.SamePhases u := fun l => (k l).trans (h l)

theorem State.SamePhases.foldl {α : Type} {f : State → α → State} (hf : ∀ (s : State) x, s.SamePhases (f s x)) (l : List α) (s : State) :
    s.SamePhases (l.foldl f s) :=
  List.foldlRecOn l f (.refl s) fun _ h x _ => h.trans (hf _ x)

theorem State.SamePhases.ite {s t u : State} {p : Prop} [Decidable p] (ht : s.SamePhases t) (hu : s.SamePhases u) : s.SamePhases (if p then t else u) := by
  split
  · exact ht
  · exact hu

theorem State.Sent.samePhases {s u : State} (h : s.Sent u) : s.SamePhases u := fun l => by rw [h.leaf_eq]

theorem State.samePhases_onLeaf (s : State) (leaf : Nat) {f : Leaf → Leaf} (hf : ∀ x, (f x).phase = x.phase) : s.SamePhases (s.onLeaf leaf f) := by
  intro l
  by_cases h : l = leaf
  · rw [h, State.leaf_onLeaf, hf]
  · rw [State.leaf_onLeaf_other _ _ h]

theorem State.samePhases_onMember (s : State) (leaf : Nat) (f : Member → Member) : s.SamePhases (s.onMember leaf f) :=
  s.samePhases_onLeaf leaf fun _ => rfl

theorem State.samePhases_onStrand (s : State) (w : Nat) (f : Strand → Strand) : s.SamePhases (s.onStrand w f) := fun _ => rfl

theorem State.samePhases_onCore (s : State) (c : Nat) (f : Core → Core) : s.SamePhases (s.onCore c f) := fun _ => rfl

theorem State.samePhases_reinject (s : State) (clk : Nat) (r : Replay) : s.SamePhases (s.reinject clk r) := by
  unfold State.reinject
  extract_lets landed
  have hlanded : s.SamePhases landed := s.samePhases_onStrand r.who _
  split
  · exact hlanded
  · split
    · exact hlanded
    · exact hlanded.trans (landed.samePhases_onCore _ _)

theorem State.samePhases_replayCore (s : State) (core clk : Nat) : s.SamePhases (s.replayCore core clk) :=
  (State.SamePhases.foldl (fun s r => s.samePhases_reinject clk r) _ s).trans (State.samePhases_onCore _ core _)

theorem State.sent_rearmStrand (s : State) (w : Nat) : s.Sent (s.rearmStrand w) := by
  unfold State.rearmStrand
  extract_lets t on waits performing waiting
  have hon (b : Bool) (e : Ev) (s : State) : s.Sent (on b e s) := .ite (s.sent_postOnce e) (.refl s)
  have hstores : s.Sent performing := .foldl (fun s e => s.sent_postOnce _) _ s
  have hwaits : performing.Sent waiting := .foldl (fun s e => s.sent_postOnce _) _ performing
  exact (hstores.trans hwaits).trans (((((hon _ _ _).trans (hon _ _ _)).trans (hon _ _ _)).trans (hon _ _ _)).trans (hon _ _ _))

theorem State.samePhases_wakeTask (s : State) (leaf : Nat) (e : Requeue) : s.SamePhases (s.wakeTask leaf e) := by
  unfold State.wakeTask
  extract_lets put
  have hput (f : Requeue → Requeue) : s.SamePhases (put f s) := s.samePhases_onMember leaf _
  split
  · exact hput _
  · exact (hput _).trans (State.sent_postOnce _ _).samePhases

theorem State.samePhases_rearmMember (s : State) (leaf : Nat) (m : Member) : s.SamePhases (s.rearmMember leaf m) := by
  unfold State.rearmMember
  extract_lets queues pushes colls remotes pool work
  have hqueues : s.SamePhases queues := .foldl (fun s q =>
    ((State.Sent.ite (.refl s) (s.sent_postOnce _)).trans (.foldl (fun s _ => s.sent_post (.commandComplete q)) _ _)).samePhases) _ s
  have hpushes : queues.SamePhases pushes := .foldl (fun s _ => (State.Sent.foldl (fun s _ => s.sent_postOnce _) _ s).samePhases) _ queues
  have hcolls : pushes.SamePhases colls := by
    refine .foldl (fun s p => ?_) _ pushes
    extract_lets started
    have hstarted : s.Sent started := .ite (.refl s) (s.sent_postOnce _)
    exact (State.Sent.ite (hstarted.trans (started.sent_postOnce _)) hstarted).samePhases
  have hremotes : colls.SamePhases remotes := (State.Sent.foldl (fun s _ => s.sent_postOnce _) _ colls).samePhases
  have hpool : remotes.SamePhases pool := .foldl (fun s e => .ite (s.samePhases_wakeTask leaf e) (s.sent_postOnce _).samePhases) _ remotes
  have hwork : pool.Sent work := .ite (pool.sent_postOnce _) (.refl pool)
  have hrearmed := ((((hqueues.trans hpushes).trans hcolls).trans hremotes).trans hpool).trans hwork.samePhases
  exact .ite (hrearmed.trans (work.sent_postOnce _).samePhases) hrearmed

theorem State.samePhases_hbmWrite (s : State) (leaf off n data mask : Nat) (key : BitVec 8) : s.SamePhases (s.hbmWrite leaf off n data mask key) := by
  unfold State.hbmWrite
  extract_lets lines clear cleared
  have hcleared : s.SamePhases cleared := .foldl (f := clear) (fun s _ => .ite (.refl s) fun _ => rfl) lines s
  have hwritten : cleared.SamePhases { cleared with hbm := cleared.hbm.writeMasked (hbmAddr leaf off) n data mask } := fun _ => rfl
  exact (hcleared.trans hwritten).trans (State.sent_wakeLines _ _).samePhases

theorem State.samePhases_byPort (s : State) (x : PortPacket) : s.SamePhases (s.byPort x) :=
  .ite (s.sent_emit _).samePhases fun _ => rfl

theorem State.samePhases_depart (s : State) (dst : Nat) (route : Option Nat) (p : Packet) : s.SamePhases (s.depart dst route p).1 := by
  have hsealed : s.SamePhases (s.sealed p).1 := s.samePhases_onLeaf p.srcLeaf fun _ => rfl
  simp only [State.depart]
  split
  · exact hsealed.trans (State.sent_post _ _).samePhases
  · split
    · exact hsealed.trans (State.samePhases_byPort _ _)
    · exact State.SamePhases.refl s

theorem State.samePhases_hbmPut (s : State) (leaf a n data : Nat) (key : BitVec 8) : s.SamePhases (s.hbmPut leaf a n data key) :=
  .ite (s.samePhases_hbmWrite _ _ _ _ _ _) (.foldl (fun s _ => s.samePhases_depart _ _ _) _ s)

/-- A leaf whose switch is due begins to prepare; else it stays in its phase (R67). -/
theorem State.phase_prepare (s : State) (leaf : Nat) :
    ((s.prepare leaf).leaf leaf).phase = (s.leaf leaf).phase ∨ ((s.prepare leaf).leaf leaf).phase = .preparing := by
  unfold State.prepare
  split
  · next t m _ _ =>
    extract_lets begun asked counting
    have hbegun : (begun.leaf leaf).phase = .preparing := by unfold begun; rw [State.leaf_onLeaf]
    have hasked : begun.SamePhases asked := .foldl (fun s w => s.samePhases_onStrand w _) _ begun
    have hcounting : asked.SamePhases counting := .ite (.refl asked) (asked.samePhases_onLeaf leaf fun _ => rfl)
    right
    rw [State.leaf_post, hcounting, hasked, hbegun]
  · exact .inl rfl

/-- A leaf whose member, with nothing to act on first, runs again. -/
def State.runAgain (s : State) (leaf : Nat) (m : Member) : State :=
  s.onLeaf leaf fun l =>
    { l with phase := .run, member := some { m with dust := [], dustUsed := 0, held := [] },
             remotes := l.remotes.map fun r => { r with sentAt := s.now.toNat - r.sentAt } }

/-- The strands of a leaf issue again, the replay buffers of its cores go back, and what its member had going goes on. -/
def State.goOn (s : State) (leaf : Nat) (m : Member) (clk : Nat) : State :=
  let s := (leafStrands leaf).foldl (fun s w => if (s.strands.find? w).isSome then s.onStrand w fun t => t.released clk else s) s
  let s := (leafCores leaf).foldl (fun s c => (s.onCore c fun x => x.clocks (· + clk) (clk - ·)).replayCore c clk) s
  (((leafStrands leaf).foldl State.rearmStrand s).rearmMember leaf m).hbmPut leaf m.dustBase 64 0 m.key

theorem State.samePhases_goOn (s : State) (leaf : Nat) (m : Member) (clk : Nat) : s.SamePhases (s.goOn leaf m clk) := by
  unfold State.goOn
  extract_lets released replayed
  have hreleased : s.SamePhases released := .foldl (fun s w => .ite (s.samePhases_onStrand w _) (.refl s)) _ s
  have hreplayed : released.SamePhases replayed :=
    .foldl (fun s c => (s.samePhases_onCore c _).trans (State.samePhases_replayCore _ c clk)) _ released
  have hrearmed := (State.Sent.foldl State.sent_rearmStrand (leafStrands leaf) replayed).samePhases
  exact (((hreleased.trans hreplayed).trans hrearmed).trans (State.samePhases_rearmMember _ leaf m)).trans (State.samePhases_hbmPut _ _ _ _ _ _)

theorem exec_go_resuming {s : State} {leaf : Nat} {m : Member} (hm : (s.leaf leaf).member = some m) (hresuming : (s.leaf leaf).phase = .resuming)
    (hdust : m.dust = []) (hheld : m.held = []) :
    exec (.go leaf m.gang) s = .next ((((s.unpost (.go leaf m.gang)).runAgain leaf m).goOn leaf m (s.leaf leaf).clk).prepare leaf) := by
  change execGo leaf m.gang s = _
  simp only [execGo, State.leaf_unpost, hm, hresuming, hdust, hheld, ne_eq, not_true_eq_false, decide_false, Bool.or_self, Bool.false_eq_true, if_false]
  rfl

theorem member_goes {s : State} {leaf : Nat} {m : Member} (hm : (s.leaf leaf).member = some m) (hresuming : (s.leaf leaf).phase = .resuming)
    (hdust : m.dust = []) (hheld : m.held = []) :
    ∃ u, exec (.go leaf m.gang) s = .next u ∧ ((u.leaf leaf).phase = .run ∨ (u.leaf leaf).phase = .preparing) := by
  let running := (s.unpost (.go leaf m.gang)).runAgain leaf m
  have hrunning : (running.leaf leaf).phase = .run := by unfold running; rw [State.runAgain, State.leaf_onLeaf]
  have hphase : ((running.goOn leaf m (s.leaf leaf).clk).leaf leaf).phase = .run := by rw [running.samePhases_goOn, hrunning]
  refine ⟨_, exec_go_resuming hm hresuming hdust hheld, ?_⟩
  rw [← hphase]
  exact State.phase_prepare _ leaf

/-! No GO in time (R75, R405). -/

/-- A member that has not stopped already stops at a local fault and tells its leader (R67, R402). -/
theorem State.gangFault_told {s : State} {leaf : Nat} {m : Member} (hm : (s.leaf leaf).member = some m)
    (hphase : (s.leaf leaf).phase ≠ .faulted) (i : FaultInfo) :
    s.SameBytes (s.gangFault leaf i) ∧ s.FaultTold (s.gangFault leaf i) leaf i.cause := by
  have hfault : s.gangFault leaf i = (s.stopMember leaf).tell (s.placeOf leaf 0) fun l => .abort l true (s.headOf leaf m i) := by
    simp [State.gangFault, hm, hphase]
  have hbooked : s.Booked (s.stopMember leaf) := rfl
  have hsent := (s.stopMember leaf).sent_tell (s.placeOf leaf 0) fun l => .abort l true (s.headOf leaf m i)
  rw [hfault]
  refine ⟨(hbooked.trans hsent.booked).sameBytes, ?_, s.headOf leaf m i, rfl, State.told_tell _ _ _⟩
  rw [hsent.leaf_eq, State.stopMember, State.leaf_onLeaf]

theorem start_times_out {s : State} {leaf : Nat} {m : Member} (hm : (s.leaf leaf).member = some m) (hresuming : (s.leaf leaf).phase = .resuming)
    (hlate : (s.leaf leaf).refTime.toNat + us (s.leaf leaf).active.votedl ≤ s.now.toNat) :
    ∃ u, exec (.startto leaf) s = .next u ∧ s.SameBytes u ∧ s.FaultTold u leaf 6 := by
  have hexec : exec (.startto leaf) s = .next (s.gangFault leaf (plainFault 0x06)) := if_pos ⟨hresuming, hlate⟩
  exact ⟨_, hexec, State.gangFault_told hm (by rw [hresuming]; decide) (plainFault 0x06)⟩

/-! Completion of members and gangs (R435, R436). -/

theorem State.regionsOut_none {s : State} {leaf : Nat} (h : ∀ r ∈ (s.leaf leaf).remotes, ∀ c n, r.party ≠ .region c n) : s.regionsOut leaf = false := by
  rw [State.regionsOut, List.any_eq_false]
  intro r hr
  split
  · next c n hparty => exact absurd hparty (h r hr c n)
  · exact Bool.false_ne_true

theorem member_completes {s : State} {leaf : Nat} {m : Member} (hm : (s.leaf leaf).member = some m) (hrunning : m.running.isSome = true)
    (hcomplete : m.complete = false) (hengines : s.enginesRun leaf = true) (hidle : s.memberIdle leaf m = true) (hclean : s.dirtyRegions leaf m = [])
    (hunread : m.unread = []) (hremotes : ∀ r ∈ (s.leaf leaf).remotes, ∀ c n, r.party ≠ .region c n) :
    ∃ u, exec (.memberComplete leaf) s = .next u ∧ s.SameBytes u ∧
      (u.leaf leaf).member = some { m with complete := true } ∧ u.Told (s.placeOf leaf 0) fun k => .mdone k m.gang m.member := by
  let completed := (s.unpost (.memberComplete leaf)).onMember leaf fun m => { m with complete := true }
  have hrun : m.running.isNone = false := by simpa using hrunning
  have hexec : exec (.memberComplete leaf) s = .next (completed.tell (s.placeOf leaf 0) fun k => .mdone k m.gang m.member) := by
    change execMemberComplete leaf s = _
    simp [execMemberComplete, hm, hrun, hcomplete, hengines, hidle, hclean, State.writeBackAll, State.regionsOut_none hremotes, hunread, completed]
  have hbooked : s.Booked completed := rfl
  have hsent := completed.sent_tell (s.placeOf leaf 0) fun k => .mdone k m.gang m.member
  refine ⟨_, hexec, (hbooked.trans hsent.booked).sameBytes, ?_, completed.told_tell _ _⟩
  rw [hsent.leaf_eq, State.member_onMember, State.leaf_unpost, hm]
  rfl

/-- A change of a member that keeps who and where its gang's members are. -/
structure Member.KeepsPlaces (f : Member → Member) : Prop where
  gang : ∀ m, (f m).gang = m.gang
  member : ∀ m, (f m).member = m.member
  size : ∀ m, (f m).size = m.size
  placement : ∀ m, (f m).placement = m.placement

section
variable {f : Member → Member} (hf : Member.KeepsPlaces f)
include hf

theorem State.leafHolding_onMember (s : State) (leaf gang member : Nat) : (s.onMember leaf f).leafHolding gang member = s.leafHolding gang member := by
  unfold State.leafHolding
  congr 1
  funext l
  by_cases h : l = leaf
  · rw [h, State.member_onMember]
    cases (s.leaf leaf).member with
    | none => rfl
    | some m => simp only [Option.map_some, hf.gang, hf.member]
  · rw [State.onMember, State.leaf_onLeaf_other _ _ h]

theorem State.placeOf_onMember (s : State) (leaf dst : Nat) : (s.onMember leaf f).placeOf leaf dst = s.placeOf leaf dst := by
  unfold State.placeOf
  rw [State.member_onMember]
  cases (s.leaf leaf).member with
  | none => rfl
  | some m =>
    simp only [Option.map_some, hf.gang, hf.placement, s.leafHolding_onMember hf]
    rfl

theorem State.placesOf_onMember (s : State) (leaf : Nat) : (s.onMember leaf f).placesOf leaf = s.placesOf leaf := by
  unfold State.placesOf
  rw [State.member_onMember]
  cases (s.leaf leaf).member with
  | none => rfl
  | some m => simp only [Option.map_some, hf.size, funext (s.placeOf_onMember hf leaf)]

end

/-- A member that has counted another's completion (R436). -/
def Member.countDone (member : Nat) (m : Member) : Member := { m with mdones := m.mdones ++ [member] }

theorem Member.keepsPlaces_countDone (member : Nat) : Member.KeepsPlaces (Member.countDone member) :=
  ⟨fun _ => rfl, fun _ => rfl, fun _ => rfl, fun _ => rfl⟩

theorem last_mdone_ends_launch {s : State} {leaf member pid : Nat} {m : Member} (hm : (s.leaf leaf).member = some m)
    (hleads : s.leafHolding m.gang 0 = some leaf) (hrunning : m.running = some pid) (hall : ∀ n < m.size, n ∈ m.mdones ++ [member]) :
    ∃ u, exec (.mdone leaf m.gang member) s = .next u ∧ s.SameBytes u ∧ ∀ place ∈ s.placesOf leaf, u.Told place fun k => .launchOver k m.gang := by
  let past := s.unpost (.mdone leaf m.gang member)
  let counted := past.onMember leaf (Member.countDone member)
  have hexec : exec (.mdone leaf m.gang member) s =
      .next (counted.tellAll (pidPlace pid :: counted.placesOf leaf).eraseDups fun k => .launchOver k m.gang) := by
    change execMdone leaf m.gang member s = _
    simp only [execMdone, hleads, ne_eq, not_true_eq_false, if_false, State.member_onMember, State.leaf_unpost, hm, Option.map_some, hrunning,
      all_contains_of_mem hall, if_true]
    rfl
  have hbooked : s.Booked counted := rfl
  refine ⟨_, hexec, (hbooked.trans (counted.sent_tellAll _ _).booked).sameBytes, fun place hplace => counted.told_tellAll _ ?_⟩
  have hplaces : counted.placesOf leaf = s.placesOf leaf := past.placesOf_onMember (Member.keepsPlaces_countDone member) leaf
  rw [List.mem_eraseDups, hplaces]
  exact List.mem_cons_of_mem _ hplace

/-- Settles O48, event by event. At GO no step but a switch that begins changes the phase of the leaf (State.SamePhases,
State.phase_prepare); the other events send (State.Sent) after a change of the leaf's record. That the end of a launch is told to every
member is the model's own: by R436 its leader reports it. -/
theorem membersReturn : Obligations.MembersReturn := by
  intro s leaf m l hm
  exact ⟨fun hup howed => restored_tells_ready hm hup howed,
    fun _ _ hr hstarting hall => last_ready_tells_go hr hstarting hall,
    fun hresuming hdust hheld => member_goes hm hresuming hdust hheld,
    fun hresuming hlate => start_times_out hm hresuming hlate,
    fun hrunning hcomplete hengines hidle hclean hunread hremotes => member_completes hm hrunning hcomplete hengines hidle hclean hunread hremotes,
    fun _ _ hleads hrunning hall => last_mdone_ends_launch hm hleads hrunning hall⟩

end Machine

end Sys2Proof
end

section
/-! PROOFS. What a scalar form leaves unchanged (O5). -/

namespace Sys2Proof

namespace Machine

/-! A bundle that changed the strand's registers alone (State.wrote). -/

@[simp] theorem State.me_wrote (s : State) (t : Strand) : (s.wrote t).me = t.moved s.here := State.me_setStrand s _

theorem State.sameBytes_setStrand (s : State) (w : Nat) (x : Strand) : s.SameBytes (s.setStrand w x) :=
  ⟨fun _ => ⟨rfl, rfl, rfl, rfl⟩, fun _ _ => ⟨rfl, rfl, rfl, rfl, rfl, rfl, rfl, rfl⟩⟩

theorem State.sameOthers_wrote (s : State) (t : Strand) : s.SameOthers (s.wrote t) :=
  fun _ h => State.strand_setStrand_other s _ h

theorem State.onlyMe_setStrand (s : State) (x : Strand) : s.OnlyMe (s.setStrand s.cur x) := by
  rw [State.OnlyMe, State.me_setStrand]

@[simp] theorem Strand.rdS_moved (t : Strand) (f : Fetched) (n : BitVec 6) : (t.moved f).rdS n = t.rdS n := rfl
@[simp] theorem Strand.rdP_moved (t : Strand) (f : Fetched) (n : BitVec 6) : (t.moved f).rdP n = t.rdP n := rfl

/-- A write of a scalar register changes the scalar registers alone. -/
theorem Strand.wrS_sregs_only (t : Strand) (n : BitVec 6) (x : W64) : { t.wrS n x with sregs := t.sregs } = t := by
  unfold Strand.wrS
  split <;> rfl

/-- A write of a predicate changes the predicates alone. -/
theorem Strand.wrP_pregs_only (t : Strand) (n : BitVec 6) (b : Bool) : { t.wrP n b with pregs := t.pregs } = t := by
  unfold Strand.wrP
  split <;> rfl

theorem Strand.rdS_wrS_other (t : Strand) {n m : BitVec 6} (x : W64) (h : m ≠ n) : (t.wrS n x).rdS m = t.rdS m := by
  rw [Strand.rdS_wrS, if_neg fun e => h e.1]

@[simp] theorem Strand.rdP_wrS (t : Strand) (n m : BitVec 6) (x : W64) : (t.wrS n x).rdP m = t.rdP m := by
  unfold Strand.wrS
  split <;> rfl

@[simp] theorem Strand.rdS_wrP (t : Strand) (n m : BitVec 6) (b : Bool) : (t.wrP n b).rdS m = t.rdS m := by
  unfold Strand.wrP
  split <;> rfl

theorem Strand.physP_lt (t : Strand) (n : BitVec 6) : t.physP n.toNat < 64 := by
  unfold Strand.physP
  split <;> omega

/-- Renaming keeps predicates apart (R129). -/
theorem Strand.physP_ne (t : Strand) {n m : BitVec 6} (h : m ≠ n) : t.physP m.toNat ≠ t.physP n.toNat := by
  have hne : m.toNat ≠ n.toNat := fun e => h (BitVec.eq_of_toNat_eq e)
  have hm := m.isLt
  have hn := n.isLt
  unfold Strand.physP
  split <;> split <;> omega

theorem Strand.rdP_wrP_other (t : Strand) {n m : BitVec 6} (b : Bool) (h : m ≠ n) : (t.wrP n b).rdP m = t.rdP m := by
  unfold Strand.wrP
  split
  · rfl
  · have hbit := getLsbD_setBit t.pregs (t.physP n.toNat) (t.physP m.toNat) b (t.physP_lt m)
    rw [if_neg (t.physP_ne h)] at hbit
    unfold Strand.rdP
    split
    · rfl
    · exact hbit

/-! Scalar forms by what their plans write (R161, R169, R170). -/

/-- A syllable, no branch and no loop, that issues alone as its plan says, and whose plans are all of one kind. -/
structure Plans (i : Instr) (kind : Plan → Prop) : Prop where
  branch : isBranch i = false
  loop : ∀ o, i ≠ .loop o
  mloop : ∀ o, i ≠ .mloop o
  alone : ∀ s, exec i s = alone i (planOf i) s
  kind : ∀ s, kind (planOf i s)

/-- A plan that writes one scalar register. -/
def WritesScalar (d : BitVec 6) (p : Plan) : Prop := ∃ x, p = writeS d x

/-- A plan that writes one predicate. -/
def WritesPredicate (d : BitVec 6) (p : Plan) : Prop := ∃ b, p = writeP d b

theorem Plans.exec_writesScalar {s : State} {i : Instr} {d : BitVec 6} (h : Plans i (WritesScalar d)) (hclear : s.Clear i) :
    ∃ x, exec i s = .next (s.wrote (s.me.wrS d x)) := by
  obtain ⟨x, hx⟩ := h.kind (s.setStrand s.cur s.me)
  exact ⟨x, (h.alone s).trans (alone_writeS hclear (hclear.legal _ h.loop h.mloop) h.branch hx)⟩

theorem Plans.exec_writesPredicate {s : State} {i : Instr} {d : BitVec 6} (h : Plans i (WritesPredicate d)) (hclear : s.Clear i) :
    ∃ b, exec i s = .next (s.wrote (s.me.wrP d b)) := by
  obtain ⟨b, hb⟩ := h.kind (s.setStrand s.cur s.me)
  exact ⟨b, (h.alone s).trans (alone_writeP hclear (hclear.legal _ h.loop h.mloop) h.branch hb)⟩

theorem plans_rrr (o : Rrr) : ∀ i ∈ [Instr.add o, .sub o, .mul o, .mulh o, .mulhu o, .div o, .divu o, .rem o, .remu o, .andS o, .orS o,
    .xorS o, .andn o, .shl o, .shr o, .sar o, .rol o, .min o, .max o, .minu o, .maxu o], Plans i (WritesScalar o.d) := by
  intro i hi
  fin_cases hi <;> exact ⟨rfl, nofun, nofun, fun _ => rfl, fun _ => ⟨_, rfl⟩⟩

theorem plans_rri (o : Rri) : ∀ i ∈ [Instr.addi o, .muli o, .andi o, .ori o, .xori o, .shli o, .shri o, .sari o], Plans i (WritesScalar o.d) := by
  intro i hi
  fin_cases hi <;> exact ⟨rfl, nofun, nofun, fun _ => rfl, fun _ => ⟨_, rfl⟩⟩

theorem plans_rr (o : Rr) : ∀ i ∈ [Instr.clz o, .ctz o, .popc o, .brev o, .bswap o], Plans i (WritesScalar o.d) := by
  intro i hi
  fin_cases hi <;> exact ⟨rfl, nofun, nofun, fun _ => rfl, fun _ => ⟨_, rfl⟩⟩

theorem plans_rrrr (o : Rrrr) : ∀ i ∈ [Instr.sel o, .shadd o], Plans i (WritesScalar o.d) := by
  intro i hi
  fin_cases hi <;> exact ⟨rfl, nofun, nofun, fun _ => rfl, fun _ => ⟨_, rfl⟩⟩

theorem plans_ri24 (o : Ri24) : ∀ i ∈ [Instr.movi o, .movk o], Plans i (WritesScalar o.d) := by
  intro i hi
  fin_cases hi <;> exact ⟨rfl, nofun, nofun, fun _ => rfl, fun _ => ⟨_, rfl⟩⟩

theorem plans_widf (o : Widf) : Plans (.widf o) (WritesScalar o.d) :=
  ⟨rfl, nofun, nofun, fun _ => rfl, fun _ => ⟨_, rfl⟩⟩

theorem plans_predicate_rrr (o : Rrr) : ∀ i ∈ [Instr.cmpeq o, .cmpne o, .cmplt o, .cmpltu o, .cmple o, .cmpleu o, .pand o, .por o, .pxor o, .pandn o],
    Plans i (WritesPredicate o.d) := by
  intro i hi
  fin_cases hi <;> exact ⟨rfl, nofun, nofun, fun _ => rfl, fun _ => ⟨_, rfl⟩⟩

theorem plans_predicate_rri (o : Rri) : ∀ i ∈ [Instr.cmpeqi o, .cmpnei o, .cmplti o, .cmpgei o], Plans i (WritesPredicate o.d) := by
  intro i hi
  fin_cases hi <;> exact ⟨rfl, nofun, nofun, fun _ => rfl, fun _ => ⟨_, rfl⟩⟩

/-- What a scalar form leaves unchanged, its destinations d among the scalar registers and pd among the predicates. -/
def State.ScalarFrame (s t : State) (d pd : BitVec 6) : Prop :=
  (∀ n, n ≠ d → t.me.rdS n = s.me.rdS n) ∧ (∀ n, n ≠ pd → t.me.rdP n = s.me.rdP n) ∧
  { t.me with sregs := s.me.sregs, pregs := s.me.pregs } = s.me.moved s.here ∧
  s.SameBytes t ∧ s.SameOthers t ∧ s.OnlyMe t

theorem State.scalarFrame_wrS (s : State) (d pd : BitVec 6) (x : W64) : s.ScalarFrame (s.wrote (s.me.wrS d x)) d pd := by
  refine ⟨fun n hn => ?_, fun n _ => ?_, ?_, s.sameBytes_setStrand _ _, s.sameOthers_wrote _, s.onlyMe_setStrand _⟩
  · rw [State.me_wrote, Strand.rdS_moved, Strand.rdS_wrS_other _ _ hn]
  · rw [State.me_wrote, Strand.rdP_moved, Strand.rdP_wrS]
  · rw [State.me_wrote, ← Strand.wrS_pregs s.me d x]
    exact congrArg (Strand.moved · s.here) (s.me.wrS_sregs_only d x)

theorem State.scalarFrame_wrP (s : State) (d pd : BitVec 6) (b : Bool) : s.ScalarFrame (s.wrote (s.me.wrP pd b)) d pd := by
  refine ⟨fun n _ => ?_, fun n hn => ?_, ?_, s.sameBytes_setStrand _ _, s.sameOthers_wrote _, s.onlyMe_setStrand _⟩
  · rw [State.me_wrote, Strand.rdS_moved, Strand.rdS_wrP]
  · rw [State.me_wrote, Strand.rdP_moved, Strand.rdP_wrP_other _ _ hn]
  · rw [State.me_wrote, ← Strand.wrP_sregs s.me pd b]
    exact congrArg (Strand.moved · s.here) (s.me.wrP_pregs_only pd b)

theorem scalarFrame_of_writesScalar {s t : State} {i : Instr} {d : BitVec 6} (pd : BitVec 6) (h : Plans i (WritesScalar d)) (hclear : s.Clear i)
    (hexec : exec i s = .next t) : s.ScalarFrame t d pd := by
  obtain ⟨x, hx⟩ := h.exec_writesScalar hclear
  obtain rfl := Host.Outcome.next.inj (hx.symm.trans hexec)
  exact s.scalarFrame_wrS d pd x

theorem scalarFrame_of_writesPredicate {s t : State} {i : Instr} {pd : BitVec 6} (d : BitVec 6) (h : Plans i (WritesPredicate pd)) (hclear : s.Clear i)
    (hexec : exec i s = .next t) : s.ScalarFrame t d pd := by
  obtain ⟨b, hb⟩ := h.exec_writesPredicate hclear
  obtain rfl := Host.Outcome.next.inj (hb.symm.trans hexec)
  exact s.scalarFrame_wrP d pd b

/-- Settles O5: the plan of every such form writes one register (Plans), and with nothing in its way the bundle changes that register
alone and moves on (State.wrote). -/
theorem scalarFrame : Obligations.ScalarFrame := by
  intro s t i d pd hform hclear hexec
  have hscalar (h : Plans i (WritesScalar d)) := scalarFrame_of_writesScalar pd h hclear hexec
  have hpredicate (h : Plans i (WritesPredicate pd)) := scalarFrame_of_writesPredicate d h hclear hexec
  rcases hform with ⟨o, rfl, -, hi⟩ | ⟨o, rfl, -, hi⟩ | ⟨o, rfl, -, hi⟩ | ⟨o, rfl, -, hi⟩ | ⟨o, rfl, -, hi⟩ | ⟨o, rfl, -, rfl⟩ |
    ⟨o, rfl, -, hi⟩ | ⟨o, rfl, -, hi⟩
  · exact hscalar (plans_rrr o i hi)
  · exact hscalar (plans_rri o i hi)
  · exact hscalar (plans_rr o i hi)
  · exact hscalar (plans_rrrr o i hi)
  · exact hscalar (plans_ri24 o i hi)
  · exact hscalar (plans_widf o)
  · exact hpredicate (plans_predicate_rrr o i hi)
  · exact hpredicate (plans_predicate_rri o i hi)

end Machine

end Sys2Proof
end

section
/-! PROOFS. What fetch answers hangs on; branches and calls (O6), and delay bundles (O7). -/

namespace Sys2Proof

namespace Machine

/-! What fetch answers hangs on the strands by number and on the rest of the state, not on how strands are listed nor on how many free
values have been used (R82 to R94). -/

/-- The same strands by number, and the rest but the count of free values as it was. -/
structure State.FetchesAs (u s : State) : Prop where
  strand : ∀ w, u.strand w = s.strand w
  rest : u = { s with strands := u.strands, freeCount := u.freeCount }

theorem State.fetchesAs_relisted (s : State) : (s.setStrand s.cur s.me).FetchesAs s := ⟨s.strand_relisted, rfl⟩

theorem State.hbmRead_relisted (s : State) (m : FMap Strand) (k leaf off n : Nat) (see : BitVec 8 → Bool) :
    ({ s with strands := m, freeCount := k } : State).hbmRead leaf off n see = s.hbmRead leaf off n see := by
  induction n generalizing off with
  | zero => rfl
  | succ n ih =>
    simp only [State.hbmRead, ih]
    rfl

theorem State.physRead_relisted (s : State) (m : FMap Strand) (k : Nat) (key : BitVec 8) (p : Phys) (n : Nat) :
    ({ s with strands := m, freeCount := k } : State).physRead key p n = s.physRead key p n := by
  cases p with
  | hbm leaf off => exact s.hbmRead_relisted m k leaf off n _
  | host a => rfl
  | pool a => rfl
  | remote a b => rfl

namespace State.FetchesAs

variable {s u : State} (h : u.FetchesAs s)
include h

theorem physRead_eq (key : BitVec 8) (p : Phys) (n : Nat) : u.physRead key p n = s.physRead key p n := by
  rw [h.rest, State.physRead_relisted]

theorem core_eq (c : Nat) : u.core c = s.core c := by
  rw [h.rest]
  rfl

theorem memberOf_eq (who : Nat) : u.memberOf who = s.memberOf who := by
  rw [h.rest]
  rfl

theorem streamLimit_eq (who : Nat) : u.streamLimit who = s.streamLimit who := by
  simp only [State.streamLimit, h.memberOf_eq, h.strand]

theorem xip_eq (who : Nat) : u.xip who = s.xip who := by
  simp only [State.xip, h.memberOf_eq, h.strand]

theorem storeRead_eq (who a n : Nat) : u.storeRead who a n = s.storeRead who a n := by
  simp only [State.storeRead, h.core_eq, h.strand]

theorem codeUnit_eq (who n : Nat) : u.codeUnit who n = s.codeUnit who n := by
  simp only [State.codeUnit, h.memberOf_eq, h.core_eq, h.strand, h.physRead_eq, h.storeRead_eq]

theorem dictEntry_eq (who i : Nat) : u.dictEntry who i = s.dictEntry who i := by
  simp only [State.dictEntry, h.strand, h.storeRead_eq]

theorem lineOut_eq (who a b : Nat) : u.lineOut who a b = s.lineOut who a b := by
  simp only [State.lineOut, h.xip_eq, h.memberOf_eq, h.core_eq]

theorem unitPlaced_eq (who n : Nat) : u.unitPlaced who n = s.unitPlaced who n := by
  simp only [State.unitPlaced, h.memberOf_eq]

theorem fetchAt_eq (who pc : Nat) (r : Bool) : u.fetchAt who pc r = s.fetchAt who pc r := by
  simp only [State.fetchAt, h.streamLimit_eq, h.strand, h.xip_eq, h.codeUnit_eq, h.lineOut_eq, h.unitPlaced_eq, h.dictEntry_eq]

theorem bundleAt_eq (who pc : Nat) (r : Bool) : u.bundleAt who pc r = s.bundleAt who pc r := by
  simp only [State.bundleAt, h.strand, h.fetchAt_eq]

theorem located_eq (who : Nat) : u.located who = s.located who := by
  simp only [State.located, h.strand, h.bundleAt_eq]

theorem linkAt_eq (who : Nat) (f : Fetched) : u.linkAt who f = s.linkAt who f := by
  simp only [State.linkAt, h.bundleAt_eq]

end State.FetchesAs

/-! Branches (R95, R99, R174, R176). -/

@[simp] theorem Strand.branchTo_retiring (t : Strand) (a : Nat) (b : Bool) : (t.branchTo a b).retiring = t.retiring := rfl
@[simp] theorem Strand.branchTo_next (t : Strand) (a : Nat) (b : Bool) : (t.branchTo a b).next = t.next := rfl
@[simp] theorem Strand.branchTo_trapReq (t : Strand) (a : Nat) (b : Bool) : (t.branchTo a b).trapReq = t.trapReq := rfl

/-- A branch syllable, ERET aside, that issues alone and whose plan changes the strand's registers alone, leaving a branch to a target
pending: only where the strand stands changes beside. -/
theorem exec_branch {s : State} {i : Instr} {p : State → Plan} {g : Strand → Strand} {q : Pending} (hclear : s.Clear i) (hexec : exec i s = alone i p s)
    (hbranch : isBranch i = true) (heret : i ≠ .eret) (hplan : p (s.setStrand s.cur s.me) = .reg g) (hretiring : (g s.me).retiring = s.me.retiring)
    (hnext : (g s.me).next = s.me.next) (htrap : (g s.me).trapReq = s.me.trapReq) (hpend : (g s.me).pend = some q) :
    exec i s = .next (s.wrote (g s.me)) := by
  have hlegal : (loneWork i p s).legal s.here = true := by
    refine hclear.legal p (fun o e => ?_) (fun o e => ?_) <;> rw [e] at hbranch <;> cases hbranch
  rw [hexec]
  exact alone_branch hclear hlegal hbranch heret hplan (hretiring.trans hclear.goesOn) (hnext.trans hclear.next) (htrap.trans hclear.trapReq) hpend

/-- The link of a CALL whose delay bundles can both be read is the address after the second (R176). -/
theorem State.linkAt_decoded {s : State} {who : Nat} {f g h : Fetched} (hfirst : s.bundleAt who (f.addr + f.len) f.runs = .bundle g)
    (hg : g.cause = none) (hsecond : s.bundleAt who (g.addr + g.len) g.runs = .bundle h) (hh : h.cause = none) :
    s.linkAt who f = .inl (some (h.addr + h.len)) := by
  simp [State.linkAt, hfirst, hg, hsecond, hh]

theorem exec_br {s : State} {o : Bd} (h : s.Clear (.br o)) :
    exec (.br o) s = .next (s.wrote (s.me.branchTo (dispTarget s.me.pc o.disp) false)) := by
  have hplan : planBr o (s.setStrand s.cur s.me) = .reg fun t => t.branchTo (dispTarget s.me.pc o.disp) false := by
    rw [planBr, State.me_relisted]
  exact exec_branch h rfl rfl nofun hplan rfl rfl rfl rfl

theorem exec_banksw {s : State} {o : Bd} (h : s.Clear (.banksw o)) :
    exec (.banksw o) s = .next (s.wrote (s.me.branchTo (dispTarget s.me.pc o.disp) (!s.me.super))) := by
  have hplan : planBanksw o (s.setStrand s.cur s.me) = .reg fun t => t.branchTo (dispTarget s.me.pc o.disp) (!t.super) := by
    rw [planBanksw, State.me_relisted]
  exact exec_branch h rfl rfl nofun hplan rfl rfl rfl rfl

theorem exec_bri {s : State} {o : Bs} (h : s.Clear (.bri o)) :
    exec (.bri o) s = .next (s.wrote (s.me.branchTo (s.me.rdS o.sl).toNat false)) := by
  have hplan : planBri o (s.setStrand s.cur s.me) = .reg fun t => t.branchTo (s.me.rdS o.sl).toNat false := by
    rw [planBri, State.me_relisted]
  exact exec_branch h rfl rfl nofun hplan rfl rfl rfl rfl

theorem exec_ret {s : State} {o : Bs} (h : s.Clear (.ret o)) :
    exec (.ret o) s = .next (s.wrote (s.me.branchTo (s.me.rdS o.sl).toNat false)) := by
  have hplan : planRet o (s.setStrand s.cur s.me) = .reg fun t => t.branchTo (s.me.rdS o.sl).toNat false := by
    rw [planRet, State.me_relisted]
  exact exec_branch h rfl rfl nofun hplan rfl rfl rfl rfl

theorem exec_call {s : State} {o : Bsd} {g h : Fetched} (hclear : s.Clear (.call o))
    (hfirst : s.bundleAt s.cur (s.here.addr + s.here.len) s.here.runs = .bundle g) (hg : g.cause = none)
    (hsecond : s.bundleAt s.cur (g.addr + g.len) g.runs = .bundle h) (hh : h.cause = none) :
    exec (.call o) s = .next (s.wrote ((s.me.wrS o.sl (BitVec.ofNat 64 (h.addr + h.len))).branchTo (dispTarget s.me.pc o.disp) false)) := by
  have hlink : s.linkAt s.cur (s.located s.cur) = .inl (some (h.addr + h.len)) := State.linkAt_decoded hfirst hg hsecond hh
  have hplan : planCall o (s.setStrand s.cur s.me) =
      .reg fun t => (t.wrS o.sl (BitVec.ofNat 64 (h.addr + h.len))).branchTo (dispTarget s.me.pc o.disp) false := by
    rw [planCall, s.fetchesAs_relisted.located_eq, s.fetchesAs_relisted.linkAt_eq, State.me_relisted, State.setStrand_cur, hlink]
  exact exec_branch hclear rfl rfl nofun hplan (by simp) (by simp) (by simp) rfl

/-- Settles O6: each plan leaves a branch pending (Strand.branchTo), beside which the bundle moves on (exec_branch); CALL's link is the
address after its delay bundles (State.linkAt_decoded). -/
theorem branchesAndCalls : Obligations.BranchesAndCalls :=
  ⟨fun _ => ⟨fun _ => ⟨exec_br, exec_banksw⟩, fun _ => ⟨exec_bri, exec_ret⟩⟩,
   fun _ _ _ _ hclear hfirst hg hsecond hh => exec_call hclear hfirst hg hsecond hh⟩

/-! Delay bundles (R95, R99). -/

/-- A delay bundle that has issued changes where the strand stands alone. -/
theorem Strand.delayed_eq (t : Strand) (p : Pending) :
    t.delayed p = { t with pend := (t.delayed p).pend, pc := (t.delayed p).pc, inRun := (t.delayed p).inRun, bank := (t.delayed p).bank,
                           ibuf := (t.delayed p).ibuf } := by
  unfold Strand.delayed
  split
  · rfl
  · split
    · rfl
    · split <;> rfl

theorem Strand.delayed_trapReq (t : Strand) (p : Pending) : (t.delayed p).trapReq = t.trapReq := by
  rw [t.delayed_eq p]

theorem Strand.delayed_last (t : Strand) (p : Pending) (a : Nat) : { t.delayed p with last := a } = { t with last := a }.delayed p := by
  unfold Strand.delayed
  split
  · rfl
  · split
    · rfl
    · split <;> rfl

/-- After the first delay bundle the second is to come. -/
theorem Strand.delayed_first (t : Strand) {p : Pending} (h : 1 < p.left) : t.delayed p = { t with pend := some { p with left := p.left - 1 } } :=
  if_pos h

/-- After the second delay bundle of a taken branch issue goes to the target, in the other bank for a BANKSW. -/
theorem Strand.delayed_taken (t : Strand) {p : Pending} {a : Nat} (h : p.left ≤ 1) (htarget : p.target = some a) :
    (t.delayed p).pend = none ∧ (t.delayed p).pc = a ∧ (t.delayed p).inRun = false ∧ (t.delayed p).bank = (t.bank != p.bsw) := by
  rw [Strand.delayed, if_neg (Nat.not_lt.mpr h), htarget]
  cases hbsw : p.bsw <;> simp [Strand.jump]

/-- After the second delay bundle of a branch that is not taken issue goes on, with no branch pending. -/
theorem Strand.delayed_untaken (t : Strand) {p : Pending} (h : p.left ≤ 1) (htarget : p.target = none) :
    (t.delayed p).pend = none ∧ (t.delayed p).pc = t.pc ∧ (t.delayed p).bank = t.bank := by
  rw [Strand.delayed, if_neg (Nat.not_lt.mpr h), htarget]
  exact ⟨rfl, rfl, rfl⟩

/-- What a delay bundle that holds no branch syllable advances: issue goes on to its successor, and from there as the pending branch
says. -/
theorem Strand.advance_delay (t : Strand) (f : Fetched) {p : Pending} (hpend : t.pend = some p) (hretiring : t.retiring = false)
    (hnext : t.next = none) (htrap : t.trapReq = none) : { t.advance t f false with last := f.addr } = (t.moved f).delayed p := by
  have hadvance : t.advance t f false = ({ t with ibuf := t.ibuf.filter fun g => g.addr != f.addr || g.inRun != f.inRun }.goto
      (f.addr + f.len) f.runs).delayed p := by
    simp only [Strand.advance, hretiring, hnext, hpend, Bool.false_eq_true, if_false, Strand.delayed_trapReq, Strand.goto, htrap]
  rw [hadvance, Strand.delayed_last]
  rfl

/-- A delay bundle that holds a NOP. -/
theorem exec_nop_delay {s : State} {p : Pending} (hpend : s.me.pend = some p) (h : s.Unheld .nop) (hbody0 : s.me.atEnd s.here false = false)
    (hbody1 : s.me.atEnd s.here true = false) : exec .nop s = .next (s.setStrand s.cur ((s.me.moved s.here).delayed p)) := by
  have hloop : s.me.loopBranch s.here [loneWork .nop planNop s] = false := by simp [Strand.loopBranch, hbody0, hbody1]
  have hcommit := alone_commit h (h.legal planNop) hloop (.inr rfl) (g := id) rfl
  have hadvance := s.me.advance_delay s.here hpend h.goesOn h.next h.trapReq
  have hstrand : (s.setStrand s.cur s.me).onMe (fun t => { s.me.advance t s.here false with last := s.here.addr }) =
      s.setStrand s.cur ((s.me.moved s.here).delayed p) := by
    rw [State.onMe_eq, State.me_relisted, State.setStrand_cur, State.setStrand_setStrand, hadvance]
  have htrap : ((s.setStrand s.cur ((s.me.moved s.here).delayed p)).strand s.cur).trapReq = none := by
    rw [State.strand_setStrand_same, Strand.delayed_trapReq]
    exact h.trapReq
  have hsettle := State.settle_none (s.setStrand s.cur ((s.me.moved s.here).delayed p)) htrap
  exact hcommit.trans (congrArg Host.Outcome.next ((congrArg (State.settle · s.cur) hstrand).trans hsettle))

/-- Settles O7: the strand has moved on and its pending branch has one delay bundle fewer to come (Strand.delayed). -/
theorem delayBundles : Obligations.DelayBundles := by
  intro s p hpend h hbody0 hbody1
  refine ⟨_, exec_nop_delay hpend h hbody0 hbody1, s.onlyMe_setStrand _, ?_⟩
  rw [State.me_setStrand]
  refine ⟨fun hleft => ?_, fun a hleft htarget => Strand.delayed_taken _ hleft htarget, fun hleft htarget => Strand.delayed_untaken _ hleft htarget,
    fun n m v => ?_⟩
  · rw [Strand.delayed_first _ hleft]
    exact ⟨rfl, rfl, rfl⟩
  · rw [Strand.delayed_eq]
    exact ⟨rfl, rfl, rfl⟩

end Machine

end Sys2Proof
end

section
/-! PROOFS. Words written out from the encoding tables (O56), and what a step runs (O58). -/

namespace Sys2Proof

namespace Machine

/-- Settles O56: each word decodes as written, by evaluation. -/
theorem decodeWords : Obligations.DecodeWords :=
  ⟨rfl, rfl, rfl, rfl, rfl, rfl, rfl, rfl, rfl, rfl, rfl, by decide +kernel⟩

/-! The turn of a core (R80, R82, R102). -/

/-- A map that answers at one element of a list alone, which stands in it once, lists that answer. -/
theorem filterMap_eq_singleton {α β : Type} {l : List α} {g : α → Option β} {a : α} {b : β} (hl : l.Nodup) (ha : a ∈ l) (hb : g a = some b)
    (hothers : ∀ x, x ≠ a → g x = none) : l.filterMap g = [b] := by
  obtain ⟨pre, post, rfl⟩ := List.append_of_mem ha
  have hapart : a ∉ pre ++ post := (List.nodup_cons.mp (List.nodup_middle.mp hl)).1
  have hrest : (pre ++ post).filterMap g = [] := List.filterMap_eq_nil_iff.mpr fun x hx => hothers x fun e => hapart (e ▸ hx)
  obtain ⟨hpre, hpost⟩ := List.append_eq_nil_iff.mp ((List.filterMap_append ..).symm.trans hrest)
  rw [List.filterMap_append, List.filterMap_cons_some hb, hpre, hpost, List.nil_append]

/-- What the slot sl of a bundle brings to its issue (R102, R110). -/
def State.workAt (s : State) (f : Fetched) (sl : Slot) : Option Work :=
  match decodeSyllable sl.cls (rawSyllable f.raw sl) with
  | .error _ => some { slot := sl, guard := true, bad := true, syl := rawSyllable f.raw sl, instr := .nop, plan := fun _ => .go id }
  | .ok y =>
    if y.instr = .nop then none
    else some { slot := sl, guard := s.me.rdP y.pred != y.sense, bad := false, syl := rawSyllable f.raw sl, instr := y.instr, plan := planOf y.instr }

theorem State.works_eq (s : State) (f : Fetched) : s.works f = allSlots.filterMap (s.workAt f) := rfl

/-- A slot that holds a NOP brings nothing. -/
theorem State.workAt_nop {s : State} {f : Fetched} {sl : Slot} {y : Syllable} (hdecode : decodeSyllable sl.cls (rawSyllable f.raw sl) = .ok y)
    (hnop : y.instr = .nop) : s.workAt f sl = none := by
  simp only [State.workAt, hdecode, hnop, if_true]

/-- A bundle whose slots but one hold NOPs, and this one a syllable whose guard holds, is one work. -/
theorem State.works_one {s : State} {f : Fetched} {sl : Slot} {y : Syllable} (hdecode : decodeSyllable sl.cls (rawSyllable f.raw sl) = .ok y)
    (hinstr : y.instr ≠ .nop) (hguard : s.me.rdP y.pred ≠ y.sense)
    (hothers : ∀ x, x ≠ sl → ∃ z, decodeSyllable x.cls (rawSyllable f.raw x) = .ok z ∧ z.instr = .nop) :
    s.works f = [{ slot := sl, guard := true, bad := false, syl := rawSyllable f.raw sl, instr := y.instr, plan := planOf y.instr }] := by
  have hslots : allSlots.Nodup := by decide
  have hsl : sl ∈ allSlots := by cases sl <;> decide
  have hbrings : s.workAt f sl =
      some { slot := sl, guard := true, bad := false, syl := rawSyllable f.raw sl, instr := y.instr, plan := planOf y.instr } := by
    have hg : (s.me.rdP y.pred != y.sense) = true := bne_iff_ne.mpr hguard
    simp only [State.workAt, hdecode, if_neg hinstr, hg]
  rw [State.works_eq]
  refine filterMap_eq_singleton hslots hsl hbrings fun x hx => ?_
  obtain ⟨z, hz, hnop⟩ := hothers x hx
  exact State.workAt_nop hz hnop

/-- A strand that may issue and whose bundle is one work with its guard true issues that syllable. -/
theorem State.turnOf_one {s : State} {f : Fetched} {w : Work} (hissue : s.canIssue s.cur = true) (hrefetch : s.me.refetch = 0)
    (hbundle : s.bundleAt s.cur s.me.pc s.me.inRun = .bundle f) (hcause : f.cause = none) (hworks : s.works f = [w]) (hguard : w.guard = true)
    (hbad : w.bad = false) : s.turnOf = .one w.slot w.instr := by
  simp [State.turnOf, hissue, hrefetch, hbundle, hcause, hworks, hguard, hbad]

/-- The turn of a core has come: its arbiter has chosen (R80). -/
def State.turned (s : State) : State := { s.arbited s.turn with turn := s.turn + 1 }

theorem coreStep_eq (s : State) : coreStep s = match s.turned.turnOf with
    | .idle => .next s.turned
    | .refetch => .next (s.turned.onMe Strand.refetched)
    | .fill l => .next (s.turned.askLine (coreOf s.turned.cur) l)
    | .fetchTrap c a => .next (s.turned.takeTrap s.turned.cur c .s0 true (if c = FETCHXL then some a else none) 0)
    | .one sl i => exec i { s.turned with slot := sl }
    | .bundle f ws => .next (s.turned.issue f ws) := by
  unfold coreStep
  rfl

/-- The core whose turn it is runs the one syllable of the bundle that its strand issues. -/
theorem coreStep_one {s : State} {f : Fetched} {w : Work} (hissue : s.turned.canIssue s.turned.cur = true) (hrefetch : s.turned.me.refetch = 0)
    (hbundle : s.turned.bundleAt s.turned.cur s.turned.me.pc s.turned.me.inRun = .bundle f) (hcause : f.cause = none)
    (hworks : s.turned.works f = [w]) (hguard : w.guard = true) (hbad : w.bad = false) :
    coreStep s = exec w.instr { s.turned with slot := w.slot } := by
  rw [coreStep_eq, State.turnOf_one hissue hrefetch hbundle hcause hworks hguard hbad]

theorem step_turn {s : State} (hon : s.powered = true) (hdue : s.overdue = none) (hturn : s.turn < 128) : step s = coreStep s := by
  have hcore : s.turn < coreCount := hturn
  simp [step, hon, hdue, hcore]

/-! Dictionary entries (R82, R84). -/

section
variable {s : State} {who : Nat} {m : Member} (hm : s.memberOf who = some m) (huser : (s.strand who).super = false) (hstored : m.flag 2 = false)
include hm hstored

theorem State.xip_stored : s.xip who = false := by
  simp only [State.xip, hm, hstored, Bool.false_and]

theorem State.lineOut_stored (a b : Nat) : s.lineOut who a b = none := by
  simp [State.lineOut, State.xip_stored hm hstored]

include huser

theorem State.codeUnit_stored (hseen : (s.strand who).view = []) (n : Nat) :
    s.codeUnit who n = BitVec.ofNat 16 ((s.core (coreOf who)).istore.readNat ((if (s.strand who).bank then 65536 else 0) + 2 * n) 2) := by
  simp [State.codeUnit, hm, huser, hstored, State.storeRead, hseen]

/-- Outside a run, a code unit of the instruction store below 1,024 names a dictionary entry of its bank. -/
theorem State.fetchAt_dict {pc : Nat} (hseen : (s.strand who).view = []) (hpc : pc < m.codeLim)
    (hindex : (s.core (coreOf who)).istore.readNat ((if (s.strand who).bank then 65536 else 0) + 2 * pc) 2 < 1024) :
    s.fetchAt who pc false = .bundle
      { addr := pc, inRun := false, bank := (s.strand who).bank, len := 1, runs := false, cause := none, causeAddr := 0,
        raw := s.dictEntry who ((s.core (coreOf who)).istore.readNat ((if (s.strand who).bank then 65536 else 0) + 2 * pc) 2) } := by
  have hlimit : s.streamLimit who = m.codeLim := by simp [State.streamLimit, hm, huser]
  have hunit (i : Nat) := State.codeUnit_stored hm huser hstored hseen (pc + i)
  have hxip := State.xip_stored hm hstored
  generalize hn : (s.core (coreOf who)).istore.readNat ((if (s.strand who).bank then 65536 else 0) + 2 * pc) 2 = n at hindex ⊢
  have hfirst : s.codeUnit who pc = BitVec.ofNat 16 n := by rw [← hn]; exact hunit 0
  have hindex16 : (BitVec.ofNat 16 n).toNat = n := by rw [BitVec.toNat_ofNat, Nat.mod_eq_of_lt (by omega)]
  have hspan (u : CodeUnit) : unitSpan false (BitVec.ofNat 16 n) u = 1 := by
    rw [unitSpan, hindex16]
    simp; omega
  have hread : readUnits false false [BitVec.ofNat 16 n] = .dict n := by
    simp [readUnits, hindex16, hindex]
  simp [State.fetchAt, hlimit, hxip, State.lineOut_stored hm hstored, hpc, hfirst, hspan, huser, Nat.not_le.mpr hpc, hread]

end

/-- The bundle at a pc of the active bank is the dictionary entry that its code unit names. -/
theorem dictionary_bundle {s : State} {who : Nat} {m : Member} (hempty : (s.strand who).ibuf = []) (hseen : (s.strand who).view = [])
    (hm : s.memberOf who = some m) (huser : (s.strand who).super = false) (hstored : m.flag 2 = false) (hrun : (s.strand who).inRun = false)
    (hpc : (s.strand who).pc < m.codeLim) :
    let t := s.strand who
    let base := if t.bank then 65536 else 0
    let n := (s.core (coreOf who)).istore.readNat (base + 2 * t.pc) 2
    n < 1024 → ∃ f, s.bundleAt who t.pc t.inRun = .bundle f ∧ f.cause = none ∧ f.addr = t.pc ∧ f.len = 1 ∧ f.runs = false ∧
      f.raw = BitVec.ofNat 384 ((s.core (coreOf who)).istore.readNat (base + 0x4000 + 48 * n) 48) := by
  intro t base n hindex
  have hbundle : s.bundleAt who t.pc t.inRun = s.fetchAt who t.pc false := by simp [State.bundleAt, t, hempty, hrun]
  have hentry : s.dictEntry who n = BitVec.ofNat 384 ((s.core (coreOf who)).istore.readNat (base + 0x4000 + 48 * n) 48) := by
    simp [State.dictEntry, State.storeRead, hseen, base, t]
  exact ⟨_, hbundle.trans (State.fetchAt_dict hm huser hstored hseen hpc hindex), rfl, rfl, rfl, rfl, hentry⟩

/-- Settles O58: a turn of a core runs the one work of the bundle that its strand issues (State.works_one, coreStep_one), and a code unit
below 1,024 answers a dictionary entry (State.fetchAt_dict). That an event that is due runs first, and which core's turn comes, are the
model's choice (log 19). -/
theorem stepRunsDecoded : Obligations.StepRunsDecoded := by
  intro s
  refine ⟨fun hon e v hdue => step_overdue hon hdue, fun hon hdue hturn => ?_, fun who m => ?_⟩
  · intro u sl y f hissue hrefetch hbundle hcause hdecode hinstr hguard hothers
    have hworks := State.works_one hdecode hinstr hguard hothers
    exact (step_turn hon hdue hturn).trans (coreStep_one hissue hrefetch hbundle hcause hworks rfl rfl)
  · intro t base n hempty hseen hm huser hstored hrun hpc hindex
    exact dictionary_bundle hempty hseen hm huser hstored hrun hpc hindex

end Machine

end Sys2Proof
end

section
/-! PROOFS. Decoding ahead, fetch lines, dictionaries and region fills (O39). -/

namespace Sys2Proof

/-- A byte outside a cleared range stays. -/
theorem Mem.read_clear_out (m : Mem) {a n j : Nat} (hj : j < a ∨ a + n ≤ j) : (m.clear a n).read j = m.read j := by
  induction m with
  | nil => rfl
  | cons c t ih =>
    obtain ⟨b, v⟩ := c
    have hrest : Mem.read (List.filter (fun c => decide (c.1 < a) || decide (a + n ≤ c.1)) t) j = Mem.read t j := ih
    by_cases hkept : b < a ∨ a + n ≤ b
    · simp [Mem.clear, hkept, Mem.read, hrest]
    · have hb : b ≠ j := by omega
      simp [Mem.clear, hkept, Mem.read, hrest, hb]

namespace Machine

/-! A choice among one, which uses a free value. -/

/-- One more free value has been used. -/
def State.freed (s : State) : State := { s with freeCount := s.freeCount + 1 }

@[simp] theorem State.strand_freed (s : State) (w : Nat) : s.freed.strand w = s.strand w := rfl

/-- Fetch does not answer from the count of free values. -/
theorem State.fetchesAs_freed (s : State) : s.freed.FetchesAs s := ⟨fun _ => rfl, rfl⟩

theorem State.choose_one {α : Type} (s : State) (x : α) : s.choose [x] = (some x, s.freed) := by
  simp [State.choose, State.fresh, State.freed, Nat.mod_one]

/-! Decoding ahead (R93). -/

/-- A strand with nothing decoded and no branch pending decodes ahead at its pc alone. -/
theorem Strand.aheadOf_empty {t : Strand} (hempty : t.ibuf = []) (hpend : t.pend = none) : t.aheadOf = [(t.bank, t.pc, t.inRun)] := by
  have hpath (b : Bool) (pc : Nat) (r : Bool) : t.path b pc r = [] := by simp [Strand.path, hempty, pathOf]
  simp [Strand.aheadOf, Strand.pathEnd, hpath, hpend]

theorem State.chooseView_fresh {s : State} {who : Nat} (h : (s.strand who).stale = []) : s.chooseView who = s := by
  simp [State.chooseView, h]

/-- In the bank that issue is in, fetch answers as it does for issue. -/
theorem State.fetchIn_here (s : State) (who pc : Nat) (r : Bool) : s.fetchIn who (s.strand who).bank pc r = s.fetchAt who pc r := by
  rw [State.fetchIn, beq_self_eq_true, if_pos rfl]

/-- A bundle has been decoded ahead. -/
def State.decodeAhead (s : State) (who : Nat) (f : Fetched) : State := s.onStrand who fun t => { t with ibuf := t.ibuf ++ [f] }

theorem State.strand_decodeAhead (s : State) (who : Nat) (f : Fetched) :
    (s.decodeAhead who f).strand who = { s.strand who with ibuf := (s.strand who).ibuf ++ [f] } := State.strand_onStrand s who _

section
variable {s : State} {who : Nat} {f : Fetched} (hrunning : (s.strand who).running.isSome = true) (hacts : s.strandActs who = true)
  (hempty : (s.strand who).ibuf = []) (hpend : (s.strand who).pend = none) (hstale : (s.strand who).stale = [])
  (hfetch : s.fetchAt who (s.strand who).pc (s.strand who).inRun = .bundle f)
include hrunning hacts hempty hpend hstale hfetch

theorem exec_bundleFetch_first : exec (.bundleFetch who) s = .next (s.freed.decodeAhead who f) := by
  have hrun : (s.strand who).running.isNone = false := by simpa using hrunning
  have hin : s.freed.fetchIn who (s.strand who).bank (s.strand who).pc (s.strand who).inRun = .bundle f := by
    rw [← s.strand_freed, State.fetchIn_here, s.fetchesAs_freed.fetchAt_eq, State.strand_freed, hfetch]
  change execBundleFetch who s = _
  simp only [execBundleFetch, hrun, hacts, State.chooseView_fresh hstale, Strand.aheadOf_empty hempty hpend, State.choose_one, Bool.not_true,
    Bool.false_eq_true, if_false]
  rw [hin]
  rfl

theorem bundle_fetched :
    ∃ u, exec (.bundleFetch who) s = .next u ∧ (u.strand who).ibuf = [f] ∧ (u.strand who).pc = (s.strand who).pc ∧ s.SameBytes u := by
  refine ⟨_, exec_bundleFetch_first hrunning hacts hempty hpend hstale hfetch, ?_, ?_, s.freed.sameBytes_setStrand who _⟩
  · rw [State.strand_decodeAhead, State.strand_freed, hempty, List.nil_append]
  · rw [State.strand_decodeAhead, State.strand_freed]

end

/-! Fetch lines (R91). -/

/-- The line that has come stands in the instruction cache. -/
theorem State.find_fillLine (s : State) (core line : Nat) (x : BitVec 512) : ((s.fillLine core line x).core core).icache.find? line = some x := by
  simp [State.fillLine, State.onCore]

/-- A line of host memory is read past L1 as it stands. -/
theorem State.readLines_host (s : State) (who : Nat) (party : Party) (line a : Nat) :
    s.readLines who party false [(line, .host a)] = (s, [(line, BitVec.ofNat 512 (s.host.readNat a 64))], true) := rfl

theorem fetch_line_comes {s : State} {core : Nat} {line : W64} {a : Nat} (hmember : (s.leaf (leafOfCore core)).member.isSome = true)
    (hruns : s.enginesRun (leafOfCore core) = true) (hplace : s.reachLine (leafOfCore core) needEx line.toNat = .inl (.host a)) :
    ∃ v, exec (.fetchLineFill core line) s = .next v ∧ (v.core core).icache.find? line.toNat = some (BitVec.ofNat 512 (s.host.readNat a 64)) := by
  have hsome : (s.leaf (leafOfCore core)).member.isNone = false := by simpa using hmember
  have hexec : exec (.fetchLineFill core line) s =
      .next (((s.unpost (.fetchLineFill core line)).forget (leafOfCore core) (.fetch (4 * core))).fillLine core line.toNat
        (BitVec.ofNat 512 (s.host.readNat a 64))) := by
    change execFetchLineFill core line s = _
    simp only [execFetchLineFill, hsome, hruns, hplace, State.readLines_host, Bool.not_true, Bool.false_eq_true, if_false]
  exact ⟨_, hexec, State.find_fillLine _ core line.toNat _⟩

/-! What a party reads for a strand (R222, R249, R289). -/

/-- A strand with no buffered store lays nothing over what it loads. -/
theorem forwarded_none {t : Strand} (h : t.stores = []) (before va n x : Nat) : forwarded t before va n x = x % 2 ^ (8 * n) := by
  simp [forwarded, h]

/-- Finding where a line lies reads nothing. -/
theorem State.reachLine_ne_done (s u : State) (leaf : Nat) (need : Need) (line x : Nat) : s.reachLine leaf need line ≠ .inr (.done u x) := by
  unfold State.reachLine
  extract_lets va
  split
  case h_5 e _ =>
    extract_lets p
    split
    · split <;> nofun
    all_goals nofun
  all_goals nofun

theorem State.reachLines_ne_done (s u : State) (leaf : Nat) (need : Need) (lines : List Nat) (x : Nat) :
    s.reachLines leaf need lines ≠ .inr (.done u x) := by
  induction lines with
  | nil => nofun
  | cons l t ih =>
    have hline := s.reachLine_ne_done u leaf need l x
    simp only [State.reachLines]
    split
    · next r hr => exact fun e => hline (hr.trans (congrArg Sum.inr (Sum.inr.inj e)))
    · split
      · next r hr => rwa [hr] at ih
      · nofun

/-- What is read of n bytes is a number of 8 n bits. -/
theorem State.readFor_lt {s u : State} {who : Nat} {party : Party} {weak : Bool} {va n x : Nat} (h : s.readFor who party weak va n = .done u x) :
    x < 2 ^ (8 * n) := by
  unfold State.readFor at h
  split at h
  · next r hr => exact absurd (hr.trans (congrArg Sum.inr h)) (s.reachLines_ne_done u _ _ _ x)
  · dsimp only at h
    split at h
    · obtain ⟨-, rfl⟩ := Reach.done.inj h
      exact Nat.mod_lt _ (Nat.two_pow_pos _)
    · cases h

/-! Dictionaries (R429). -/

/-- Units written over are noted at strands alone (R97). -/
theorem State.core_staleUnits (s : State) (core a n c : Nat) : (s.staleUnits core a n).core c = s.core c := by
  unfold State.staleUnits
  exact List.foldlRecOn (motive := fun u => State.core u c = s.core c) _ _ rfl fun _ h _ _ => h

/-- The bytes of a dictionary have come for a strand: they land in its instruction store, and the strand goes on. -/
def State.landDictionary (u : State) (who va n base h x : Nat) : State :=
  let noted := (((u.unpost (.dictldDone who)).countBytes (leafOf who) va n).forget (leafOf who) (.bundle who)).staleUnits (coreOf who) base n
  (noted.onCore (coreOf who) fun c => { c with istore := c.istore.writeNat base n x }).onStrand who fun t =>
    { t with hold := none, holdStarted := some h }

theorem State.strand_landDictionary (u : State) (who va n base h x : Nat) :
    ((u.landDictionary who va n base h x).strand who).hold = none ∧ ((u.landDictionary who va n base h x).strand who).holdStarted = some h := by
  rw [State.landDictionary, State.strand_onStrand]
  exact ⟨rfl, rfl⟩

@[simp] theorem State.core_countBytes (s : State) (l va n c : Nat) : (s.countBytes l va n).core c = s.core c := by
  obtain ⟨v, hv⟩ := s.countBytes_eq l va n
  rw [hv]
  rfl

@[simp] theorem State.core_forget (s : State) (l : Nat) (p : Party) (c : Nat) : (s.forget l p).core c = s.core c := rfl

@[simp] theorem State.core_onStrand (s : State) (w : Nat) (f : Strand → Strand) (c : Nat) : (s.onStrand w f).core c = s.core c := rfl

@[simp] theorem State.core_onCore (s : State) (c : Nat) (f : Core → Core) : (s.onCore c f).core c = f (s.core c) := by
  rw [State.onCore, State.core_setCore_same]

theorem State.istore_landDictionary (u : State) (who va n base h x : Nat) :
    ((u.landDictionary who va n base h x).core (coreOf who)).istore = (u.core (coreOf who)).istore.writeNat base n x := by
  simp only [State.landDictionary, State.core_onStrand, State.core_onCore, State.core_staleUnits, State.core_forget, State.core_countBytes,
    State.core_unpost]

section
variable {s u : State} {who h x : Nat} {m : Member} (hhold : (s.strand who).hold = some h) (hm : (s.leaf (leafOf who)).member = some m)
  (hacts : s.strandActs who = true) (hread : s.readFor who (.bundle who) true (m.dictAt (h / 2)) 49152 = .done u x)
  (hstores : (u.strand who).stores = [])
include hhold hm hacts hread hstores

theorem exec_dictldDone_read :
    exec (.dictldDone who) s = .next (u.landDictionary who (m.dictAt (h / 2)) 49152 (65536 * (h % 2) + 0x4000) h x) := by
  have hbytes (before : Nat) : forwarded (u.strand who) before (m.dictAt (h / 2)) 49152 x = x := by
    rw [forwarded_none hstores, Nat.mod_eq_of_lt (State.readFor_lt hread)]
  change execDictldDone who s = _
  simp only [execDictldDone, hhold, hm, hacts, Bool.not_true, Bool.false_eq_true, if_false, hread, hbytes]
  rfl

theorem dictionary_comes : ∃ v, exec (.dictldDone who) s = .next v ∧ (v.strand who).hold = none ∧ (v.strand who).holdStarted = some h ∧
    (v.core (coreOf who)).istore = (u.core (coreOf who)).istore.writeNat (65536 * (h % 2) + 0x4000) 49152 x := by
  obtain ⟨hends, hstarted⟩ := State.strand_landDictionary u who (m.dictAt (h / 2)) 49152 (65536 * (h % 2) + 0x4000) h x
  exact ⟨_, exec_dictldDone_read hhold hm hacts hread hstores, hends, hstarted, State.istore_landDictionary ..⟩

end

/-! Region fills (R221, R222). -/

/-- The charge of a fill's stall changes functions alone (R237). -/
theorem State.core_fillCharge (s : State) (core c : Nat) (r : Region) : (s.fillCharge core r).core c = s.core c := by
  unfold State.fillCharge
  split
  · split
    · rfl
    · refine List.foldlRecOn (motive := fun u => State.core u c = s.core c) _ _ rfl fun u hu _ _ => ?_
      obtain ⟨v, hv⟩ := u.countStall_eq (leafOfCore core) r.vbase.toNat
      rw [hv]
      exact hu
  · rfl

/-- The region whose fill has ended is held, and its bytes are those of the fill. -/
theorem State.core_fillEnds (s : State) (core n len x : Nat) (dirty : BitVec 256) :
    (s.fillEnds core n len x dirty).core core = { s.core core with
      local_ := ((s.core core).local_.clear (16384 * n) 16384).writeNat (16384 * n) len x
      regions := (s.core core).regions.set n { s.region core n with state := .held, filling := none, fillParked := false, dirty := dirty, since := 0 } } := by
  simp only [State.fillEnds, State.setRegion, State.core_forget, State.core_onCore, State.core_fillCharge]

theorem State.region_fillEnds (s : State) (core n len x : Nat) (dirty : BitVec 256) :
    (s.fillEnds core n len x dirty).region core n =
      { s.region core n with state := .held, filling := none, fillParked := false, dirty := dirty, since := 0 } := by
  rw [State.region, State.core_fillEnds, FMap.get_set_same]

section
variable {s u : State} {core n who x : Nat} {m : Member} (hfilling : (s.region core n).filling = some (.bundle who))
  (hm : (s.leaf (leafOfCore core)).member = some m) (hparked : (s.region core n).fillParked = false) (hruns : s.enginesRun (leafOfCore core) = true)
  (hfresh : (s.region core n).state = .fresh) (hback : (s.region core n).back = true)
  (hread : s.readFor who (.region core n) true (s.region core n).vbase.toNat (s.region core n).backed = .done u x)
  (hloads : (s.strand who).loads = []) (hfences : (s.strand who).fences = []) (hstores : (u.strand who).stores = [])
include hfilling hm hparked hruns hfresh hback hread hloads hfences hstores

/-- The fill of a fresh backed region for a strand with nothing in flight ends with the bytes read. -/
theorem exec_regionFillComplete_read :
    exec (.regionFillComplete core n) s =
      .next (((u.unpost (.regionFillComplete core n)).countBytes (leafOfCore core) (s.region core n).vbase.toNat (s.region core n).backed).fillEnds
        core n (s.region core n).backed (x % 2 ^ (8 * (s.region core n).backed)) 0) := by
  have hready (va k : Nat) : s.fillReady core (.bundle who) va k = true := by simp [State.fillReady, State.partyStrand, hloads, hfences]
  have hsaved : ¬ (s.region core n).state = .saved := by rw [hfresh]; nofun
  change execRegionFillComplete core n s = _
  simp only [execRegionFillComplete, hfilling, hm, hparked, hruns, hsaved, hback, State.partyStrand, hready, hread, forwarded_none hstores,
    Bool.not_true, Bool.false_eq_true, if_false]

theorem region_filled (hlocal : (u.core core).local_ = (s.core core).local_) :
    ∃ v, exec (.regionFillComplete core n) s = .next v ∧ (v.region core n).state = .held ∧ (v.region core n).filling = none ∧
      (v.region core n).dirty = 0 ∧
      (v.core core).local_ = ((s.core core).local_.clear (16384 * n) 16384).writeNat (16384 * n) (s.region core n).backed
        (x % 2 ^ (8 * (s.region core n).backed)) ∧
      ∀ j, j < 16384 * n ∨ 16384 * n + 16384 ≤ j → (s.region core n).backed ≤ 16384 →
        (v.core core).local_.read j = (s.core core).local_.read j := by
  have hexec := exec_regionFillComplete_read hfilling hm hparked hruns hfresh hback hread hloads hfences hstores
  generalize hv : State.fillEnds _ core n _ _ _ = v at hexec
  have hregion : v.region core n = _ := hv ▸ State.region_fillEnds ..
  have hbytes : (v.core core).local_ = ((s.core core).local_.clear (16384 * n) 16384).writeNat (16384 * n) (s.region core n).backed
      (x % 2 ^ (8 * (s.region core n).backed)) := by
    rw [← hv, State.core_fillEnds, State.core_countBytes, State.core_unpost, hlocal]
  refine ⟨v, hexec, by rw [hregion], by rw [hregion], by rw [hregion], hbytes, fun j hj hsize => ?_⟩
  rw [hbytes, Mem.read_writeNat_out _ _ _ _ _ (by omega), Mem.read_clear_out _ hj]

end

/-- Settles O39, event by event: what fetch decodes (State.decodeAhead), the line that comes (State.find_fillLine), the dictionary that
lands (State.landDictionary) and the fill that ends (State.core_fillEnds). -/
theorem fetchAndFills : Obligations.FetchAndFills :=
  ⟨fun _ =>
    ⟨fun _ _ hrunning hacts hempty hpend hstale hfetch => bundle_fetched hrunning hacts hempty hpend hstale hfetch,
     fun _ _ _ hmember hruns hplace => fetch_line_comes hmember hruns hplace,
     fun _ _ _ _ _ hhold hm hacts hread hstores => dictionary_comes hhold hm hacts hread hstores⟩,
   fun _ _ _ _ _ _ _ hfilling _ hm hparked hruns hfresh hback hread hloads hfences hstores hlocal =>
    region_filled hfilling hm hparked hruns hfresh hback hread hloads hfences hstores hlocal⟩

end Machine

end Sys2Proof
end

section
/-! PROOFS. Decoding and encoding agree (O57). -/

namespace Sys2Proof

/-! The layout of an operand word (R106). -/

/-- A field of a word: bits that are unused, bits taken as they stand, or the code of a modifier. -/
inductive WordField where
  | unused (n : Nat)
  | bits {n : Nat} (v : BitVec n)
  | code (n c : Nat) (h : c < 2 ^ n)

@[simp] def WordField.width : WordField → Nat
  | .unused n => n
  | .bits (n := n) _ => n
  | .code n _ _ => n

@[simp] def WordField.value : WordField → Nat
  | .unused _ => 0
  | .bits v => v.toNat
  | .code _ c _ => c

/-- A word holds a field at bit lo, said as the readers say it. -/
@[simp] def WordField.At (w lo : Nat) : WordField → Prop
  | .unused n => fld w lo n = 0
  | .bits (n := n) v => BitVec.ofNat n (w / 2 ^ lo) = v
  | .code n c _ => fld w lo n = c

theorem WordField.value_lt (f : WordField) : f.value < 2 ^ f.width := by
  cases f with
  | unused n => exact Nat.two_pow_pos n
  | bits v => exact v.isLt
  | code n c h => exact h

theorem WordField.at_iff (w lo : Nat) (f : WordField) : f.At w lo ↔ f.value = fld w lo f.width := by
  cases f with
  | unused n => exact eq_comm
  | bits v => rw [WordField.At, ← BitVec.toNat_inj, BitVec.toNat_ofNat, eq_comm]; rfl
  | code n c h => exact eq_comm

/-- The width of fields that stand side by side. -/
@[simp] def widthOf : List WordField → Nat
  | [] => 0
  | f :: l => f.width + widthOf l

/-- The number that fields from bit 0 upwards make. -/
@[simp] def wordOf : List WordField → Nat
  | [] => 0
  | f :: l => f.value + 2 ^ f.width * wordOf l

/-- A word holds fields from bit lo upwards. -/
@[simp] def HoldsAt (w : Nat) : Nat → List WordField → Prop
  | _, [] => True
  | lo, f :: l => f.At w lo ∧ HoldsAt w (lo + f.width) l

theorem fld_lt (w lo n : Nat) : fld w lo n < 2 ^ n := Nat.mod_lt _ (Nat.two_pow_pos n)

/-- Two numbers of a low and a high part are equal where their parts are. -/
theorem add_mul_inj {n a b c d : Nat} (ha : a < n) (hc : c < n) : a + n * b = c + n * d ↔ a = c ∧ b = d := by
  refine ⟨fun h => ?_, fun ⟨h, k⟩ => by rw [h, k]⟩
  have hlow : a = c := by simpa [Nat.mod_eq_of_lt ha, Nat.mod_eq_of_lt hc] using congrArg (· % n) h
  exact ⟨hlow, Nat.eq_of_mul_eq_mul_left (by omega) (Nat.add_left_cancel (hlow ▸ h))⟩

/-- A word holds fields where their number stands in their bits. -/
theorem wordOf_eq_iff (w lo : Nat) (l : List WordField) : wordOf l = fld w lo (widthOf l) ↔ HoldsAt w lo l := by
  induction l generalizing lo with
  | nil => simp [fld, Nat.mod_one]
  | cons f l ih =>
    have hparts : fld w lo (widthOf (f :: l)) = fld w lo f.width + 2 ^ f.width * fld w (lo + f.width) (widthOf l) := by
      rw [fld, widthOf, Nat.pow_add, Nat.mod_mul, Nat.div_div_eq_div_mul, ← Nat.pow_add, fld, fld]
    rw [hparts, wordOf, add_mul_inj f.value_lt (fld_lt w lo f.width), ih, HoldsAt, f.at_iff]

/-- Decoding and encoding agree on a format by its layout: the fields fill the 32 operand bits, the operand word is made of them, and
the reader answers the operands where the word holds the fields. -/
theorem read_iff_of_layout {P : Prop} {w ops : Nat} (layout : List WordField) (hwidth : widthOf layout = 32) (hword : ops = wordOf layout)
    (hread : P ↔ HoldsAt w 0 layout) : P ↔ ops = fld w 0 32 := by
  rw [hread, hword, ← wordOf_eq_iff, hwidth]

/-! Codes in fields (R108). -/

theorem eq_fmtCode_iff {n : Nat} {f : Fmt} : n = f.code ↔ fmtOfCode n = some f := by
  refine ⟨fun h => by subst h; cases f <;> rfl, fun h => ?_⟩
  unfold fmtOfCode at h
  split at h <;> cases h <;> rfl

theorem eq_rmCode_iff {n : Nat} {r : Rm} : n = r.code ↔ rmOfCode n = some r := by
  refine ⟨fun h => by subst h; cases r <;> rfl, fun h => ?_⟩
  unfold rmOfCode at h
  split at h <;> cases h <;> rfl

theorem eq_scopeCode_iff {n : Nat} {x : Scope} : n = x.code ↔ scopeOfCode n = some x := by
  refine ⟨fun h => by subst h; cases x <;> rfl, fun h => ?_⟩
  unfold scopeOfCode at h
  split at h <;> cases h <;> rfl

theorem eq_dirCode_iff {n : Nat} {d : Dir} : n = d.code ↔ dirOfCode n = some d := by
  refine ⟨fun h => by subst h; cases d <;> rfl, fun h => ?_⟩
  unfold dirOfCode at h
  split at h <;> cases h <;> rfl

theorem eq_bitOf_iff {n : Nat} {b : Bool} : n = bitOf b ↔ sizeOfCode n = some b := by
  refine ⟨fun h => by subst h; cases b <;> rfl, fun h => ?_⟩
  unfold sizeOfCode at h
  split at h <;> cases h <;> rfl

/-- A flag is read from its bit. -/
theorem flag_eq_iff {w lo : Nat} {b : Bool} : (fld w lo 1 == 1) = b ↔ fld w lo 1 = bitOf b := by
  have hbit : fld w lo 1 < 2 := fld_lt w lo 1
  cases b <;> simp [bitOf]; omega

abbrev Fmt.field (f : Fmt) : WordField := .code 4 f.code f.code_lt

abbrev Rm.field (x : Rm) : WordField := .code 3 x.code x.code_lt

abbrev Scope.field (x : Scope) : WordField := .code 3 x.code x.code_lt

abbrev Dir.field (x : Dir) : WordField := .code 2 x.code x.code_lt

/-- A flag in a field of n bits. -/
abbrev flagField (n : Nat) (b : Bool) (h : 0 < n := by decide) : WordField :=
  .code n (bitOf b) (Nat.lt_of_lt_of_le (bitOf_lt b) (Nat.le_self_pow h.ne' 2))

/-- A reader that rejects unless a condition holds. -/
@[simp] theorem ite_error_eq_ok {α : Type} {p : Prop} [Decidable p] {e : DecodeError} {x : Except DecodeError α} {o : α} :
    (if p then .error e else x) = .ok o ↔ ¬ p ∧ x = .ok o := by
  split <;> simp [*]

@[simp] theorem ite_ok_eq_ok {α : Type} {p : Prop} [Decidable p] {e : DecodeError} {x : Except DecodeError α} {o : α} :
    (if p then x else .error e) = .ok o ↔ p ∧ x = .ok o := by
  split <;> simp [*]

/-! The formats (R106): each reads the operands whose word the 32 operand bits are, by the layout of its fields from bit 0. -/

@[simp] theorem Rrr.read_eq_ok_iff {w : Nat} {o : Rrr} : Rrr.read w = .ok o ↔ o.word = fld w 0 32 := by
  refine read_iff_of_layout [.unused 14, .bits o.b, .bits o.a, .bits o.d] rfl (by simp [Rrr.word]; omega) ?_
  cases o
  simp [Rrr.read, zeros]
  tauto

@[simp] theorem Rrrr.read_eq_ok_iff {w : Nat} {o : Rrrr} : Rrrr.read w = .ok o ↔ o.word = fld w 0 32 := by
  refine read_iff_of_layout [.unused 8, .bits o.c, .bits o.b, .bits o.a, .bits o.d] rfl (by simp [Rrrr.word]; omega) ?_
  cases o
  simp [Rrrr.read, zeros]
  tauto

@[simp] theorem Rr.read_eq_ok_iff {w : Nat} {o : Rr} : Rr.read w = .ok o ↔ o.word = fld w 0 32 := by
  refine read_iff_of_layout [.unused 20, .bits o.a, .bits o.d] rfl (by simp [Rr.word]; omega) ?_
  cases o
  simp [Rr.read, zeros]
  tauto

@[simp] theorem Rri.read_eq_ok_iff {w : Nat} {o : Rri} : Rri.read w = .ok o ↔ o.word = fld w 0 32 := by
  refine read_iff_of_layout [.bits o.imm, .unused 4, .bits o.a, .bits o.d] rfl (by simp [Rri.word]; omega) ?_
  cases o
  simp [Rri.read, zeros]
  tauto

@[simp] theorem Widf.read_eq_ok_iff {w : Nat} {o : Widf} : Widf.read w = .ok o ↔ o.word = fld w 0 32 := by
  refine read_iff_of_layout [.unused 16, .bits o.n, .unused 6, .bits o.d] rfl (by simp [Widf.word]; omega) ?_
  cases o
  simp [Widf.read, zeros]
  tauto

@[simp] theorem Ri24.read_eq_ok_iff {w : Nat} {o : Ri24} : Ri24.read w = .ok o ↔ o.word = fld w 0 32 := by
  refine read_iff_of_layout [.bits o.imm, .bits o.sel, .bits o.d] rfl (by simp [Ri24.word]; omega) ?_
  cases o
  simp [Ri24.read]
  tauto

@[simp] theorem Vvv.read_eq_ok_iff {w : Nat} {o : Vvv} : Vvv.read w = .ok o ↔ o.word = fld w 0 32 := by
  refine read_iff_of_layout [o.fmt.field, .bits o.k, .bits o.vb, .bits o.va, .bits o.vd] rfl (by simp [Vvv.word]; omega) ?_
  cases o
  cases hfmt : fmtOfCode (fld w 0 4) <;> simp [Vvv.read, eq_fmtCode_iff, hfmt]
  tauto

@[simp] theorem Vv.read_eq_ok_iff {w : Nat} {o : Vv} : Vv.read w = .ok o ↔ o.word = fld w 0 32 := by
  refine read_iff_of_layout [o.fmt.field, .bits o.k, .unused 8, .bits o.va, .bits o.vd] rfl (by simp [Vv.word]; omega) ?_
  cases o
  cases hfmt : fmtOfCode (fld w 0 4) <;> simp [Vv.read, zeros, eq_fmtCode_iff, hfmt]
  tauto

@[simp] theorem Vt.read_eq_ok_iff {w : Nat} {o : Vt} : Vt.read w = .ok o ↔ o.word = fld w 0 32 := by
  refine read_iff_of_layout [o.fmt.field, .unused 12, .bits o.va, .bits o.vd] rfl (by simp [Vt.word]; omega) ?_
  cases o
  cases hfmt : fmtOfCode (fld w 0 4) <;> simp [Vt.read, zeros, eq_fmtCode_iff, hfmt]
  tauto

@[simp] theorem Vvvv.read_eq_ok_iff {w : Nat} {o : Vvvv} : Vvvv.read w = .ok o ↔ o.word = fld w 0 32 := by
  refine read_iff_of_layout [.bits o.vc, .bits o.vb, .bits o.va, .bits o.vd] rfl (by simp [Vvvv.word]; omega) ?_
  cases o
  simp [Vvvv.read]
  tauto

@[simp] theorem Vvs.read_eq_ok_iff {w : Nat} {o : Vvs} : Vvs.read w = .ok o ↔ o.word = fld w 0 32 := by
  refine read_iff_of_layout [o.fmt.field, .bits o.k, .unused 2, .bits o.sb, .bits o.va, .bits o.vd] rfl (by simp [Vvs.word]; omega) ?_
  cases o
  cases hfmt : fmtOfCode (fld w 0 4) <;> simp [Vvs.read, zeros, eq_fmtCode_iff, hfmt]
  tauto

@[simp] theorem Vbc.read_eq_ok_iff {w : Nat} {o : Vbc} : Vbc.read w = .ok o ↔ o.word = fld w 0 32 := by
  refine read_iff_of_layout [o.fmt.field, .bits o.k, .unused 2, .bits o.sb, .unused 8, .bits o.vd] rfl (by simp [Vbc.word]; omega) ?_
  cases o
  cases hfmt : fmtOfCode (fld w 0 4) <;> simp [Vbc.read, zeros, eq_fmtCode_iff, hfmt]
  tauto

@[simp] theorem Vcv.read_eq_ok_iff {w : Nat} {o : Vcv} : Vcv.read w = .ok o ↔ o.word = fld w 0 32 := by
  refine read_iff_of_layout [o.fmt.field, .bits o.k, flagField 1 o.sat, o.rm.field, .unused 4, .bits o.va, .bits o.vd] rfl
    (by simp [Vcv.word]; omega) ?_
  cases o
  cases hrm : rmOfCode (fld w 9 3) <;> cases hfmt : fmtOfCode (fld w 0 4) <;>
    simp [Vcv.read, zeros, flag_eq_iff, eq_rmCode_iff, hrm, eq_fmtCode_iff, hfmt]
  tauto

@[simp] theorem Kvv.read_eq_ok_iff {w : Nat} {o : Kvv} : Kvv.read w = .ok o ↔ o.word = fld w 0 32 := by
  refine read_iff_of_layout [o.fmt.field, .bits o.k, .bits o.vb, .bits o.va, .unused 4, .bits o.kd] rfl (by simp [Kvv.word]; omega) ?_
  cases o
  cases hfmt : fmtOfCode (fld w 0 4) <;> simp [Kvv.read, zeros, eq_fmtCode_iff, hfmt]
  tauto

@[simp] theorem Kkk.read_eq_ok_iff {w : Nat} {o : Kkk} : Kkk.read w = .ok o ↔ o.word = fld w 0 32 := by
  refine read_iff_of_layout [.unused 20, .bits o.kb, .bits o.ka, .bits o.kd] rfl (by simp [Kkk.word]; omega) ?_
  cases o
  simp [Kkk.read, zeros]
  tauto

@[simp] theorem Vi.read_eq_ok_iff {w : Nat} {o : Vi} : Vi.read w = .ok o ↔ o.word = fld w 0 32 := by
  refine read_iff_of_layout [o.fmt.field, .bits o.imm, .unused 4, .bits o.vd] rfl (by simp [Vi.word]; omega) ?_
  cases o
  cases hfmt : fmtOfCode (fld w 0 4) <;> simp [Vi.read, zeros, eq_fmtCode_iff, hfmt]
  tauto

@[simp] theorem Vsx.read_eq_ok_iff {w : Nat} {o : Vsx} : Vsx.read w = .ok o ↔ o.word = fld w 0 32 := by
  refine read_iff_of_layout [o.fmt.field, .bits o.k, .unused 2, .bits o.sb, .bits o.va, .unused 2, .bits o.sd] rfl (by simp [Vsx.word]; omega) ?_
  cases o
  cases hfmt : fmtOfCode (fld w 0 4) <;> simp [Vsx.read, zeros, eq_fmtCode_iff, hfmt]
  tauto

@[simp] theorem Vp.read_eq_ok_iff {w : Nat} {o : Vp} : Vp.read w = .ok o ↔ o.word = fld w 0 32 := by
  refine read_iff_of_layout [o.fmt.field, .bits o.k, .unused 10, .bits o.sd, .bits o.vd] rfl (by simp [Vp.word]; omega) ?_
  cases o
  cases hfmt : fmtOfCode (fld w 0 4) <;> simp [Vp.read, zeros, eq_fmtCode_iff, hfmt]
  tauto

@[simp] theorem Rq.read_eq_ok_iff {w : Nat} {o : Rq} : Rq.read w = .ok o ↔ o.word = fld w 0 32 := by
  refine read_iff_of_layout [o.fmt.field, .unused 8, .bits o.k, .unused 6, .bits o.ps, .bits o.va] rfl (by simp [Rq.word]; omega) ?_
  cases o
  cases hfmt : fmtOfCode (fld w 0 4) <;> simp [Rq.read, zeros, eq_fmtCode_iff, hfmt]
  tauto

@[simp] theorem Qd.read_eq_ok_iff {w : Nat} {o : Qd} : Qd.read w = .ok o ↔ o.word = fld w 0 32 := by
  refine read_iff_of_layout [.unused 16, .bits o.sd, .bits o.ps, .unused 8] rfl (by simp [Qd.word]; omega) ?_
  cases o
  simp [Qd.read, zeros]
  tauto

@[simp] theorem Cbm.read_eq_ok_iff {w : Nat} {o : Cbm} : Cbm.read w = .ok o ↔ o.word = fld w 0 32 := by
  refine read_iff_of_layout [o.fmt.field, .bits o.off, .bits o.k, .bits o.nm1, .bits o.cb, .bits o.reg] rfl (by simp [Cbm.word]; omega) ?_
  cases o
  cases hfmt : fmtOfCode (fld w 0 4) <;> simp [Cbm.read, eq_fmtCode_iff, hfmt]
  tauto

@[simp] theorem Cbn.read_eq_ok_iff {w : Nat} {o : Cbn} : Cbn.read w = .ok o ↔ o.word = fld w 0 32 := by
  refine read_iff_of_layout [.unused 16, .bits o.nm1, .bits o.cb, .unused 8] rfl (by simp [Cbn.word]; omega) ?_
  cases o
  simp [Cbn.read, zeros]
  tauto

@[simp] theorem Gm.read_eq_ok_iff {w : Nat} {o : Gm} : Gm.read w = .ok o ↔ o.word = fld w 0 32 := by
  refine read_iff_of_layout [o.fmt.field, .bits o.disp, .bits o.k, .unused 3, .bits o.sa, .bits o.reg] rfl (by simp [Gm.word]; omega) ?_
  cases o
  cases hfmt : fmtOfCode (fld w 0 4) <;> simp [Gm.read, zeros, eq_fmtCode_iff, hfmt]
  tauto

@[simp] theorem Gms.read_eq_ok_iff {w : Nat} {o : Gms} : Gms.read w = .ok o ↔ o.word = fld w 0 32 := by
  refine read_iff_of_layout [o.fmt.field, .bits o.disp, .unused 4, o.scope.field, .bits o.sa, .bits o.reg] rfl (by simp [Gms.word]; omega) ?_
  cases o
  cases hscope : scopeOfCode (fld w 15 3) <;> cases hfmt : fmtOfCode (fld w 0 4) <;>
    simp [Gms.read, zeros, eq_scopeCode_iff, hscope, eq_fmtCode_iff, hfmt]
  tauto

@[simp] theorem Gmv.read_eq_ok_iff {w : Nat} {o : Gmv} : Gmv.read w = .ok o ↔ o.word = fld w 0 32 := by
  refine read_iff_of_layout [o.fmt.field, .bits o.disp, .bits o.k, o.scope.field, .bits o.sa, .bits o.reg] rfl (by simp [Gmv.word]; omega) ?_
  cases o
  cases hscope : scopeOfCode (fld w 15 3) <;> cases hfmt : fmtOfCode (fld w 0 4) <;>
    simp [Gmv.read, eq_scopeCode_iff, hscope, eq_fmtCode_iff, hfmt]
  tauto

@[simp] theorem Pf.read_eq_ok_iff {w : Nat} {o : Pf} : Pf.read w = .ok o ↔ o.word = fld w 0 32 := by
  refine read_iff_of_layout [.unused 4, .bits o.disp, .unused 7, .bits o.sa, .unused 8] rfl (by simp [Pf.word]; omega) ?_
  cases o
  simp [Pf.read, zeros]
  tauto

@[simp] theorem Xp.read_eq_ok_iff {w : Nat} {o : Xp} : Xp.read w = .ok o ↔ o.word = fld w 0 32 := by
  refine read_iff_of_layout [.unused 16, o.dir.field, .bits o.sa, .bits o.va] rfl (by simp [Xp.word]; omega) ?_
  cases o
  cases hdir : dirOfCode (fld w 16 2) <;> simp [Xp.read, zeros, eq_dirCode_iff, hdir]
  tauto

@[simp] theorem At.read_eq_ok_iff {w : Nat} {o : At} : At.read w = .ok o ↔ o.word = fld w 0 32 := by
  refine read_iff_of_layout [.unused 3, flagField 2 o.wide, o.scope.field, .unused 6, .bits o.b, .bits o.a, .bits o.d] rfl
    (by simp [At.word]; omega) ?_
  cases o
  cases hscope : scopeOfCode (fld w 5 3) <;> cases hsize : sizeOfCode (fld w 3 2) <;>
    simp [At.read, zeros, eq_scopeCode_iff, hscope, eq_bitOf_iff, hsize]
  tauto

@[simp] theorem Atc.read_eq_ok_iff {w : Nat} {o : Atc} : Atc.read w = .ok o ↔ o.word = fld w 0 32 := by
  refine read_iff_of_layout [.unused 3, flagField 2 o.wide, o.scope.field, .bits o.c, .bits o.b, .bits o.a, .bits o.d] rfl
    (by simp [Atc.word]; omega) ?_
  cases o
  cases hscope : scopeOfCode (fld w 5 3) <;> cases hsize : sizeOfCode (fld w 3 2) <;>
    simp [Atc.read, zeros, eq_scopeCode_iff, hscope, eq_bitOf_iff, hsize]
  tauto

@[simp] theorem Sc.read_eq_ok_iff {w : Nat} {o : Sc} : Sc.read w = .ok o ↔ o.word = fld w 0 32 := by
  refine read_iff_of_layout [o.scope.field, .unused 29] rfl (by simp [Sc.word]) ?_
  cases o
  cases hscope : scopeOfCode (fld w 0 3) <;> simp [Sc.read, zeros, eq_scopeCode_iff, hscope]
  tauto

@[simp] theorem Scr.read_eq_ok_iff {w : Nat} {o : Scr} : Scr.read w = .ok o ↔ o.word = fld w 0 32 := by
  refine read_iff_of_layout [o.scope.field, .unused 23, .bits o.s] rfl (by simp [Scr.word]; omega) ?_
  cases o
  cases hscope : scopeOfCode (fld w 0 3) <;> simp [Scr.read, zeros, eq_scopeCode_iff, hscope]
  tauto

@[simp] theorem Sr.read_eq_ok_iff {w : Nat} {o : Sr} : Sr.read w = .ok o ↔ o.word = fld w 0 32 := by
  refine read_iff_of_layout [.unused 26, .bits o.s] rfl (by simp [Sr.word]; omega) ?_
  cases o
  simp [Sr.read, zeros]

@[simp] theorem Tw.read_eq_ok_iff {w : Nat} {o : Tw} : Tw.read w = .ok o ↔ o.word = fld w 0 32 := by
  refine read_iff_of_layout [.unused 27, .bits o.tk] rfl (by simp [Tw.word]; omega) ?_
  cases o
  simp [Tw.read, zeros]

@[simp] theorem Rmap.read_eq_ok_iff {w : Nat} {o : Rmap} : Rmap.read w = .ok o ↔ o.word = fld w 0 32 := by
  refine read_iff_of_layout [.unused 8, .bits o.c, .bits o.b, .bits o.a, .unused 6] rfl (by simp [Rmap.word]; omega) ?_
  cases o
  simp [Rmap.read, zeros]
  tauto

@[simp] theorem Ra.read_eq_ok_iff {w : Nat} {o : Ra} : Ra.read w = .ok o ↔ o.word = fld w 0 32 := by
  refine read_iff_of_layout [.unused 20, .bits o.a, .unused 6] rfl (by simp [Ra.word]; omega) ?_
  cases o
  simp [Ra.read, zeros]
  tauto

@[simp] theorem Et.read_eq_ok_iff {w : Nat} {o : Et} : Et.read w = .ok o ↔ o.word = fld w 0 32 := by
  refine read_iff_of_layout [.bits o.mode, .bits o.sa, .bits o.tc, .bits o.tb, .bits o.ta, .bits o.tp] rfl (by simp [Et.word]; omega) ?_
  cases o
  simp [Et.read]
  tauto

@[simp] theorem Bd.read_eq_ok_iff {w : Nat} {o : Bd} : Bd.read w = .ok o ↔ o.word = fld w 0 32 := by
  refine read_iff_of_layout [.bits o.disp, .unused 8] rfl (by simp [Bd.word]) ?_
  cases o
  simp [Bd.read, zeros]
  tauto

@[simp] theorem Bs.read_eq_ok_iff {w : Nat} {o : Bs} : Bs.read w = .ok o ↔ o.word = fld w 0 32 := by
  refine read_iff_of_layout [.unused 26, .bits o.sl] rfl (by simp [Bs.word]; omega) ?_
  cases o
  simp [Bs.read, zeros]

@[simp] theorem Bsd.read_eq_ok_iff {w : Nat} {o : Bsd} : Bsd.read w = .ok o ↔ o.word = fld w 0 32 := by
  refine read_iff_of_layout [.bits o.disp, .unused 2, .bits o.sl] rfl (by simp [Bsd.word]; omega) ?_
  cases o
  simp [Bsd.read, zeros]
  tauto

@[simp] theorem Lp.read_eq_ok_iff {w : Nat} {o : Lp} : Lp.read w = .ok o ↔ o.word = fld w 0 32 := by
  refine read_iff_of_layout [.bits o.len, .unused 9, flagField 1 o.lvl, .bits o.sc] rfl (by simp [Lp.word]; omega) ?_
  cases o
  simp [Lp.read, zeros, flag_eq_iff]
  tauto

@[simp] theorem Mlp.read_eq_ok_iff {w : Nat} {o : Mlp} : Mlp.read w = .ok o ↔ o.word = fld w 0 32 := by
  refine read_iff_of_layout [.bits o.len, .bits o.nstg, .unused 4, flagField 1 o.lvl, .bits o.sc] rfl (by simp [Mlp.word]; omega) ?_
  cases o
  simp [Mlp.read, zeros, flag_eq_iff]
  tauto

@[simp] theorem Im.read_eq_ok_iff {w : Nat} {o : Im} : Im.read w = .ok o ↔ o.word = fld w 0 32 := by
  refine read_iff_of_layout [.bits o.imm, .unused 20] rfl (by simp [Im.word]) ?_
  cases o
  simp [Im.read, zeros]
  tauto

@[simp] theorem Mfs.read_eq_ok_iff {w : Nat} {o : Mfs} : Mfs.read w = .ok o ↔ o.word = fld w 0 32 := by
  refine read_iff_of_layout [.unused 12, .bits o.cr, .unused 6, .bits o.sd] rfl (by simp [Mfs.word]; omega) ?_
  cases o
  simp [Mfs.read, zeros]
  tauto

@[simp] theorem Mts.read_eq_ok_iff {w : Nat} {o : Mts} : Mts.read w = .ok o ↔ o.word = fld w 0 32 := by
  refine read_iff_of_layout [.unused 12, .bits o.cr, .bits o.sa, .unused 6] rfl (by simp [Mts.word]; omega) ?_
  cases o
  simp [Mts.read, zeros]
  tauto

@[simp] theorem Sd.read_eq_ok_iff {w : Nat} {o : Sd} : Sd.read w = .ok o ↔ o.word = fld w 0 32 := by
  refine read_iff_of_layout [.unused 26, .bits o.sd] rfl (by simp [Sd.word]; omega) ?_
  cases o
  simp [Sd.read, zeros]

@[simp] theorem Dck.read_eq_ok_iff {w : Nat} {o : Dck} : Dck.read w = .ok o ↔ o.word = fld w 0 32 := by
  refine read_iff_of_layout [.bits o.bank, .unused 8, .bits o.sa, .bits o.pd] rfl (by simp [Dck.word]; omega) ?_
  cases o
  simp [Dck.read, zeros]
  tauto

@[simp] theorem Dld.read_eq_ok_iff {w : Nat} {o : Dld} : Dld.read w = .ok o ↔ o.word = fld w 0 32 := by
  refine read_iff_of_layout [.bits o.bank, .unused 8, .bits o.sa, .unused 6] rfl (by simp [Dld.word]; omega) ?_
  cases o
  simp [Dld.read, zeros]
  tauto

@[simp] theorem Sig.read_eq_ok_iff {w : Nat} {o : Sig} : Sig.read w = .ok o ↔ o.word = fld w 0 32 := by
  refine read_iff_of_layout [.unused 20, .bits o.sa, .bits o.sd] rfl (by simp [Sig.word]; omega) ?_
  cases o
  simp [Sig.read, zeros]
  tauto

/-! The opcode maps (R114 to R119), class by class: what a map answers at an opcode is coded there, the first case being NOP and the last
an unassigned opcode; and what is coded there is answered. -/

theorem Except.map_eq_ok_iff {ε α β : Type} {x : Except ε α} {f : α → β} {b : β} : x.map f = .ok b ↔ ∃ a, x = .ok a ∧ f a = b := by
  cases x <;> simp [Except.map]

/-- Format N reads no operands. -/
def readUnit (w : Nat) : Except DecodeError Unit := if fld w 0 32 = 0 then .ok () else .error .reservedNonzero

theorem readN_eq_map (w : Nat) (i : Instr) : readN w i = (readUnit w).map fun _ => i := by
  by_cases h : fld w 0 32 = 0 <;> simp [readN, readUnit, h, Except.map]

@[simp] theorem readUnit_eq_ok_iff {w : Nat} {u : Unit} : readUnit w = .ok u ↔ 0 = fld w 0 32 := by
  simp [readUnit, eq_comm]

/-- The instruction stands in a class's map at an opcode with an operand word; NOP stands in every map (R105). -/
def Instr.CodedAs (i : Instr) (c : SlotClass) (opc ops : Nat) : Prop := i.code = some (c, opc, ops) ∨ i = .nop ∧ opc = 0 ∧ ops = 0

/-- What a map reads by a format is coded as the format's word, where the reader answers the operands of that word. -/
theorem codedAs_of_map {α : Type} {x : Except DecodeError α} {f : α → Instr} {word : α → Nat} {i : Instr} {c : SlotClass} {opc ops : Nat}
    (h : x.map f = .ok i) (hread : ∀ o, x = .ok o → word o = ops) (hcode : ∀ o, (f o).code = some (c, opc, word o)) : i.CodedAs c opc ops := by
  obtain ⟨o, ho, rfl⟩ := Except.map_eq_ok_iff.mp h
  exact .inl (hread o ho ▸ hcode o)

theorem codedAs_of_nop {w : Nat} {i : Instr} {c : SlotClass} (h : ((readUnit w).map fun _ => Instr.nop) = .ok i) : i.CodedAs c 0 (fld w 0 32) := by
  obtain ⟨u, hu, rfl⟩ := Except.map_eq_ok_iff.mp h
  exact .inr ⟨rfl, rfl, (readUnit_eq_ok_iff.mp hu).symm⟩

theorem codedAs_of_scalarMap {opc w : Nat} {i : Instr} (h : scalarMap opc w = .ok i) : i.CodedAs .scalar opc (fld w 0 32) := by
  simp only [scalarMap, readN_eq_map] at h
  split at h
  case h_1 => exact codedAs_of_nop h
  case h_55 => cases h
  all_goals exact codedAs_of_map h (by simp) fun _ => rfl

theorem scalarMap_of_code {opc w : Nat} {i : Instr} (h : i.code = some (.scalar, opc, fld w 0 32)) : scalarMap opc w = .ok i := by
  generalize hops : fld w 0 32 = ops at h
  cases i <;> cases h <;> simpa [scalarMap, readN_eq_map, Except.map_eq_ok_iff] using hops.symm

theorem codedAs_of_vectorMap {opc w : Nat} {i : Instr} (h : vectorMap opc w = .ok i) : i.CodedAs .vector opc (fld w 0 32) := by
  simp only [vectorMap, readN_eq_map] at h
  split at h
  case h_1 => exact codedAs_of_nop h
  case h_60 => cases h
  all_goals exact codedAs_of_map h (by simp) fun _ => rfl

theorem vectorMap_of_code {opc w : Nat} {i : Instr} (h : i.code = some (.vector, opc, fld w 0 32)) : vectorMap opc w = .ok i := by
  generalize hops : fld w 0 32 = ops at h
  cases i <;> cases h <;> simpa [vectorMap, Except.map_eq_ok_iff] using hops.symm

theorem codedAs_of_memoryMap {opc w : Nat} {i : Instr} (h : memoryMap opc w = .ok i) : i.CodedAs .memory opc (fld w 0 32) := by
  simp only [memoryMap, readN_eq_map] at h
  split at h
  case h_1 => exact codedAs_of_nop h
  case h_42 => cases h
  all_goals exact codedAs_of_map h (by simp) fun _ => rfl

theorem memoryMap_of_code {opc w : Nat} {i : Instr} (h : i.code = some (.memory, opc, fld w 0 32)) : memoryMap opc w = .ok i := by
  generalize hops : fld w 0 32 = ops at h
  cases i <;> cases h <;> simpa [memoryMap, readN_eq_map, Except.map_eq_ok_iff] using hops.symm

theorem codedAs_of_reductionMap {opc w : Nat} {i : Instr} (h : reductionMap opc w = .ok i) : i.CodedAs .reduction opc (fld w 0 32) := by
  simp only [reductionMap, readN_eq_map] at h
  split at h
  case h_1 => exact codedAs_of_nop h
  case h_7 => cases h
  all_goals exact codedAs_of_map h (by simp) fun _ => rfl

theorem reductionMap_of_code {opc w : Nat} {i : Instr} (h : i.code = some (.reduction, opc, fld w 0 32)) : reductionMap opc w = .ok i := by
  generalize hops : fld w 0 32 = ops at h
  cases i <;> cases h <;> simpa [reductionMap, Except.map_eq_ok_iff] using hops.symm

theorem codedAs_of_engineMap {opc w : Nat} {i : Instr} (h : engineMap opc w = .ok i) : i.CodedAs .engine opc (fld w 0 32) := by
  simp only [engineMap, readN_eq_map] at h
  split at h
  case h_1 => exact codedAs_of_nop h
  case h_30 => cases h
  all_goals exact codedAs_of_map h (by simp) fun _ => rfl

theorem engineMap_of_code {opc w : Nat} {i : Instr} (h : i.code = some (.engine, opc, fld w 0 32)) : engineMap opc w = .ok i := by
  generalize hops : fld w 0 32 = ops at h
  cases i <;> cases h <;> simpa [engineMap, Except.map_eq_ok_iff] using hops.symm

theorem codedAs_of_branchMap {opc w : Nat} {i : Instr} (h : branchMap opc w = .ok i) : i.CodedAs .branch opc (fld w 0 32) := by
  simp only [branchMap, readN_eq_map] at h
  split at h
  case h_1 => exact codedAs_of_nop h
  case h_21 => cases h
  all_goals exact codedAs_of_map h (by simp) fun _ => rfl

theorem branchMap_of_code {opc w : Nat} {i : Instr} (h : i.code = some (.branch, opc, fld w 0 32)) : branchMap opc w = .ok i := by
  generalize hops : fld w 0 32 = ops at h
  cases i <;> cases h <;> simpa [branchMap, readN_eq_map, Except.map_eq_ok_iff] using hops.symm

theorem codedAs_of_readInstr {c : SlotClass} {w : Nat} {i : Instr} (h : readInstr c w = .ok i) : i.CodedAs c (fld w 32 9) (fld w 0 32) := by
  cases c
  · exact codedAs_of_scalarMap h
  · exact codedAs_of_vectorMap h
  · exact codedAs_of_memoryMap h
  · exact codedAs_of_reductionMap h
  · exact codedAs_of_engineMap h
  · exact codedAs_of_branchMap h

theorem readInstr_of_code {c : SlotClass} {w : Nat} {i : Instr} (h : i.code = some (c, fld w 32 9, fld w 0 32)) : readInstr c w = .ok i := by
  cases c
  · exact scalarMap_of_code h
  · exact vectorMap_of_code h
  · exact memoryMap_of_code h
  · exact reductionMap_of_code h
  · exact engineMap_of_code h
  · exact branchMap_of_code h

/-! Syllables (R104). -/

theorem Instr.exists_code {i : Instr} (h : i.isSyllable = true) : ∃ c opc ops, i.code = some (c, opc, ops) := by
  cases i <;> cases h <;> exact ⟨_, _, _, rfl⟩

theorem Instr.cls_slot {i : Instr} {c : SlotClass} {opc ops : Nat} (h : i.code = some (c, opc, ops)) : i.slot.cls = c := by
  simp only [Instr.slot, h]
  cases c <;> rfl

/-- An opcode and an operand word lie in their fields. -/
theorem Instr.code_lt {i : Instr} {c : SlotClass} {opc ops : Nat} (h : i.code = some (c, opc, ops)) : opc < 2 ^ 9 ∧ ops < 2 ^ 32 := by
  cases i <;> cases h <;> refine ⟨by decide, ?_⟩ <;>
    simp only [Nat.two_pow_pos, Rrr.word_lt, Rrrr.word_lt, Rr.word_lt, Rri.word_lt, Widf.word_lt, Ri24.word_lt, Vvv.word_lt, Vv.word_lt, Vt.word_lt,
      Vvvv.word_lt, Vvs.word_lt, Vbc.word_lt, Vcv.word_lt, Kvv.word_lt, Kkk.word_lt, Vi.word_lt, Vsx.word_lt, Vp.word_lt, Rq.word_lt,
      Qd.word_lt, Cbm.word_lt, Cbn.word_lt, Gm.word_lt, Gms.word_lt, Gmv.word_lt, Pf.word_lt, Xp.word_lt, At.word_lt, Atc.word_lt,
      Sc.word_lt, Scr.word_lt, Sr.word_lt, Tw.word_lt, Rmap.word_lt, Ra.word_lt, Et.word_lt, Bd.word_lt, Bs.word_lt, Bsd.word_lt, Lp.word_lt,
      Mlp.word_lt, Im.word_lt, Mfs.word_lt, Mts.word_lt, Sd.word_lt, Dck.word_lt, Dld.word_lt, Sig.word_lt]

/-- The fields of a syllable: operand bits, OPC, SENSE and PRED. -/
theorem ofNat_syllable_iff {w : Syl48} {p : BitVec 6} {b : Bool} {opc ops : Nat} (hopc : opc < 2 ^ 9) (hops : ops < 2 ^ 32) :
    BitVec.ofNat 48 (p.toNat * 2 ^ 42 + bitOf b * 2 ^ 41 + opc * 2 ^ 32 + ops) = w ↔
      fld w.toNat 0 32 = ops ∧ fld w.toNat 32 9 = opc ∧ fld w.toNat 41 1 = bitOf b ∧ BitVec.ofNat 6 (w.toNat / 2 ^ 42) = p := by
  have hp := p.isLt
  have hb := bitOf_lt b
  have hw := w.isLt
  simp only [← BitVec.toNat_inj, BitVec.toNat_ofNat, fld]
  omega

theorem encodeSyllable_eq_some_iff {y : Syllable} {w : Syl48} {c : SlotClass} {opc ops : Nat} (h : y.instr.code = some (c, opc, ops)) :
    encodeSyllable y = some w ↔
      fld w.toNat 0 32 = ops ∧ fld w.toNat 32 9 = opc ∧ fld w.toNat 41 1 = bitOf y.sense ∧ BitVec.ofNat 6 (w.toNat / 2 ^ 42) = y.pred := by
  obtain ⟨hopc, hops⟩ := Instr.code_lt h
  rw [← ofNat_syllable_iff hopc hops]
  simp only [encodeSyllable, h, Option.some.injEq]

theorem decodeSyllable_eq_ok_iff {c : SlotClass} {w : Syl48} {y : Syllable} :
    decodeSyllable c w = .ok y ↔
      readInstr c w.toNat = .ok y.instr ∧ y.instr.wf = true ∧ fld w.toNat 41 1 = bitOf y.sense ∧
        BitVec.ofNat 6 (w.toNat / 2 ^ 42) = y.pred := by
  obtain ⟨p, b, i⟩ := y
  cases hread : readInstr c w.toNat with
  | error e => simp [decodeSyllable, hread]
  | ok j =>
    simp only [decodeSyllable, hread, ite_ok_eq_ok, Except.ok.injEq, Syllable.mk.injEq, flag_eq_iff]
    constructor
    · rintro ⟨hwf, hp, hb, rfl⟩
      exact ⟨rfl, hwf, hb, hp⟩
    · rintro ⟨rfl, hwf, hb, hp⟩
      exact ⟨hwf, hp, hb, rfl⟩

/-- The word of a well-formed syllable decodes to it in the class of its instruction. -/
theorem decodeSyllable_of_encodeSyllable {y : Syllable} {w : Syl48} {c : SlotClass} {opc ops : Nat} (hcode : y.instr.code = some (c, opc, ops))
    (hwf : y.instr.wf = true) (h : encodeSyllable y = some w) : decodeSyllable c w = .ok y := by
  obtain ⟨hops, hopc, hsense, hpred⟩ := (encodeSyllable_eq_some_iff hcode).mp h
  exact decodeSyllable_eq_ok_iff.mpr ⟨readInstr_of_code (by rw [hopc, hops, hcode]), hwf, hsense, hpred⟩

/-- A word that decodes is the word of what it decodes to, in whatever class: that of NOP is the same in every class (R105). -/
theorem encodeSyllable_of_decodeSyllable {c : SlotClass} {w : Syl48} {y : Syllable} (h : decodeSyllable c w = .ok y) :
    encodeSyllable y = some w := by
  obtain ⟨hread, -, hsense, hpred⟩ := decodeSyllable_eq_ok_iff.mp h
  obtain hcode | ⟨hnop, hopc, hops⟩ := codedAs_of_readInstr hread
  · exact (encodeSyllable_eq_some_iff hcode).mpr ⟨rfl, rfl, hsense, hpred⟩
  · have hcode : y.instr.code = some (.scalar, 0, 0) := by rw [hnop]; rfl
    exact (encodeSyllable_eq_some_iff hcode).mpr ⟨hops, hopc, hsense, hpred⟩

/-- Settles O57: each format's reader answers the operands whose word its operand bits are (read_iff_of_layout), each map the instruction
of that opcode (codedAs_of_readInstr, readInstr_of_code), and the guard stands above them (encodeSyllable_eq_some_iff). -/
theorem decodeEncode : Obligations.DecodeEncode := by
  refine ⟨fun y hsyllable hwf => ?_, fun c w y h => ?_⟩
  · obtain ⟨c, opc, ops, hcode⟩ := Instr.exists_code hsyllable
    obtain ⟨w, hword⟩ : ∃ w, encodeSyllable y = some w := by simp [encodeSyllable, hcode]
    rw [Instr.cls_slot hcode]
    exact ⟨w, hword, decodeSyllable_of_encodeSyllable hcode hwf hword⟩
  · obtain ⟨-, hwf, -⟩ := decodeSyllable_eq_ok_iff.mp h
    exact ⟨hwf, encodeSyllable_of_decodeSyllable h⟩

end Sys2Proof
end

section
/-! PROOFS. Registers, elements and bytes read as they were written (O1). -/

namespace Sys2Proof

/-- Bytes written are read back in order, as many as were written. -/
theorem Mem.readNat_writeNat (m : Mem) (a n v : Nat) (h : m.wf = true) : (m.writeNat a n v).readNat a n = v % 256 ^ n := by
  induction n generalizing m a v with
  | zero => simp [Mem.readNat, Nat.mod_one]
  | succ n ih =>
    have hwf : (m.write a (BitVec.ofNat 8 v)).wf = true := Mem.wf_write m a _ h
    have hfirst : (m.writeNat a (n + 1) v).read a = BitVec.ofNat 8 v := by
      rw [Mem.writeNat, Mem.read_writeNat_out _ _ _ _ _ (by omega), Mem.read_write m a a _ h, if_pos rfl]
    have hrest : (m.writeNat a (n + 1) v).readNat (a + 1) n = v / 256 % 256 ^ n := ih _ _ _ hwf
    rw [Mem.readNat, hfirst, hrest, BitVec.toNat_ofNat, Nat.pow_succ' (n := n), Nat.mod_mul (a := 256)]

/-- The elements of a format fill a register. -/
theorem Fmt.bits_mul_count (f : Fmt) : f.bits * f.count = 4096 := by cases f <;> rfl

namespace Machine

/-! A register's contents from its elements (R137). -/

/-- n elements of w bits lie in w * n bits. -/
theorem pack_lt (w : Nat) (h : Nat → Nat) (n : Nat) : pack w h n < 2 ^ (w * n) := by
  induction n with
  | zero => simp [pack]
  | succ n ih =>
    have helt : h n % 2 ^ w < 2 ^ w := Nat.mod_lt _ (Nat.two_pow_pos w)
    calc pack w h n + h n % 2 ^ w * 2 ^ (w * n)
        < 2 ^ (w * n) + h n % 2 ^ w * 2 ^ (w * n) := by omega
      _ = (h n % 2 ^ w + 1) * 2 ^ (w * n) := by rw [Nat.add_mul, Nat.one_mul, Nat.add_comm]
      _ ≤ 2 ^ w * 2 ^ (w * n) := Nat.mul_le_mul_right _ helt
      _ = 2 ^ (w * (n + 1)) := by rw [← Nat.pow_add, Nat.mul_succ, Nat.add_comm]

/-- Element i of n packed elements reads as it was put there, modulo its width. -/
theorem pack_elt (w : Nat) (h : Nat → Nat) {n i : Nat} (hi : i < n) : pack w h n / 2 ^ (w * i) % 2 ^ w = h i % 2 ^ w := by
  induction n with
  | zero => omega
  | succ n ih =>
    have hlow := pack_lt w h n
    rw [pack]
    rcases Nat.lt_succ_iff_lt_or_eq.mp hi with hlt | rfl
    · obtain ⟨d, rfl⟩ := Nat.exists_eq_add_of_lt hlt
      have hsplit : h (i + d + 1) % 2 ^ w * 2 ^ (w * (i + d + 1)) = 2 ^ (w * i) * (2 ^ w * (h (i + d + 1) % 2 ^ w * 2 ^ (w * d))) := by
        ring
      rw [hsplit, Nat.add_mul_div_left _ _ (Nat.two_pow_pos _), Nat.add_mul_mod_self_left, ih hlt]
    · rw [Nat.add_mul_div_right _ _ (Nat.two_pow_pos _), Nat.div_eq_of_lt hlow, Nat.zero_add, Nat.mod_mod]

theorem toNat_packV (f : Fmt) (h : Nat → Nat) : (packV f h).toNat = pack f.bits h f.count := by
  rw [packV, BitVec.toNat_ofNat, ← f.bits_mul_count, Nat.mod_eq_of_lt (pack_lt f.bits h f.count)]

/-- Every element of a register reads as it was put there, modulo its width. -/
theorem eltOf_packV (f : Fmt) (h : Nat → Nat) {i : Nat} (hi : i < f.count) : eltOf f.bits (packV f h) i = h i % 2 ^ f.bits := by
  rw [eltOf, toNat_packV, pack_elt _ _ hi]

/-- A masked result keeps the inactive elements (R128). -/
theorem eltOf_blend (f : Fmt) (k : KBits) (old : VBits) (h : Nat → Nat) {i : Nat} (hi : i < f.count) :
    eltOf f.bits (blend f k old h) i = if active k f i then h i % 2 ^ f.bits else eltOf f.bits old i := by
  rw [blend, eltOf_packV f _ hi]
  split
  · rfl
  · rw [eltOf, Nat.mod_mod]

/-! A strand's registers (R107). -/

theorem Strand.rdS_wrS_of_ne_zero (t : Strand) {n : BitVec 6} (m : BitVec 6) (x : W64) (hn : n ≠ 0) :
    (t.wrS n x).rdS m = if m = n then x else t.rdS m := by
  rw [Strand.rdS_wrS]
  exact if_congr (and_iff_left hn) rfl rfl

theorem Strand.rdP_wrP_same (t : Strand) {n : BitVec 6} (b : Bool) (hn : n ≠ 0) : (t.wrP n b).rdP n = b := by
  have hbit := getLsbD_setBit t.pregs (t.physP n.toNat) (t.physP n.toNat) b (t.physP_lt n)
  rw [Strand.wrP, if_neg hn, Strand.rdP, if_neg hn]
  exact hbit.trans (if_pos rfl)

theorem Strand.rdP_wrP_of_ne_zero (t : Strand) {n : BitVec 6} (m : BitVec 6) (b : Bool) (hn : n ≠ 0) :
    (t.wrP n b).rdP m = if m = n then b else t.rdP m := by
  split
  · next h => rw [h, Strand.rdP_wrP_same t b hn]
  · next h => exact Strand.rdP_wrP_other t b h

theorem Strand.wrS_eq (t : Strand) (n : BitVec 6) (x : W64) : t.wrS n x = { t with sregs := (t.wrS n x).sregs } := by
  unfold Strand.wrS
  split <;> rfl

theorem Strand.wrP_eq (t : Strand) (n : BitVec 6) (b : Bool) : t.wrP n b = { t with pregs := (t.wrP n b).pregs } := by
  unfold Strand.wrP
  split <;> rfl

/-- Settles O1: registers by the number written (Strand.rdS_wrS, Strand.rdP_wrP_of_ne_zero), elements by their place in the register
(eltOf_packV, eltOf_blend), bytes by induction on how many are written (Mem.readNat_writeNat). -/
theorem storageReadsAsWritten : Obligations.StorageReadsAsWritten :=
  ⟨fun t => ⟨t.rdS_zero, t.rdP_zero, t.rdK_zero, fun x b => ⟨t.wrS_zero x, t.wrP_zero b⟩, fun _ m x hn => t.rdS_wrS_of_ne_zero m x hn,
      fun _ m b hn => t.rdP_wrP_of_ne_zero m b hn, fun n x => ⟨t.wrS_eq n x, fun b => t.wrP_eq n b⟩⟩,
   fun f k old h _ hi => ⟨eltOf_packV f h hi, eltOf_blend f k old h hi⟩,
   fun m a n v hwf => ⟨m.wf_writeNat a n v hwf, m.readNat_writeNat a n v hwf, fun j hj => m.read_writeNat_out a n v j hj⟩⟩

end Machine

end Sys2Proof
end

section
/-! PROOFS. Illegal syllables and misplaced branches (O35). -/

namespace Sys2Proof

namespace Machine

/-- Every syllable issued alone is carried out as its plan says. -/
theorem exec_syllable {i : Instr} (h : i.isSyllable = true) (s : State) : exec i s = alone i (planOf i) s := by
  cases i <;> cases h <;> rfl

/-! The traps that a bundle of one syllable takes before its plan is made (R101, R110, R113). -/

/-- The strand cur with a trap taken in a slot or at fetch, its entry still to come (R408). -/
def State.trappedAt (s : State) (slot : Slot) (fetch : Bool) (cause : BitVec 8) (addr : Option W64) (syl : Syl48) : State :=
  s.setStrand s.cur { s.me with
    walk := none
    trapReq := some { cause := cause, slot := slot, fetch := fetch, addr := addr, syl := syl, pc := s.me.pc, pend := s.me.pend } }

/-- A trap of the strand's own slot is State.trapped. -/
theorem State.trappedAt_here (s : State) (cause : BitVec 8) (addr : Option W64) :
    s.trappedAt s.slot false cause addr (rawSyllable s.here.raw s.slot) = s.trapped cause addr := rfl

section
variable {s : State} {i : Instr} {p : State → Plan} (hlate : s.me.late = [])
include hlate

/-- A bundle whose verdict is a trap other than ENGFAULT, and no held report: the trap is taken at the bundle. -/
theorem alone_of_verdict_trap {slot : Slot} {fetch : Bool} {cause : BitVec 8} {addr : Option W64} {syl : Syl48} (hcause : cause ≠ ENGFAULT)
    (hverdict : (s.setStrand s.cur s.me).verdict s.here [loneWork i p s] = .trap slot fetch cause addr syl none) :
    alone i p s = .next ((s.trappedAt slot fetch cause addr syl).settle s.cur) := by
  have halone : alone i p s = .next (s.issue s.here [loneWork i p s]) := rfl
  simp only [halone, State.issue, State.ripe_eq _ _ hlate, hverdict, State.carry, State.whole_one, State.readFailure, if_pos hcause,
    Strand.reported, State.takeTrap, State.onMe_eq, State.me_relisted, State.setStrand_cur, State.setStrand_setStrand,
    State.strand_setStrand_same, State.trappedAt]

/-- Where no delay bundle is due, a syllable that is not legal traps with ILLINST in its slot (R110). -/
theorem alone_illegal (hpend : s.me.pend = none) (hillegal : (loneWork i p s).legal s.here = false) :
    alone i p s = .next ((s.trapped ILLINST none).settle s.cur) := by
  have hverdict : (s.setStrand s.cur s.me).verdict s.here [loneWork i p s] =
      .trap s.slot false ILLINST none (rawSyllable s.here.raw s.slot) none := by
    simp only [State.verdict, State.me_relisted, hpend, List.find?_cons, hillegal]
    rfl
  rw [← State.trappedAt_here]
  exact alone_of_verdict_trap hlate (by decide) hverdict

/-- A branch syllable in a delay bundle traps with DELAYBR, as a trap of fetch (R95, R101). -/
theorem alone_delayBranch (hpend : s.me.pend.isSome = true) (hbranch : isBranch i = true) :
    alone i p s = .next ((s.trappedAt .s0 true DELAYBR none 0).settle s.cur) := by
  have hverdict : (s.setStrand s.cur s.me).verdict s.here [loneWork i p s] = .trap .s0 true DELAYBR none 0 none := by
    simp [State.verdict, hpend, loneWork, hbranch]
  exact alone_of_verdict_trap hlate (by decide) hverdict

/-- A legal branch syllable in the end bundle of a level traps with LOOPBR in slot B (R179). -/
theorem alone_loopBranch {lvl : Bool} (hpend : s.me.pend = none) (hend : s.me.atEnd s.here lvl = true) (hbranch : isBranch i = true)
    (hlegal : (loneWork i p s).legal s.here = true) :
    alone i p s = .next ((s.trappedAt .b false LOOPBR none (rawSyllable s.here.raw .b)).settle s.cur) := by
  have hends : s.me.loopBranch s.here [loneWork i p s] = true := by
    cases lvl <;> simp [Strand.loopBranch, hend, loneWork, hbranch]
  have hverdict : (s.setStrand s.cur s.me).verdict s.here [loneWork i p s] =
      .trap .b false LOOPBR none (rawSyllable s.here.raw .b) none := by
    simp [State.verdict, hpend, hlegal, hends]
  exact alone_of_verdict_trap hlate (by decide) hverdict

end

/-- A syllable whose own bits break a rule is legal in no bundle. -/
theorem loneWork_illegal {i : Instr} (p : State → Plan) (s : State) (h : i.wf = false) : (loneWork i p s).legal s.here = false := by
  simp [Work.legal, loneWork, h]

/-- A well-formed branch syllable is legal: the loop end that hangs on the bundle's length is one of LOOP and MLOOP alone. -/
theorem loneWork_legal_of_isBranch {i : Instr} (p : State → Plan) (s : State) (hwf : i.wf = true) (hbranch : isBranch i = true) :
    (loneWork i p s).legal s.here = true := by
  refine loneWork_legal i p s hwf ?_ ?_ <;> rintro o rfl <;> exact absurd hbranch Bool.false_ne_true

theorem isBranch_of_mem {o : Bd} {i : Instr} (h : i ∈ [Instr.br o, .banksw o]) : isBranch i = true ∧ i.isSyllable = true := by
  fin_cases h <;> exact ⟨rfl, rfl⟩

/-- Settles O35: the verdict on the bundle is the trap whatever its plan (alone_illegal, alone_delayBranch, alone_loopBranch). -/
theorem illegalBundles : Obligations.IllegalBundles := by
  refine ⟨fun s i hsyllable hwf hlate hpend => ?_, fun s o hlate => ⟨fun q hpend i hi => ?_, fun hpend hend i hi hwf => ?_⟩⟩
  · rw [exec_syllable hsyllable]
    exact alone_illegal hlate hpend (loneWork_illegal _ s hwf)
  · obtain ⟨hbranch, hsyllable⟩ := isBranch_of_mem hi
    rw [exec_syllable hsyllable, alone_delayBranch hlate (by simp [hpend]) hbranch, State.trappedAt, hpend]
  · obtain ⟨hbranch, hsyllable⟩ := isBranch_of_mem hi
    rw [exec_syllable hsyllable, alone_loopBranch hlate hpend hend hbranch (loneWork_legal_of_isBranch _ s hwf hbranch), State.trappedAt, hpend]

end Machine

end Sys2Proof
end

section
/-! PROOFS. What becomes of a syllable whose plan traps or stalls; what user and supervisor state may not run (O31). -/

namespace Sys2Proof

namespace Machine

/-! What becomes of a syllable that issues alone with nothing in its way, by its plan. -/

theorem Plan.need_true {c : Bool} (h : c = true) (cause : BitVec 8) (p : Plan) : Plan.need c cause p = p := if_pos h

theorem Plan.need_false {c : Bool} (h : c = false) (cause : BitVec 8) (p : Plan) : Plan.need c cause p = .trap cause none := by
  rw [Plan.need, h]
  rfl

/-- A plan that traps, other than with ENGFAULT: the trap is taken at the bundle (R408). -/
theorem exec_of_plan_trap {s : State} {i : Instr} {p : State → Plan} {cause : BitVec 8} {addr : Option W64} (hclear : s.Clear i)
    (hexec : exec i s = alone i p s) (hlegal : (loneWork i p s).legal s.here = true) (hcause : cause ≠ ENGFAULT)
    (hplan : p (s.setStrand s.cur s.me) = .trap cause addr) : exec i s = .next ((s.trapped cause addr).settle s.cur) :=
  hexec.trans (alone_trap hclear.toUnheld hlegal (loopBranch_clear hclear _) (.inl hclear.pend) hcause hplan)

/-- A plan that stalls: the bundle does not issue (R80). -/
theorem exec_of_plan_stall {s u : State} {i : Instr} {p : State → Plan} (hclear : s.Clear i) (hexec : exec i s = alone i p s)
    (hlegal : (loneWork i p s).legal s.here = true) (hplan : p (s.setStrand s.cur s.me) = .stall u) : exec i s = .next u :=
  hexec.trans (alone_stall hclear.toUnheld hlegal (loopBranch_clear hclear _) (.inl hclear.pend) hplan)

/-! In user state (R131, R172, R412). -/

section
variable {s : State} (huser : s.me.super = false)
include huser

theorem exec_eret_user (hclear : s.Clear .eret) : exec .eret s = .next ((s.trapped PRIV none).settle s.cur) := by
  have hplan : planEret (s.setStrand s.cur s.me) = .trap PRIV none := Plan.need_false (by rw [State.me_relisted, huser]) ..
  exact exec_of_plan_trap hclear rfl (hclear.legal _) (by decide) hplan

theorem exec_mfs_user {o : Mfs} (hsuper : crSuper o.cr.toNat = true) (hclear : s.Clear (.mfs o)) :
    exec (.mfs o) s = .next ((s.trapped PRIV none).settle s.cur) := by
  have hplan : planMfs o (s.setStrand s.cur s.me) = .trap PRIV none := Plan.need_false (by rw [State.me_relisted, huser, hsuper]; rfl) ..
  exact exec_of_plan_trap hclear rfl (hclear.legal _) (by decide) hplan

theorem exec_mts_user {o : Mts} (hsuper : crSuper o.cr.toNat = true) (hclear : s.Clear (.mts o)) :
    exec (.mts o) s = .next ((s.trapped PRIV none).settle s.cur) := by
  have hplan : planMts o (s.setStrand s.cur s.me) = .trap PRIV none := Plan.need_false (by rw [State.me_relisted, huser, hsuper]; rfl) ..
  exact exec_of_plan_trap hclear rfl (hclear.legal _) (by decide) hplan

end

/-! In supervisor state (R407). -/

theorem loopForm_super {s : State} (h : s.me.super = true) (sc : BitVec 6) (lvl : Bool) (len : BitVec 16) (nstg : Option Nat) :
    loopForm s sc lvl len nstg = .trap PRIV none :=
  Plan.need_false (by rw [h]; rfl) ..

section
variable {s : State} (hsuper : s.me.super = true)
include hsuper

theorem exec_loop_super {o : Lp} (hlen : s.here.len ≤ o.len.toNat) (hclear : s.Clear (.loop o)) :
    exec (.loop o) s = .next ((s.trapped PRIV none).settle s.cur) := by
  have hlegal : (loneWork (.loop o) (planLoop o) s).legal s.here = true := by simp [Work.legal, loneWork, hclear.wf, hlen]
  have hplan : planLoop o (s.setStrand s.cur s.me) = .trap PRIV none := loopForm_super (by rw [State.me_relisted, hsuper]) ..
  exact exec_of_plan_trap hclear rfl hlegal (by decide) hplan

theorem exec_mloop_super {o : Mlp} (hlen : s.here.len ≤ o.len.toNat) (hclear : s.Clear (.mloop o)) :
    exec (.mloop o) s = .next ((s.trapped PRIV none).settle s.cur) := by
  have hlegal : (loneWork (.mloop o) (planMloop o) s).legal s.here = true := by simp [Work.legal, loneWork, hclear.wf, hlen]
  have hplan : planMloop o (s.setStrand s.cur s.me) = .trap PRIV none := loopForm_super (by rw [State.me_relisted, hsuper]) ..
  exact exec_of_plan_trap hclear rfl hlegal (by decide) hplan

end

/-- The control registers marked S (R131). -/
theorem crSuper_of_range {n : Nat} (h : (0x10 ≤ n ∧ n < 0x18) ∨ n = 0x20) : crSuper n = true := by
  simpa [crSuper] using h

/-- Settles O31: every plan checks the state before anything else, and its trap is taken at the bundle (exec_of_plan_trap). -/
theorem privilegeTraps : Obligations.PrivilegeTraps := by
  intro s
  refine ⟨fun huser => ⟨exec_eret_user huser, fun c hc => ⟨?_, ?_⟩⟩,
    fun hsuper => ⟨fun _ => exec_loop_super hsuper, fun _ => exec_mloop_super hsuper⟩⟩
  · rintro o rfl
    exact exec_mfs_user huser (crSuper_of_range hc)
  · rintro o rfl
    exact exec_mts_user huser (crSuper_of_range hc)

end Machine

end Sys2Proof
end

section
/-! PROOFS. Circular buffers' pointers, and pushes to a neighbour core (O19). -/

namespace Sys2Proof

namespace Machine

/-! The fields of a descriptor whose pointers have moved (R134, R229). -/

theorem cbMove_toNat (d : W64) (prod cons filled : Nat) :
    (cbMove d prod cons filled).toNat = d.toNat % 2 ^ 32 + prod % 2 ^ 8 * 2 ^ 32 + cons % 2 ^ 8 * 2 ^ 40 + filled % 2 ^ 9 * 2 ^ 48 := by
  rw [cbMove, BitVec.toNat_ofNat]
  omega

/-- Bits of a word, as a quotient. -/
theorem extractLsb'_toNat_eq_div (d : W64) (lo n : Nat) : (d.extractLsb' lo n).toNat = d.toNat / 2 ^ lo % 2 ^ n := by
  rw [BitVec.extractLsb'_toNat, Nat.shiftRight_eq_div_pow]

section
variable (d : W64) (prod cons filled : Nat)

theorem cbProd_cbMove : cbProd (cbMove d prod cons filled) = prod % 256 := by
  rw [cbProd, extractLsb'_toNat_eq_div, cbMove_toNat]
  omega

theorem cbCons_cbMove : cbCons (cbMove d prod cons filled) = cons % 256 := by
  rw [cbCons, extractLsb'_toNat_eq_div, cbMove_toNat]
  omega

theorem cbFilled_cbMove : cbFilled (cbMove d prod cons filled) = filled % 512 := by
  rw [cbFilled, extractLsb'_toNat_eq_div, cbMove_toNat]
  omega

theorem cbBase_cbMove : cbBase (cbMove d prod cons filled) = cbBase d := by
  simp only [cbBase, extractLsb'_toNat_eq_div, cbMove_toNat]
  omega

theorem cbSlotSz_cbMove : cbSlotSz (cbMove d prod cons filled) = cbSlotSz d := by
  simp only [cbSlotSz, extractLsb'_toNat_eq_div, cbMove_toNat]
  omega

theorem cbNslot_cbMove : cbNslot (cbMove d prod cons filled) = cbNslot d := by
  simp only [cbNslot, extractLsb'_toNat_eq_div, cbMove_toNat]
  omega

end

theorem cbProd_lt (d : W64) : cbProd d < 256 := (d.extractLsb' 32 8).isLt

theorem cbCons_lt (d : W64) : cbCons d < 256 := (d.extractLsb' 40 8).isLt

theorem cbFilled_lt (d : W64) : cbFilled d < 512 := (d.extractLsb' 48 9).isLt

theorem cbNslot_lt (d : W64) : cbNslot d < 512 := (d.extractLsb' 23 9).isLt

/-- Slots produced move PROD and FILLED alone; FILLED holds what the buffer has room for. -/
theorem cbProduce_fields {d : W64} {n : Nat} (hpos : 0 < n) (hroom : n ≤ cbNslot d - cbFilled d) : let x := cbProduce d n
    cbProd x = (cbProd d + n) % cbNslot d % 256 ∧ cbCons x = cbCons d ∧ cbFilled x = cbFilled d + n ∧
    cbBase x = cbBase d ∧ cbSlotSz x = cbSlotSz d ∧ cbNslot x = cbNslot d := by
  have hfits : cbFilled d + n < 512 := by have := cbNslot_lt d; omega
  refine ⟨cbProd_cbMove .., ?_, ?_, cbBase_cbMove .., cbSlotSz_cbMove .., cbNslot_cbMove ..⟩
  · rw [cbProduce, cbCons_cbMove, Nat.mod_eq_of_lt (cbCons_lt d)]
  · rw [cbProduce, cbFilled_cbMove, Nat.mod_eq_of_lt hfits]

/-- Slots consumed move CONS and FILLED alone. -/
theorem cbConsume_fields (d : W64) (n : Nat) : let x := cbConsume d n
    cbCons x = (cbCons d + n) % cbNslot d % 256 ∧ cbProd x = cbProd d ∧ cbFilled x = cbFilled d - n ∧
    cbBase x = cbBase d ∧ cbSlotSz x = cbSlotSz d ∧ cbNslot x = cbNslot d := by
  have hfits : cbFilled d - n < 512 := by have := cbFilled_lt d; omega
  refine ⟨cbCons_cbMove .., ?_, ?_, cbBase_cbMove .., cbSlotSz_cbMove .., cbNslot_cbMove ..⟩
  · rw [cbConsume, cbProd_cbMove, Nat.mod_eq_of_lt (cbProd_lt d)]
  · rw [cbConsume, cbFilled_cbMove, Nat.mod_eq_of_lt hfits]

/-! CBPUSH and CBPOP (R245). -/

/-- Charging a stall keeps the strand. -/
theorem State.me_countStall (s : State) (l a : Nat) : (s.countStall l a).me = s.me := by
  obtain ⟨v, hv⟩ := s.countStall_eq l a
  rw [hv]
  rfl

theorem State.me_chargeCb (s : State) (cb : Nat) (out : Bool) : (s.chargeCb cb out).me = s.me := by
  unfold State.chargeCb
  split
  · exact State.me_countStall ..
  · rfl

section
variable {s : State} {o : Cbn}

/-- The check that CBPUSH and CBPOP make of a descriptor's slots. -/
theorem cbSlots_ok {d : W64} {n : Nat} (hset : cbNslot d ≠ 0) (hfew : n ≤ cbNslot d) : (cbNslot d != 0 && decide (n ≤ cbNslot d)) = true := by
  simp [hset, hfew]

theorem cbSlots_bad {d : W64} {n : Nat} (h : cbNslot d = 0 ∨ cbNslot d < n) : (cbNslot d != 0 && decide (n ≤ cbNslot d)) = false := by
  rcases h with h | h <;> simp [h]

/-- A syllable that replaces a descriptor. -/
theorem exec_setCb {i : Instr} {p : State → Plan} {cb : Nat} {x : Strand → W64} (hclear : s.Clear i) (hexec : exec i s = alone i p s)
    (hlegal : (loneWork i p s).legal s.here = true) (hbranch : isBranch i = false)
    (hplan : p (s.setStrand s.cur s.me) = .reg fun t => { t with cbs := t.cbs.set cb (x t) }) :
    exec i s = .next (s.wrote { s.me with cbs := s.me.cbs.set cb (x s.me) }) :=
  hexec.trans (alone_reg hclear hlegal hbranch hplan hclear.goesOn hclear.next hclear.trapReq hclear.body0 hclear.body1)

theorem exec_cbpush (hclear : s.Clear (.cbpush o)) (hset : cbNslot (s.me.rdCb o.cb.toNat) ≠ 0)
    (hroom : o.nm1.toNat + 1 ≤ cbNslot (s.me.rdCb o.cb.toNat) - cbFilled (s.me.rdCb o.cb.toNat)) :
    exec (.cbpush o) s =
      .next (s.wrote { s.me with cbs := s.me.cbs.set o.cb.toNat (cbProduce (s.me.rdCb o.cb.toNat) (o.nm1.toNat + 1)) }) := by
  refine exec_setCb (x := fun t => cbProduce (t.rdCb o.cb.toNat) (o.nm1.toNat + 1)) hclear rfl (hclear.legal _) rfl ?_
  have hfew := hroom.trans (Nat.sub_le _ _)
  simp only [planCbpush, State.me_relisted, Plan.need_true (cbSlots_ok hset hfew), if_pos hroom]

theorem exec_cbpop (hclear : s.Clear (.cbpop o)) (hset : cbNslot (s.me.rdCb o.cb.toNat) ≠ 0)
    (hfew : o.nm1.toNat + 1 ≤ cbNslot (s.me.rdCb o.cb.toNat)) (hfilled : o.nm1.toNat + 1 ≤ cbFilled (s.me.rdCb o.cb.toNat)) :
    exec (.cbpop o) s =
      .next (s.wrote { s.me with cbs := s.me.cbs.set o.cb.toNat (cbConsume (s.me.rdCb o.cb.toNat) (o.nm1.toNat + 1)) }) := by
  refine exec_setCb (x := fun t => cbConsume (t.rdCb o.cb.toNat) (o.nm1.toNat + 1)) hclear rfl (hclear.legal _) rfl ?_
  simp only [planCbpop, State.me_relisted, Plan.need_true (cbSlots_ok hset hfew), if_pos hfilled]

/-- CBPUSH and CBPOP of more slots than the descriptor has, or of one that is unset. -/
theorem exec_cb_bounds {i : Instr} (hi : i ∈ [Instr.cbpush o, .cbpop o]) (hclear : s.Clear i)
    (hbad : cbNslot (s.me.rdCb o.cb.toNat) = 0 ∨ cbNslot (s.me.rdCb o.cb.toNat) < o.nm1.toNat + 1) :
    exec i s = .next ((s.trapped BOUNDS none).settle s.cur) := by
  have hneed (p : Plan) := Plan.need_false (cbSlots_bad hbad) BOUNDS p
  fin_cases hi
  · exact exec_of_plan_trap (p := planCbpush o) hclear rfl (hclear.legal _) (by decide) (by simp only [planCbpush, State.me_relisted, hneed])
  · exact exec_of_plan_trap (p := planCbpop o) hclear rfl (hclear.legal _) (by decide) (by simp only [planCbpop, State.me_relisted, hneed])

theorem exec_cbpush_full (hclear : s.Clear (.cbpush o)) (hfew : o.nm1.toNat + 1 ≤ cbNslot (s.me.rdCb o.cb.toNat))
    (hfull : cbNslot (s.me.rdCb o.cb.toNat) - cbFilled (s.me.rdCb o.cb.toNat) < o.nm1.toNat + 1) :
    ∃ u, exec (.cbpush o) s = .next u ∧ u.me = s.me := by
  have hset : cbNslot (s.me.rdCb o.cb.toNat) ≠ 0 := by omega
  have hplan : planCbpush o (s.setStrand s.cur s.me) = .stall ((s.setStrand s.cur s.me).chargeCb o.cb.toNat false) := by
    simp only [planCbpush, State.me_relisted, Plan.need_true (cbSlots_ok hset hfew), if_neg (Nat.not_le.mpr hfull)]
  exact ⟨_, exec_of_plan_stall hclear rfl (hclear.legal _) hplan, (State.me_chargeCb ..).trans s.me_relisted⟩

theorem exec_cbpop_empty (hclear : s.Clear (.cbpop o)) (hfew : o.nm1.toNat + 1 ≤ cbNslot (s.me.rdCb o.cb.toNat))
    (hempty : cbFilled (s.me.rdCb o.cb.toNat) < o.nm1.toNat + 1) : ∃ u, exec (.cbpop o) s = .next u ∧ u.me = s.me := by
  have hset : cbNslot (s.me.rdCb o.cb.toNat) ≠ 0 := by omega
  have hplan : planCbpop o (s.setStrand s.cur s.me) = .stall ((s.setStrand s.cur s.me).chargeCb o.cb.toNat true) := by
    simp only [planCbpop, State.me_relisted, Plan.need_true (cbSlots_ok hset hfew), if_neg (Nat.not_le.mpr hempty)]
  exact ⟨_, exec_of_plan_stall hclear rfl (hclear.legal _) hplan, (State.me_chargeCb ..).trans s.me_relisted⟩

end

/-! XPUT (R255). -/

/-- The push of an XPUT to a core. -/
def State.pushTo (s : State) (c : Nat) (o : Xp) : Push :=
  { id := (s.core c).pushSeq, who := s.cur, dir := o.dir, off := (s.me.rdS o.sa).toNat, data := (s.me.rdV o.va.toNat).bits,
    due := s.clkHere + 6, waiting := false, seq := s.me.memSeq }

/-- A core with one more push on its way to it. -/
def Core.awaits (x : Core) (p : Push) : Core := { x with pushSeq := x.pushSeq + 1, pushes := x.pushes ++ [p] }

/-- The state after an XPUT to a core. -/
def State.putTo (s : State) (c : Nat) (o : Xp) : State :=
  (s.onCore c fun x => x.awaits (s.pushTo c o)).setStrand s.cur (Strand.moved { s.me with xputsOut := s.me.xputsOut + 1 } s.here)

section
variable {s : State} {o : Xp}

theorem exec_xput_nowhere (hclear : s.Clear (.xput o)) (hnone : neighbour (coreOf s.cur) o.dir = none) :
    exec (.xput o) s = .next ((s.trapped BOUNDS none).settle s.cur) := by
  have hplan : planXput o (s.setStrand s.cur s.me) = .trap BOUNDS none := by simp only [planXput, State.setStrand_cur, hnone]
  exact exec_of_plan_trap hclear rfl (hclear.legal _) (by decide) hplan

/-- A strand with one more XPUT on its way issues on as before. -/
theorem advance_xputsOut (hclear : s.Clear (.xput o)) :
    { s.me.advance { s.me with xputsOut := s.me.xputsOut + 1 } s.here false with last := s.here.addr } =
      Strand.moved { s.me with xputsOut := s.me.xputsOut + 1 } s.here :=
  Strand.advance_plain _ _ _ hclear.pend hclear.goesOn hclear.next hclear.trapReq hclear.body0 hclear.body1

/-- A change of the strand cur beside a change of a core. -/
theorem State.onMe_onCore_relisted (s : State) (c : Nat) (f : Core → Core) (g : Strand → Strand) :
    ((s.setStrand s.cur s.me).onCore c f).onMe g = (s.onCore c f).setStrand s.cur (g s.me) := by
  have hlisted : (s.setStrand s.cur s.me).onCore c f = (s.onCore c f).setStrand s.cur s.me := rfl
  have hme : ((s.onCore c f).setStrand s.cur s.me).me = s.me := State.me_setStrand (s.onCore c f) s.me
  rw [hlisted, State.onMe_eq, hme, State.setStrand_cur]
  exact State.setStrand_setStrand ..

/-- XPUT inside local store at a multiple of 64 sends its push to the neighbour core. -/
theorem planXput_go {c : Nat} (hcore : neighbour (coreOf s.cur) o.dir = some c) (haligned : (s.me.rdS o.sa).toNat % 64 = 0)
    (hinside : (s.me.rdS o.sa).toNat + 512 ≤ 0x100000) :
    ∃ g, planXput o (s.setStrand s.cur s.me) = .go g ∧ g (s.setStrand s.cur s.me) =
      ((s.setStrand s.cur s.me).onCore c fun x => x.awaits (s.pushTo c o)).onMe fun t => { t with xputsOut := t.xputsOut + 1 } := by
  simp only [planXput, State.setStrand_cur, State.me_relisted, hcore, Plan.needAt, Plan.need, haligned, hinside, beq_self_eq_true, decide_true,
    if_true]
  refine ⟨_, rfl, ?_⟩
  simp only [State.me_relisted]
  rfl

theorem exec_xput {c : Nat} (hclear : s.Clear (.xput o)) (hcore : neighbour (coreOf s.cur) o.dir = some c)
    (haligned : (s.me.rdS o.sa).toNat % 64 = 0) (hinside : (s.me.rdS o.sa).toNat + 512 ≤ 0x100000) : exec (.xput o) s = .next (s.putTo c o) := by
  obtain ⟨g, hgo, hg⟩ := planXput_go hcore haligned hinside
  have hcommit := alone_go hclear (hclear.legal _) hgo
  rw [hg, State.onMe_onMe, State.onMe_onCore_relisted] at hcommit
  have htrap : ((s.putTo c o).strand (s.putTo c o).cur).trapReq = none := by
    rw [State.putTo, State.setStrand_cur]
    exact (congrArg Strand.trapReq (State.strand_setStrand_same ..)).trans hclear.trapReq
  have hadvance : (s.onCore c fun x => x.awaits (s.pushTo c o)).setStrand s.cur
      { s.me.advance { s.me with xputsOut := s.me.xputsOut + 1 } s.here false with last := s.here.addr } = s.putTo c o := by
    rw [advance_xputsOut hclear]
    rfl
  exact hcommit.trans (congrArg Host.Outcome.next ((congrArg (State.settle · s.cur) hadvance).trans (State.settle_none _ htrap)))

/-- What is on its way has changed no byte of a core. -/
theorem Core.sameBytes_awaits (x : Core) (p : Push) : x.SameBytes (x.awaits p) := fun _ => ⟨rfl, rfl, rfl, rfl, rfl, rfl, rfl, rfl⟩

theorem State.sameBytes_putTo (s : State) (c : Nat) (o : Xp) : s.SameBytes (s.putTo c o) := by
  refine ⟨fun _ => ⟨rfl, rfl, rfl, rfl⟩, fun d => ?_⟩
  have hcore : (s.putTo c o).core d = (s.onCore c fun x => x.awaits (s.pushTo c o)).core d := rfl
  by_cases h : d = c
  · rw [hcore, h, State.onCore, State.core_setCore_same]
    exact Core.sameBytes_awaits _ _
  · rw [hcore, State.onCore, State.core_setCore_other _ _ h]
    exact fun _ => ⟨rfl, rfl, rfl, rfl, rfl, rfl, rfl, rfl⟩

theorem State.sameOthers_putTo (s : State) (c : Nat) (o : Xp) : s.SameOthers (s.putTo c o) :=
  fun _ h => State.strand_setStrand_other _ _ h

theorem State.pushes_putTo (s : State) (c : Nat) (o : Xp) : ((s.putTo c o).core c).pushes = (s.core c).pushes ++ [s.pushTo c o] := by
  have hcore : (s.putTo c o).core c = (s.core c).awaits (s.pushTo c o) := State.core_setCore_same s c _
  rw [hcore]
  rfl

end

/-- Settles O19: a descriptor with room or with slots filled is replaced by one whose pointers have moved (cbProduce_fields,
cbConsume_fields), and an XPUT sends its push (State.putTo). -/
theorem buffersAndPushes : Obligations.BuffersAndPushes := by
  refine ⟨fun s o => ⟨fun hclear hset hroom => ?_, fun hclear hset hfew hfilled => ?_, fun hbad i hi hclear => exec_cb_bounds hi hclear hbad,
      exec_cbpush_full, exec_cbpop_empty⟩, fun s o => exec_xput_nowhere, fun s o c hclear hcore haligned hinside => ?_⟩
  · exact ⟨_, exec_cbpush hclear hset hroom, cbProduce_fields (Nat.succ_pos _) hroom⟩
  · exact ⟨_, exec_cbpop hclear hset hfew hfilled, cbConsume_fields _ _⟩
  · exact ⟨_, exec_xput hclear hcore haligned hinside, State.me_setStrand (s.onCore c _) _, s.pushes_putTo c o, s.sameBytes_putTo c o,
      s.sameOthers_putTo c o⟩

end Machine

end Sys2Proof
end

section
/-! PROOFS. The vector map: what a form's commit puts in flight, and arithmetic (O9). -/

namespace Sys2Proof

/-- A syllable of the vector map (R102). -/
def Instr.isVector (i : Instr) : Prop := i.code.map Prod.fst = some .vector

namespace Machine

/-! A syllable of the vector map is carried out from the strand that issues it and the slot it stands in. -/

/-- A package after reset but for one strand, the strand cur, which issues from a slot. -/
def issuingAlone (t : Strand) (slot : Slot) : State := { State.reset.setStrand State.reset.cur t with slot := slot }

/-- A syllable, no branch and no loop, whose plan reads of a package no more than the strand that issues it and the slot. -/
structure ReadsOwnStrand (i : Instr) : Prop where
  syllable : i.isSyllable = true
  branch : isBranch i = false
  loop : ∀ o, i ≠ .loop o
  mloop : ∀ o, i ≠ .mloop o
  own : ∀ s, planOf i s = planOf i (issuingAlone s.me s.slot)

theorem readsOwnStrand_of_isVector {i : Instr} (h : i.isVector) : ReadsOwnStrand i := by
  cases i <;> cases h <;> exact ⟨rfl, rfl, nofun, nofun, fun _ => rfl⟩

theorem ReadsOwnStrand.plan_relisted {i : Instr} (h : ReadsOwnStrand i) (s : State) : planOf i (s.setStrand s.cur s.me) = planOf i s := by
  rw [h.own, h.own s, State.me_relisted]
  rfl

/-- p is the plan of i, a syllable of the vector map. -/
structure VectorPlan (i : Instr) (p : State → Plan) : Prop where
  vector : i.isVector
  plan : planOf i = p

section
variable {s : State} {i : Instr} (hclear : s.Clear i) {p : State → Plan} (hform : VectorPlan i p)
include hclear hform

/-- A form whose plan passes its checks puts its results in flight (R191). -/
theorem exec_vecDone {lat n : Nat} {lands : List Landing} {nan sat : Bool} (hplan : p s = vecDone lat lands n nan sat) :
    ∃ u, exec i s = .next u ∧ s.Flew u lat lands := by
  have hreads := readsOwnStrand_of_isVector hform.vector
  rw [← hform.plan, ← hreads.plan_relisted] at hplan
  rw [exec_syllable hreads.syllable]
  exact alone_fly hclear (hclear.legal _ hreads.loop hreads.mloop) hreads.branch hplan

/-- A masked result whose checks hold: the active elements of VD take h (R138, R139). -/
theorem exec_vecWrite {lat : Nat} {f tag : Fmt} {k : BitVec 4} {vd : BitVec 8} {src : Bool} {e : Nat → Elt} {h : Nat → Nat}
    (hplan : p s = vecWrite s.me lat f tag k vd src e) (hsrc : src = true) (hdest : destTagOk s.me k vd.toNat tag = true)
    (hbits : ∀ j, (e j).bits = h j) : ∃ u, exec i s = .next u ∧
      s.Flew u lat [.v (s.me.physV vd.toNat) { bits := blend f (s.me.rdK k) (s.me.rdV vd.toNat).bits h, tag := tag }] := by
  obtain rfl : (fun j => (e j).bits) = h := funext hbits
  exact exec_vecDone hclear hform (hplan.trans (Plan.need_true (by rw [hsrc, hdest]; rfl) _ _))

/-- A result that takes every element of VD, whose checks hold (R188). -/
theorem exec_vecAll {lat : Nat} {f tag : Fmt} {vd : BitVec 8} {src : Bool} {e : Nat → Elt} {h : Nat → Nat}
    (hplan : p s = vecAll s.me lat f tag vd src e) (hsrc : src = true) (hbits : ∀ j, (e j).bits = h j) :
    ∃ u, exec i s = .next u ∧ s.Flew u lat [.v (s.me.physV vd.toNat) { bits := packV f h, tag := tag }] := by
  obtain rfl : (fun j => (e j).bits) = h := funext hbits
  exact exec_vecDone hclear hform (hplan.trans (Plan.need_true hsrc _ _))

/-- A form of two sources and one format. -/
theorem exec_vecVvv {o : Vvv} {lat : Nat} {g : Strand → Fmt → Nat → Nat → Elt} {h : Nat → Nat} (hplan : p s = vecVvv lat g o s)
    (ha : tagIs s.me o.va.toNat o.fmt = true) (hb : tagIs s.me o.vb.toNat o.fmt = true) (hdest : destTagOk s.me o.k o.vd.toNat o.fmt = true)
    (hbits : ∀ j, (g s.me o.fmt (s.me.ve o.fmt o.va j) (s.me.ve o.fmt o.vb j)).bits = h j) : ∃ u, exec i s = .next u ∧
      s.Flew u lat [.v (s.me.physV o.vd.toNat) { bits := blend o.fmt (s.me.rdK o.k) (s.me.rdV o.vd.toNat).bits h, tag := o.fmt }] :=
  exec_vecWrite hclear hform hplan (Bool.and_eq_true_iff.mpr ⟨ha, hb⟩) hdest hbits

/-- A form of one source and one format. -/
theorem exec_vecVv {o : Vv} {lat : Nat} {g : Strand → Fmt → Nat → Elt} {h : Nat → Nat} (hplan : p s = vecVv lat g o s)
    (ha : tagIs s.me o.va.toNat o.fmt = true) (hdest : destTagOk s.me o.k o.vd.toNat o.fmt = true)
    (hbits : ∀ j, (g s.me o.fmt (s.me.ve o.fmt o.va j)).bits = h j) : ∃ u, exec i s = .next u ∧
      s.Flew u lat [.v (s.me.physV o.vd.toNat) { bits := blend o.fmt (s.me.rdK o.k) (s.me.rdV o.vd.toNat).bits h, tag := o.fmt }] :=
  exec_vecWrite hclear hform hplan ha hdest hbits

end

/-! Arithmetic (R190, R193 to R195). -/

/-- An arithmetic form of two sources rounds its exact floating result or wraps its exact integer. -/
theorem vecArith_bits (t : Strand) (gi : Int → Int → Int) (gf : FP → FP → FP) (f : Fmt) (a b : Nat) :
    (vecArith t gi gf f a b).bits =
      if f.isF then fpRound f (.ofBits t.rmode) t.ftz (gf (fpDecode f a) (fpDecode f b)) else intWrap f (gi (intDecode f a) (intDecode f b)) := by
  unfold vecArith
  split <;> rfl

/-- So does a form of one source. -/
theorem vecSign_bits (t : Strand) (gi : Int → Int) (gf : FP → FP) (f : Fmt) (a : Nat) :
    (vecSign t gi gf f a).bits =
      if f.isF then fpRound f (.ofBits t.rmode) t.ftz (gf (fpDecode f a)) else intWrap f (gi (intDecode f a)) := by
  unfold vecSign
  split <;> rfl

/-- The smaller of two integers, as VMIN picks it. -/
theorem ite_lt_eq_min (a b : Int) : (if b < a then b else a) = min a b := by
  split <;> omega

/-- The larger of two integers, as VMAX picks it. -/
theorem ite_lt_eq_max (a b : Int) : (if a < b then b else a) = max a b := by
  split <;> omega

theorem natAbs_eq_ite (a : Int) : (a.natAbs : Int) = if a < 0 then -a else a := by
  split <;> omega

theorem exec_vdot4 {s : State} {o : Vvv} (hclear : s.Clear (.vdot4 o)) (ha : tagIs s.me o.va.toNat o.fmt = true)
    (hb : tagIs s.me o.vb.toNat o.fmt = true) (hd : tagIs s.me o.vd.toNat .int32 = true) :
    let a (i : Nat) : Int := intDecode o.fmt (s.me.ve o.fmt o.va i)
    let b (i : Nat) : Int := intDecode o.fmt (s.me.ve o.fmt o.vb i)
    let dot (j : Nat) : Int :=
      a (4 * j) * b (4 * j) + a (4 * j + 1) * b (4 * j + 1) + a (4 * j + 2) * b (4 * j + 2) + a (4 * j + 3) * b (4 * j + 3)
    ∃ u, exec (.vdot4 o) s = .next u ∧ s.Flew u 4 [.v (s.me.physV o.vd.toNat) (.mk (blend .int32 (s.me.rdK o.k) (s.me.rdV o.vd.toNat).bits
      fun j => intWrap .int32 (intDecode .int32 (s.me.ve .int32 o.vd j) + dot j)) .int32)] := by
  have hdest : destTagOk s.me o.k o.vd.toNat .int32 = true := Bool.or_eq_true_iff.mpr (.inr hd)
  refine exec_vecWrite hclear (p := planVdot4 o) ⟨rfl, rfl⟩ rfl (by rw [ha, hb, hd]; rfl) hdest fun j => ?_
  simp [plainElt, List.range_succ]

/-- Settles O9: an arithmetic form writes what its elements give (exec_vecVvv, exec_vecVv), which is the exact result rounded, wrapped
(vecArith_bits, vecSign_bits) or clamped. -/
theorem vectorArithmetic : Obligations.VectorArithmetic := by
  refine ⟨fun s o ha hb hd => ?_, fun s => ⟨fun o ha hb hd hclear => exec_vdot4 hclear ha hb hd, fun o ha hd => ?_⟩⟩
  · simp only [List.forall_mem_cons, List.not_mem_nil, false_imp_iff, implies_true, and_true]
    exact ⟨
      fun hclear => exec_vecVvv hclear (p := planVadd o) ⟨rfl, rfl⟩ rfl ha hb hd fun _ => vecArith_bits ..,
      fun hclear => exec_vecVvv hclear (p := planVsub o) ⟨rfl, rfl⟩ rfl ha hb hd fun _ => vecArith_bits ..,
      fun hclear => exec_vecVvv hclear (p := planVmul o) ⟨rfl, rfl⟩ rfl ha hb hd fun _ => vecArith_bits ..,
      fun hclear => exec_vecVvv hclear (p := planVmin o) ⟨rfl, rfl⟩ rfl ha hb hd fun _ => by rw [vecArith_bits, ite_lt_eq_min],
      fun hclear => exec_vecVvv hclear (p := planVmax o) ⟨rfl, rfl⟩ rfl ha hb hd fun _ => by rw [vecArith_bits, ite_lt_eq_max],
      fun hclear => exec_vecVvv hclear (p := planVadds o) ⟨rfl, rfl⟩ rfl ha hb hd fun _ => rfl,
      fun hclear => exec_vecVvv hclear (p := planVsubs o) ⟨rfl, rfl⟩ rfl ha hb hd fun _ => rfl,
      fun hclear => exec_vecVvv hclear (p := planVmulh o) ⟨rfl, rfl⟩ rfl ha hb hd fun _ => rfl⟩
  · simp only [List.forall_mem_cons, List.not_mem_nil, false_imp_iff, implies_true, and_true]
    exact ⟨
      fun hclear => exec_vecVv hclear (p := planVabs o) ⟨rfl, rfl⟩ rfl ha hd fun _ => by rw [vecSign_bits, natAbs_eq_ite],
      fun hclear => exec_vecVv hclear (p := planVneg o) ⟨rfl, rfl⟩ rfl ha hd fun _ => vecSign_bits ..⟩

end Machine

end Sys2Proof
end

section
/-! PROOFS. The vector map: conversions (O13), and logic, shifts, moves, permutes and partition (O12). -/

namespace Sys2Proof

namespace Machine

/-! Conversions (R201, R203). -/

/-- Settles O13, form by form: VCVT writes the active elements of one register, VCVTW those of a group (exec_vecDone), and VCVTN takes its
elements from one (exec_vecAll). -/
theorem vectorConversions : Obligations.VectorConversions := by
  intro s o t f r cv hpair
  refine ⟨fun hclear hwidth hdest => ?_, fun hclear hwidth => ?_, fun hclear hwidth hgroup => ?_⟩
  · have hsrc : (cvtPair f o.fmt && f.halfBytes == o.fmt.halfBytes) = true := by simp [hpair, hwidth]
    exact exec_vecWrite hclear (p := planVcvt o) ⟨rfl, rfl⟩ rfl hsrc hdest fun _ => rfl
  · have hsrc : (cvtPair f o.fmt && ratioOk o.fmt f) = true := by simp [ratioOk, hpair, hwidth]
    exact exec_vecDone hclear (p := planVcvtw o) ⟨rfl, rfl⟩ (Plan.need_true hsrc _ _)
  · have hsrc : (cvtPair f o.fmt && ratioOk f o.fmt && groupTag t o.va.toNat r f) = true := by simp [ratioOk, hpair, hwidth, hgroup]
    exact exec_vecAll hclear (p := planVcvtn o) ⟨rfl, rfl⟩ rfl hsrc fun _ => rfl

/-! Elements whose tag leaves bits unused (R137). -/

/-- The integer formats use every bit of an element. -/
theorem cleanElt_of_isI' {f : Fmt} (h : f.isI' = true) (j x : Nat) : cleanElt f f j x = x := by
  cases f <;> cases h <;> rfl

/-- An element cut to the bits that carry its value has no other. -/
theorem cleanElt_mod_valueBits (f : Fmt) (j x : Nat) : cleanElt f f j (x % 2 ^ valueBits f) = x % 2 ^ valueBits f := by
  cases f
  case t6 => exact Nat.mod_mod x 64
  case s12 => exact Nat.mod_mod x 4096
  all_goals rfl

/-- VSPLATI's element by format (R206). -/
theorem splatElt_eq (f : Fmt) (imm : BitVec 16) :
    splatElt f imm = if f = .fp32 then imm.toNat * 2 ^ 16 else if f = .int32 then (imm.signExtend 32).toNat else imm.toNat := by
  cases f <;> rfl

/-! Logic, moves and shifts (R199, R200, R207). -/

section
variable {s : State} {i : Instr} (hclear : s.Clear i) {p : State → Plan} (hform : VectorPlan i p)
include hclear hform

/-- A bitwise form of two sources. -/
theorem exec_vecLogic {o : Vvv} {g : Nat → Nat → Nat} (hplan : p s = vecLogic g o s) (ha : tagOrRaw s.me o.va.toNat o.fmt = true)
    (hb : tagOrRaw s.me o.vb.toNat o.fmt = true) (hdest : destTagOk s.me o.k o.vd.toNat (resultTag s.me o.va.toNat o.fmt) = true) :
    let tag := resultTag s.me o.va.toNat o.fmt
    ∃ u, exec i s = .next u ∧ s.Flew u 1 [.v (s.me.physV o.vd.toNat) (.mk (blend o.fmt (s.me.rdK o.k) (s.me.rdV o.vd.toNat).bits
      fun j => cleanElt tag o.fmt j (g (s.me.ve o.fmt o.va j) (s.me.ve o.fmt o.vb j))) tag)] :=
  exec_vecWrite hclear hform hplan (Bool.and_eq_true_iff.mpr ⟨ha, hb⟩) hdest fun _ => rfl

/-- A form that moves the bits of one source. -/
theorem exec_vecMove {o : Vv} {g : Nat → Nat} (hplan : p s = vecMove g o s) (ha : tagOrRaw s.me o.va.toNat o.fmt = true)
    (hdest : destTagOk s.me o.k o.vd.toNat (resultTag s.me o.va.toNat o.fmt) = true) :
    let tag := resultTag s.me o.va.toNat o.fmt
    ∃ u, exec i s = .next u ∧ s.Flew u 1 [.v (s.me.physV o.vd.toNat) (.mk (blend o.fmt (s.me.rdK o.k) (s.me.rdV o.vd.toNat).bits
      fun j => cleanElt tag o.fmt j (g (s.me.ve o.fmt o.va j))) tag)] :=
  exec_vecWrite hclear hform hplan ha hdest fun _ => rfl

/-- A shift by the elements of VB, in a format that uses every bit. -/
theorem exec_vecShift {o : Vvv} {g : Fmt → Nat → Nat → Elt} (hplan : p s = vecVvv 2 (fun _ => g) o s) (hfmt : o.fmt.isI' = true)
    (ha : tagIs s.me o.va.toNat o.fmt = true) (hb : tagIs s.me o.vb.toNat o.fmt = true) (hdest : destTagOk s.me o.k o.vd.toNat o.fmt = true) :
    ∃ u, exec i s = .next u ∧ s.Flew u 2 [.v (s.me.physV o.vd.toNat) (.mk (blend o.fmt (s.me.rdK o.k) (s.me.rdV o.vd.toNat).bits
      fun j => cleanElt o.fmt o.fmt j (g o.fmt (s.me.ve o.fmt o.va j) (s.me.ve o.fmt o.vb j)).bits) o.fmt)] :=
  exec_vecVvv hclear hform hplan ha hb hdest fun _ => (cleanElt_of_isI' hfmt ..).symm

/-- A shift by a scalar, in a format that uses every bit. -/
theorem exec_vecShiftS {o : Vvs} {g : Fmt → Nat → Nat → Elt} (hplan : p s = vecShiftS g o s) (hfmt : o.fmt.isI' = true)
    (ha : tagIs s.me o.va.toNat o.fmt = true) (hdest : destTagOk s.me o.k o.vd.toNat o.fmt = true) :
    ∃ u, exec i s = .next u ∧ s.Flew u 2 [.v (s.me.physV o.vd.toNat) (.mk (blend o.fmt (s.me.rdK o.k) (s.me.rdV o.vd.toNat).bits
      fun j => cleanElt o.fmt o.fmt j (g o.fmt (s.me.ve o.fmt o.va j) (s.me.rdS o.sb).toNat).bits) o.fmt)] :=
  exec_vecWrite hclear hform hplan ha hdest fun _ => (cleanElt_of_isI' hfmt ..).symm

end

/-! Permutes, slides, moves to a scalar and partition (R204 to R209). -/

section
variable {s : State}

theorem exec_vperm {o : Vvv} (hclear : s.Clear (.vperm o)) (ha : tagOrRaw s.me o.va.toNat o.fmt = true)
    (hb : groupTag s.me o.vb.toNat (idxRegs o.fmt) .int16 = true) (hdest : destTagOk s.me o.k o.vd.toNat (resultTag s.me o.va.toNat o.fmt) = true) :
    let tag := resultTag s.me o.va.toNat o.fmt
    ∃ u, exec (.vperm o) s = .next u ∧ s.Flew u 3 [.v (s.me.physV o.vd.toNat) (.mk (blend o.fmt (s.me.rdK o.k) (s.me.rdV o.vd.toNat).bits
      fun j => cleanElt tag o.fmt j (s.me.ve o.fmt o.va (indexElt s.me o.vb.toNat o.fmt j % o.fmt.count))) tag)] :=
  exec_vecWrite hclear (p := planVperm o) ⟨rfl, rfl⟩ rfl (Bool.and_eq_true_iff.mpr ⟨ha, hb⟩) hdest fun _ => rfl

theorem exec_vslideup {o : Vvs} (hclear : s.Clear (.vslideup o)) (ha : tagOrRaw s.me o.va.toNat o.fmt = true)
    (hd : tagOrRaw s.me o.vd.toNat o.fmt = true) :
    let tag := resultTag s.me o.va.toNat o.fmt
    let n := (s.me.rdS o.sb).toNat
    ∃ u, exec (.vslideup o) s = .next u ∧ s.Flew u 3 [.v (s.me.physV o.vd.toNat) (.mk (blend o.fmt (s.me.rdK o.k) (s.me.rdV o.vd.toNat).bits
      fun j => cleanElt tag o.fmt j (if j < n then s.me.ve o.fmt o.vd j else s.me.ve o.fmt o.va (j - n))) tag)] := by
  have hplan := Plan.need_true (Bool.and_eq_true_iff.mpr ⟨ha, hd⟩) FMTTAG
  simpa only [← Nat.not_le, ite_not, landV] using exec_vecDone hclear (p := planVslideup o) ⟨rfl, rfl⟩ (hplan _)

theorem exec_vslidedn {o : Vvs} (hclear : s.Clear (.vslidedn o)) (ha : tagOrRaw s.me o.va.toNat o.fmt = true)
    (hdest : destTagOk s.me o.k o.vd.toNat (resultTag s.me o.va.toNat o.fmt) = true) :
    let tag := resultTag s.me o.va.toNat o.fmt
    let n := (s.me.rdS o.sb).toNat
    ∃ u, exec (.vslidedn o) s = .next u ∧ s.Flew u 3 [.v (s.me.physV o.vd.toNat) (.mk (blend o.fmt (s.me.rdK o.k) (s.me.rdV o.vd.toNat).bits
      fun j => cleanElt tag o.fmt j (if j + n < o.fmt.count then s.me.ve o.fmt o.va (j + n) else 0)) tag)] :=
  exec_vecWrite hclear (p := planVslidedn o) ⟨rfl, rfl⟩ rfl ha hdest fun _ => rfl

end

/-- Settles O12, form by form: the bitwise forms and moves (exec_vecLogic, exec_vecMove), the shifts (exec_vecShift, exec_vecShiftS), whose
well-formed formats use every bit of an element, and the others by what each writes. That unused bits are zero whatever wrote them (cleanElt;
log 77) and what VMVS reads under its mask (log 62) are the model's own choices. -/
theorem vectorLogicAndMoves : Obligations.VectorLogicAndMoves := by
  refine ⟨fun s => ⟨fun o ha hb hdest => ?_, fun o ha hdest => ?_, fun o ha hb hdest => ?_, fun o ha hdest => ?_⟩,
    fun s => ⟨fun o hclear ha hb hdest => exec_vperm hclear ha hb hdest, fun o => ⟨exec_vslideup, exec_vslidedn⟩, fun o hclear hdest => ?_,
      fun o hclear ha hb => ?_, fun o hclear ha => ?_, fun o hclear => ?_, fun o hclear => ?_, fun o hclear => ?_⟩⟩
  · simp only [List.forall_mem_cons, List.not_mem_nil, false_imp_iff, implies_true, and_true]
    exact ⟨
      fun hclear => exec_vecLogic hclear (p := planVand o) ⟨rfl, rfl⟩ rfl ha hb hdest,
      fun hclear => exec_vecLogic hclear (p := planVor o) ⟨rfl, rfl⟩ rfl ha hb hdest,
      fun hclear => exec_vecLogic hclear (p := planVxor o) ⟨rfl, rfl⟩ rfl ha hb hdest,
      fun hclear => exec_vecLogic hclear (p := planVandn o) ⟨rfl, rfl⟩ rfl ha hb hdest⟩
  · simp only [List.forall_mem_cons, List.not_mem_nil, false_imp_iff, implies_true, and_true]
    exact ⟨
      fun hclear => exec_vecMove hclear (p := planVnot o) ⟨rfl, rfl⟩ rfl ha hdest,
      fun hclear => exec_vecMove hclear (p := planVmov o) ⟨rfl, rfl⟩ rfl ha hdest⟩
  · simp only [List.forall_mem_cons, List.not_mem_nil, false_imp_iff, implies_true, and_true]
    exact ⟨
      fun hclear => exec_vecShift hclear (p := planVshl o) ⟨rfl, rfl⟩ rfl (Bool.and_eq_true_iff.mp hclear.wf).2 ha hb hdest,
      fun hclear => exec_vecShift hclear (p := planVshr o) ⟨rfl, rfl⟩ rfl (Bool.and_eq_true_iff.mp hclear.wf).2 ha hb hdest,
      fun hclear => exec_vecShift hclear (p := planVsar o) ⟨rfl, rfl⟩ rfl (Bool.and_eq_true_iff.mp hclear.wf).2 ha hb hdest⟩
  · simp only [List.forall_mem_cons, List.not_mem_nil, false_imp_iff, implies_true, and_true]
    exact ⟨
      fun hclear => exec_vecShiftS hclear (p := planVshls o) ⟨rfl, rfl⟩ rfl (Bool.and_eq_true_iff.mp hclear.wf).2 ha hdest,
      fun hclear => exec_vecShiftS hclear (p := planVshrs o) ⟨rfl, rfl⟩ rfl (Bool.and_eq_true_iff.mp hclear.wf).2 ha hdest,
      fun hclear => exec_vecShiftS hclear (p := planVsars o) ⟨rfl, rfl⟩ rfl (Bool.and_eq_true_iff.mp hclear.wf).2 ha hdest⟩
  · exact exec_vecWrite hclear (p := planVbcast o) ⟨rfl, rfl⟩ rfl rfl hdest fun _ => (cleanElt_mod_valueBits ..).symm
  · exact exec_vecAll hclear (p := planVsel o) ⟨rfl, rfl⟩ rfl (Bool.and_eq_true_iff.mpr ⟨ha, hb⟩) fun _ => rfl
  · exact exec_vecDone hclear (p := planVmvs o) ⟨rfl, rfl⟩ (Plan.need_true ha _ _)
  · exact exec_vecAll hclear (p := planVsplati o) ⟨rfl, rfl⟩ rfl rfl fun _ => splatElt_eq ..
  · exact exec_vecDone hclear (p := planVsplitVpart o) ⟨rfl, rfl⟩ rfl
  · exact exec_vecDone hclear (p := planVtag o) ⟨rfl, rfl⟩ rfl

end Machine

end Sys2Proof
end

section
/-! PROOFS. The vector map: the special functions, which keep their vector unit beside what they put in flight (O14). -/

namespace Sys2Proof

namespace Machine

/-! A vector unit that a syllable keeps (R191). -/

/-- A core whose vector unit at a slot is busy until a clock. -/
def Core.occupied (c : Core) (sl : Slot) (clk : Nat) : Core := { c with vbusy := c.vbusy.set (c.unitOf sl) clk }

theorem Core.vbusy_occupied (c : Core) (sl : Slot) (clk : Nat) : (c.occupied sl clk).vbusy.get (c.unitOf sl) 0 = clk :=
  FMap.get_set_same ..

/-- Which unit is busy is no byte of a core. -/
theorem Core.SameBytes.occupied {c d : Core} (h : c.SameBytes d) (sl : Slot) (clk : Nat) : c.SameBytes (d.occupied sl clk) := h

/-- The package with the unit that serves a slot of the strand cur busy until a clock. -/
def State.occupied (s : State) (sl : Slot) (clk : Nat) : State := s.onMyCore fun c => c.occupied sl clk

section
variable {s u : State} {lat : Nat} {lands : List Landing} (h : s.Flew u lat lands) (sl : Slot) (clk : Nat)
include h

theorem State.Flew.cur : u.cur = s.cur := by
  rw [h.rest]
  rfl

/-- Results in flight leave the unit that serves each slot (R64). -/
theorem State.Flew.unitOf (c : Nat) : (u.core c).unitOf sl = (s.core c).unitOf sl := by
  rw [h.cores c]
  rfl

theorem State.Flew.vbusy_occupied :
    ((u.occupied sl clk).core (coreOf s.cur)).vbusy.get ((s.core (coreOf s.cur)).unitOf sl) 0 = clk := by
  rw [State.occupied, State.onMyCore, h.cur, State.core_onCore, ← h.unitOf sl]
  exact Core.vbusy_occupied ..

theorem State.Flew.sameBytes_occupied : s.SameBytes (u.occupied sl clk) := by
  refine ⟨h.sameGlobal, fun c => ?_⟩
  by_cases hc : c = coreOf u.cur
  · rw [State.occupied, State.onMyCore, hc, State.core_onCore]
    exact (h.sameCoreBytes _).occupied sl clk
  · rw [State.occupied, State.onMyCore, State.onCore, State.core_setCore_other _ _ hc]
    exact h.sameCoreBytes c

theorem State.Flew.sameOthers_occupied : s.SameOthers (u.occupied sl clk) := h.sameOthers

end

/-! What a commit does that puts results in flight and keeps its unit. -/

@[simp] theorem State.me_recordMe (s : State) (k : Nat) (b : Bool) : (s.recordMe k b).me = s.me := by
  simp only [State.me, State.strand, State.recordMe_cur, State.recordMe_strands]

@[simp] theorem State.me_meter (s : State) (l n k : Nat) : (s.meter l n k).me = s.me := by
  obtain ⟨v, hv⟩ := s.meter_eq l n k
  rw [hv]
  rfl

@[simp] theorem State.cur_meter (s : State) (l n k : Nat) : (s.meter l n k).cur = s.cur := by
  obtain ⟨v, hv⟩ := s.meter_eq l n k
  rw [hv]

section
variable {lat n : Nat} {lands : List Landing} {nan sat : Bool} {f : State → State} (hf : vecDone lat lands n nan sat = .go f)
include hf

/-- Records and meters leave the strand cur as putting the results in flight left it. -/
theorem me_of_vecDone (v : State) : (f v).me = v.me.flying (v.issueClk + lat) (v.slot == .m) lands := by
  cases hf
  rw [State.me_meter, State.me_recordMe, State.me_recordMe, State.me_fly]
  rfl

theorem cur_of_vecDone (v : State) : (f v).cur = v.cur := by
  cases hf
  rw [State.cur_meter, State.recordMe_cur, State.recordMe_cur]
  rfl

end

section
variable {s : State} {i : Instr} {p : State → Plan} (h : s.Clear i) (hl : (loneWork i p s).legal s.here = true) (hb : isBranch i = false)
include h hl hb

/-- A commit that leaves the strand cur with results in flight takes issue on to the bundle's successor. -/
theorem alone_moved {g : State → State} (hp : p (s.setStrand s.cur s.me) = .go g) {due : Nat} {load : Bool} {lands : List Landing}
    (hme : (g (s.setStrand s.cur s.me)).me = s.me.flying due load lands) (hcur : (g (s.setStrand s.cur s.me)).cur = s.cur) :
    alone i p s = .next ((g (s.setStrand s.cur s.me)).onMe fun t => t.moved s.here) := by
  have hadvance : { s.me.advance (s.me.flying due load lands) s.here false with last := s.here.addr } =
      (s.me.flying due load lands).moved s.here :=
    Strand.advance_plain _ _ _ h.pend h.goesOn h.next h.trapReq h.body0 h.body1
  have hquiet : (((g (s.setStrand s.cur s.me)).onMe fun t => t.moved s.here).me).trapReq = none := by
    rw [State.me_onMe, hme]
    exact h.trapReq
  have hsettle := State.settle_none _ hquiet
  rw [State.cur_onMe, hcur] at hsettle
  rw [alone_go h hl hp, hb, Bool.false_and, State.onMe_eq, hme, hadvance, ← hme]
  exact congrArg _ hsettle

/-- A plan that puts results in flight and keeps its unit m clocks leaves what the first alone leaves, with the unit busy. -/
theorem alone_fly_occupied {lat n m : Nat} {lands : List Landing} {nan sat : Bool} {f : State → State}
    (hf : vecDone lat lands n nan sat = .go f)
    (hp : p (s.setStrand s.cur s.me) = .go fun v => (f v).occupied s.slot (v.issueClk + m)) :
    ∃ w, s.Flew w lat lands ∧ alone i p s = .next (w.occupied s.slot (s.issueClk + m)) := by
  have hme := (me_of_vecDone hf (s.setStrand s.cur s.me)).trans (by rw [State.me_relisted])
  have hcur := cur_of_vecDone hf (s.setStrand s.cur s.me)
  obtain ⟨w, hw, hflew⟩ := alone_fly (p := fun _ => vecDone lat lands n nan sat) h hl hb rfl
  have hplain := alone_moved (p := fun _ => vecDone lat lands n nan sat) h hl hb hf hme hcur
  obtain rfl := Host.Outcome.next.inj (hw.symm.trans hplain)
  exact ⟨_, hflew, alone_moved h hl hb hp hme hcur⟩

end

/-! The special functions (R156, R191, R210). -/

/-- What a special function puts in flight: the active elements take the function's value, rounded once to the format. -/
def specialLands (t : Strand) (g : FP → FP) (o : Vv) : List Landing :=
  [.v (t.physV o.vd.toNat) (.mk (blend o.fmt (t.rdK o.k) (t.rdV o.vd.toNat).bits fun i =>
    fpRound o.fmt .rne t.ftz (g (fpDecode o.fmt (t.ve o.fmt o.va i)))) o.fmt)]

section
variable {s : State} {o : Vv} (ha : tagIs s.me o.va.toNat o.fmt = true) (hdest : destTagOk s.me o.k o.vd.toNat o.fmt = true)
include ha hdest

/-- A special function whose tags fit lands 32 clocks on and keeps its unit 8 clocks. -/
theorem vecSpecial_go (g : FP → FP) : ∃ n nan sat f, vecDone 32 (specialLands s.me g o) n nan sat = .go f ∧
    vecSpecial g o s = .go fun v => (f v).occupied s.slot (v.issueClk + 8) := by
  have htags : (tagIs s.me o.va.toNat o.fmt && destTagOk s.me o.k o.vd.toNat o.fmt) = true := Bool.and_eq_true_iff.mpr ⟨ha, hdest⟩
  simp only [vecSpecial, vecWrite, Plan.need_true htags]
  exact ⟨_, _, _, _, rfl, rfl⟩

theorem exec_vecSpecial {i : Instr} (hclear : s.Clear i) {g : FP → FP} (hform : VectorPlan i (vecSpecial g o)) :
    ∃ w, s.Flew w 32 (specialLands s.me g o) ∧ exec i s = .next (w.occupied s.slot (s.issueClk + 8)) := by
  have hreads := readsOwnStrand_of_isVector hform.vector
  obtain ⟨n, nan, sat, f, hf, hplan⟩ := vecSpecial_go ha hdest g
  rw [← hform.plan, ← hreads.plan_relisted] at hplan
  rw [exec_syllable hreads.syllable]
  exact alone_fly_occupied hclear (hclear.legal _ hreads.loop hreads.mloop) hreads.branch hf hplan

end

/-- Each special function, and what it computes. -/
theorem vectorPlan_special (o : Vv) : ∀ p ∈ ([(Instr.vexp2 o, exp2_32), (.vlog2 o, log2_32), (.vrecip o, recip32), (.vrsqrt o, rsqrt32),
    (.vtanh o, tanh32), (.vsilu o, silu32)] : List (Instr × (FP → FP))), VectorPlan p.1 (vecSpecial p.2 o) := by
  simp only [List.forall_mem_cons, List.not_mem_nil, false_imp_iff, implies_true, and_true]
  exact ⟨⟨rfl, rfl⟩, ⟨rfl, rfl⟩, ⟨rfl, rfl⟩, ⟨rfl, rfl⟩, ⟨rfl, rfl⟩, ⟨rfl, rfl⟩⟩

/-- Settles O14: a special function is a vector form whose result flies (State.Flew) and whose unit is busy besides (exec_vecSpecial), and a
busy unit is no strand's and no byte. -/
theorem specialFunctions : Obligations.SpecialFunctions := by
  intro s o t c ha hdest p hp hclear
  obtain ⟨w, hflew, hexec⟩ := exec_vecSpecial ha hdest hclear (vectorPlan_special o p hp)
  exact ⟨_, hexec, hflew.me, hflew.vbusy_occupied _ _, hflew.sameBytes_occupied _ _, hflew.sameOthers_occupied _ _⟩

end Machine

end Sys2Proof
end

section
/-! PROOFS. What a bundle leaves that goes on to its successor. -/

namespace Sys2Proof

namespace Machine

/-- A strand that goes on from a bundle to its successor: it neither retires nor traps, no other address is next, and the bundle ends no
loop body. -/
structure Strand.Proceeds (t : Strand) (f : Fetched) : Prop where
  retiring : t.retiring = false
  next : t.next = none
  trapReq : t.trapReq = none
  ends : ∀ lvl, t.atEnd f lvl = false

theorem State.Clear.proceeds {s : State} {i : Instr} (h : s.Clear i) : s.me.Proceeds s.here :=
  ⟨h.goesOn, h.next, h.trapReq, fun lvl => by cases lvl; exacts [h.body0, h.body1]⟩

/-- A plan that changes the strand's registers alone, with nothing in its way: beside them only where the strand stands changes. -/
theorem exec_of_plan_reg {s : State} {i : Instr} {p : State → Plan} {g : Strand → Strand} (hclear : s.Clear i) (hexec : exec i s = alone i p s)
    (hlegal : (loneWork i p s).legal s.here = true) (hbranch : isBranch i = false) (hplan : p (s.setStrand s.cur s.me) = .reg g)
    (hproceeds : (g s.me).Proceeds s.here) : exec i s = .next (s.wrote (g s.me)) :=
  hexec.trans (alone_reg hclear hlegal hbranch hplan hproceeds.retiring hproceeds.next hproceeds.trapReq (hproceeds.ends _) (hproceeds.ends _))

/-- A plan that leaves the strand cur to go on: its writes are made, and the strand moves on (R83). -/
theorem exec_of_plan_go {s : State} {i : Instr} {p : State → Plan} {g : State → State} (hclear : s.Clear i) (hexec : exec i s = alone i p s)
    (hlegal : (loneWork i p s).legal s.here = true) (hbranch : isBranch i = false) (hplan : p (s.setStrand s.cur s.me) = .go g)
    (hcur : (g (s.setStrand s.cur s.me)).cur = s.cur) (hproceeds : (g (s.setStrand s.cur s.me)).me.Proceeds s.here) :
    exec i s = .next ((g (s.setStrand s.cur s.me)).onMe fun t => t.moved s.here) := by
  obtain ⟨hretiring, hnext, htrap, hends⟩ := hproceeds
  have hadvance := Strand.advance_plain s.me _ s.here hclear.pend hretiring hnext htrap (hends false) (hends true)
  have hquiet : (((g (s.setStrand s.cur s.me)).onMe fun t => t.moved s.here).me).trapReq = none := by
    rw [State.me_onMe]
    exact htrap
  have hsettle := State.settle_none _ hquiet
  rw [State.cur_onMe, hcur] at hsettle
  rw [hexec, alone_go hclear hlegal hplan, hbranch, Bool.false_and, State.onMe_eq, hadvance]
  exact congrArg _ hsettle

theorem Strand.Proceeds.wrS {t : Strand} {f : Fetched} (h : t.Proceeds f) (n : BitVec 6) (x : W64) : (t.wrS n x).Proceeds f :=
  ⟨by simp [h.retiring], by simp [h.next], by simp [h.trapReq], fun lvl => by simp [h.ends]⟩

theorem Strand.Proceeds.wrP {t : Strand} {f : Fetched} (h : t.Proceeds f) (n : BitVec 6) (b : Bool) : (t.wrP n b).Proceeds f :=
  ⟨by simp [h.retiring], by simp [h.next], by simp [h.trapReq], fun lvl => by simp [h.ends]⟩

end Machine

end Sys2Proof
end

section
/-! PROOFS. The scalar map: values and words of its forms (O2, O3, O4). -/

namespace Sys2Proof

/-! Words of the scalar formats, field by field (R106, R114). -/

/-- Two fields side by side. -/
theorem toNat_append_eq {m n : Nat} (x : BitVec m) (y : BitVec n) : (x ++ y).toNat = x.toNat * 2 ^ n + y.toNat := by
  rw [BitVec.toNat_append, Nat.shiftLeft_eq, Nat.mul_comm, Nat.two_pow_add_eq_or_of_lt y.isLt]

theorem toNat_ofBool_eq (b : Bool) : (BitVec.ofBool b).toNat = bitOf b := by cases b <;> rfl

/-- The word of PRED, SENSE, an instruction's opcode and its operand bits decodes to the instruction, where it accepts its operands. -/
theorem decodeSyllable_of_fields {c : SlotClass} {w : Syl48} {i : Instr} {opc ops : Nat} {g : BitVec 6} {n : Bool}
    (hcode : i.code = some (c, opc, ops)) (hword : w.toNat = g.toNat * 2 ^ 42 + bitOf n * 2 ^ 41 + opc * 2 ^ 32 + ops) :
    decodeSyllable c w = if i.wf then .ok ⟨g, n, i⟩ else .error .illFormed := by
  obtain ⟨hopc, hops⟩ := Instr.code_lt hcode
  have hfields : BitVec.ofNat 48 (g.toNat * 2 ^ 42 + bitOf n * 2 ^ 41 + opc * 2 ^ 32 + ops) = w := by
    rw [← hword, BitVec.ofNat_toNat, BitVec.setWidth_eq]
  obtain ⟨hlow, hmid, hsense, hpred⟩ := (ofNat_syllable_iff hopc hops).mp hfields
  have hread : readInstr c w.toNat = .ok i := readInstr_of_code (by rw [hmid, hlow, hcode])
  simp only [decodeSyllable, hread, hpred, flag_eq_iff.mpr hsense]

section
variable {i : Instr} {opc : BitVec 9} (g : BitVec 6) (n : Bool)

theorem decodeSyllable_rrr {o : Rrr} (hcode : i.code = some (.scalar, opc.toNat, o.word)) :
    decodeSyllable .scalar (g ++ BitVec.ofBool n ++ opc ++ o.d ++ o.a ++ o.b ++ 0#14) = if i.wf then .ok ⟨g, n, i⟩ else .error .illFormed :=
  decodeSyllable_of_fields hcode (by simp only [toNat_append_eq, toNat_ofBool_eq, BitVec.toNat_ofNat, Rrr.word]; omega)

theorem decodeSyllable_rr {o : Rr} (hcode : i.code = some (.scalar, opc.toNat, o.word)) :
    decodeSyllable .scalar (g ++ BitVec.ofBool n ++ opc ++ o.d ++ o.a ++ 0#20) = if i.wf then .ok ⟨g, n, i⟩ else .error .illFormed :=
  decodeSyllable_of_fields hcode (by simp only [toNat_append_eq, toNat_ofBool_eq, BitVec.toNat_ofNat, Rr.word]; omega)

theorem decodeSyllable_rrrr {o : Rrrr} (hcode : i.code = some (.scalar, opc.toNat, o.word)) :
    decodeSyllable .scalar (g ++ BitVec.ofBool n ++ opc ++ o.d ++ o.a ++ o.b ++ o.c ++ 0#8) = if i.wf then .ok ⟨g, n, i⟩ else .error .illFormed :=
  decodeSyllable_of_fields hcode (by simp only [toNat_append_eq, toNat_ofBool_eq, BitVec.toNat_ofNat, Rrrr.word]; omega)

theorem decodeSyllable_rri {o : Rri} (hcode : i.code = some (.scalar, opc.toNat, o.word)) :
    decodeSyllable .scalar (g ++ BitVec.ofBool n ++ opc ++ o.d ++ o.a ++ 0#4 ++ o.imm) = if i.wf then .ok ⟨g, n, i⟩ else .error .illFormed :=
  decodeSyllable_of_fields hcode (by simp only [toNat_append_eq, toNat_ofBool_eq, BitVec.toNat_ofNat, Rri.word]; omega)

theorem decodeSyllable_ri24 {o : Ri24} (hcode : i.code = some (.scalar, opc.toNat, o.word)) :
    decodeSyllable .scalar (g ++ BitVec.ofBool n ++ opc ++ o.d ++ o.sel ++ o.imm) = if i.wf then .ok ⟨g, n, i⟩ else .error .illFormed :=
  decodeSyllable_of_fields hcode (by simp only [toNat_append_eq, toNat_ofBool_eq, Ri24.word]; omega)

theorem decodeSyllable_widf (o : Widf) :
    decodeSyllable .scalar (g ++ BitVec.ofBool n ++ 0x038#9 ++ o.d ++ 0#6 ++ o.n ++ 0#16) =
      if (Instr.widf o).wf then .ok ⟨g, n, .widf o⟩ else .error .illFormed :=
  decodeSyllable_of_fields (i := .widf o) rfl (by simp only [toNat_append_eq, toNat_ofBool_eq, BitVec.toNat_ofNat, Widf.word]; omega)

end

/-- The instruction stands in the scalar map (R114). -/
def Instr.isScalar (i : Instr) : Prop := i.code.map Prod.fst = some .scalar

/-! Bits of packed elements and of wide numbers. -/

namespace Machine

/-- Bit i of element j of packed elements. -/
theorem testBit_pack (w : Nat) (h : Nat → Nat) {n j i : Nat} (hj : j < n) (hi : i < w) : (pack w h n).testBit (w * j + i) = (h j).testBit i := by
  have helt := congrArg (Nat.testBit · i) (pack_elt w h hj)
  simpa [Nat.testBit_mod_two_pow, Nat.testBit_div_two_pow, hi, Nat.add_comm] using helt

theorem getLsbD_brev64 (a : W64) {i : Nat} (hi : i < 64) : (brev64 a).getLsbD i = a.getLsbD (63 - i) := by
  have hbit := testBit_pack 1 (fun k => a.toNat / 2 ^ (63 - k)) hi (Nat.zero_lt_one)
  rw [brev64, BitVec.getLsbD_ofNat, decide_eq_true hi, Bool.true_and, ← BitVec.testBit_toNat]
  simpa only [Nat.one_mul, Nat.add_zero, Nat.testBit_div_two_pow, Nat.zero_add] using hbit

theorem getLsbD_bswap64 (a : W64) {j i : Nat} (hj : j < 8) (hi : i < 8) :
    (bswap64 a).getLsbD (8 * j + i) = a.getLsbD (8 * (7 - j) + i) := by
  have hlt : 8 * j + i < 64 := by omega
  have hbit := testBit_pack 8 (fun k => a.toNat / 2 ^ (8 * (7 - k))) hj hi
  rw [bswap64, BitVec.getLsbD_ofNat, decide_eq_true hlt, Bool.true_and, ← BitVec.testBit_toNat, Nat.add_comm _ i]
  simpa only [Nat.testBit_div_two_pow, Nat.add_comm] using hbit

/-- A leading run is a run, and ends before another bit or with the word (R166). -/
theorem leadRun_spec (w n : Nat) : leadRun w 0 n ≤ n ∧ (∀ i < leadRun w 0 n, w.testBit (n - 1 - i) = false) ∧
    (leadRun w 0 n < n → w.testBit (n - 1 - leadRun w 0 n) = true) := by
  induction n with
  | zero => simp [leadRun]
  | succ n ih =>
    obtain ⟨hle, hrun, hend⟩ := ih
    by_cases htop : w / 2 ^ n % 2 = 0
    · simp only [leadRun, htop, if_true]
      refine ⟨by omega, fun i hi => ?_, fun hlt => ?_⟩
      · cases i with
        | zero => simp [Nat.testBit_eq_decide_div_mod_eq, htop]
        | succ i => simpa [Nat.sub_sub, Nat.add_comm] using hrun i (by omega)
      · simpa [Nat.sub_sub] using hend (by omega)
    · simpa [leadRun, htop, Nat.testBit_eq_decide_div_mod_eq] using Nat.mod_two_ne_zero.mp htop

/-- Leading zeros (R166). -/
theorem leadRun_clz (a : W64) : leadRun a.toNat 0 64 ≤ 64 ∧ (∀ i < leadRun a.toNat 0 64, a.getLsbD (63 - i) = false) ∧
    (leadRun a.toNat 0 64 < 64 → a.getLsbD (63 - leadRun a.toNat 0 64) = true) :=
  leadRun_spec a.toNat 64

/-- Trailing zeros are the leading zeros of the reversed word (R166). -/
theorem leadRun_ctz (a : W64) : let n := leadRun (brev64 a).toNat 0 64
    n ≤ 64 ∧ (∀ i < n, a.getLsbD i = false) ∧ (n < 64 → a.getLsbD n = true) := by
  obtain ⟨hle, hrun, hend⟩ := leadRun_clz (brev64 a)
  have hbit (i : Nat) (hi : i < 64) : (brev64 a).getLsbD (63 - i) = a.getLsbD i := by
    rw [getLsbD_brev64 a (by omega), Nat.sub_sub_self (by omega)]
  exact ⟨hle, fun i hi => hbit i (by omega) ▸ hrun i hi, fun hlt => hbit _ hlt ▸ hend hlt⟩

theorem ones_eq_countP (a : W64) : ones a.toNat 64 = (List.range 64).countP fun i => a.getLsbD i :=
  (List.countP_eq_length_filter ..).symm

/-! Division (R164). -/

theorem wrap64_toInt (a : W64) : wrap64 a.toInt = a := by
  rw [← BitVec.toInt_inj, wrap64, BitVec.toInt_ofInt, BitVec.toInt_bmod_cancel]

theorem divS_toInt {a b : W64} (hzero : b ≠ 0) (hover : ¬ (a.toInt = -2 ^ 63 ∧ b.toInt = -1)) :
    (divS a b).toInt = Int.tdiv a.toInt b.toInt := by
  have hquot : (a.sdiv b).toInt = Int.tdiv a.toInt b.toInt := by
    refine BitVec.toInt_sdiv_of_ne_or_ne a b ?_
    by_contra hboth
    push Not at hboth
    obtain ⟨rfl, rfl⟩ := hboth
    exact hover (by decide)
  rw [divS, if_neg hzero, if_neg hover, ← hquot, wrap64_toInt]

theorem remS_toInt {a b : W64} (hzero : b ≠ 0) : (remS a b).toInt = Int.tmod a.toInt b.toInt := by
  rw [remS, if_neg hzero]
  split
  · next hover => rw [hover.1, hover.2]; rfl
  · rw [← Int.tmod_def, ← BitVec.toInt_srem, wrap64_toInt]

theorem divUns_toNat {a b : W64} (hzero : b ≠ 0) : (divUns a b).toNat = a.toNat / b.toNat := by
  rw [divUns, if_neg hzero, BitVec.toNat_ofNat, Nat.mod_eq_of_lt ((Nat.div_le_self ..).trans_lt a.isLt)]

theorem remUns_toNat {a b : W64} (hzero : b ≠ 0) : (remUns a b).toNat = a.toNat % b.toNat := by
  rw [remUns, if_neg hzero, BitVec.toNat_ofNat, ← Nat.mod_eq_sub, Nat.mod_eq_of_lt ((Nat.mod_le ..).trans_lt a.isLt)]

/-! Scalar forms issued alone. -/

/-- An instruction of the scalar map is a syllable, and no branch and no loop. -/
theorem plain_of_isScalar {i : Instr} (h : i.isScalar) : i.isSyllable = true ∧ isBranch i = false ∧ (∀ o, i ≠ .loop o) ∧ ∀ o, i ≠ .mloop o := by
  cases i <;> cases h <;> exact ⟨rfl, rfl, nofun, nofun⟩

section
variable {s : State} {i : Instr}

/-- An instruction of the scalar map, issued alone, writes the register that its plan writes. -/
theorem exec_writeS {d : BitVec 6} {x : W64} (hscalar : i.isScalar) (hclear : s.Clear i)
    (hplan : planOf i (s.setStrand s.cur s.me) = writeS d x) : exec i s = .next (s.wrote (s.me.wrS d x)) := by
  obtain ⟨hsyllable, hbranch, hloop, hmloop⟩ := plain_of_isScalar hscalar
  rw [exec_syllable hsyllable]
  exact alone_writeS hclear (hclear.legal _ hloop hmloop) hbranch hplan

/-- An instruction of the scalar map, issued alone, writes the predicate that its plan writes. -/
theorem exec_writeP {d : BitVec 6} {b : Bool} (hscalar : i.isScalar) (hclear : s.Clear i)
    (hplan : planOf i (s.setStrand s.cur s.me) = writeP d b) : exec i s = .next (s.wrote (s.me.wrP d b)) := by
  obtain ⟨hsyllable, hbranch, hloop, hmloop⟩ := plain_of_isScalar hscalar
  rw [exec_syllable hsyllable]
  exact alone_writeP hclear (hclear.legal _ hloop hmloop) hbranch hplan

theorem exec_scalar2 {o : Rrr} {g : W64 → W64 → W64} {x : W64} (hscalar : i.isScalar) (hplan : planOf i = scalar2 g o)
    (hvalue : g (s.me.rdS o.a) (s.me.rdS o.b) = x) (hclear : s.Clear i) : exec i s = .next (s.wrote (s.me.wrS o.d x)) :=
  exec_writeS hscalar hclear (by rw [hplan, scalar2, State.me_relisted, hvalue])

theorem exec_scalar1 {o : Rr} {g : W64 → W64} {x : W64} (hscalar : i.isScalar) (hplan : planOf i = scalar1 g o)
    (hvalue : g (s.me.rdS o.a) = x) (hclear : s.Clear i) : exec i s = .next (s.wrote (s.me.wrS o.d x)) :=
  exec_writeS hscalar hclear (by rw [hplan, scalar1, State.me_relisted, hvalue])

theorem exec_scalarI {o : Rri} {g : W64 → BitVec 16 → W64} {x : W64} (hscalar : i.isScalar) (hplan : planOf i = scalarI g o)
    (hvalue : g (s.me.rdS o.a) o.imm = x) (hclear : s.Clear i) : exec i s = .next (s.wrote (s.me.wrS o.d x)) :=
  exec_writeS hscalar hclear (by rw [hplan, scalarI, State.me_relisted, hvalue])

theorem exec_compare2 {o : Rrr} {g : W64 → W64 → Bool} {b : Bool} (hscalar : i.isScalar) (hplan : planOf i = compare2 g o)
    (hvalue : g (s.me.rdS o.a) (s.me.rdS o.b) = b) (hclear : s.Clear i) : exec i s = .next (s.wrote (s.me.wrP o.d b)) :=
  exec_writeP hscalar hclear (by rw [hplan, compare2, State.me_relisted, hvalue])

theorem exec_compareI {o : Rri} {g : Int → Int → Bool} {b : Bool} (hscalar : i.isScalar) (hplan : planOf i = compareI g o)
    (hvalue : g (s.me.rdS o.a).toInt o.imm.toInt = b) (hclear : s.Clear i) : exec i s = .next (s.wrote (s.me.wrP o.d b)) :=
  exec_writeP hscalar hclear (by rw [hplan, compareI, State.me_relisted, hvalue])

theorem exec_predicate2 {o : Rrr} {g : Bool → Bool → Bool} {b : Bool} (hscalar : i.isScalar) (hplan : planOf i = predicate2 g o)
    (hvalue : g (s.me.rdP o.a) (s.me.rdP o.b) = b) (hclear : s.Clear i) : exec i s = .next (s.wrote (s.me.wrP o.d b)) :=
  exec_writeP hscalar hclear (by rw [hplan, predicate2, State.me_relisted, hvalue])

end

/-! Arithmetic, logic, shifts, division and bit counts (R161 to R166). -/

theorem ite_slt_eq_min (a b : W64) : (if b.slt a then b else a) = if a.toInt ≤ b.toInt then a else b := by
  by_cases h : a.toInt ≤ b.toInt <;> simp [BitVec.slt_eq_decide, h, Int.not_lt.mpr, Int.not_le.mp]

theorem ite_slt_eq_max (a b : W64) : (if a.slt b then b else a) = if a.toInt ≤ b.toInt then b else a := by
  rcases Int.lt_trichotomy a.toInt b.toInt with h | h | h
  · simp [BitVec.slt_eq_decide, h, h.le]
  · simp [BitVec.slt_eq_decide, BitVec.toInt_inj.mp h]
  · simp [BitVec.slt_eq_decide, h.not_gt, h.not_ge]

theorem ite_ult_eq_min (a b : W64) : (if b.ult a then b else a) = if a.toNat ≤ b.toNat then a else b := by
  by_cases h : a.toNat ≤ b.toNat <;> simp [BitVec.ult, h, Nat.not_lt.mpr, Nat.not_le.mp]

theorem ite_ult_eq_max (a b : W64) : (if a.ult b then b else a) = if a.toNat ≤ b.toNat then b else a := by
  rcases Nat.lt_trichotomy a.toNat b.toNat with h | h | h
  · simp [BitVec.ult, h, h.le]
  · simp [BitVec.ult, BitVec.toNat_inj.mp h]
  · simp [BitVec.ult, h.not_gt, h.not_ge]

/-- The forms of two registers other than division and the choices, and what each computes (R163). -/
def arithmeticForms (o : Rrr) : List (Instr × (W64 → W64 → W64)) :=
  [(.add o, fun a b => a + b), (.sub o, fun a b => a - b), (.mul o, fun a b => a * b), (.mulh o, mulHigh), (.mulhu o, mulHighU),
   (.andS o, fun a b => a &&& b), (.orS o, fun a b => a ||| b), (.xorS o, fun a b => a ^^^ b), (.andn o, fun a b => a &&& ~~~b),
   (.shl o, fun a b => a <<< (b.toNat % 64)), (.shr o, fun a b => a >>> (b.toNat % 64)), (.sar o, fun a b => a.sshiftRight (b.toNat % 64)),
   (.rol o, fun a b => a.rotateLeft (b.toNat % 64))]

/-- The forms that choose the smaller or the larger register, and what each chooses (R163). -/
def choiceForms (o : Rrr) : List (Instr × (W64 → W64 → W64)) :=
  [(.min o, fun a b => if a.toInt ≤ b.toInt then a else b), (.max o, fun a b => if a.toInt ≤ b.toInt then b else a),
   (.minu o, fun a b => if a.toNat ≤ b.toNat then a else b), (.maxu o, fun a b => if a.toNat ≤ b.toNat then b else a)]

/-- The forms of two registers other than division, and what each computes (R163). -/
def twoSourceForms (o : Rrr) : List (Instr × (W64 → W64 → W64)) := arithmeticForms o ++ choiceForms o

theorem twoSourceForms_plan (o : Rrr) : ∀ f ∈ twoSourceForms o, f.1.isScalar ∧ planOf f.1 = scalar2 f.2 o := by
  intro f hf
  rcases List.mem_append.mp hf with harith | hchoice
  · fin_cases harith <;> exact ⟨rfl, rfl⟩
  · fin_cases hchoice
    · exact ⟨rfl, congrArg (scalar2 · o) (funext₂ ite_slt_eq_min)⟩
    · exact ⟨rfl, congrArg (scalar2 · o) (funext₂ ite_slt_eq_max)⟩
    · exact ⟨rfl, congrArg (scalar2 · o) (funext₂ ite_ult_eq_min)⟩
    · exact ⟨rfl, congrArg (scalar2 · o) (funext₂ ite_ult_eq_max)⟩

/-- Settles O2: each form's plan writes a function of its sources (exec_scalar2, exec_scalar1), whose value is the table's; a word holds the
guard, the opcode and the operands side by side (decodeSyllable_rrr, decodeSyllable_rr). -/
theorem scalarArithmetic : Obligations.ScalarArithmetic := by
  refine ⟨fun s o p hp h => ?_, fun s o => ⟨fun h => ?_, fun h => ?_, fun h => ?_, fun h => ?_⟩,
    fun s o => ⟨fun h => ?_, fun h => ?_, fun h => ?_, fun h => ?_, fun h => ?_⟩, fun g n => ⟨fun o => ?_, fun o => ?_⟩⟩
  · have hform : p ∈ (twoSourceForms o).map fun f => (f.1, f.2 (s.me.rdS o.a) (s.me.rdS o.b)) := hp
    obtain ⟨f, hf, rfl⟩ := List.mem_map.mp hform
    obtain ⟨hscalar, hplan⟩ := twoSourceForms_plan o f hf
    exact exec_scalar2 hscalar hplan rfl h
  · refine ⟨_, exec_scalar2 rfl rfl rfl h, fun hzero => if_pos hzero, fun hzero ha hb => ?_, fun hzero hover => divS_toInt hzero hover⟩
    rw [divS, if_neg hzero, if_pos ⟨ha, hb⟩]
  · exact ⟨_, exec_scalar2 rfl rfl rfl h, fun hzero => if_pos hzero, fun hzero => remS_toInt hzero⟩
  · exact ⟨_, exec_scalar2 rfl rfl rfl h, fun hzero => if_pos hzero, fun hzero => divUns_toNat hzero⟩
  · exact ⟨_, exec_scalar2 rfl rfl rfl h, fun hzero => if_pos hzero, fun hzero => remUns_toNat hzero⟩
  · obtain ⟨hle, hrun, hend⟩ := leadRun_clz (s.me.rdS o.a)
    exact ⟨_, hle, exec_scalar1 (g := fun a => BitVec.ofNat 64 (leadRun a.toNat 0 64)) rfl rfl rfl h, hrun, hend⟩
  · obtain ⟨hle, hrun, hend⟩ := leadRun_ctz (s.me.rdS o.a)
    exact ⟨_, hle, exec_scalar1 (g := fun a => BitVec.ofNat 64 (leadRun (brev64 a).toNat 0 64)) rfl rfl rfl h, hrun, hend⟩
  · exact exec_scalar1 (g := fun a => BitVec.ofNat 64 (ones a.toNat 64)) rfl rfl (by rw [ones_eq_countP]) h
  · exact ⟨_, exec_scalar1 rfl rfl rfl h, fun i hi => getLsbD_brev64 _ hi⟩
  · exact ⟨_, exec_scalar1 rfl rfl rfl h, fun j hj i hi => getLsbD_bswap64 _ hj hi⟩
  · intro p hp
    have hform : p.1.code = some (.scalar, p.2.toNat, o.word) ∧ p.1.wf = true := by fin_cases hp <;> exact ⟨rfl, rfl⟩
    rw [decodeSyllable_rrr g n hform.1, if_pos hform.2]
  · intro p hp
    have hform : p.1.code = some (.scalar, p.2.toNat, o.word) ∧ p.1.wf = true := by fin_cases hp <;> exact ⟨rfl, rfl⟩
    rw [decodeSyllable_rr g n hform.1, if_pos hform.2]

/-! Selection and immediates (R165, R167, R168). -/

theorem moviValue_sel2 (imm : BitVec 24) : moviValue 2 imm = imm.zeroExtend 64 <<< 48 := by
  apply BitVec.eq_of_toNat_eq
  have himm := imm.isLt
  simp only [moviValue, BitVec.toNat_shiftLeft, BitVec.truncate_eq_setWidth, BitVec.toNat_setWidth, Nat.shiftLeft_eq]
  simp
  omega

/-- A chunk replaced: bits lo to lo + n - 1 are the immediate's, and the others are kept (R168). -/
theorem getLsbD_movkValue (d : W64) (sel : BitVec 2) (imm : BitVec 24) {i : Nat} (hi : i < 64) :
    (movkValue d sel imm).getLsbD i =
      if (chunk sel).1 ≤ i ∧ i < (chunk sel).1 + (chunk sel).2 then imm.getLsbD (i - (chunk sel).1) else d.getLsbD i := by
  simp only [movkValue, BitVec.getLsbD_or, BitVec.getLsbD_and, BitVec.getLsbD_not, BitVec.getLsbD_ofNat, hi, decide_true, Bool.true_and,
    Nat.testBit_mul_two_pow, Nat.testBit_two_pow_sub_one, Nat.testBit_mod_two_pow, BitVec.testBit_toNat]
  by_cases hlo : (chunk sel).1 ≤ i <;> by_cases hn : i - (chunk sel).1 < (chunk sel).2 <;> simp [hlo, hn] <;> intro h <;> omega

/-- NOP changes nothing but where issue goes (R105). -/
theorem exec_nop {s : State} (hclear : s.Clear .nop) : exec .nop s = .next (s.wrote s.me) := by
  have hgo := exec_of_plan_go hclear rfl (hclear.legal _) rfl (p := planNop) (g := id) rfl rfl (s.me_relisted.symm ▸ hclear.proceeds)
  rwa [id, State.onMe_eq, State.me_relisted, State.setStrand_cur, State.setStrand_setStrand] at hgo

theorem widField_eq (m : Member) (work : W64) (n : Nat) :
    widField m work n = if n < m.nfields then BitVec.ofNat 64 (work.toNat / 2 ^ m.fieldLo n % 2 ^ m.fieldWidth n) else 0 := by
  by_cases h : n < m.nfields <;> simp [widField, h, Nat.not_le.mpr, Nat.not_lt.mp]

theorem exec_widf {s : State} {m : Member} {o : Widf} (hmember : s.memberOf s.cur = some m) (hclear : s.Clear (.widf o)) :
    exec (.widf o) s = .next (s.wrote (s.me.wrS o.d (widField m s.me.workid o.n.toNat))) := by
  have hplan : planWidf o (s.setStrand s.cur s.me) = writeS o.d (widField m s.me.workid o.n.toNat) := by
    have hmember' : (s.setStrand s.cur s.me).memberOf s.cur = some m := hmember
    rw [planWidf, State.setStrand_cur, hmember', State.me_relisted]
  exact exec_writeS rfl hclear hplan

/-- A word that is refused where its instruction does not accept its operands. -/
theorem ite_ok_eq_ite_error {α : Type} {b : Bool} {p : Prop} [Decidable p] (h : b = true ↔ ¬ p) (x y : α) :
    (if b then x else y) = if p then y else x := by
  by_cases hp : p <;> simp [hp, h]

theorem wf_movi_iff (o : Ri24) : (Instr.movi o).wf = true ↔ ¬ (o.sel = 3 ∨ (o.sel = 2 ∧ 0xFFFF < o.imm.toNat)) := by
  simp only [Instr.wf, Bool.and_eq_true, Bool.or_eq_true, bne_iff_ne, decide_eq_true_eq]
  have hlimit : o.imm.toNat < 65536 ↔ ¬ 0xFFFF < o.imm.toNat := by omega
  rw [hlimit]
  tauto

theorem wf_widf_iff (o : Widf) : (Instr.widf o).wf = true ↔ ¬ 5 < o.n.toNat := by
  simp only [Instr.wf, decide_eq_true_eq]
  omega

/-- The forms of a register and an immediate, and what each computes (R167). -/
def immediateForms (o : Rri) : List (Instr × (W64 → BitVec 16 → W64)) :=
  [(.addi o, fun a i => a + i.signExtend 64), (.muli o, fun a i => a * i.signExtend 64), (.andi o, fun a i => a &&& i.signExtend 64),
   (.ori o, fun a i => a ||| i.zeroExtend 64), (.xori o, fun a i => a ^^^ i.zeroExtend 64), (.shli o, fun a i => a <<< i.toNat),
   (.shri o, fun a i => a >>> i.toNat), (.sari o, fun a i => a.sshiftRight i.toNat)]

theorem immediateForms_plan (o : Rri) : ∀ f ∈ immediateForms o, f.1.isScalar ∧ planOf f.1 = scalarI f.2 o := by
  intro f hf
  fin_cases hf <;> exact ⟨rfl, rfl⟩

/-- Settles O3: each plan writes a function of the strand's registers and of the immediate (exec_scalarI, exec_writeS), NOP nothing; a word
is refused exactly where its value is none the form takes. -/
theorem scalarImmediates : Obligations.ScalarImmediates := by
  refine ⟨fun s => ⟨fun o p hp h => ?_, fun o => ⟨fun h => ?_, fun h => ?_⟩, fun o => ⟨fun h => ?_, fun h => ?_⟩, exec_nop⟩, fun s m o hmember h => ?_,
    fun g n => ⟨fun o p hp => ?_, fun o p hp => ?_, fun o p hp => ?_, fun o => ?_⟩⟩
  · have hform : p ∈ (immediateForms o).map fun f => (f.1, f.2 (s.me.rdS o.a) o.imm) := hp
    obtain ⟨f, hf, rfl⟩ := List.mem_map.mp hform
    obtain ⟨hscalar, hplan⟩ := immediateForms_plan o f hf
    exact exec_scalarI hscalar hplan rfl h
  · have hplan : planSel o (s.setStrand s.cur s.me) = writeS o.d (if s.me.rdP o.c then s.me.rdS o.a else s.me.rdS o.b) := by
      rw [planSel, State.me_relisted]
    exact exec_writeS rfl h hplan
  · have hplan : planShadd o (s.setStrand s.cur s.me) = writeS o.d (s.me.rdS o.a <<< o.c.toNat + s.me.rdS o.b) := by
      rw [planShadd, State.me_relisted]
    exact exec_writeS rfl h hplan
  · refine ⟨_, exec_writeS rfl h (x := moviValue o.sel o.imm) rfl, fun hsel => ?_, fun hsel => ?_, fun hsel => ?_⟩ <;> rw [hsel]
    · rfl
    · rfl
    · exact moviValue_sel2 _
  · have hplan : planMovk o (s.setStrand s.cur s.me) = writeS o.d (movkValue (s.me.rdS o.d) o.sel o.imm) := by
      rw [planMovk, State.me_relisted]
    refine ⟨_, exec_writeS rfl h hplan, fun i hi => ?_⟩
    rw [getLsbD_movkValue _ _ _ hi]
    by_cases h0 : o.sel = 0
    · simp [chunk, h0]
    · by_cases h1 : o.sel = 1
      · simp [chunk, h1]
      · simp only [chunk, h0, h1, if_false, hi, and_true]
  · rw [exec_widf hmember h, widField_eq]
  · have hform : p.1.code = some (.scalar, p.2.toNat, o.word) ∧ (p.1.wf = true ↔ ¬ (p.2 ∈ [0x035#9, 0x036#9, 0x037#9] ∧ 63 < o.imm.toNat)) := by
      fin_cases hp <;> exact ⟨rfl, by simp [Instr.wf] <;> omega⟩
    rw [decodeSyllable_rri g n hform.1, ite_ok_eq_ite_error hform.2]
  · have hform : p.1.code = some (.scalar, p.2.toNat, o.word) ∧ p.1.wf = true := by fin_cases hp <;> exact ⟨rfl, rfl⟩
    rw [decodeSyllable_rrrr g n hform.1, if_pos hform.2]
  · have hform : p.1.code = some (.scalar, p.2.toNat, o.word) ∧ p.1.wf = (Instr.movi o).wf := by fin_cases hp <;> exact ⟨rfl, rfl⟩
    rw [decodeSyllable_ri24 g n hform.1, hform.2, ite_ok_eq_ite_error (wf_movi_iff o)]
  · rw [decodeSyllable_widf, ite_ok_eq_ite_error (wf_widf_iff o)]

/-! Compares and predicate logic (R169, R170). -/

theorem bne_eq_decide_ne (a b : W64) : (a != b) = decide (a ≠ b) := by
  by_cases h : a = b <;> simp [h]

/-- The compares of two registers, and what each decides (R169). -/
def compareForms (o : Rrr) : List (Instr × (W64 → W64 → Bool)) :=
  [(.cmpeq o, fun a b => decide (a = b)), (.cmpne o, fun a b => decide (a ≠ b)), (.cmplt o, fun a b => decide (a.toInt < b.toInt)),
   (.cmpltu o, fun a b => decide (a.toNat < b.toNat)), (.cmple o, fun a b => decide (a.toInt ≤ b.toInt)),
   (.cmpleu o, fun a b => decide (a.toNat ≤ b.toNat))]

theorem compareForms_plan (o : Rrr) : ∀ f ∈ compareForms o, f.1.isScalar ∧ planOf f.1 = compare2 f.2 o := by
  intro f hf
  fin_cases hf
  on_goal 2 => exact ⟨rfl, congrArg (compare2 · o) (funext₂ bne_eq_decide_ne)⟩
  all_goals exact ⟨rfl, rfl⟩

/-- The compares of a register and an immediate, and what each decides (R169). -/
def compareImmediateForms (o : Rri) : List (Instr × (Int → Int → Bool)) :=
  [(.cmpeqi o, fun a i => decide (a = i)), (.cmpnei o, fun a i => decide (a ≠ i)), (.cmplti o, fun a i => decide (a < i)),
   (.cmpgei o, fun a i => decide (i ≤ a))]

theorem compareImmediateForms_plan (o : Rri) : ∀ f ∈ compareImmediateForms o, f.1.isScalar ∧ planOf f.1 = compareI f.2 o := by
  intro f hf
  fin_cases hf <;> exact ⟨rfl, rfl⟩

/-- Predicate logic (R170). -/
def predicateForms (o : Rrr) : List (Instr × (Bool → Bool → Bool)) :=
  [(.pand o, fun a b => a && b), (.por o, fun a b => a || b), (.pxor o, fun a b => a != b), (.pandn o, fun a b => a && !b)]

theorem predicateForms_plan (o : Rrr) : ∀ f ∈ predicateForms o, f.1.isScalar ∧ planOf f.1 = predicate2 f.2 o := by
  intro f hf
  fin_cases hf <;> exact ⟨rfl, rfl⟩

/-- Settles O4: each plan writes a predicate made of the sources (exec_compare2, exec_compareI, exec_predicate2). -/
theorem comparesAndPredicates : Obligations.ComparesAndPredicates := by
  refine ⟨fun s => ⟨fun o p hp h => ?_, fun o p hp h => ?_⟩, fun s o p hp h => ?_, fun g n => ⟨fun o p hp => ?_, fun o p hp => ?_⟩⟩
  · have hform : p ∈ (compareForms o).map fun f => (f.1, f.2 (s.me.rdS o.a) (s.me.rdS o.b)) := hp
    obtain ⟨f, hf, rfl⟩ := List.mem_map.mp hform
    obtain ⟨hscalar, hplan⟩ := compareForms_plan o f hf
    exact exec_compare2 hscalar hplan rfl h
  · have hform : p ∈ (compareImmediateForms o).map fun f => (f.1, f.2 (s.me.rdS o.a).toInt o.imm.toInt) := hp
    obtain ⟨f, hf, rfl⟩ := List.mem_map.mp hform
    obtain ⟨hscalar, hplan⟩ := compareImmediateForms_plan o f hf
    exact exec_compareI hscalar hplan rfl h
  · have hform : p ∈ (predicateForms o).map fun f => (f.1, f.2 (s.me.rdP o.a) (s.me.rdP o.b)) := hp
    obtain ⟨f, hf, rfl⟩ := List.mem_map.mp hform
    obtain ⟨hscalar, hplan⟩ := predicateForms_plan o f hf
    exact exec_predicate2 hscalar hplan rfl h
  · have hform : p.1.code = some (.scalar, p.2.toNat, o.word) ∧ p.1.wf = true := by fin_cases hp <;> exact ⟨rfl, rfl⟩
    rw [decodeSyllable_rrr g n hform.1, if_pos hform.2]
  · have hform : p.1.code = some (.scalar, p.2.toNat, o.word) ∧ p.1.wf = true := by fin_cases hp <;> exact ⟨rfl, rfl⟩
    rw [decodeSyllable_rri g n hform.1, if_pos hform.2]

end Machine

end Sys2Proof
end

section
/-! PROOFS. Hardware loops: how a level is entered, and the end test of level 0 (O8). -/

namespace Sys2Proof

namespace Machine

/-! A level of a strand after a change of one (R177). -/

theorem Strand.loop_onLoop_same (t : Strand) (lvl : Bool) (f : Loop → Loop) : (t.onLoop lvl f).loop lvl = f (t.loop lvl) := by
  cases lvl <;> rfl

theorem Strand.loop_onLoop_other (t : Strand) (lvl : Bool) (f : Loop → Loop) : (t.onLoop lvl f).loop (!lvl) = t.loop (!lvl) := by
  cases lvl <;> rfl

/-- Being an end bundle hangs on the state and the level alone. -/
theorem Strand.atEnd_congr {t u : Strand} {lvl : Bool} (hsuper : u.super = t.super) (hloop : u.loop lvl = t.loop lvl) (f : Fetched) :
    u.atEnd f lvl = t.atEnd f lvl := by
  rw [Strand.atEnd, Strand.atEnd, hsuper, hloop]

/-- An end bundle is one of user state and of an active level. -/
theorem Strand.user_act_of_atEnd {t : Strand} {f : Fetched} {lvl : Bool} (h : t.atEnd f lvl = true) : t.super = false ∧ (t.loop lvl).act = true := by
  simp only [Strand.atEnd, Bool.and_eq_true, Bool.not_eq_true'] at h
  obtain ⟨⟨⟨huser, hact⟩, -⟩, -⟩ := h
  exact ⟨huser, hact⟩

/-! Entry with trips to go (R177, R182). -/

section
variable (t : Strand) (lvl : Bool) (ls le n : Nat) (nstg : Option Nat)

@[simp] theorem Strand.install_super : (t.install lvl ls le n nstg).super = t.super := by simp [Strand.install]
@[simp] theorem Strand.install_retiring : (t.install lvl ls le n nstg).retiring = t.retiring := by simp [Strand.install]
@[simp] theorem Strand.install_next : (t.install lvl ls le n nstg).next = t.next := by simp [Strand.install]
@[simp] theorem Strand.install_trapReq : (t.install lvl ls le n nstg).trapReq = t.trapReq := by simp [Strand.install]
@[simp] theorem Strand.install_sregs : (t.install lvl ls le n nstg).sregs = t.sregs := by simp [Strand.install]
@[simp] theorem Strand.install_pregs : (t.install lvl ls le n nstg).pregs = t.pregs := by simp [Strand.install]

theorem Strand.loop_install_same (hn : n ≠ 0) : (t.install lvl ls le n nstg).loop lvl =
    { lc := BitVec.ofNat 32 (n + nstg.getD 0), ls := BitVec.ofNat 32 ls, le := BitVec.ofNat 32 le, lsPend := none, lePend := none, act := true,
      nstg := nstg } := by
  simp [Strand.install, Strand.loop_onLoop_same, hn]

theorem Strand.loop_install_other : (t.install lvl ls le n nstg).loop (!lvl) = t.loop (!lvl) := by
  rw [Strand.install, Strand.loop_onLoop_other]
  rfl

end

/-- A body that reaches to the bundle's end or beyond does not end at the bundle, not even where its end wraps at 32 bits. -/
theorem Strand.atEnd_false_of_le {t : Strand} {f : Fetched} {lvl : Bool} {len : Nat} (hle : (t.loop lvl).le = BitVec.ofNat 32 (f.addr + len))
    (hlen : f.len ≤ len) (hsmall : len < 2 ^ 16) : t.atEnd f lvl = false := by
  have hout : ¬ (f.addr ≤ (t.loop lvl).le.toNat ∧ (t.loop lvl).le.toNat < f.addr + f.len) := by
    rw [hle, BitVec.toNat_ofNat]
    omega
  simp only [Strand.atEnd, Bool.and_eq_false_iff, decide_eq_false_iff_not]
  tauto

/-- The strand as an entry with n trips leaves it, beside where it stands. -/
def Strand.entered (t : Strand) (f : Fetched) (lvl : Bool) (len : BitVec 16) (n : Nat) (nstg : Option Nat) : Strand :=
  let u := t.install lvl (f.addr + f.len) (f.addr + len.toNat) n nstg
  if nstg.isSome then u.stages else u

section
variable (t : Strand) (f : Fetched) (lvl : Bool) (len : BitVec 16) (n : Nat) (nstg : Option Nat)

@[simp] theorem Strand.entered_super : (t.entered f lvl len n nstg).super = t.super := by unfold Strand.entered; split <;> simp [Strand.stages]
@[simp] theorem Strand.entered_retiring : (t.entered f lvl len n nstg).retiring = t.retiring := by unfold Strand.entered; split <;> simp [Strand.stages]
@[simp] theorem Strand.entered_next : (t.entered f lvl len n nstg).next = t.next := by unfold Strand.entered; split <;> simp [Strand.stages]
@[simp] theorem Strand.entered_trapReq : (t.entered f lvl len n nstg).trapReq = t.trapReq := by unfold Strand.entered; split <;> simp [Strand.stages]
@[simp] theorem Strand.entered_sregs : (t.entered f lvl len n nstg).sregs = t.sregs := by unfold Strand.entered; split <;> simp [Strand.stages]

theorem Strand.loop_entered (k : Bool) :
    (t.entered f lvl len n nstg).loop k = (t.install lvl (f.addr + f.len) (f.addr + len.toNat) n nstg).loop k := by
  unfold Strand.entered
  split <;> rfl

/-- After an entry issue goes on: the installed body reaches beyond the bundle, and the other level is as it was. -/
theorem Strand.Proceeds.entered {t : Strand} {f : Fetched} {len : BitVec 16} {n : Nat} (h : t.Proceeds f) (hn : n ≠ 0) (hlen : f.len ≤ len.toNat) :
    (t.entered f lvl len n nstg).Proceeds f := by
  refine ⟨by simp [h.retiring], by simp [h.next], by simp [h.trapReq], fun k => ?_⟩
  by_cases hk : k = lvl
  · subst hk
    refine Strand.atEnd_false_of_le (len := len.toNat) ?_ hlen len.isLt
    rw [Strand.loop_entered, Strand.loop_install_same _ _ _ _ _ _ hn]
  · obtain rfl : k = !lvl := by cases k <;> cases lvl <;> simp_all
    rw [← h.ends (!lvl)]
    exact Strand.atEnd_congr (t.entered_super f lvl len n nstg) (by rw [Strand.loop_entered, Strand.loop_install_other]) f

end

/-- A loop form with trips to go, outside supervisor state, enters its level (R177, R182). -/
theorem exec_loopForm {s : State} {i : Instr} {p : State → Plan} {sc : BitVec 6} {lvl : Bool} {len : BitVec 16} {nstg : Option Nat}
    (hclear : s.Clear i) (hexec : exec i s = alone i p s) (hplan : p = fun s => loopForm s sc lvl len nstg)
    (hlegal : (loneWork i p s).legal s.here = true) (hbranch : isBranch i = false) (huser : s.me.super = false)
    (hlen : s.here.len ≤ len.toNat) (hpos : 0 < (s.me.rdS sc).toNat) (hlt : (s.me.rdS sc).toNat < 2 ^ 31) :
    exec i s = .next (s.wrote (s.me.entered s.here lvl len (s.me.rdS sc).toNat nstg)) := by
  have hform : p (s.setStrand s.cur s.me) = .reg fun t => t.entered s.here lvl len (s.me.rdS sc).toNat nstg := by
    have hlocated : (s.setStrand s.cur s.me).located s.cur = s.here := s.fetchesAs_relisted.located_eq s.cur
    simp only [hplan, loopForm, State.me_relisted, State.setStrand_cur, hlocated]
    rw [Plan.need_true (by rw [huser]; rfl), Plan.need_true (decide_eq_true hlt), if_pos hpos.ne']
    rfl
  exact exec_of_plan_reg hclear hexec hlegal hbranch hform (hclear.proceeds.entered _ _ hpos.ne' hlen)

theorem exec_loop_trips {s : State} {o : Lp} (hclear : s.Clear (.loop o)) (huser : s.me.super = false) (hlen : s.here.len ≤ o.len.toNat)
    (hpos : 0 < (s.me.rdS o.sc).toNat) (hlt : (s.me.rdS o.sc).toNat < 2 ^ 31) :
    exec (.loop o) s = .next (s.wrote (s.me.entered s.here o.lvl o.len (s.me.rdS o.sc).toNat none)) :=
  exec_loopForm hclear rfl (p := planLoop o) rfl (by simp [Work.legal, loneWork, hclear.wf, hlen]) rfl huser hlen hpos hlt

theorem exec_mloop_trips {s : State} {o : Mlp} (hclear : s.Clear (.mloop o)) (huser : s.me.super = false) (hlen : s.here.len ≤ o.len.toNat)
    (hpos : 0 < (s.me.rdS o.sc).toNat) (hlt : (s.me.rdS o.sc).toNat < 2 ^ 31) :
    exec (.mloop o) s = .next (s.wrote (s.me.entered s.here o.lvl o.len (s.me.rdS o.sc).toNat (some o.nstg.toNat))) :=
  exec_loopForm hclear rfl (p := planMloop o) rfl (by simp [Work.legal, loneWork, hclear.wf, hlen]) rfl huser hlen hpos hlt

/-! The stage predicates of MLOOP (R182). -/

/-- Predicates 32 to 31 + n cleared, the others kept. -/
theorem getLsbD_clearStages (x : BitVec 64) (n : Nat) {j : Nat} (hj : j < 64) :
    ((List.range n).foldl (fun b i => setBit b (32 + i) false) x).getLsbD j = (x.getLsbD j && !decide (32 ≤ j ∧ j < 32 + n)) := by
  induction n with
  | zero => simp; omega
  | succ n ih =>
    rw [List.range_succ, List.foldl_append, List.foldl_cons, List.foldl_nil, getLsbD_setBit _ _ _ _ hj, ih]
    by_cases hlast : j = 32 + n
    · simp [hlast]
    · have hrange : (32 ≤ j ∧ j < 32 + (n + 1)) ↔ 32 ≤ j ∧ j < 32 + n := by omega
      rw [if_neg hlast]
      simp only [hrange]

theorem Strand.getLsbD_stages (t : Strand) {j : Nat} (hj : j < 64) :
    t.stages.pregs.getLsbD j = if j < 32 then t.pregs.getLsbD j else decide (j = 63) := by
  rw [Strand.stages, getLsbD_setBit _ _ _ _ hj, getLsbD_clearStages _ _ hj]
  by_cases hlast : j = 63
  · simp [hlast]
  · by_cases hlow : j < 32
    · simp [hlast, hlow, Nat.not_le.mpr hlow]
    · simp [hlast, hlow, hj, Nat.not_lt.mp hlow]

/-! The end test of level 0 (R178, R179). -/

/-- The strand after a bundle, on the way to its successor (R83); Strand.moved but for the bundle last issued. -/
def Strand.onward (t : Strand) (f : Fetched) : Strand :=
  { t with pc := f.addr + f.len, inRun := f.runs, ibuf := t.ibuf.filter fun g => g.addr != f.addr || g.inRun != f.inRun }

/-- Level 0 after its end test, with no stages and no late write to LC. -/
def Loop.tested (l : Loop) : Loop := if 1 < l.lc.toNat then { l with lc := l.lc - 1, act := true } else { l with lc := 0, act := false }

/-- A strand whose level 0 is tested: round to the body's start while trips are left, and else out of the level. -/
def Strand.tested (t : Strand) : Strand :=
  let u := { t with loop0 := t.loop0.tested }
  if 1 < t.loop0.lc.toNat then u.jump t.loop0.ls.toNat else u

section
variable {t : Strand} {f : Fetched} (hnstg : t.loop0.nstg = none) (hlate : t.late = []) (hheld : t.lateHeld = [])
include hnstg hlate hheld

theorem Strand.endTest_unstaged : t.endTest false = ({ t with loop0 := t.loop0.tested }, decide (1 < t.loop0.lc.toNat)) := by
  obtain htrips | htrips := Nat.lt_or_ge 1 t.loop0.lc.toNat
  · simp [Strand.endTest, Strand.loop, Strand.onLoop, Loop.tested, hnstg, hlate, hheld, htrips]
  · simp [Strand.endTest, Strand.loop, Strand.onLoop, Loop.tested, hnstg, hlate, hheld, htrips.not_gt]

theorem Strand.endTests_level0 (hend0 : t.atEnd f false = true) (hend1 : t.atEnd f true = false) : t.endTests f = t.tested := by
  simp only [Strand.endTests, hend0, hend1, if_true, Bool.false_eq_true, if_false, Strand.endTest_unstaged hnstg hlate hheld, Strand.tested,
    decide_eq_true_eq]
  split
  · next htrips => rw [Loop.tested, if_pos htrips]
  · rfl

end

theorem Strand.tested_trapReq (t : Strand) : t.tested.trapReq = t.trapReq := by
  unfold Strand.tested
  split <;> rfl

/-- What an end bundle of level 0 that holds no branch and follows none advances. -/
theorem Strand.advance_end {t : Strand} {f : Fetched} (hpend : t.pend = none) (hretiring : t.retiring = false) (hnext : t.next = none)
    (htrap : t.trapReq = none) (hlate : t.late = []) (hheld : t.lateHeld = []) (hnstg : t.loop0.nstg = none) (hend0 : t.atEnd f false = true)
    (hend1 : t.atEnd f true = false) : t.advance t f false = (t.onward f).tested := by
  have hround : ¬ t.super = true := by simp [(Strand.user_act_of_atEnd hend0).1]
  simp only [Strand.advance, hretiring, hnext, hpend, Bool.false_eq_true, if_false]
  rw [if_neg hround, Strand.endTests_level0 (by exact hnstg) (by exact hlate) (by exact hheld) (by exact hend0) (by exact hend1)]
  simp only [Strand.tested_trapReq, Strand.goto, htrap, Strand.onward, hretiring, hnext, hpend]

/-- An end bundle of level 0 that holds a NOP. -/
theorem exec_nop_end {s : State} (h : s.Unheld .nop) (hpend : s.me.pend = none) (hend0 : s.me.atEnd s.here false = true)
    (hend1 : s.me.atEnd s.here true = false) (hnstg : s.me.loop0.nstg = none) (hheld : s.me.lateHeld = []) :
    exec .nop s = .next (s.setStrand s.cur { (s.me.onward s.here).tested with last := s.here.addr }) := by
  have hloop : s.me.loopBranch s.here [loneWork .nop planNop s] = false := loopBranch_plain hpend rfl
  have hcommit := alone_commit h (h.legal planNop) hloop (.inl hpend) (g := id) rfl
  have hadvance := Strand.advance_end hpend h.goesOn h.next h.trapReq h.late hheld hnstg hend0 hend1
  have hstrand : (s.setStrand s.cur s.me).onMe (fun t => { s.me.advance t s.here false with last := s.here.addr }) =
      s.setStrand s.cur { (s.me.onward s.here).tested with last := s.here.addr } := by
    rw [State.onMe_eq, State.me_relisted, State.setStrand_cur, State.setStrand_setStrand, hadvance]
  have htrap : ((s.setStrand s.cur { (s.me.onward s.here).tested with last := s.here.addr }).strand s.cur).trapReq = none := by
    rw [State.strand_setStrand_same]
    exact (Strand.tested_trapReq _).trans h.trapReq
  have hsettle := State.settle_none (s.setStrand s.cur { (s.me.onward s.here).tested with last := s.here.addr }) htrap
  exact hcommit.trans (congrArg Host.Outcome.next ((congrArg (State.settle · s.cur) hstrand).trans hsettle))

/-- What the end test keeps. -/
theorem Strand.tested_eq (t : Strand) : t.tested = { t with loop0 := t.loop0.tested, pc := t.tested.pc, inRun := t.tested.inRun, ibuf := t.tested.ibuf } := by
  unfold Strand.tested
  split <;> rfl

theorem Strand.tested_round {t : Strand} (htrips : 1 < t.loop0.lc.toNat) (hact : t.loop0.act = true) :
    t.tested.loop0 = { t.loop0 with lc := t.loop0.lc - 1 } ∧ t.tested.pc = t.loop0.ls.toNat := by
  have hloop : { t.loop0 with lc := t.loop0.lc - 1, act := true } = { t.loop0 with lc := t.loop0.lc - 1 } := by rw [← hact]
  rw [Strand.tested, if_pos htrips, Loop.tested, if_pos htrips, hloop]
  exact ⟨rfl, rfl⟩

theorem Strand.tested_last {t : Strand} (htrips : t.loop0.lc.toNat ≤ 1) :
    t.tested.loop0 = { t.loop0 with lc := 0, act := false } ∧ t.tested.pc = t.pc := by
  rw [Strand.tested, if_neg htrips.not_gt, Loop.tested, if_neg htrips.not_gt]
  exact ⟨rfl, rfl⟩

/-- Settles O8: a form with trips to go installs its level (exec_loopForm, Strand.loop_install_same), and the end test of level 0 goes round
or leaves (exec_nop_end, Strand.tested). -/
theorem loops : Obligations.Loops := by
  refine ⟨fun s n hpos hlt huser => ⟨fun o h hlen hn => ?_, fun o h hlen hn => ?_⟩, fun s h hpend hend1 hend0 hnstg hheld => ?_⟩
  · subst hn
    refine ⟨_, exec_loop_trips h huser hlen hpos hlt, s.onlyMe_setStrand _, ?_⟩
    rw [State.me_wrote]
    exact ⟨Strand.loop_install_same _ _ _ _ _ _ hpos.ne', Strand.loop_install_other .., rfl, Strand.entered_sregs .., Strand.install_pregs ..⟩
  · subst hn
    refine ⟨_, exec_mloop_trips h huser hlen hpos hlt, s.onlyMe_setStrand _, ?_⟩
    rw [State.me_wrote]
    refine ⟨Strand.loop_install_same _ _ _ _ _ _ hpos.ne', Strand.loop_install_other .., rfl, Strand.entered_sregs .., rfl, rfl, fun i hi => ?_⟩
    have hstage := Strand.getLsbD_stages (s.me.install o.lvl (s.here.addr + s.here.len) (s.here.addr + o.len.toNat) (s.me.rdS o.sc).toNat
      (some o.nstg.toNat)) hi
    rwa [Strand.install_pregs] at hstage
  · obtain ⟨-, hact⟩ := Strand.user_act_of_atEnd hend0
    refine ⟨_, exec_nop_end h hpend hend0 hend1 hnstg hheld, s.onlyMe_setStrand _, ?_⟩
    rw [State.me_setStrand]
    refine ⟨fun htrips => Strand.tested_round (t := s.me.onward s.here) htrips hact,
      fun htrips => Strand.tested_last (t := s.me.onward s.here) htrips, ?_⟩
    rw [Strand.tested_eq]
    exact ⟨rfl, rfl, rfl, rfl, rfl⟩

end Machine

end Sys2Proof
end

section
/-! PROOFS. Control registers: what MFS reads (O29) and what MTS writes (O30). -/

namespace Sys2Proof

namespace Machine

/-! Bits of a register made of fields (R131). -/

theorem getLsbD_bitAt (b : Bool) (i : Nat) {j : Nat} (hj : j < 64) : (bitAt b i).getLsbD j = (b && decide (i = j)) := by
  cases b
  · exact BitVec.getLsbD_zero
  · rw [bitAt, if_pos rfl, BitVec.getLsbD_ofNat, Nat.testBit_two_pow, decide_eq_true hj]

/-- The descriptors are no registers marked S (R131). -/
theorem crSuper_of_cb {n : Nat} (h : 0x40 ≤ n) : crSuper n = false := by
  simp only [crSuper, Bool.or_eq_false_iff, decide_eq_false_iff_not, beq_eq_false_iff_ne]
  omega

/-! Reading (R131 to R133, R410). -/

theorem State.ofMember_some {s : State} {who : Nat} {m : Member} (h : s.memberOf who = some m) (f : Member → Nat) :
    s.ofMember who f = BitVec.ofNat 64 (f m) := by
  rw [State.ofMember, h]
  rfl

theorem State.launchReg_relisted (s : State) (who n : Nat) : (s.setStrand s.cur s.me).launchReg who n = s.launchReg who n := by
  unfold State.launchReg
  rw [State.strand_relisted]
  rfl

theorem State.readCr_relisted (s : State) (who n : Nat) : (s.setStrand s.cur s.me).readCr who n = s.readCr who n := by
  unfold State.readCr
  rw [State.strand_relisted, State.launchReg_relisted]
  rfl

/-- MFS of a register that the strand may read. -/
theorem exec_mfs {s : State} {o : Mfs} {x : W64} (hmay : (s.me.super || !crSuper o.cr.toNat) = true) (hvalue : s.readCr s.cur o.cr.toNat = x)
    (hclear : s.Clear (.mfs o)) : exec (.mfs o) s = .next (s.wrote (s.me.wrS o.sd x)) := by
  have hplan : planMfs o (s.setStrand s.cur s.me) = writeS o.sd x := by
    rw [planMfs, State.me_relisted, State.setStrand_cur, State.readCr_relisted, hvalue]
    exact Plan.need_true hmay ..
  exact alone_writeS hclear (hclear.legal _) rfl hplan

/-- A flag of the member's header, as a bit of a register. -/
theorem State.flagAt_some {s : State} {who : Nat} {m : Member} (h : s.memberOf who = some m) (n i : Nat) :
    bitAt (s.ofMember who (fun m => if m.flag n then 1 else 0) == 1) i = bitAt (m.flag n) i := by
  rw [State.ofMember_some h]
  cases m.flag n <;> rfl

theorem State.codeLim_some {s : State} {who : Nat} {m : Member} (h : s.memberOf who = some m) :
    BitVec.ofNat 64 (((s.memberOf who).map Member.codeLim).getD 8192) = BitVec.ofNat 64 m.codeLim := by
  rw [h]
  rfl

/-- A circular buffer's descriptor stands at 0x40 and its number (R134). -/
theorem State.readCr_cb (s : State) (who : Nat) {n : Nat} (h : 0x40 ≤ n) : s.readCr who n = (s.strand who).rdCb (n - 0x40) := by
  simp only [State.readCr]
  rw [if_neg (by omega), if_neg (by omega), if_neg (by omega), if_neg (by omega), if_neg (by omega), if_neg (by omega), if_pos h]

/-- The low 24 bits of a number. -/
theorem ofNat_and_low24 (n : Nat) : BitVec.ofNat 64 n &&& 0xFFFFFF = BitVec.ofNat 64 (n % 2 ^ 24) := by
  apply BitVec.eq_of_toNat_eq
  have hmask : ((0xFFFFFF : W64)).toNat = 2 ^ 24 - 1 := rfl
  rw [BitVec.toNat_and, hmask, Nat.and_two_pow_sub_one_eq_mod, BitVec.toNat_ofNat, BitVec.toNat_ofNat]
  omega

/-- The fields of TRAPCAUSE (R410). -/
theorem TrapRegs.causeReg_fields (r : TrapRegs) : r.causeReg.extractLsb' 0 8 = r.cause ∧ r.causeReg.extractLsb' 8 3 = r.slot ∧
    r.causeReg.getLsbD 11 = r.fetch ∧ r.causeReg.getLsbD 12 = r.abort := by
  have hbit {j : Nat} (hj : j < 64) : r.causeReg.getLsbD j = (r.cause.getLsbD j || (decide (8 ≤ j) && r.slot.getLsbD (j - 8)) ||
      (r.fetch && decide (11 = j)) || (r.abort && decide (12 = j))) := by
    simp only [TrapRegs.causeReg, BitVec.getLsbD_or, BitVec.getLsbD_shiftLeft, BitVec.truncate_eq_setWidth, BitVec.getLsbD_setWidth,
      getLsbD_bitAt _ _ hj, hj, show j - 8 < 64 by omega, decide_true, Bool.true_and, ← Nat.not_lt, decide_not]
  refine ⟨?_, ?_, ?_, ?_⟩
  · refine BitVec.eq_of_getLsbD_eq fun i hi => ?_
    rw [BitVec.getLsbD_extractLsb', Nat.zero_add, hbit (by omega)]
    simp [hi, Nat.not_le.mpr hi, show 11 ≠ i by omega, show 12 ≠ i by omega]
  · refine BitVec.eq_of_getLsbD_eq fun i hi => ?_
    have hbeyond : r.cause.getLsbD (8 + i) = false := BitVec.getLsbD_of_ge _ _ (Nat.le_add_right 8 i)
    rw [BitVec.getLsbD_extractLsb', hbit (by omega), hbeyond]
    simp [hi, show 11 ≠ 8 + i by omega, show 12 ≠ 8 + i by omega]
  · rw [hbit (by decide), BitVec.getLsbD_of_ge _ _ (by decide), BitVec.getLsbD_of_ge _ _ (by decide)]
    simp
  · rw [hbit (by decide), BitVec.getLsbD_of_ge _ _ (by decide), BitVec.getLsbD_of_ge _ _ (by decide)]
    simp

/-- Settles O29: MFS reads readCr (exec_mfs), whose value at each number is the table's. -/
theorem controlRegistersRead : Obligations.ControlRegistersRead := by
  intro s o m hm
  refine ⟨fun p hp hcr h => ?_, fun hcr h => ?_, fun hsuper p hp hcr h => ?_, fun hsuper hcr h => ?_⟩
  · have hreg : crSuper p.1 = false ∧ s.readCr s.cur p.1 = p.2 := by
      fin_cases hp
      -- The registers that the launch holds, from the last of the table: SAFEMAX, CODELIM, CODEBASE, DICTSEL, ARGBASE and MEMBER.
      on_goal 12 => exact ⟨rfl, (congrArg (· &&& 0xFFFFFF) (State.ofMember_some hm _)).trans (ofNat_and_low24 _)⟩
      on_goal 11 => exact ⟨rfl, State.codeLim_some hm⟩
      on_goal 10 => exact ⟨rfl, State.ofMember_some hm _⟩
      on_goal 9 => exact ⟨rfl, congrArg (bitAt s.me.bank 0 ||| ·) (State.flagAt_some hm 2 1)⟩
      on_goal 4 => exact ⟨rfl, State.ofMember_some hm _⟩
      on_goal 3 => exact ⟨rfl, State.ofMember_some hm _⟩
      all_goals exact ⟨rfl, rfl⟩
    obtain ⟨huser, hvalue⟩ := hreg
    exact exec_mfs (by rw [hcr, huser]; exact Bool.or_true _) (by rw [hcr, hvalue]) h
  · exact exec_mfs (by rw [crSuper_of_cb hcr]; exact Bool.or_true _) (State.readCr_cb s s.cur hcr) h
  · have hvalue : s.readCr s.cur p.1 = p.2 := by
      fin_cases hp
      on_goal 8 => exact (State.ofMember_some hm _).trans (BitVec.ofNat_toNat ..)
      all_goals rfl
    exact exec_mfs (by rw [hsuper]; rfl) (by rw [hcr, hvalue]) h
  · exact ⟨s.me.trap.causeReg, exec_mfs (by rw [hsuper]; rfl) (by rw [hcr]; rfl) h, s.me.trap.causeReg_fields⟩

/-! Writing (R172, R173, R180, R181). -/

section
variable {t : Strand} {f : Fetched} (h : t.Proceeds f) (lvl : Bool) (x : W64)
include h

/-- A change of a level that makes no bundle its end bundle. -/
theorem Strand.Proceeds.onLoop {g : Loop → Loop} (hends : (t.onLoop lvl g).atEnd f lvl = false) : (t.onLoop lvl g).Proceeds f := by
  refine ⟨by simp [h.retiring], by simp [h.next], by simp [h.trapReq], fun k => ?_⟩
  by_cases hk : k = lvl
  · rw [hk, hends]
  · obtain rfl : k = !lvl := by cases k <;> cases lvl <;> simp_all
    rw [← h.ends (!lvl)]
    exact Strand.atEnd_congr (t.onLoop_super lvl g) (t.loop_onLoop_other lvl g) f

/-- An inactive level has no end bundle. -/
theorem Strand.Proceeds.onLoop_inactive {g : Loop → Loop} (hact : (g (t.loop lvl)).act = false) : (t.onLoop lvl g).Proceeds f :=
  h.onLoop lvl (by simp [Strand.atEnd, Strand.loop_onLoop_same, hact])

theorem Strand.Proceeds.writeLc : (t.writeLc lvl x).Proceeds f := by
  unfold Strand.writeLc
  split
  · exact ⟨h.retiring, h.next, h.trapReq, h.ends⟩
  · next hact => exact h.onLoop_inactive lvl (eq_false_of_ne_true hact)

theorem Strand.Proceeds.writeBound (le : Bool) : (t.writeBound lvl le x).Proceeds f := by
  unfold Strand.writeBound
  split
  · have hloop := h.onLoop lvl (g := fun l => if le then { l with lePend := some (x.setWidth 32) } else { l with lsPend := some (x.setWidth 32) })
      (by rw [← h.ends lvl]; cases lvl <;> cases le <;> rfl)
    exact ⟨hloop.retiring, hloop.next, hloop.trapReq, hloop.ends⟩
  · next hact => exact h.onLoop_inactive lvl (by split <;> exact eq_false_of_ne_true hact)

theorem Strand.Proceeds.writeTrap (n : Nat) : (t.writeTrap n x).Proceeds f := by
  unfold Strand.writeTrap
  dsimp only
  split
  case h_1 => split; exacts [h, ⟨h.retiring, h.next, h.trapReq, h.ends⟩]
  case h_6 => split; exacts [⟨h.retiring, h.next, h.trapReq, h.ends⟩, h]
  all_goals exact ⟨h.retiring, h.next, h.trapReq, h.ends⟩

/-- No control register decides where issue goes next. -/
theorem Strand.Proceeds.writeCr (n : Nat) : (t.writeCr n x).Proceeds f := by
  unfold Strand.writeCr
  split
  case h_4 => split; exacts [⟨h.retiring, h.next, h.trapReq, h.ends⟩, h]
  case h_5 => exact h.writeLc ..
  case h_6 => exact h.writeBound ..
  case h_7 => exact h.writeBound ..
  case h_8 => exact h.writeLc ..
  case h_9 => exact h.writeBound ..
  case h_10 => exact h.writeBound ..
  case h_11 => split; exacts [⟨h.retiring, h.next, h.trapReq, h.ends⟩, h.writeTrap ..]
  all_goals exact ⟨h.retiring, h.next, h.trapReq, h.ends⟩

end

section
variable {s : State} {o : Mts}

/-- MTS of a register that the strand may write; a descriptor must be well-formed, and no command in progress may name it. -/
theorem exec_mts {u : Strand} (hmay : (s.me.super || !crSuper o.cr.toNat) = true)
    (hcb : 0x40 ≤ o.cr.toNat → cbOk (s.me.rdS o.sa) = true ∧ s.cbNamed s.cur (o.cr.toNat - 0x40) = false)
    (hclear : s.Clear (.mts o)) (hvalue : s.me.writeCr o.cr.toNat (s.me.rdS o.sa) = u) : exec (.mts o) s = .next (s.wrote u) := by
  have hplan : planMts o (s.setStrand s.cur s.me) = .reg fun t => t.writeCr o.cr.toNat (s.me.rdS o.sa) := by
    have hnamed : (s.setStrand s.cur s.me).cbNamed s.cur (o.cr.toNat - 0x40) = s.cbNamed s.cur (o.cr.toNat - 0x40) := rfl
    simp only [planMts, State.me_relisted, State.setStrand_cur, hnamed, Plan.need_true hmay]
    by_cases hreg : 0x40 ≤ o.cr.toNat
    · simp [hreg, hcb hreg, Plan.need]
    · simp [hreg, Plan.need]
  rw [← hvalue]
  exact exec_of_plan_reg hclear rfl (hclear.legal _) rfl hplan (hclear.proceeds.writeCr ..)

/-- A descriptor that is not well-formed (R134). -/
theorem exec_mts_bounds (hreg : 0x40 ≤ o.cr.toNat) (hmay : (s.me.super || !crSuper o.cr.toNat) = true) (hbad : cbOk (s.me.rdS o.sa) = false)
    (hclear : s.Clear (.mts o)) : exec (.mts o) s = .next ((s.trapped BOUNDS none).settle s.cur) := by
  have hplan : planMts o (s.setStrand s.cur s.me) = .trap BOUNDS none := by
    simp only [planMts, State.me_relisted, Plan.need_true hmay]
    exact Plan.need_false (by simp [hreg, hbad]) ..
  exact exec_of_plan_trap hclear rfl (hclear.legal _) (by decide) hplan

/-- MTS of a register that any strand may write, other than a descriptor. -/
theorem exec_mts_plain {n : Nat} {u : Strand} (hcr : o.cr.toNat = n) (huser : crSuper n = false) (hlow : n < 0x40)
    (hvalue : s.Clear (.mts o) → s.me.writeCr n (s.me.rdS o.sa) = u) (hclear : s.Clear (.mts o)) : exec (.mts o) s = .next (s.wrote u) := by
  subst hcr
  exact exec_mts (by rw [huser]; exact Bool.or_true _) (fun h => absurd h (Nat.not_le.mpr hlow)) hclear (hvalue hclear)

/-- MTS of a trap state register in supervisor state. -/
theorem exec_mts_super {n : Nat} {u : Strand} (hsuper : s.me.super = true) (hcr : o.cr.toNat = n) (hlow : n < 0x40)
    (hvalue : s.me.writeCr n (s.me.rdS o.sa) = u) (hclear : s.Clear (.mts o)) : exec (.mts o) s = .next (s.wrote u) := by
  subst hcr
  exact exec_mts (by rw [hsuper]; rfl) (fun h => absurd h (Nat.not_le.mpr hlow)) hclear hvalue

end

theorem Strand.writeCr_cb (t : Strand) {n : Nat} (h : 0x40 ≤ n) (x : W64) : t.writeCr n x = { t with cbs := t.cbs.set (n - 0x40) x } := by
  unfold Strand.writeCr
  split
  case h_11 => exact if_pos h
  all_goals omega

/-- A write to LEDIT clears it with a 1 and else keeps it (R173). -/
theorem Strand.writeCr_ledit (t : Strand) (x : W64) : t.writeCr 0x06 x = { t with ledit := t.ledit && !x.getLsbD 0 } := by
  have hwrite : t.writeCr 0x06 x = if x.getLsbD 0 then { t with ledit := false } else t := rfl
  rw [hwrite]
  cases x.getLsbD 0 <;> simp

/-- Settles O30: MTS writes writeCr (exec_mts), by the register's number. -/
theorem controlRegistersWritten : Obligations.ControlRegistersWritten := by
  intro s o
  refine ⟨fun hcr => exec_mts_plain hcr rfl (by decide) fun _ => rfl, fun hcr => exec_mts_plain hcr rfl (by decide) fun _ => rfl,
    fun hcr => exec_mts_plain hcr rfl (by decide) fun _ => rfl, fun hcr => exec_mts_plain hcr rfl (by decide) fun _ => s.me.writeCr_ledit _,
    fun hcr hact => exec_mts_plain hcr rfl (by decide) fun _ => ?_, fun hcr hact => exec_mts_plain hcr rfl (by decide) fun _ => ?_,
    fun hcr hact => exec_mts_plain hcr rfl (by decide) fun h => ?_, fun hcr hact => exec_mts_plain hcr rfl (by decide) fun _ => ?_,
    fun hcr hok hfree h => ?_, fun hcr hbad h => ?_, fun hsuper hcr => exec_mts_super hsuper hcr (by decide) rfl,
    fun hsuper hcr => exec_mts_super hsuper hcr (by decide) rfl⟩
  · simp [Strand.writeCr, Strand.writeBound, Strand.loop, Strand.onLoop, hact]
  · simp [Strand.writeCr, Strand.writeBound, Strand.loop, Strand.onLoop, hact]
  · simp [Strand.writeCr, Strand.writeLc, Strand.loop, hact, h.late]
  · simp [Strand.writeCr, Strand.writeLc, Strand.loop, Strand.onLoop, hact]
  · exact exec_mts (by rw [crSuper_of_cb hcr]; exact Bool.or_true _) (fun _ => ⟨hok, hfree⟩) h (s.me.writeCr_cb hcr _)
  · exact exec_mts_bounds hcr (by rw [crSuper_of_cb hcr]; exact Bool.or_true _) hbad h

end Machine

end Sys2Proof
end

section
/-! PROOFS. Task control, overlays and the statistics queue (O34). -/

namespace Sys2Proof

namespace Machine

/-- What is to come about changes no strand and no byte. -/
theorem State.sameBytes_post_setStrand (s : State) (x : Strand) (e : Ev) : s.SameBytes ((s.setStrand s.cur x).post e) :=
  s.sameBytes_setStrand s.cur x

theorem State.sameBytes_after_setStrand (s : State) (x : Strand) (l n : Nat) (e : Ev) : s.SameBytes ((s.setStrand s.cur x).after l n e) :=
  s.sameBytes_setStrand s.cur x

theorem State.sameOthers_setStrand (s : State) (x : Strand) : s.SameOthers (s.setStrand s.cur x) :=
  fun _ h => State.strand_setStrand_other s _ h

/-! YIELD, SAFE and TEND (R184, R186, R430). -/

theorem exec_yield {s : State} (hclear : s.Clear .yield) :
    exec .yield s = .next (((s.setStrand s.cur s.me).onMyCore fun c => { c with yielded := true }).onMe fun t => t.moved s.here) := by
  have hme : ((s.setStrand s.cur s.me).onMyCore fun c => { c with yielded := true }).me = s.me := State.me_relisted s
  exact exec_of_plan_go hclear rfl (hclear.legal _) rfl (p := planYield) rfl rfl (by rw [hme]; exact hclear.proceeds)

/-- A safe point of a bundle with no trailing wait. -/
theorem Strand.safePoint_untrailed {t : Strand} (h : t.trail = none) (n : Nat) :
    t.safePoint n = { t with safeCount := 0, stop := if t.stop = .pending then .stopped n else t.stop } := by
  by_cases hstop : t.stop = .pending <;> simp [Strand.safePoint, h, hstop]

theorem exec_safe {s : State} {o : Im} {m : Member} (hmember : s.memberOf s.cur = some m) (hclear : s.Clear (.safe o))
    (hlive : o.imm.toNat < m.nlive) (huser : s.me.super = false) (hquiet : s.me.quiet = true) (htrail : s.me.trail = none) :
    exec (.safe o) s = .next (s.wrote (s.me.safePoint o.imm.toNat)) := by
  have hplan : planSafe o (s.setStrand s.cur s.me) = .reg fun t => t.safePoint o.imm.toNat := by
    have hmember' : (s.setStrand s.cur s.me).memberOf s.cur = some m := hmember
    simp only [planSafe, State.setStrand_cur, hmember', State.me_relisted, huser, hquiet]
    exact Plan.need_true (decide_eq_true hlive) ..
  refine exec_of_plan_reg hclear rfl (hclear.legal _) rfl hplan ?_
  obtain ⟨hretiring, hnext, htrap, hends⟩ := hclear.proceeds
  rw [Strand.safePoint_untrailed htrail]
  exact ⟨hretiring, hnext, htrap, hends⟩

/-- Where the last bundle of a task has committed, issue goes nowhere. -/
theorem Strand.advance_retiring (t0 : Strand) {t : Strand} (h : t.retiring = true) (f : Fetched) (branch : Bool) : t0.advance t f branch = t :=
  if_pos h

/-- What of the state a TEND waits for does not hang on how strands are listed. -/
theorem State.tendDone_relisted (s : State) (who : Nat) : (s.setStrand s.cur s.me).tendDone who = s.tendDone who := by
  simp only [State.tendDone, State.strand_relisted]
  rfl

theorem exec_tend {s : State} (hclear : s.Clear .tend) (huser : s.me.super = false) (hdone : s.tendDone s.cur = true) (hreports : s.me.reports = [])
    (hfailed : s.me.failed = []) :
    exec .tend s = .next ((s.setStrand s.cur { s.me.ended with last := s.here.addr }).post (.taskRetire s.cur)) := by
  have hplan : planTend (s.setStrand s.cur s.me) = .go fun s => (s.onMe Strand.ended).post (.taskRetire s.cur) := by
    simp only [planTend, ordered, State.setStrand_cur, State.me_relisted, State.tendDone_relisted, huser, hdone, hreports, hfailed]
    rfl
  have hended : ((s.setStrand s.cur s.me).onMe Strand.ended).post (.taskRetire s.cur) = (s.setStrand s.cur s.me.ended).post (.taskRetire s.cur) := by
    rw [State.onMe_eq, State.me_relisted, State.setStrand_cur, State.setStrand_setStrand]
  have hlast : ((s.setStrand s.cur s.me.ended).post (.taskRetire s.cur)).onMe (fun t => { s.me.advance t s.here false with last := s.here.addr }) =
      (s.setStrand s.cur { s.me.ended with last := s.here.addr }).post (.taskRetire s.cur) := by
    have hme : ((s.setStrand s.cur s.me.ended).post (.taskRetire s.cur)).me = s.me.ended := State.me_setStrand s _
    rw [State.onMe_eq, hme, Strand.advance_retiring _ rfl]
    exact congrArg (State.post · (.taskRetire s.cur)) (State.setStrand_setStrand ..)
  have htrap : (((s.setStrand s.cur { s.me.ended with last := s.here.addr }).post (.taskRetire s.cur)).strand s.cur).trapReq = none := by
    rw [State.strand_post, State.strand_setStrand_same]
    exact hclear.trapReq
  refine (alone_go hclear (hclear.legal _) hplan).trans (congrArg _ ?_)
  simp only [State.setStrand_cur, hended]
  exact (congrArg (State.settle · s.cur) hlast).trans (State.settle_none _ htrap)

/-! STQRD (R432, R448). -/

theorem exec_stqrd {s : State} {o : Sd} (hclear : s.Clear (.stqrd o)) : ∃ u, exec (.stqrd o) s = .next u ∧
    u.me = (s.me.wrS o.sd (s.core (coreOf s.cur)).takeRecord.1).moved s.here ∧ u.core (coreOf s.cur) = (s.core (coreOf s.cur)).takeRecord.2 := by
  have hme : (((s.setStrand s.cur s.me).setCore (coreOf s.cur) (s.core (coreOf s.cur)).takeRecord.2).onMe fun t =>
      t.wrS o.sd (s.core (coreOf s.cur)).takeRecord.1).me = s.me.wrS o.sd (s.core (coreOf s.cur)).takeRecord.1 := by
    rw [State.me_onMe]
    exact congrArg (Strand.wrS · o.sd _) s.me_relisted
  refine ⟨_, exec_of_plan_go hclear rfl (hclear.legal _) rfl (p := planStqrd o) rfl rfl ?_, ?_, ?_⟩
  · exact hme ▸ hclear.proceeds.wrS ..
  · rw [State.me_onMe]
    exact congrArg (Strand.moved · s.here) hme
  · exact State.core_setCore_same ..

theorem Core.takeRecord_cons {c : Core} {r : W64} {rest : List W64} (h : c.statq = r :: rest) : c.takeRecord = (r, { c with statq := rest }) := by
  rw [Core.takeRecord, h]

theorem Core.takeRecord_nil {c : Core} (h : c.statq = []) : c.takeRecord = (c.statLost, { c with statLost := 0 }) := by
  rw [Core.takeRecord, h]

/-! IFENCE (R98, R427): a clean of L1 leaves every strand and every leaf as it is. -/

/-- The strands, the leaves and the strand cur are unchanged. -/
structure State.SameRunning (s u : State) : Prop where
  strands : u.strands = s.strands
  leaves : u.leaves = s.leaves
  cur : u.cur = s.cur

theorem State.SameRunning.refl (s : State) : s.SameRunning s := ⟨rfl, rfl, rfl⟩

theorem State.SameRunning.trans {s t u : State} (h : s.SameRunning t) (k : t.SameRunning u) : s.SameRunning u :=
  ⟨k.strands.trans h.strands, k.leaves.trans h.leaves, k.cur.trans h.cur⟩

theorem State.SameRunning.foldl {α : Type} {f : State → α → State} (hf : ∀ (s : State) x, s.SameRunning (f s x)) (l : List α) (s : State) :
    s.SameRunning (l.foldl f s) := by
  induction l generalizing s with
  | nil => exact .refl s
  | cons x l ih => exact (hf s x).trans (ih _)

theorem State.Sent.sameRunning {s u : State} (h : s.Sent u) : s.SameRunning u := by
  obtain ⟨a, o, rfl⟩ := h
  exact ⟨rfl, rfl, rfl⟩

theorem State.sameRunning_hbmWrite (s : State) (leaf off n data mask : Nat) (key : BitVec 8) :
    s.SameRunning (s.hbmWrite leaf off n data mask key) := by
  refine State.SameRunning.trans ?_ (State.sent_wakeLines _ _).sameRunning
  refine State.SameRunning.trans (State.SameRunning.foldl (fun s l => ?_) _ s) ⟨rfl, rfl, rfl⟩
  split <;> exact ⟨rfl, rfl, rfl⟩

theorem State.sameRunning_meter (s : State) (l n k : Nat) : s.SameRunning (s.meter l n k) := by
  obtain ⟨v, hv⟩ := s.meter_eq l n k
  rw [hv]
  exact ⟨rfl, rfl, rfl⟩

theorem State.sameRunning_cleanLine (s : State) (core line : Nat) : s.SameRunning (s.cleanLine core line) := by
  unfold State.cleanLine
  split
  · exact .refl s
  · split
    · exact .refl s
    · exact (s.sameRunning_hbmWrite ..).trans ((State.sameRunning_meter ..).trans ⟨rfl, rfl, rfl⟩)

theorem State.sameRunning_cleanL1 (s : State) (core : Nat) : s.SameRunning (s.cleanL1 core) :=
  .foldl (f := fun s (p : Nat × L1Line) => s.cleanLine core p.1) (fun s p => s.sameRunning_cleanLine core p.1) _ s

theorem State.sameRunning_clean (s : State) (core : Nat) : s.SameRunning (s.clean core) :=
  .foldl State.sameRunning_cleanL1 _ s

section
variable {s u : State} (h : s.SameRunning u)
include h

theorem State.SameRunning.strand_eq (w : Nat) : u.strand w = s.strand w := by
  rw [State.strand, State.strand, h.strands]

theorem State.SameRunning.leaf_eq (l : Nat) : u.leaf l = s.leaf l := by
  rw [State.leaf, State.leaf, h.leaves]

end

/-- The core of the strand cur and its leaf as an IFENCE leaves them. -/
def State.fenced (s : State) : State :=
  let u := (s.clean (coreOf s.cur)).onMyCore fun c => { c with icache := [] }
  u.dropFetch (coreOf u.cur)

section
variable (s : State)

theorem State.cur_fenced : s.fenced.cur = s.cur := (s.sameRunning_clean _).cur

theorem State.strand_fenced (w : Nat) : s.fenced.strand w = s.strand w := (s.sameRunning_clean (coreOf s.cur)).strand_eq w

theorem State.me_fenced : s.fenced.me = s.me := by
  rw [State.me_def, State.strand_fenced, State.cur_fenced, State.me_def]

theorem State.member_fenced (l : Nat) : (s.fenced.leaf l).member = (s.leaf l).member := by
  rw [← (s.sameRunning_clean (coreOf s.cur)).leaf_eq l]
  unfold State.fenced State.dropFetch State.onLeaf
  by_cases hl : l = leafOfCore (coreOf ((s.clean (coreOf s.cur)).onMyCore fun c => { c with icache := [] }).cur)
  · rw [hl, State.leaf_setLeaf_same]
    rfl
  · rw [State.leaf_setLeaf_other _ _ hl]
    rfl

theorem State.xip_fenced (who : Nat) : s.fenced.xip who = s.xip who := by
  unfold State.xip State.memberOf
  rw [State.member_fenced, State.strand_fenced]

theorem State.icache_fenced : (s.fenced.core (coreOf s.cur)).icache = [] := by
  have hcur : (s.clean (coreOf s.cur)).cur = s.cur := (s.sameRunning_clean _).cur
  have hcore : s.fenced.core (coreOf s.cur) = ((s.clean (coreOf s.cur)).onMyCore fun c => { c with icache := [] }).core (coreOf s.cur) := rfl
  rw [hcore, State.onMyCore, State.onCore, hcur, State.core_setCore_same]

end

/-- A strand that fetches anew, n of its issue clocks on. -/
def Strand.refetching (t : Strand) (n : Nat) : Strand := { t with ibuf := [], stale := [], view := [], refetch := n }

theorem exec_ifence {s : State} (hclear : s.Clear .ifence) (hstores : s.me.stores = []) (hsent : s.me.sent = []) :
    exec .ifence s = .next (((s.setStrand s.cur s.me).fenced.onMe fun t => t.refetching (if s.xip s.cur then 0 else 2)).onMe fun t => t.moved s.here) := by
  have hplan : planIfence (s.setStrand s.cur s.me) = .go fun s => s.fenced.onMe fun t => t.refetching (if s.fenced.xip s.fenced.cur then 0 else 2) := by
    simp only [planIfence, State.me_relisted, hstores, hsent]
    rfl
  have hxip : (s.setStrand s.cur s.me).fenced.xip (s.setStrand s.cur s.me).fenced.cur = s.xip s.cur := by
    rw [State.xip_fenced, State.cur_fenced, State.setStrand_cur, s.fetchesAs_relisted.xip_eq]
  have hproceeds : ((s.setStrand s.cur s.me).fenced.onMe fun t => t.refetching (if s.xip s.cur then 0 else 2)).me.Proceeds s.here := by
    rw [State.me_onMe, State.me_fenced, State.me_relisted]
    obtain ⟨hretiring, hnext, htrap, hends⟩ := hclear.proceeds
    exact ⟨hretiring, hnext, htrap, hends⟩
  have hgo := exec_of_plan_go hclear rfl (hclear.legal _) rfl hplan (by rw [State.cur_onMe, State.cur_fenced, State.setStrand_cur])
    (by rw [hxip]; exact hproceeds)
  rwa [hxip] at hgo

/-! DICTCHK and DICTLD (R100, R428, R429). -/

theorem exec_dictchk_held {s : State} {o : Dck} {v : Nat} (hclear : s.Clear (.dictchk o)) (hheld : s.me.holdStarted = some v) :
    exec (.dictchk o) s =
      .next (s.wrote { s.me.wrP o.pd (BitVec.ofNat 32 v == (s.me.rdS o.sa).setWidth 32) with holdStarted := none }) := by
  have hplan : planDictchk o (s.setStrand s.cur s.me) =
      .reg fun t => { t.wrP o.pd (BitVec.ofNat 32 v == (s.me.rdS o.sa).setWidth 32) with holdStarted := none } := by
    simp only [planDictchk, State.me_relisted, hheld]
  obtain ⟨hretiring, hnext, htrap, hends⟩ := hclear.proceeds.wrP o.pd (BitVec.ofNat 32 v == (s.me.rdS o.sa).setWidth 32)
  exact exec_of_plan_reg hclear rfl (hclear.legal _) rfl hplan ⟨hretiring, hnext, htrap, hends⟩

theorem exec_dictchk_holds {s : State} {o : Dck} (hclear : s.Clear (.dictchk o)) (hfresh : s.me.holdStarted = none) :
    exec (.dictchk o) s =
      .next ((s.setStrand s.cur { s.me with hold := some (s.bankCrc (coreOf s.cur) o.bank.toNat).toNat }).after (leafOf s.cur) 1024
        (.dictchkHoldEnd s.cur)) := by
  have hcrc : (s.setStrand s.cur s.me).bankCrc (coreOf s.cur) o.bank.toNat = s.bankCrc (coreOf s.cur) o.bank.toNat := rfl
  refine exec_of_plan_stall hclear rfl (hclear.legal _) (p := planDictchk o) ?_
  simp only [planDictchk, State.me_relisted, hfresh, State.setStrand_cur, hcrc, State.onMe_eq, State.setStrand_setStrand]
  rfl

section
variable {s : State} {o : Dld} {m : Member} (hmember : s.memberOf s.cur = some m) (hclear : s.Clear (.dictld o))
include hmember hclear

theorem exec_dictld_bounds (hout : m.ndict ≤ (s.me.rdS o.sa).toNat) : exec (.dictld o) s = .next ((s.trapped BOUNDS none).settle s.cur) := by
  have hmember' : (s.setStrand s.cur s.me).memberOf s.cur = some m := hmember
  refine exec_of_plan_trap hclear rfl (hclear.legal _) (p := planDictld o) (by decide) ?_
  simp only [planDictld, State.setStrand_cur, hmember', State.me_relisted]
  exact Plan.need_false (decide_eq_false (Nat.not_lt.mpr hout)) ..

theorem exec_dictld_held {v : Nat} (hin : (s.me.rdS o.sa).toNat < m.ndict) (hwalk : s.me.walk = none) (hheld : s.me.holdStarted = some v) :
    exec (.dictld o) s = .next (s.wrote { s.me with holdStarted := none }) := by
  have hplan : planDictld o (s.setStrand s.cur s.me) = .reg fun t => { t with holdStarted := none } := by
    have hmember' : (s.setStrand s.cur s.me).memberOf s.cur = some m := hmember
    simp only [planDictld, State.setStrand_cur, hmember', State.me_relisted, hwalk, hheld]
    exact Plan.need_true (decide_eq_true hin) ..
  obtain ⟨hretiring, hnext, htrap, hends⟩ := hclear.proceeds
  exact exec_of_plan_reg hclear rfl (hclear.legal _) rfl hplan ⟨hretiring, hnext, htrap, hends⟩

theorem exec_dictld_holds (hin : (s.me.rdS o.sa).toNat < m.ndict) (hwalk : s.me.walk = none) (hfresh : s.me.holdStarted = none) :
    exec (.dictld o) s =
      .next ((s.setStrand s.cur { s.me with hold := some (2 * (s.me.rdS o.sa).toNat + o.bank.toNat) }).post (.dictldDone s.cur)) := by
  have hmember' : (s.setStrand s.cur s.me).memberOf s.cur = some m := hmember
  refine exec_of_plan_stall hclear rfl (hclear.legal _) (p := planDictld o) ?_
  simp only [planDictld, State.setStrand_cur, hmember', State.me_relisted, hwalk, hfresh, State.onMe_eq, State.setStrand_setStrand]
  exact Plan.need_true (decide_eq_true hin) ..

end

/-- Settles O34, instruction by instruction: what the bundle leaves (exec_yield, exec_safe, exec_tend, exec_stqrd, exec_ifence,
exec_dictchk_held, exec_dictld_held), and where it holds (exec_dictchk_holds, exec_dictld_holds). -/
theorem taskControl : Obligations.TaskControl := by
  refine ⟨fun s => ⟨fun h => ?_, fun o m hmember h hlive huser hquiet htrail => ?_, fun h huser hdone hreports hfailed => ?_, fun o h => ?_,
    fun h hstores hsent => ?_, fun o v h hheld => exec_dictchk_held h hheld, fun o m hmember h => ⟨fun hin hwalk => ⟨fun v hheld => ?_, fun hfresh => ?_⟩,
      fun hout => exec_dictld_bounds hmember h hout⟩⟩, fun s o h hfresh => ?_⟩
  · refine ⟨_, exec_yield h, ?_, State.core_setCore_same ..⟩
    rw [State.me_onMe]
    exact congrArg (Strand.moved · s.here) s.me_relisted
  · rw [exec_safe hmember h hlive huser hquiet htrail, Strand.safePoint_untrailed htrail]
  · refine ⟨_, exec_tend h huser hdone hreports hfailed, ?_⟩
    have hme : ((s.setStrand s.cur { s.me.ended with last := s.here.addr }).post (.taskRetire s.cur)).me = { s.me.ended with last := s.here.addr } :=
      State.me_setStrand s _
    rw [hme]
    exact ⟨rfl, rfl, rfl, State.mem_agenda_post _ _, rfl, s.sameBytes_post_setStrand _ _, s.sameOthers_setStrand _⟩
  · obtain ⟨u, hexec, hme, hcore⟩ := exec_stqrd h
    refine ⟨u, _, hexec, hme, fun r rest hqueue => ?_, fun hempty => ?_, fun hempty hlost => ?_⟩
    · rw [hcore, Core.takeRecord_cons hqueue]
      exact ⟨rfl, rfl⟩
    · rw [hcore, Core.takeRecord_nil hempty]
      exact ⟨rfl, rfl⟩
    · have hsame : { s.core (coreOf s.cur) with statLost := 0 } = s.core (coreOf s.cur) := by rw [← hlost]
      rw [hcore, Core.takeRecord_nil hempty]
      exact ⟨hlost, hsame⟩
  · refine ⟨_, exec_ifence h hstores hsent, ?_⟩
    simp only [State.me_onMe, State.me_fenced, State.me_relisted]
    refine ⟨rfl, rfl, State.icache_fenced (s.setStrand s.cur s.me), fun hxip => ?_, rfl, fun w hw => ?_⟩
    · rw [hxip]
      rfl
    · rw [State.onMe_onMe, State.onMe_eq, State.strand_setStrand_other _ _ (by rwa [State.cur_fenced]), State.strand_fenced, State.strand_relisted]
  · exact exec_dictld_held hmember h hin hwalk hheld
  · exact ⟨_, exec_dictld_holds hmember h hin hwalk hfresh, State.me_setStrand s _, State.mem_agenda_post _ _, s.sameBytes_post_setStrand _ _,
      s.sameOthers_setStrand _⟩
  · exact ⟨_, exec_dictchk_holds h hfresh, State.me_setStrand s _, rfl, s.sameBytes_after_setStrand _ _ _ _, s.sameOthers_setStrand _⟩

end Machine

end Sys2Proof
end

section
/-! PROOFS. The vector map: fused multiply-adds (O10), compares and masks (O11), and what saturating forms record and wrong tags trap
(O17). -/

namespace Sys2Proof

/-- The byte lanes of a format's elements lie in a mask register (R128). -/
theorem Fmt.lane_lt (f : Fmt) {i b : Nat} (hi : i < f.count) (hb : b < f.halfBytes / 2) : f.halfBytes / 2 * i + b < 512 := by
  have hfit : f.halfBytes / 2 * f.count ≤ 512 := by cases f <;> decide
  calc f.halfBytes / 2 * i + b < f.halfBytes / 2 * (i + 1) := by rw [Nat.mul_succ]; omega
    _ ≤ f.halfBytes / 2 * f.count := Nat.mul_le_mul_left _ hi
    _ ≤ 512 := hfit

namespace Machine

/-! Fused multiply-adds (R196). -/

/-- A fused multiply-add whose three sources carry its format rounds the exact value once and writes every element. -/
theorem exec_vecFma {s : State} {i : Instr} {o : Vvvv} {f : Fmt} {pn cn : Bool} (hform : VectorPlan i (vecFma f pn cn o))
    (ha : tagIs s.me o.va.toNat f = true) (hb : tagIs s.me o.vb.toNat f = true) (hc : tagIs s.me o.vc.toNat f = true) (hclear : s.Clear i) :
    let x (v : BitVec 8) (j : Nat) : FP := fpDecode f (s.me.ve f v j)
    ∃ u, exec i s = .next u ∧ s.Flew u 4 [.v (s.me.physV o.vd.toNat) (.mk (packV f fun j =>
      let ab := (x o.va j).mul (x o.vb j)
      fpRound f (.ofBits s.me.rmode) s.me.ftz
        (FP.add (.ofBits s.me.rmode) (if pn then ab.neg else ab) (if cn then (x o.vc j).neg else x o.vc j))) f)] := by
  have hsrc : (tagIs s.me o.va.toNat f && tagIs s.me o.vb.toNat f && tagIs s.me o.vc.toNat f) = true := by rw [ha, hb, hc]; rfl
  exact exec_vecAll hclear hform rfl hsrc fun _ => rfl

/-- Each fused multiply-add: its format, and whether it negates the product and the addend. -/
theorem vectorPlan_fma (o : Vvvv) : ∀ p ∈ ([(Instr.fmaFp32 o, Fmt.fp32, false, false), (.fmaBf16 o, .bf16, false, false),
    (.fmaFp16 o, .fp16, false, false), (.fmsFp32 o, .fp32, false, true), (.fmsBf16 o, .bf16, false, true), (.fmsFp16 o, .fp16, false, true),
    (.fnmaFp32 o, .fp32, true, false), (.fnmaBf16 o, .bf16, true, false), (.fnmaFp16 o, .fp16, true, false)] : List (Instr × Fmt × Bool × Bool)),
    VectorPlan p.1 (vecFma p.2.1 p.2.2.1 p.2.2.2 o) := by
  simp only [List.forall_mem_cons, List.not_mem_nil, false_imp_iff, implies_true, and_true]
  exact ⟨⟨rfl, rfl⟩, ⟨rfl, rfl⟩, ⟨rfl, rfl⟩, ⟨rfl, rfl⟩, ⟨rfl, rfl⟩, ⟨rfl, rfl⟩, ⟨rfl, rfl⟩, ⟨rfl, rfl⟩, ⟨rfl, rfl⟩⟩

/-- Settles O10: each form is one fused multiply-add of its format and signs (vectorPlan_fma, exec_vecFma). -/
theorem fusedMultiplyAdd : Obligations.FusedMultiplyAdd :=
  fun _ o p hp => exec_vecFma (vectorPlan_fma o p hp)

/-! Compares and mask logic (R197, R198). -/

/-- A bit of a compare's mask: an active element's bits take its result, the others keep theirs. -/
theorem getLsbD_maskResult (f : Fmt) (k old : KBits) (h : Nat → Bool) {i b : Nat} (hi : i < f.count) (hb : b < f.halfBytes / 2) :
    (maskResult f k old h).getLsbD (f.halfBytes / 2 * i + b) = if active k f i then h i else old.getLsbD (f.halfBytes / 2 * i + b) := by
  rw [maskResult, BitVec.getLsbD_ofNat, decide_eq_true (f.lane_lt hi hb), Bool.true_and, testBit_pack _ _ hi hb]
  split
  · split
    · next hres => rw [Nat.testBit_two_pow_sub_one, hres, decide_eq_true hb]
    · next hres => rw [Nat.zero_testBit, Bool.eq_false_of_not_eq_true hres]
  · rw [Nat.testBit_div_two_pow, Nat.add_comm, BitVec.testBit_toNat]

/-- A compare whose sources carry its format puts its mask in flight. -/
theorem exec_vecCompare {s : State} {i : Instr} {o : Kvv} {r : Rel} (hform : VectorPlan i (vecCompare r o))
    (ha : tagIs s.me o.va.toNat o.fmt = true) (hb : tagIs s.me o.vb.toNat o.fmt = true) (hclear : s.Clear i) :
    ∃ u, exec i s = .next u ∧ s.Flew u (arithLat o.fmt) (landK o.kd (maskResult o.fmt (s.me.rdK o.k) (s.me.rdK o.kd) fun j =>
      r.elt o.fmt (s.me.ve o.fmt o.va j) (s.me.ve o.fmt o.vb j))) :=
  exec_vecDone hclear hform (Plan.need_true (Bool.and_eq_true_iff.mpr ⟨ha, hb⟩) _ _)

/-- Each compare, and its relation. -/
theorem vectorPlan_compare (o : Kvv) : ∀ p ∈ ([(Instr.vcmpeq o, Rel.eq), (.vcmpne o, .ne), (.vcmplt o, .lt), (.vcmple o, .le)] : List (Instr × Rel)),
    VectorPlan p.1 (vecCompare p.2 o) := by
  simp only [List.forall_mem_cons, List.not_mem_nil, false_imp_iff, implies_true, and_true]
  exact ⟨⟨rfl, rfl⟩, ⟨rfl, rfl⟩, ⟨rfl, rfl⟩, ⟨rfl, rfl⟩⟩

/-- A mask form puts the logic of its two masks in flight. -/
theorem exec_maskLogic {s : State} {i : Instr} {o : Kkk} {g : KBits → KBits → KBits} (hform : VectorPlan i (maskLogic g o)) (hclear : s.Clear i) :
    ∃ u, exec i s = .next u ∧ s.Flew u 1 (landK o.kd (g (s.me.rdK o.ka) (s.me.rdK o.kb))) :=
  exec_vecDone hclear hform rfl

/-- Settles O11: a compare puts in flight the mask that its relation makes (exec_vecCompare), whose bits are getLsbD_maskResult's, and a mask
form the logic of all bits (exec_maskLogic); landK discards what is for k0. -/
theorem maskResults : Obligations.MaskResults := by
  refine fun s => ⟨fun o ha hb p hp hclear => ?_, fun o => ?_⟩
  · obtain ⟨u, hexec, hflew⟩ := exec_vecCompare (vectorPlan_compare o p hp) ha hb hclear
    exact ⟨u, _, hexec, hflew, fun i hi b hb => getLsbD_maskResult _ _ _ _ hi hb⟩
  · simp only [List.forall_mem_cons, List.not_mem_nil, false_imp_iff, implies_true, and_true]
    exact ⟨exec_maskLogic ⟨rfl, rfl⟩, exec_maskLogic ⟨rfl, rfl⟩, exec_maskLogic ⟨rfl, rfl⟩,
      exec_maskLogic (g := fun a b => a &&& ~~~b) ⟨rfl, rfl⟩⟩

/-! Saturation records and tags (R138, R139, R192). -/

/-- An active element clamps. -/
theorem anySat_iff {f : Fmt} {k : KBits} {h : Nat → Elt} :
    anySat f k h = true ↔ ∃ i < f.count, active k f i = true ∧ (h i).sat = true := by
  simp [anySat]

theorem anyNan_eq_false {f : Fmt} {k : KBits} {h : Nat → Elt} (hnan : ∀ i, (h i).nangen = false) : anyNan f k h = false := by
  simp [anyNan, hnan]

/-- A record of the strand cur is appended to its core, stamped with the address of its bundle. -/
theorem State.core_recordMe_true (s : State) (k : Nat) :
    (s.recordMe k true).core (coreOf s.cur) = (s.core (coreOf s.cur)).record k (s.cur % 4) 0 s.me.pc :=
  State.core_setCore_same ..

@[simp] theorem State.core_meter (s : State) (l n k c : Nat) : (s.meter l n k).core c = s.core c := by
  obtain ⟨v, hv⟩ := s.meter_eq l n k
  rw [hv]
  rfl

/-- The core of a commit that generates no NaN: a SAT record more where an element clamps (R192). -/
theorem core_of_vecDone {lat n : Nat} {lands : List Landing} {sat : Bool} {f : State → State}
    (hf : vecDone lat lands n false sat = .go f) (v : State) :
    (f v).core (coreOf v.cur) = if sat then (v.core (coreOf v.cur)).record 2 (v.cur % 4) 0 v.me.pc else v.core (coreOf v.cur) := by
  cases hf
  rw [State.core_meter]
  cases sat with
  | false => rfl
  | true =>
    have hpc : (v.fly lat lands).me.pc = v.me.pc := by rw [State.me_fly]
    rw [if_pos rfl, ← hpc]
    exact State.core_recordMe_true (v.fly lat lands) 2

section
variable {s : State} {i : Instr} (hclear : s.Clear i) {p : State → Plan} (hform : VectorPlan i p)
include hclear hform

/-- What the core holds after a form that generates no NaN. -/
theorem exec_vecDone_core {lat n : Nat} {lands : List Landing} {sat : Bool} (hplan : p s = vecDone lat lands n false sat) :
    ∃ u, exec i s = .next u ∧ u.core (coreOf s.cur) =
      if sat then (s.core (coreOf s.cur)).record 2 (s.cur % 4) 0 s.me.pc else s.core (coreOf s.cur) := by
  have hreads := readsOwnStrand_of_isVector hform.vector
  rw [← hform.plan, ← hreads.plan_relisted] at hplan
  obtain ⟨f, hf⟩ : ∃ f, vecDone lat lands n false sat = .go f := ⟨_, rfl⟩
  have hme := (me_of_vecDone hf (s.setStrand s.cur s.me)).trans (by rw [State.me_relisted])
  have hcore := core_of_vecDone hf (s.setStrand s.cur s.me)
  rw [State.me_relisted] at hcore
  exact ⟨_, (exec_syllable hreads.syllable s).trans (alone_moved hclear (hclear.legal _ hreads.loop hreads.mloop) hreads.branch
    (hplan.trans hf) hme (cur_of_vecDone hf _)), hcore⟩

/-- A saturating form whose tags fit records a clamp of an active element, and nothing else (R192). -/
theorem exec_vecSat_core {o : Vvv} {g : Int → Int → Int} (hplan : p s = vecVvv 2 (fun _ => vecSat g) o s)
    (ha : tagIs s.me o.va.toNat o.fmt = true) (hb : tagIs s.me o.vb.toNat o.fmt = true) (hdest : destTagOk s.me o.k o.vd.toNat o.fmt = true) :
    let clamps (j : Nat) : Bool := (intSat o.fmt (g (intDecode o.fmt (s.me.ve o.fmt o.va j)) (intDecode o.fmt (s.me.ve o.fmt o.vb j)))).2
    ∃ u, exec i s = .next u ∧
      ((∃ j < o.fmt.count, active (s.me.rdK o.k) o.fmt j = true ∧ clamps j = true) →
        u.core (coreOf s.cur) = (s.core (coreOf s.cur)).record 2 (s.cur % 4) 0 s.me.pc) ∧
      ((∀ j < o.fmt.count, active (s.me.rdK o.k) o.fmt j = true → clamps j = false) → u.core (coreOf s.cur) = s.core (coreOf s.cur)) := by
  intro clamps
  have htags : (tagIs s.me o.va.toNat o.fmt && tagIs s.me o.vb.toNat o.fmt && destTagOk s.me o.k o.vd.toNat o.fmt) = true := by
    rw [ha, hb, hdest]; rfl
  rw [vecVvv, vecWrite, Plan.need_true htags, anyNan_eq_false fun _ => rfl] at hplan
  obtain ⟨u, hexec, hcore⟩ := exec_vecDone_core hclear hform hplan
  refine ⟨u, hexec, fun hsome => ?_, fun hnone => ?_⟩
  · rw [hcore, if_pos (anySat_iff.mpr hsome)]
  · rw [hcore, if_neg fun hsat => ?_]
    obtain ⟨j, hj, hactive, hclamps⟩ := anySat_iff.mp hsat
    exact Bool.false_ne_true ((hnone j hj hactive).symm.trans hclamps)

/-- A form of two sources and one format whose tags do not fit traps at its bundle (R138, R139, R408). -/
theorem exec_vecVvv_fmttag {o : Vvv} {lat : Nat} {g : Strand → Fmt → Nat → Nat → Elt} (hplan : p s = vecVvv lat g o s)
    (hbad : tagIs s.me o.va.toNat o.fmt = false ∨ tagIs s.me o.vb.toNat o.fmt = false ∨ destTagOk s.me o.k o.vd.toNat o.fmt = false) :
    exec i s = .next ((s.trapped FMTTAG none).settle s.cur) := by
  have hreads := readsOwnStrand_of_isVector hform.vector
  have htags : (tagIs s.me o.va.toNat o.fmt && tagIs s.me o.vb.toNat o.fmt && destTagOk s.me o.k o.vd.toNat o.fmt) = false := by
    rcases hbad with h | h | h <;> simp [h]
  rw [vecVvv, vecWrite, Plan.need_false htags, ← hform.plan, ← hreads.plan_relisted] at hplan
  exact exec_of_plan_trap hclear (exec_syllable hreads.syllable s) (hclear.legal _ hreads.loop hreads.mloop) (by decide) hplan

end

/-- The plan of each form of two sources and one format. -/
theorem vectorPlan_vvv (o : Vvv) : ∀ i ∈ ([.vadd o, .vsub o, .vmul o, .vmin o, .vmax o, .vadds o, .vsubs o, .vmulh o, .vshl o, .vshr o,
    .vsar o] : List Instr), ∃ p lat g, VectorPlan i p ∧ ∀ s, p s = vecVvv lat g o s := by
  simp only [List.forall_mem_cons, List.not_mem_nil, false_imp_iff, implies_true, and_true]
  exact ⟨⟨planVadd o, _, _, ⟨rfl, rfl⟩, fun _ => rfl⟩, ⟨planVsub o, _, _, ⟨rfl, rfl⟩, fun _ => rfl⟩, ⟨planVmul o, _, _, ⟨rfl, rfl⟩, fun _ => rfl⟩,
    ⟨planVmin o, _, _, ⟨rfl, rfl⟩, fun _ => rfl⟩, ⟨planVmax o, _, _, ⟨rfl, rfl⟩, fun _ => rfl⟩, ⟨planVadds o, _, _, ⟨rfl, rfl⟩, fun _ => rfl⟩,
    ⟨planVsubs o, _, _, ⟨rfl, rfl⟩, fun _ => rfl⟩, ⟨planVmulh o, _, _, ⟨rfl, rfl⟩, fun _ => rfl⟩, ⟨planVshl o, _, _, ⟨rfl, rfl⟩, fun _ => rfl⟩,
    ⟨planVshr o, _, _, ⟨rfl, rfl⟩, fun _ => rfl⟩, ⟨planVsar o, _, _, ⟨rfl, rfl⟩, fun _ => rfl⟩⟩

/-- Settles O17: a saturating form's commit records what it clamps (exec_vecSat_core), and tags that do not fit trap before any
(exec_vecVvv_fmttag). -/
theorem saturationAndTags : Obligations.SaturationAndTags := by
  refine ⟨fun s o ha hb hdest => ?_, fun s o i hi hclear hbad => ?_⟩
  · simp only [List.forall_mem_cons, List.not_mem_nil, false_imp_iff, implies_true, and_true]
    exact ⟨
      fun hclear => exec_vecSat_core hclear (p := planVadds o) ⟨rfl, rfl⟩ rfl ha hb hdest,
      fun hclear => exec_vecSat_core hclear (p := planVsubs o) ⟨rfl, rfl⟩ rfl ha hb hdest⟩
  · obtain ⟨p, lat, g, hform, hplan⟩ := vectorPlan_vvv o i hi
    exact exec_vecVvv_fmttag hclear hform (hplan s) hbad

end Machine

end Sys2Proof
end

section
/-! PROOFS. The reduction map: what a form puts in flight (O15). -/

namespace Sys2Proof

/-- A syllable of the reduction map (R102). -/
def Instr.isReduction (i : Instr) : Prop := i.code.map Prod.fst = some .reduction

namespace Machine

theorem readsOwnStrand_of_isReduction {i : Instr} (h : i.isReduction) : ReadsOwnStrand i := by
  cases i <;> cases h <;> exact ⟨rfl, rfl, nofun, nofun, fun _ => rfl⟩

/-- Results in flight and, where there is one, a record (R191, R192). -/
def State.flyRecorded (s : State) (lat : Nat) (lands : List Landing) (k : Nat) (record : Bool) : State := (s.fly lat lands).recordMe k record

theorem State.me_flyRecorded (s : State) (lat : Nat) (lands : List Landing) (k : Nat) (record : Bool) :
    (s.flyRecorded lat lands k record).me = s.me.flying (s.issueClk + lat) (s.slot == .m) lands := by
  rw [State.flyRecorded, State.me_recordMe, State.me_fly]
  rfl

/-- Beside the strand cur, the statistics of its core alone have moved. -/
theorem State.flew_flyRecorded (s : State) (lat : Nat) (lands : List Landing) (k : Nat) (record : Bool) :
    s.Flew (((s.setStrand s.cur s.me).flyRecorded lat lands k record).onMe fun t => t.moved s.here) lat lands := by
  obtain ⟨c, hcores⟩ := State.recordMe_eq ((s.setStrand s.cur s.me).fly lat lands) k record
  refine ⟨?_, ?_, State.recordMe_core _ k record⟩
  · rw [State.me_onMe, State.me_flyRecorded, State.me_relisted]
    rfl
  · rw [State.me_onMe, State.onMe_eq, State.flyRecorded, hcores, State.fly_eq]
    simp [State.setStrand]

/-- A form whose plan puts results in flight, with a record or none. -/
theorem exec_flyRecorded {s : State} {i : Instr} (hclear : s.Clear i) (hreads : ReadsOwnStrand i) {lat k : Nat} {lands : List Landing}
    {record : Bool} (hplan : planOf i s = .go fun v => v.flyRecorded lat lands k record) :
    ∃ u, exec i s = .next u ∧ s.Flew u lat lands := by
  rw [← hreads.plan_relisted] at hplan
  refine ⟨_, exec_of_plan_go hclear (exec_syllable hreads.syllable s) (hclear.legal _ hreads.loop hreads.mloop) hreads.branch hplan
    (State.recordMe_cur ..) ?_, s.flew_flyRecorded lat lands k record⟩
  obtain ⟨hretiring, hnext, htrap, hends⟩ := hclear.proceeds
  rw [State.me_flyRecorded, State.me_relisted]
  exact ⟨hretiring, hnext, htrap, hends⟩

/-- What an accumulating form leaves in its latch: the tree's value of the active elements, combined with the latch or not. -/
def reducedLatch (t : Strand) (op : RedOp) (acc : Bool) (o : Rq) : Latch :=
  let l := t.newPs o.ps.toNat
  let x := redInt op o.fmt (t.rdK o.k) (t.rdV o.va.toNat)
  let y := redFp op o.fmt (t.rdK o.k) (t.rdV o.va.toNat)
  if o.fmt.isF then
    { bits := BitVec.ofNat 32 (fpRound .fp32 .rne false (if acc then op.fp (fpDecode .fp32 l.bits.toNat) y else y)), int := false }
  else
    { bits := BitVec.ofInt 32 (if acc then op.int (intDecode .int32 l.bits.toNat) (intDecode .int32 (intWrap .int32 x)) else x), int := true }

/-- An accumulating form whose source and latch carry the tags it needs (R211, R213). -/
theorem reduceForm_eq {s : State} {op : RedOp} {acc : Bool} {o : Rq} (ha : tagIs s.me o.va.toNat o.fmt = true)
    (hlatch : acc = true → (s.me.newPs o.ps.toNat).int = !o.fmt.isF) :
    ∃ nan, reduceForm op acc o s = .go fun v => v.flyRecorded 4 [.ps o.ps.toNat (reducedLatch s.me op acc o)] 1 nan := by
  have htags : (tagIs s.me o.va.toNat o.fmt && (!acc || (s.me.newPs o.ps.toNat).int == !o.fmt.isF)) = true := by
    cases acc with
    | false => simp [ha]
    | true => simp [ha, hlatch rfl]
  simp only [reduceForm, Plan.need_true htags, reducedLatch]
  cases o.fmt.isF with
  | false => exact ⟨false, rfl⟩
  | true => exact ⟨_, rfl⟩

/-- Each accumulating form: its operation, and whether it combines with the latch. -/
theorem planOf_reduceForm (o : Rq) : ∀ p ∈ ([(Instr.qacc o, RedOp.add, false), (.qadd o, .add, true), (.qmax o, .max, true), (.qmin o, .min, true)] :
    List (Instr × RedOp × Bool)), p.1.isReduction ∧ planOf p.1 = reduceForm p.2.1 p.2.2 o := by
  simp only [List.forall_mem_cons, List.not_mem_nil, false_imp_iff, implies_true, and_true]
  exact ⟨⟨rfl, rfl⟩, ⟨rfl, rfl⟩, ⟨rfl, rfl⟩, ⟨rfl, rfl⟩⟩

/-- Settles O15: an accumulating form's plan puts its latch in flight (reduceForm_eq), QDRN's a scalar and a cleared latch, and either is
carried out (exec_flyRecorded). -/
theorem reductions : Obligations.Reductions := by
  refine fun s => ⟨fun o ha p hp hlatch hclear => ?_, fun o hclear => ?_⟩
  · obtain ⟨hreduction, hplan⟩ := planOf_reduceForm o p hp
    obtain ⟨nan, hform⟩ := reduceForm_eq (op := p.2.1) ha hlatch
    exact exec_flyRecorded hclear (readsOwnStrand_of_isReduction hreduction) ((congrFun hplan s).trans hform)
  · exact exec_flyRecorded (k := 1) (record := false) hclear (readsOwnStrand_of_isReduction rfl) rfl

end Machine

end Sys2Proof
end

section
/-! PROOFS. What a core brings about by itself: results that land, and what befalls a strand that waits (O36). -/

namespace Sys2Proof

namespace Machine

/-! Landing (R191, R241). -/

/-- A landing ends no flight and writes no predicate. -/
theorem Strand.land_keeps (t : Strand) (l : Landing) : (t.land l).flights = t.flights ∧ (t.land l).pregs = t.pregs := by
  cases l with
  | s n x => unfold Strand.land; dsimp only; split <;> exact ⟨rfl, rfl⟩
  | k n x => unfold Strand.land; dsimp only; split <;> exact ⟨rfl, rfl⟩
  | v n x => exact ⟨rfl, rfl⟩
  | ps n x => exact ⟨rfl, rfl⟩

/-- The strand with a flight ended: it is in flight no longer, and its values have landed in order. -/
def Strand.landed (t : Strand) (id : Nat) (lands : List Landing) : Strand :=
  lands.foldl Strand.land { t with flights := t.flights.filter fun g => g.id != id }

/-- One scalar result that lands, other than for s0 (R107). -/
theorem Strand.landed_s (t : Strand) (id : Nat) {n : Nat} (x : W64) (h : n ≠ 0) :
    t.landed id [.s n x] = { t with flights := t.flights.filter fun g => g.id != id, sregs := t.sregs.set n x } := if_neg h

/-- One mask that lands, other than for k0 (R107). -/
theorem Strand.landed_k (t : Strand) (id : Nat) {n : Nat} (x : KBits) (h : n ≠ 0) :
    t.landed id [.k n x] = { t with flights := t.flights.filter fun g => g.id != id, kregs := t.kregs.set n x } := if_neg h

/-- What lands ends no other flight and writes no predicate. -/
theorem Strand.landed_keeps (t : Strand) (id : Nat) (lands : List Landing) :
    (t.landed id lands).flights = t.flights.filter (fun g => g.id != id) ∧ (t.landed id lands).pregs = t.pregs := by
  have hfold (u : Strand) : (lands.foldl Strand.land u).flights = u.flights ∧ (lands.foldl Strand.land u).pregs = u.pregs := by
    induction lands generalizing u with
    | nil => exact ⟨rfl, rfl⟩
    | cons l rest ih =>
      obtain ⟨hflights, hpregs⟩ := u.land_keeps l
      obtain ⟨hrestFlights, hrestPregs⟩ := ih (u.land l)
      exact ⟨hrestFlights.trans hflights, hrestPregs.trans hpregs⟩
  exact hfold _

section
variable {s : State} {who id : Nat} {f : Flight} (hfind : (s.strand who).flights.find? (fun g => g.id == id) = some f)
include hfind

theorem exec_resultLand_early (h : (s.leaf (leafOf who)).clk < f.due) : exec (.resultLand who id) s = .next s := by
  have hexec : exec (.resultLand who id) s = execResultLand who id s := rfl
  simp only [hexec, execResultLand, hfind, if_pos h]

theorem exec_resultLand_due (h : f.due ≤ (s.leaf (leafOf who)).clk) :
    exec (.resultLand who id) s = .next (s.setStrand who ((s.strand who).landed id f.lands)) := by
  have hexec : exec (.resultLand who id) s = execResultLand who id s := rfl
  simp only [hexec, execResultLand, hfind, if_neg (Nat.not_lt.mpr h)]
  rfl

end

/-! A strand's waits, traps and safe points (R261, R262, R265, R408, R416, R428). -/

/-- What is no longer to come about changes no strand and no byte. -/
theorem State.sameBytes_unpost_onStrand (s : State) (e : Ev) (w : Nat) (g : Strand → Strand) : s.SameBytes ((s.unpost e).onStrand w g) :=
  s.sameBytes_setStrand w (g (s.strand w))

theorem State.strand_unpost_onStrand_other (s : State) (e : Ev) {w v : Nat} (g : Strand → Strand) (h : v ≠ w) :
    ((s.unpost e).onStrand w g).strand v = s.strand v := State.strand_setStrand_other (s.unpost e) _ h

theorem Strand.event_waiting {t : Strand} (h : t.trail = some .wfe) : t.event = { t with trail := none, trailSafe := none, latch := false } :=
  if_pos h

theorem Strand.event_free {t : Strand} (h : t.trail ≠ some .wfe) : t.event = { t with latch := true } := if_neg h

section
variable {s : State} {who : Nat}

theorem exec_waittExpiry_due {x : W64} (htrail : (s.strand who).trail = some (.waitt x)) (hdue : x.toNat ≤ s.now.toNat) :
    exec (.waittExpiry who) s = .next ((s.unpost (.waittExpiry who)).onStrand who fun t => { t with trail := none, trailSafe := none }) := by
  have hexec : exec (.waittExpiry who) s = execWaittExpiry who s := rfl
  simp only [hexec, execWaittExpiry, htrail, if_pos hdue]

/-- A strand whose member has a handler enters it (R407, R408). -/
theorem State.Handled.enterTrap (h : s.Handled who) (e : Ev) (r : TrapReq) :
    (s.unpost e).enterTrap who r = (s.unpost e).setStrand who ((s.strand who).enter r) := by
  obtain ⟨m, hmember, hhandler⟩ := h.handler
  have hmember' : (s.unpost e).memberOf who = some m := hmember
  simp only [State.enterTrap, hmember', h.user, hhandler, Bool.false_eq_true, if_false, if_true, State.strand_unpost]

theorem exec_trapEntry_quiet {r : TrapReq} (htrap : (s.strand who).trapReq = some r) (hacts : s.strandActs who = true) (h : s.Handled who) :
    exec (.trapEntry who) s = .next ((s.unpost (.trapEntry who)).setStrand who ((s.strand who).enter r)) := by
  have hexec : exec (.trapEntry who) s = execTrapEntry who s := rfl
  simp only [hexec, execTrapEntry, htrap, hacts, h.quiet, Bool.and_self, if_true, h.enterTrap]

theorem exec_safeovr (s : State) (who : Nat) : exec (.safeovr who) s =
    .next (((s.unpost (.safeovr who)).setStrand who { s.strand who with safeOver := true }).onCore (coreOf who) fun c =>
      c.record 6 (who % 4) 0 (s.strand who).last) := by
  have hlast : ((s.unpost (.safeovr who)).setStrand who { s.strand who with safeOver := true }).strand who =
      { s.strand who with safeOver := true } := State.strand_setStrand_same ..
  have hexec : exec (.safeovr who) s = execSafeovr who s := rfl
  simp only [hexec, execSafeovr, State.onStrand, State.strand_unpost, hlast]

theorem exec_dictchkHoldEnd_last {c : Nat} (hhold : (s.strand who).hold = some c) (hlast : ∀ e ∈ s.timers, e.2.2 ≠ .dictchkHoldEnd who) :
    exec (.dictchkHoldEnd who) s = .next (s.setStrand who { s.strand who with hold := none, holdStarted := some c }) := by
  have hnone : (s.timers.any fun e => e.2.2 == .dictchkHoldEnd who) = false := by
    simpa using fun a b e he => hlast (a, b, e) he
  have hexec : exec (.dictchkHoldEnd who) s = execDictchkHoldEnd who s := rfl
  simp only [hexec, execDictchkHoldEnd, hnone, Bool.false_eq_true, if_false, State.onStrand, hhold]

end

/-- Settles O36, event by event: what of a flight lands (Strand.landed), and what each event leaves of its strand. -/
theorem resultsAndStrandEvents : Obligations.ResultsAndStrandEvents := by
  refine ⟨fun s who id f hfind => ⟨exec_resultLand_early hfind, fun hdue => ⟨_, exec_resultLand_due hfind hdue, s.sameBytes_setStrand _ _,
      fun w hw => State.strand_setStrand_other s _ hw, ?_⟩⟩,
    fun s who => ⟨⟨_, rfl, s.sameBytes_unpost_onStrand .., fun w hw => s.strand_unpost_onStrand_other _ _ hw, ?_⟩,
      fun x htrail hdue => ⟨_, exec_waittExpiry_due htrail hdue, State.strand_onStrand .., s.sameBytes_unpost_onStrand ..⟩,
      fun r htrap hacts hhandled => ⟨_, exec_trapEntry_quiet htrap hacts hhandled, ?_⟩,
      ⟨_, exec_safeovr s who, State.strand_setStrand_same .., State.core_setCore_same ..⟩,
      fun c hhold hlast => ⟨_, exec_dictchkHoldEnd_last hhold hlast, State.strand_setStrand_same ..⟩⟩⟩
  · obtain ⟨hflights, hpregs⟩ := (s.strand who).landed_keeps id f.lands
    rw [State.strand_setStrand_same]
    refine ⟨hflights, hpregs, fun n x hland => ?_, fun n x hn hland => ?_, fun n x hn hland => ?_, fun n x hland => ?_⟩
    · rw [hland]
      exact ⟨rfl, rfl⟩
    · rw [hland, Strand.landed_s _ _ x hn]
      exact ⟨rfl, rfl⟩
    · rw [hland, Strand.landed_k _ _ x hn]
    · rw [hland]
      rfl
  · rw [State.strand_onStrand]
    exact ⟨Strand.event_waiting, Strand.event_free⟩
  · rw [State.strand_setStrand_same]
    exact ⟨rfl, rfl, rfl, rfl, rfl⟩

end Machine

end Sys2Proof
end

section
/-! PROOFS. The packets that reach every member of a gang, RESIZE and CKPT, and the activity forecast (O45). -/

namespace Sys2Proof

namespace Machine

theorem exec_resizeApply (leaf pid : Nat) (s : State) : exec (.resizeApply leaf pid) s = execResizeApply leaf pid s := rfl
theorem exec_ckptStart (leaf pid : Nat) (s : State) : exec (.ckptStart leaf pid) s = execCkptStart leaf pid s := rfl
theorem exec_ckptPageDrain (leaf pid page : Nat) (s : State) : exec (.ckptPageDrain leaf pid page) s = execCkptPageDrain leaf pid page s := rfl
theorem exec_ckptComplete (leaf pid : Nat) (s : State) : exec (.ckptComplete leaf pid) s = execCkptComplete leaf pid s := rfl

/-- A packet awaits the answers of n places. -/
def State.awaiting (s : State) (leaf pid n : Nat) : State := s.onPkt leaf pid fun p => { p with progress := 1 + n }

/-- A packet whose event has come about has its work done (R41). -/
theorem State.ends_unpost_finish {s : State} {leaf pid : Nat} {p : Pkt} (hp : s.pkt leaf pid = some p) (e : Ev) :
    ((s.unpost e).finishPkt leaf pid).Ends leaf pid :=
  State.ends_finishPkt (Option.isSome_iff_exists.mpr ⟨p, hp⟩)

/-- The pages of a CKPT are each to be copied, and its completion is to come about (R440). -/
def State.postDrains (s : State) (leaf pid : Nat) (pages : List (Nat × Nat)) : State :=
  (pages.foldl (fun s q => s.post (.ckptPageDrain leaf pid (q.1 / 4096))) s).post (.ckptComplete leaf pid)

theorem State.mem_agenda_postDrains (s : State) (leaf pid : Nat) {pages : List (Nat × Nat)} {q : Nat × Nat} (hq : q ∈ pages) :
    Ev.ckptPageDrain leaf pid (q.1 / 4096) ∈ (s.postDrains leaf pid pages).agenda := by
  refine (State.sent_post _ _).mem_agenda ?_
  exact State.Sent.mem_foldl (f := fun s q => s.post (.ckptPageDrain leaf pid (q.1 / 4096))) (fun s _ => s.sent_post _) hq
    fun t _ => t.mem_agenda_post _

/-- Freeing pages sends messages alone (R440). -/
theorem State.sent_thaw (s : State) (leaf : Nat) (p : Pkt) (pages : List (Nat × Nat)) : s.Sent (s.thaw leaf p pages) :=
  .foldl (fun s _ => .foldl (fun s place => s.sent_tell place _) _ s) pages s

section
variable {s : State} {leaf pid : Nat} {p : Pkt} (hp : s.pkt leaf pid = some p) (hstarted : p.stage = .started)
include hp hstarted

/-! RESIZE (R227, R228). -/

theorem exec_resizeApply_first (hfirst : p.progress = 0) :
    exec (.resizeApply leaf pid) s = .next
      ((s.awaiting leaf pid (s.placesNow leaf p.gang).length).tellAll (s.placesNow leaf p.gang) fun l =>
        .resizeMember l p.gang pid ((resizeRecs (p.table.readNat 0 (24 * p.at 0x20 2)) (p.at 0x20 2)).getD [])) := by
  simp only [exec_resizeApply, execResizeApply, hp, Pkt.begun_of_started hstarted, hfirst, Bool.not_true, Bool.false_eq_true, if_false, if_true]
  rfl

theorem exec_resizeApply_answered (hanswered : p.progress = 1) :
    exec (.resizeApply leaf pid) s = .next ((s.unpost (.resizeApply leaf pid)).finishPkt leaf pid) := by
  simp only [exec_resizeApply, execResizeApply, hp, Pkt.begun_of_started hstarted, hanswered, Bool.not_true, Bool.false_eq_true, if_false, if_true,
    Nat.one_ne_zero]

/-! CKPT (R439 to R441). -/

theorem exec_ckptStart_first (hfirst : p.progress = 0) :
    let places := (pidPlace pid :: s.placesNow leaf p.gang).eraseDups
    exec (.ckptStart leaf pid) s = .next ((s.awaiting leaf pid places.length).tellAll places fun l =>
      .freezePages l p.gang pid p.vf (p.pages.map fun q => q.1 / 4096)) := by
  rw [exec_ckptStart]
  unfold execCkptStart
  simp -zeta only [hp, Pkt.begun_of_started hstarted, hfirst, Bool.not_true, Bool.false_eq_true, if_false, if_true]
  rfl

theorem exec_ckptStart_frozen (hanswered : p.progress = 1) (hunmarked : p.at 0x30 8 = 0) :
    exec (.ckptStart leaf pid) s = .next
      (((s.unpost (.ckptStart leaf pid)).onPkt leaf pid fun p => { p with progress := ckptMarked }).postDrains leaf pid p.pages) := by
  rw [exec_ckptStart]
  unfold execCkptStart
  simp -zeta only [hp, Pkt.begun_of_started hstarted, hanswered, hunmarked, Bool.not_true, Bool.false_eq_true, if_false, if_true,
    Nat.one_ne_zero, ne_eq, not_true_eq_false]
  rfl

theorem exec_ckptComplete_copied (hcopied : p.pages = []) :
    exec (.ckptComplete leaf pid) s = .next ((s.unpost (.ckptComplete leaf pid)).finishPkt leaf pid) := by
  simp [exec_ckptComplete, execCkptComplete, hp, Pkt.begun_of_started hstarted, hcopied]

end

/-- A page that has been copied leaves the packet's list, and is free. -/
theorem exec_ckptPageDrain_copied {s u : State} {leaf pid page x : Nat} {p : Pkt} {q : Nat × Nat} (hp : s.pkt leaf pid = some p)
    (hpage : p.pages.find? (fun q => q.1 / 4096 == page) = some q)
    (hcopy : ((s.cpRead leaf p.vf pid q.1 4096).andThen fun v x => v.cpWrite leaf p.vf pid (v.pktKey p) q.2 4096 x) = .done u x) :
    exec (.ckptPageDrain leaf pid page) s = .next
      (((u.unpost (.ckptPageDrain leaf pid page)).onPkt leaf pid fun p => { p with pages := p.pages.erase q }).thaw leaf p [q]) := by
  simp only [exec_ckptPageDrain, execCkptPageDrain, hp, hpage, hcopy]

/-! The activity forecast (R51). -/

/-- Packets of a leaf that wait and are a LAUNCH or a COPY. -/
def Leaf.pendingWork (l : Leaf) : Nat := (l.pkts.filter fun d => d.stage == .waiting && (d.type == 1 || d.type == 2)).length

/-- The word of a forecast: LEVEL, HORIZON, PENDING and TIME. -/
def forecastWord (level horizon : BitVec 8) (pending : Nat) (now : W64) : W64 :=
  BitVec.ofNat 64 (level.toNat + horizon.toNat * 2 ^ 8 + min pending 255 * 2 ^ 16 + now.toNat / 2 ^ 10 % 2 ^ 40 * 2 ^ 24)

theorem forecastWord_toNat (level horizon : BitVec 8) (pending : Nat) (now : W64) :
    (forecastWord level horizon pending now).toNat =
      level.toNat + horizon.toNat * 2 ^ 8 + min pending 255 * 2 ^ 16 + now.toNat / 2 ^ 10 % 2 ^ 40 * 2 ^ 24 := by
  rw [forecastWord, BitVec.toNat_ofNat]
  omega

theorem forecastWord_fields (level horizon : BitVec 8) (pending : Nat) (now : W64) : let x := forecastWord level horizon pending now
    x.extractLsb' 8 8 = horizon ∧ (x.extractLsb' 16 8).toNat = min pending 255 ∧ (x.extractLsb' 24 40).toNat = now.toNat / 2 ^ 10 % 2 ^ 40 := by
  refine ⟨BitVec.eq_of_toNat_eq ?_, ?_, ?_⟩ <;> rw [extractLsb'_toNat_eq_div, forecastWord_toNat] <;> omega

theorem exec_actfcUpdate (leaf : Nat) (s : State) : ∃ u, exec (.actfcUpdate leaf) s = .next u ∧ (u.leaf leaf).actfc =
    forecastWord (Config.forecastLevel s.freeCount) ((s.leaf leaf).actfc.extractLsb' 8 8) (s.leaf leaf).pendingWork s.now :=
  ⟨_, rfl, by rw [State.leaf_onLeaf]; rfl⟩

/-- Settles O45: a RESIZE and a CKPT tell every place of their gang (State.told_tellAll) and end once the answers are in; a copied page
leaves the list (exec_ckptPageDrain_copied); the forecast's fields are those of its word (forecastWord_fields). That members answer a
packet is the model's choice (log 50). -/
theorem memberWidePackets : Obligations.MemberWidePackets := by
  intro s leaf pid p hp hstarted
  refine ⟨fun hanswered => ⟨_, exec_resizeApply_answered hp hstarted hanswered, State.ends_unpost_finish hp _⟩,
    fun hfirst => ⟨_, exec_resizeApply_first hp hstarted hfirst, fun place hplace => State.told_tellAll _ _ hplace⟩,
    fun hfirst => ⟨_, exec_ckptStart_first hp hstarted hfirst, fun place hplace => State.told_tellAll _ _ ?_⟩,
    fun hanswered hunmarked => ⟨_, exec_ckptStart_frozen hp hstarted hanswered hunmarked, State.mem_agenda_post _ _,
      fun q hq => State.mem_agenda_postDrains _ leaf pid hq⟩,
    fun page q u w x hpage hcopy hw => ⟨_, exec_ckptPageDrain_copied hp hpage hcopy, ?_⟩,
    fun hcopied => ⟨_, exec_ckptComplete_copied hp hstarted hcopied, State.ends_unpost_finish hp _⟩, ?_⟩
  · exact List.mem_eraseDups.mpr (List.mem_cons_of_mem _ hplace)
  · generalize hu : (u.unpost (.ckptPageDrain leaf pid page)).onPkt leaf pid (fun p => { p with pages := p.pages.erase q }) = v
    have hpkt : v.pkt leaf pid = some { w with pages := w.pages.erase q } :=
      hu ▸ State.pkt_onPkt (s := u.unpost _) hw fun _ => rfl
    have hsame : v.host = u.host ∧ v.hbm = u.hbm ∧ v.pool = u.pool := hu ▸ ⟨rfl, rfl, rfl⟩
    have hsent := v.sent_thaw leaf p [q]
    have hkept := hsent.booked
    rw [hsent.pkt_eq, hkept]
    exact ⟨hpkt, hsame⟩
  · obtain ⟨u, hexec, hword⟩ := exec_actfcUpdate leaf s
    have hfields := forecastWord_fields (Config.forecastLevel s.freeCount) ((s.leaf leaf).actfc.extractLsb' 8 8) (s.leaf leaf).pendingWork s.now
    exact ⟨u, hexec, by rw [hword]; exact hfields⟩

end Machine

end Sys2Proof
end

section
/-! PROOFS. The region instructions RMAP, RUNMAP and RFLUSH (O24). -/

namespace Sys2Proof

namespace Machine

/-! What the owner rule of regions leaves unchanged (R77). -/

/-- The strands and the strand cur, the package's number and the member on each leaf are unchanged. -/
structure State.SameMembers (s u : State) : Prop where
  strands : u.strands = s.strands
  cur : u.cur = s.cur
  pkg : u.pkg = s.pkg
  member : ∀ l, (u.leaf l).member = (s.leaf l).member

theorem State.SameMembers.refl (s : State) : s.SameMembers s := ⟨rfl, rfl, rfl, fun _ => rfl⟩

theorem State.SameMembers.trans {s t u : State} (h : s.SameMembers t) (k : t.SameMembers u) : s.SameMembers u :=
  ⟨k.strands.trans h.strands, k.cur.trans h.cur, k.pkg.trans h.pkg, fun l => (k.member l).trans (h.member l)⟩

theorem State.SameMembers.foldl {α : Type} {f : State → α → State} (hf : ∀ (s : State) x, s.SameMembers (f s x)) (l : List α) (s : State) :
    s.SameMembers (l.foldl f s) := by
  induction l generalizing s with
  | nil => exact .refl s
  | cons x l ih => exact (hf s x).trans (ih _)

theorem State.SameMembers.ite {s t u : State} {p : Prop} [Decidable p] (ht : s.SameMembers t) (hu : s.SameMembers u) :
    s.SameMembers (if p then t else u) := by
  split
  · exact ht
  · exact hu

theorem State.Sent.sameMembers {s u : State} (h : s.Sent u) : s.SameMembers u := by
  obtain ⟨a, o, rfl⟩ := h
  exact ⟨rfl, rfl, rfl, fun _ => rfl⟩

theorem State.sameMembers_onLeaf (s : State) (leaf : Nat) {f : Leaf → Leaf} (hf : ∀ l, (f l).member = l.member) : s.SameMembers (s.onLeaf leaf f) := by
  refine ⟨rfl, rfl, rfl, fun l => ?_⟩
  by_cases hl : l = leaf
  · rw [hl, State.leaf_onLeaf, hf]
  · rw [State.leaf_onLeaf_other _ _ hl]

theorem State.sameMembers_hbmWrite (s : State) (leaf off n data mask : Nat) (key : BitVec 8) :
    s.SameMembers (s.hbmWrite leaf off n data mask key) := by
  unfold State.hbmWrite
  extract_lets lines clear cleared
  have hcleared : s.SameMembers cleared := .foldl (f := clear) (fun s _ => .ite (.refl s) ⟨rfl, rfl, rfl, fun _ => rfl⟩) lines s
  have hwritten : cleared.SameMembers { cleared with hbm := cleared.hbm.writeMasked (hbmAddr leaf off) n data mask } := ⟨rfl, rfl, rfl, fun _ => rfl⟩
  exact (hcleared.trans hwritten).trans (State.sent_wakeLines _ _).sameMembers

theorem State.sameMembers_depart (s : State) (dst : Nat) (route : Option Nat) (p : Packet) : s.SameMembers (s.depart dst route p).1 := by
  have hsealed : s.SameMembers (s.sealed p).1 := s.sameMembers_onLeaf p.srcLeaf (f := fun l => { l with sealCount := l.sealCount + 1 }) fun _ => rfl
  have hport (t : State) (x : PortPacket) : t.SameMembers (t.byPort x) := .ite (t.sent_emit _).sameMembers ⟨rfl, rfl, rfl, fun _ => rfl⟩
  simp only [State.depart]
  split
  · exact hsealed.trans (State.sent_post _ _).sameMembers
  · split
    · exact hsealed.trans (hport _ _)
    · exact ⟨rfl, rfl, rfl, fun _ => rfl⟩

theorem State.sameMembers_hbmPut (s : State) (leaf a n data : Nat) (key : BitVec 8) : s.SameMembers (s.hbmPut leaf a n data key) :=
  .ite (s.sameMembers_hbmWrite ..) (.foldl (fun s _ => s.sameMembers_depart ..) _ s)

theorem State.sameMembers_spill (s : State) (core n : Nat) (o : Owner) : s.SameMembers (s.spill core n o) := by
  unfold State.spill
  extract_lets k
  split
  · exact .refl s
  · next c _ =>
    have hmetered : s.SameMembers (s.onVf c.member.vf fun v => v.meter 7 16384) := ⟨rfl, rfl, rfl, fun _ => rfl⟩
    exact (hmetered.trans (State.sameMembers_hbmPut ..)).trans ⟨rfl, rfl, rfl, fun _ => rfl⟩

theorem State.sameMembers_setRegion (s : State) (core n : Nat) (r : Region) : s.SameMembers (s.setRegion core n r) := ⟨rfl, rfl, rfl, fun _ => rfl⟩

@[simp] theorem State.region_setRegion (s : State) (core n : Nat) (r : Region) : (s.setRegion core n r).region core n = r := by
  rw [State.region, State.setRegion, State.core_onCore, FMap.get_set_same]

/-- The owner rule takes a region from its owner, or leaves the state as it is; a region it finds SAVED alone is SAVED after it (R77). -/
theorem State.ownRegion_keeps (s : State) (core n : Nat) :
    s.SameMembers (s.ownRegion core n) ∧ (((s.ownRegion core n).region core n).state = .saved → (s.region core n).state = .saved) := by
  have htaken (r : Region) : (if r.state = .held then RegionState.fresh else r.state) = .saved → r.state = .saved := by
    split
    · nofun
    · exact id
  unfold State.ownRegion
  split
  · exact ⟨.refl s, id⟩
  · extract_lets r mine
    split
    · exact ⟨s.sameMembers_setRegion .., by rw [State.region_setRegion]; exact id⟩
    · split
      · exact ⟨.refl s, id⟩
      · split
        · have hzeroed : s.SameMembers (s.zeroRegion core n) := ⟨rfl, rfl, rfl, fun _ => rfl⟩
          exact ⟨hzeroed.trans (State.sameMembers_setRegion ..), by rw [State.region_setRegion]; exact htaken r⟩
        · exact ⟨(s.sameMembers_spill ..).trans (State.sameMembers_setRegion ..), by rw [State.region_setRegion]; exact htaken r⟩

/-- A live region of the member on the leaf stays as it is (R77). -/
theorem State.ownRegion_own {s : State} {core n : Nat} {m : Member} {w : Owner} (hm : (s.leaf (leafOfCore core)).member = some m)
    (howner : (s.region core n).owner = some w) (hsame : w.same m.owner = true) (hlive : w.dead = false) : s.ownRegion core n = s := by
  simp [State.ownRegion, hm, howner, hsame, hlive]

/-! Stores that enter the buffer of the strand cur (R224, R250). -/

/-- The strand cur has entered k stores in its buffer and is else as it was; every other strand is unchanged. -/
structure State.Stored (s u : State) (k : Nat) : Prop where
  cur : u.cur = s.cur
  me : ∃ n q, u.me = { s.me with memSeq := n, stores := s.me.stores ++ q } ∧ q.length = k
  others : s.SameOthers u

theorem State.SameMembers.stored {s u : State} (h : s.SameMembers u) : s.Stored u 0 := by
  have hstrand (w : Nat) : u.strand w = s.strand w := by rw [State.strand, State.strand, h.strands]
  refine ⟨h.cur, ⟨s.me.memSeq, [], ?_, rfl⟩, fun w _ => hstrand w⟩
  rw [State.me_def, h.cur, hstrand, List.append_nil]
  rfl

theorem State.Stored.trans {s t u : State} {j k : Nat} (h : s.Stored t j) (l : t.Stored u k) : s.Stored u (j + k) := by
  obtain ⟨hcur, ⟨n, q, hme, hq⟩, hothers⟩ := h
  obtain ⟨lcur, ⟨i, r, lme, hr⟩, lothers⟩ := l
  refine ⟨lcur.trans hcur, ⟨i, q ++ r, ?_, by rw [List.length_append, hq, hr]⟩, fun w hw => ?_⟩
  · rw [lme, hme, List.append_assoc]
  · rw [lothers w (by rwa [hcur]), hothers w hw]

theorem State.Stored.length_stores {s u : State} {k : Nat} (h : s.Stored u k) : u.me.stores.length = s.me.stores.length + k := by
  obtain ⟨n, q, hme, hq⟩ := h.me
  rw [hme, ← hq]
  exact List.length_append

/-- Steps that enter one store each, taken in turn. -/
theorem State.Stored.foldl {α : Type} {f : State → α → State} (hf : ∀ (s : State) x, s.Stored (f s x) 1) (l : List α) (s : State) :
    s.Stored (l.foldl f s) l.length := by
  induction l generalizing s with
  | nil => exact (State.SameMembers.refl s).stored
  | cons x l ih =>
    rw [List.length_cons, Nat.add_comm]
    exact (hf s x).trans (ih _)

theorem State.stored_enterStore (s : State) (kind : StoreKind) (lines : List (Nat × Phys)) (va len data mask : Nat) :
    s.Stored (s.enterStore s.cur kind lines va len data mask) 1 :=
  ⟨rfl, ⟨_, [_], State.me_setStrand s _, rfl⟩, fun _ hw => State.strand_setStrand_other s _ hw⟩

/-- A write-back enters one store for each dirty backed line (R224). -/
theorem State.stored_writeBack (s : State) (n slot : Nat) :
    s.Stored (s.writeBack n slot) (s.region (coreOf s.cur) n).dirtyBacked.length := by
  unfold State.writeBack
  extract_lets core r entered
  have hentered : s.Stored entered r.dirtyBacked.length := .foldl (fun s i => s.stored_enterStore ..) _ s
  have hcleaned : entered.SameMembers ((entered.setRegion core n { entered.region core n with dirty := 0 }).forget (leafOfCore core) (.region core n)) :=
    (entered.sameMembers_setRegion ..).trans (State.sameMembers_onLeaf _ _ fun _ => rfl)
  exact hentered.trans hcleaned.stored

/-- A region that has been written back is clean (R224). -/
theorem State.dirty_writeBack (s : State) (n slot : Nat) : ((s.writeBack n slot).region (coreOf s.cur) n).dirty = 0 := by
  unfold State.writeBack
  extract_lets core r entered
  have hregion : ((entered.setRegion core n { entered.region core n with dirty := 0 }).forget (leafOfCore core) (.region core n)).region core n =
      { entered.region core n with dirty := 0 } := State.region_setRegion ..
  rw [hregion]

/-! A new entry in place of a region's (R266). -/

theorem State.stored_remap (s : State) (n : Nat) (vbase rattr : W64) (slot : Nat) : ∃ k, s.Stored (s.remap n vbase rattr slot) k :=
  ⟨_, ((s.ownRegion_keeps _ n).1.stored.trans (State.stored_writeBack _ n slot)).trans (State.sameMembers_setRegion ..).stored⟩

theorem State.region_remap (s : State) (n : Nat) (vbase rattr : W64) (slot : Nat) : let r := (s.remap n vbase rattr slot).region (coreOf s.cur) n
    r.vbase = vbase ∧ r.rattr = rattr ∧ r.state = .fresh ∧ r.dirty = 0 := by
  simp only [State.remap, State.region_setRegion, and_self]

/-! The plans of the region instructions (R226). -/

/-- Commands and waiting accesses that reach a region do not hang on how strands are listed. -/
theorem State.regionBusy_relisted (s : State) (core n : Nat) : (s.setStrand s.cur s.me).regionBusy core n = s.regionBusy core n := by
  simp only [State.regionBusy, State.regionHeld, State.strand_relisted]
  rfl

/-- The strand's core has the region, no command or waiting access reaches it, and no fill of it is in progress (R226). -/
structure State.RegionFree (s : State) (n : Nat) : Prop where
  inside : n < 64
  idle : s.regionBusy (coreOf s.cur) n = false
  unfilled : (s.region (coreOf s.cur) n).filling = none

theorem State.RegionFree.plan_eq {s : State} {a : W64} (h : s.RegionFree a.toNat) (p : Plan) : regionPlan (s.setStrand s.cur s.me) a p = p := by
  have hunfilled : ((s.setStrand s.cur s.me).region (coreOf s.cur) a.toNat).filling = none := h.unfilled
  simp only [regionPlan, State.setStrand_cur, State.regionBusy_relisted, h.idle, hunfilled, Option.isSome_none, Bool.or_self, Bool.false_eq_true, if_false]
  exact Plan.need_true (decide_eq_true h.inside) ..

/-- The save area slot that a region needs lies in this package (R73, R77). -/
def State.SlotHere (s : State) (core n : Nat) : Prop :=
  (s.region core n).state = .saved → ∀ m, s.memberOf (4 * core) = some m → (hbmParts (saveSlot m.saveBase core n)).2.2 = s.pkg

/-- The bytes of a slot in this package are there at once. -/
theorem State.slotBytes_here {s : State} {core n : Nat} (h : s.SlotHere core n) : ∃ x, (s.slotBytes core n).2 = some x := by
  unfold State.slotBytes
  extract_lets r
  split
  · next m hm =>
    split
    · next hsaved =>
      simp only [State.slotRead, h hsaved.1 m hm, if_true]
      exact ⟨_, rfl⟩
    · exact ⟨0, rfl⟩
  · exact ⟨0, rfl⟩

theorem State.SlotHere.ownRegion {s : State} {core n : Nat} (h : s.SlotHere core n) : (s.ownRegion core n).SlotHere core n := by
  obtain ⟨hsame, hsaved⟩ := s.ownRegion_keeps core n
  intro hstate m hm
  rw [hsame.pkg]
  exact h (hsaved hstate) m ((hsame.member _).symm.trans hm)

theorem slotPlan_here {s : State} {n : Nat} (h : s.SlotHere (coreOf s.cur) n) (f : Nat → State → State) : ∃ x, slotPlan s n f = .go (f x) := by
  obtain ⟨x, hx⟩ := State.slotBytes_here h.ownRegion
  unfold slotPlan
  split
  · next y hy =>
    exact ⟨y, rfl⟩
  · next hnone =>
    rw [hnone] at hx
    cases hx

/-- The strand cur goes on, with a new entry in place of a region's, fresh and clean (R266). -/
def State.Remapped (s : State) (x : Host.Outcome State Fault Refusal) (n : Nat) (vbase rattr : W64) : Prop :=
  ∃ u, x = .next u ∧ (u.region (coreOf s.cur) n).vbase = vbase ∧ (u.region (coreOf s.cur) n).rattr = rattr ∧
    (u.region (coreOf s.cur) n).state = .fresh ∧ (u.region (coreOf s.cur) n).dirty = 0 ∧ u.me.pc = s.here.addr + s.here.len ∧ s.SameOthers u

section
variable {s : State} {i : Instr} {p : State → Plan} (hclear : s.Clear i) (hexec : exec i s = alone i p s)
  (hlegal : (loneWork i p s).legal s.here = true) (hbranch : isBranch i = false)
include hclear hexec hlegal hbranch

/-- A plan that enters k stores in the buffer of the strand cur: the strand moves on with them. -/
theorem exec_of_plan_stored {g : State → State} {k : Nat} (hplan : p (s.setStrand s.cur s.me) = .go g)
    (hstored : (s.setStrand s.cur s.me).Stored (g (s.setStrand s.cur s.me)) k) :
    ∃ u, exec i s = .next u ∧ (∀ c n, u.region c n = (g (s.setStrand s.cur s.me)).region c n) ∧ u.me.pc = s.here.addr + s.here.len ∧ s.SameOthers u ∧
      u.me.stores = (g (s.setStrand s.cur s.me)).me.stores := by
  obtain ⟨hcur, ⟨n, q, hme, -⟩, hothers⟩ := hstored
  rw [State.me_relisted] at hme
  have hproceeds : (g (s.setStrand s.cur s.me)).me.Proceeds s.here := by
    rw [hme]
    obtain ⟨hretiring, hnext, htrap, hends⟩ := hclear.proceeds
    exact ⟨hretiring, hnext, htrap, hends⟩
  refine ⟨_, exec_of_plan_go hclear hexec hlegal hbranch hplan hcur hproceeds, fun _ _ => rfl, ?_, fun w hw => ?_, ?_⟩
  · rw [State.me_onMe]
    rfl
  · rw [State.onMe_eq, State.strand_setStrand_other _ _ (by rwa [hcur]), hothers w hw, State.strand_relisted]
  · rw [State.me_onMe]
    rfl

/-- A syllable that puts a new entry in place of a region's (R266). -/
theorem exec_remap {n slot : Nat} {vbase rattr : W64} (hplan : p (s.setStrand s.cur s.me) = .go fun s => s.remap n vbase rattr slot) :
    s.Remapped (exec i s) n vbase rattr := by
  obtain ⟨k, hstored⟩ := (s.setStrand s.cur s.me).stored_remap n vbase rattr slot
  obtain ⟨u, hu, hregion, hpc, hothers, -⟩ := exec_of_plan_stored hclear hexec hlegal hbranch hplan hstored
  obtain ⟨hvbase, hrattr, hstate, hdirty⟩ := (s.setStrand s.cur s.me).region_remap n vbase rattr slot
  refine ⟨u, hu, ?_⟩
  rw [hregion]
  exact ⟨hvbase, hrattr, hstate, hdirty, hpc, hothers⟩

end

/-! RFLUSH (R266). -/

/-- A region as RFLUSH leaves it: the strand's member has touched it, and it is written back where it is held. -/
def State.flushed (s : State) (n : Nat) : State :=
  let u := s.ownRegion (coreOf s.cur) n
  if (u.region (coreOf u.cur) n).state = .held then u.writeBack n 0 else u

theorem State.stored_flushed (s : State) (n : Nat) : ∃ k, s.Stored (s.flushed n) k := by
  have howned := (s.ownRegion_keeps (coreOf s.cur) n).1.stored
  unfold State.flushed
  extract_lets u
  split
  · exact ⟨_, howned.trans (u.stored_writeBack n 0)⟩
  · exact ⟨0, howned⟩

/-- A held region of the member on the leaf is written back where it stands. -/
theorem State.flushed_held {s : State} {n : Nat} {m : Member} {w : Owner} (hm : (s.leaf (leafOf s.cur)).member = some m)
    (howner : (s.region (coreOf s.cur) n).owner = some w) (hsame : w.same m.owner = true) (hlive : w.dead = false)
    (hheld : (s.region (coreOf s.cur) n).state = .held) : s.flushed n = s.writeBack n 0 := by
  have hleaf : leafOfCore (coreOf s.cur) = leafOf s.cur := by unfold leafOfCore coreOf leafOf; omega
  rw [State.flushed, State.ownRegion_own (hleaf ▸ hm) howner hsame hlive, if_pos hheld]

/-! The region instructions at a region that nothing reaches (R226, R266). -/

theorem exec_rmap {s : State} {o : Rmap} (hclear : s.Clear (.rmap o)) (hfree : s.RegionFree (s.me.rdS o.a).toNat)
    (hslot : s.SlotHere (coreOf s.cur) (s.me.rdS o.a).toNat) (hattr : rattrOk (s.me.rdS o.b) (s.me.rdS o.c) = true) :
    s.Remapped (exec (.rmap o) s) (s.me.rdS o.a).toNat (s.me.rdS o.b) (s.me.rdS o.c) := by
  obtain ⟨slot, hgo⟩ := slotPlan_here (s := s.setStrand s.cur s.me) hslot fun slot u => u.remap (s.me.rdS o.a).toNat (s.me.rdS o.b) (s.me.rdS o.c) slot
  refine exec_remap hclear rfl (hclear.legal _) rfl (p := planRmap o) (slot := slot) ?_
  simp only [planRmap, State.me_relisted, Plan.need_true hattr, hfree.plan_eq]
  exact hgo

theorem exec_runmap {s : State} {o : Ra} (hclear : s.Clear (.runmap o)) (hfree : s.RegionFree (s.me.rdS o.a).toNat)
    (hslot : s.SlotHere (coreOf s.cur) (s.me.rdS o.a).toNat) : s.Remapped (exec (.runmap o) s) (s.me.rdS o.a).toNat 0 0x100 := by
  obtain ⟨slot, hgo⟩ := slotPlan_here (s := s.setStrand s.cur s.me) hslot fun slot u => u.remap (s.me.rdS o.a).toNat 0 0x100 slot
  refine exec_remap hclear rfl (hclear.legal _) rfl (p := planRunmap o) (slot := slot) ?_
  simp only [planRunmap, State.me_relisted, hfree.plan_eq]
  exact hgo

theorem exec_rflush {s : State} {o : Ra} (hclear : s.Clear (.rflush o)) (hfree : s.RegionFree (s.me.rdS o.a).toNat) :
    let v := (s.setStrand s.cur s.me).flushed (s.me.rdS o.a).toNat
    ∃ u, exec (.rflush o) s = .next u ∧ (∀ c n, u.region c n = v.region c n) ∧ u.me.pc = s.here.addr + s.here.len ∧ s.SameOthers u ∧
      u.me.stores = v.me.stores := by
  obtain ⟨k, hstored⟩ := (s.setStrand s.cur s.me).stored_flushed (s.me.rdS o.a).toNat
  refine exec_of_plan_stored hclear rfl (hclear.legal _) rfl (p := planRflush o) (g := fun u => u.flushed _) ?_ hstored
  simp only [planRflush, State.me_relisted, hfree.plan_eq]
  rfl

/-- Settles O24: a new entry follows the owner rule and the write-back of the old (State.stored_remap), whose slot is here
(slotPlan_here); a flush of the member's held region is its write-back (State.flushed_held). That a SAVED region is written back from its
slot is the model's choice (log 31). -/
theorem regionInstructions : Obligations.RegionInstructions := by
  intro s n c hinside hidle hunfilled hsaved
  have hleaf : leafOf (4 * c) = leafOf s.cur := by unfold c leafOf coreOf; omega
  have hslot : s.SlotHere c n := fun hstate m hm => hsaved hstate m (by rwa [State.memberOf, hleaf] at hm)
  have hfree : s.RegionFree n := ⟨hinside, hidle, hunfilled⟩
  refine ⟨fun o hclear ha hattr => ?_, fun o ha => ⟨fun hclear => ?_, fun hclear => ?_⟩⟩ <;> subst ha
  · exact exec_rmap hclear hfree hslot hattr
  · exact exec_runmap hclear hfree hslot
  · obtain ⟨u, hu, hregion, hpc, hothers, hstores⟩ := exec_rflush hclear hfree
    refine ⟨u, hu, hpc, hothers, fun m w hm howner hsame hlive hheld => ?_⟩
    have hflushed := State.flushed_held (s := s.setStrand s.cur s.me) hm howner hsame hlive hheld
    have hwritten := State.stored_writeBack (s.setStrand s.cur s.me) (s.me.rdS o.a).toNat 0
    rw [hregion, hstores, hflushed, hwritten.length_stores, State.me_relisted]
    exact ⟨State.dirty_writeBack .., rfl⟩

end Machine

end Sys2Proof
end

section
/-! PROOFS. Syllables whose plan traps; global accesses at an address that their form does not divide (O22). -/

namespace Sys2Proof

namespace Machine

/-- Is an instruction a syllable that is no branch and no loop: of the branch map it is one of opcode 32 or more. -/
noncomputable def isPlain (i : Instr) : Bool := i.isSyllable && (!isBranch i && !(i.code.any fun c => c.1 == .branch && c.2.1 < 32))

/-- The state on which the plan of a syllable of the strand cur is made. -/
noncomputable def State.judged (s : State) : State := s.setStrand s.cur s.me

theorem State.me_judged (s : State) : s.judged.me = s.me := s.me_relisted

theorem parts_of_isPlain {i : Instr} (h : isPlain i = true) :
    i.isSyllable = true ∧ isBranch i = false ∧ (i.code.any fun c => c.1 == .branch && c.2.1 < 32) = false := by
  obtain ⟨hsyllable, hrest⟩ := Bool.and_eq_true_iff.mp h
  obtain ⟨hbranch, hmap⟩ := Bool.and_eq_true_iff.mp hrest
  exact ⟨hsyllable, (Bool.not_eq_true' _).mp hbranch, (Bool.not_eq_true' _).mp hmap⟩

theorem ofNat_toNat_self (x : W64) : BitVec.ofNat 64 x.toNat = x := by rw [BitVec.ofNat_toNat, BitVec.setWidth_eq]

section
variable {s : State} {i : Instr} (hplain : isPlain i = true)
include hplain

theorem exec_isPlain (s : State) : exec i s = alone i (planOf i) s := exec_syllable (parts_of_isPlain hplain).1 s

theorem legal_of_isPlain (hclear : s.Clear i) (p : State → Plan) : (loneWork i p s).legal s.here = true :=
  hclear.legal p (fun _ h => Bool.false_ne_true (h ▸ (parts_of_isPlain hplain).2.2).symm)
    (fun _ h => Bool.false_ne_true (h ▸ (parts_of_isPlain hplain).2.2).symm)

/-- A syllable whose plan traps. -/
theorem exec_plain_trap {cause : BitVec 8} {addr : Option W64} (hplan : planOf i s.judged = .trap cause addr) (hcause : cause ≠ ENGFAULT)
    (hclear : s.Clear i) : exec i s = .next ((s.trapped cause addr).settle s.cur) :=
  exec_of_plan_trap hclear (exec_isPlain hplain s) (legal_of_isPlain hplain hclear _) hcause hplan

/-- A plan that checks the address of an access, at one that its form does not divide. -/
theorem exec_misaligned {a b : W64} {align : Nat} {q : Plan} (hodd : a.toNat % align ≠ 0)
    (hplan : planOf i s.judged = .needAt (a.toNat % align == 0) ALIGN b q) (ha : b = a) (hclear : s.Clear i) :
    exec i s = .next ((s.trapped ALIGN (some a)).settle s.cur) :=
  exec_plain_trap hplain (ha ▸ hplan.trans (if_neg fun h => hodd (eq_of_beq h))) (by decide) hclear

end

/-- The atomics of two operands, each with its operation (R256). -/
noncomputable def atomics (o : At) : List (Instr × BitVec 3) :=
  [(.aadd o, 0), (.amin o, 1), (.amax o, 2), (.aand o, 3), (.aor o, 4), (.axor o, 5), (.aswap o, 6)]

theorem plan_atomics (o : At) : ∀ p ∈ atomics o, isPlain p.1 = true ∧ planOf p.1 = fun s => atomicForm p.2 s o.d o.a o.b 0 o.scope o.wide := by
  repeat' refine List.forall_mem_cons.mpr ⟨⟨rfl, rfl⟩, ?_⟩
  exact List.forall_mem_nil _

/-- Settles O22: each form's plan checks its tag, then the address its form divides, and the trap is taken at the bundle
(exec_misaligned). -/
theorem alignmentTraps : Obligations.AlignmentTraps := by
  intro s
  rw [← s.me_judged]
  intro t va traps
  refine ⟨?_, ?_⟩
  · intro o a b
    refine ⟨fun hodd htag => ?_, fun hodd htag => ?_, fun hodd => ?_⟩
    · refine List.forall_mem_cons.mpr ⟨?_, List.forall_mem_singleton.mpr ?_⟩ <;>
      exact exec_misaligned rfl hodd (Plan.need_true htag ..) (ofNat_toNat_self _)
    · exact exec_misaligned rfl hodd (Plan.need_true htag ..) (ofNat_toNat_self _)
    · refine List.forall_mem_cons.mpr ⟨?_, List.forall_mem_singleton.mpr ?_⟩ <;>
      exact exec_misaligned rfl hodd rfl (ofNat_toNat_self _)
  · intro o a hodd i hi
    have hmap : i ∈ (atomics o).map Prod.fst := hi
    obtain ⟨p, hp, rfl⟩ := List.mem_map.mp hmap
    obtain ⟨hplain, hplan⟩ := plan_atomics o p hp
    exact exec_plain_trap hplain ((congrFun hplan _).trans (if_neg fun h => hodd (eq_of_beq h))) (by decide)

end Machine

end Sys2Proof
end

section
/-! PROOFS. What requests to other members, clean and drop of L1 and line fills leave unchanged, and what a syllable leaves that
issue goes on from. -/

namespace Sys2Proof

namespace Machine

/- What is kept (R285, R361). -/

/-- The strands and the strand cur. -/
noncomputable def State.running (s : State) := (s.strands, s.cur)

/-- The memories and the cores. -/
noncomputable def State.memory (s : State) := (s.host, s.cores, s.hbm, s.pool, s.flash)

/-- The strands, the strand cur, the cores and the memories. -/
noncomputable def State.kept (s : State) := (s.strands, s.cur, s.memory)

section
variable {α β : Type} (g : State → β)

theorem foldl_keeps {f : State → α → State} (hf : ∀ s x, g (f s x) = g s) (l : List α) (s : State) : g (l.foldl f s) = g s := by
  induction l generalizing s with
  | nil => rfl
  | cons x l ih => exact (ih _).trans (hf s x)

theorem ite_keeps {p : Prop} [Decidable p] {t u : α} {g : α → β} {x : β} (ht : g t = x) (hu : g u = x) : g (if p then t else u) = x := by
  split
  · exact ht
  · exact hu

end

section
variable {s u : State} (h : u.running = s.running)
include h

theorem strand_of_running (w : Nat) : u.strand w = s.strand w := congrArg (fun x => x.1.get w .reset) h

theorem cur_of_running : u.cur = s.cur := congrArg (·.2) h

theorem me_of_running : u.me = s.me := congrArg (fun x => x.1.get x.2 .reset) h

end

theorem running_of_kept {s u : State} (h : u.kept = s.kept) : u.running = s.running := congrArg (fun x => (x.1, x.2.1)) h

theorem memory_of_kept {s u : State} (h : u.kept = s.kept) : u.memory = s.memory := congrArg (·.2.2) h

theorem sameBytes_of_memory {s u : State} (h : u.memory = s.memory) : s.SameBytes u :=
  ⟨fun a => ⟨congrArg (·.2.2.1.read a) h, congrArg (·.1.read a) h, congrArg (·.2.2.2.1.read a) h, congrArg (·.2.2.2.2.read a) h⟩,
    fun c _ => (congrArg (fun x => x.2.1.get c .reset) h : u.core c = s.core c) ▸ ⟨rfl, rfl, rfl, rfl, rfl, rfl, rfl, rfl⟩⟩

theorem kept_meter (s : State) (leaf n k : Nat) : (s.meter leaf n k).kept = s.kept := by
  unfold State.meter
  cases (s.leaf leaf).member <;> rfl

theorem kept_byPort (s : State) (x : PortPacket) : (s.byPort x).kept = s.kept := ite_keeps (g := State.kept) rfl rfl

theorem kept_depart (s : State) (dst : Nat) (route : Option Nat) (p : Packet) : (s.depart dst route p).1.kept = s.kept :=
  ite_keeps (g := fun x : State × Bool => x.1.kept) rfl (ite_keeps (g := fun x : State × Bool => x.1.kept) (kept_byPort ..) rfl)

/-- What follows a departure: it is counted if the packet went, and the resend timer is set. -/
theorem kept_departed (v : State × Bool) (leaf : Nat) (p : Packet) (e : Ev) :
    ((if v.2 then v.1.countSent leaf p else v.1).post e).kept = v.1.kept := ite_keeps (g := State.kept) (kept_meter ..) rfl

/-- A request to another member (R361). -/
theorem kept_ask (s : State) (leaf dst flits : Nat) (party : Party) (vline : Nat) (body : Nat → PacketBody) :
    (s.ask leaf dst flits party vline body).kept = s.kept := by
  unfold State.ask
  cases (s.leaf leaf).member with
  | none => rfl
  | some m =>
    refine (kept_departed ..).trans ?_
    exact kept_depart ..

/-- A write to watched lines (R399, R401). -/
theorem kept_wakeLines (s : State) (keys : List Nat) : (s.wakeLines keys).kept = s.kept := by
  refine foldl_keeps State.kept (fun s _ => foldl_keeps State.kept (fun s _ => ?_) _ s) _ s
  exact ite_keeps (g := State.kept) rfl rfl

/- Clean and drop of L1 (R285). -/

theorem running_clean (s : State) (core : Nat) : (s.clean core).running = s.running :=
  Prod.ext (s.sameRunning_clean core).strands (s.sameRunning_clean core).cur

theorem running_cleanFor (s : State) (x : Scope) : (s.cleanFor x).running = s.running := ite_keeps (g := State.running) (running_clean ..) rfl

theorem running_dropAll (s : State) (core : Nat) : (s.dropAll core).running = s.running :=
  (foldl_keeps State.running (f := State.emptyL1) (fun _ _ => rfl) _ _).trans (running_clean s core)

/- What becomes of the strand cur. -/

/-- The strand cur has become t, and every other strand is unchanged. -/
noncomputable def State.Becomes (s u : State) (t : Strand) : Prop := u.cur = s.cur ∧ u.me = t ∧ s.SameOthers u

section
variable {s u : State} {t : Strand}

theorem becomes_judged (s : State) : s.Becomes s.judged s.me := ⟨rfl, s.me_judged, s.sameOthers_setStrand s.me⟩

theorem State.Becomes.me (h : s.Becomes u t) : u.me = t := h.2.1

theorem State.Becomes.others (h : s.Becomes u t) : s.SameOthers u := h.2.2

theorem State.Becomes.onMe (h : s.Becomes u t) (f : Strand → Strand) : s.Becomes (u.onMe f) (f t) :=
  ⟨h.1, (State.me_onMe ..).trans (congrArg f h.2.1), fun w hw => (State.strand_setStrand_other _ _ fun e => hw (e.trans h.1)).trans (h.2.2 w hw)⟩

theorem State.Becomes.keeps (h : s.Becomes u t) {v : State} (k : v.running = u.running) : s.Becomes v t :=
  ⟨(cur_of_running k).trans h.1, (me_of_running k).trans h.2.1, fun w hw => (strand_of_running k w).trans (h.2.2 w hw)⟩

/-- A strand with other accesses in flight, buffered, waiting and reported. -/
noncomputable def Strand.withAccesses (t : Strand) (loads : List LoadEntry) (stores : List StoreEntry) (waits : List HeldAccess)
    (reports : List Report) (memSeq : Nat) : Strand :=
  { t with loads := loads, stores := stores, waits := waits, reports := reports, memSeq := memSeq }

theorem Strand.Proceeds.withAccesses {t : Strand} {f : Fetched} (h : t.Proceeds f) {loads : List LoadEntry} {stores : List StoreEntry}
    {waits : List HeldAccess} {reports : List Report} {memSeq : Nat} : (t.withAccesses loads stores waits reports memSeq).Proceeds f :=
  ⟨h.retiring, h.next, h.trapReq, h.ends⟩

/-- A state from which the strand cur moves on to the bundle after f. -/
noncomputable def State.movedOn (u : State) (f : Fetched) : State := u.onMe fun t => t.moved f

theorem State.Becomes.movedOn (h : s.Becomes u t) (f : Fetched) : s.Becomes (u.movedOn f) (t.moved f) := h.onMe _

/-- A plan that leaves the strand cur to go on as t: it moves on from its bundle (R83). -/
theorem exec_plain_go {i : Instr} {g : State → State} (hplain : isPlain i = true) (hclear : s.Clear i) (hplan : planOf i s.judged = .go g)
    (hg : g s.judged = u) (hbecomes : s.Becomes u t) (hproceeds : s.me.Proceeds s.here → t.Proceeds s.here) : exec i s = .next (u.movedOn s.here) := by
  subst hg
  exact exec_of_plan_go hclear (exec_isPlain hplain s) (legal_of_isPlain hplain hclear _) (parts_of_isPlain hplain).2.1 hplan hbecomes.1
    (hbecomes.me ▸ hproceeds hclear.proceeds)

end

end Machine

end Sys2Proof
end

section
/-! PROOFS. Global loads, acquires and atomics put an access in flight (O20). -/

namespace Sys2Proof

namespace Machine

/- An access whose lines are translated (R249). -/

/-- The lines of a translated access lie at their places, and the access goes on. -/
theorem State.Translated.xlated_eq {s : State} {need : Need} {lines : List Nat} {ps : List (Nat × Phys)} (h : s.Translated need lines ps)
    (first : Nat) (k : List (Nat × Phys) → Plan) : xlated s.judged need first lines k = k ps := by
  have hgates : ps.find? (fun p => s.judged.gate (leafOf s.judged.cur) p.2 != .ok) = none :=
    List.find?_eq_none.mpr fun p hp k => bne_iff_ne.mp k (h.reached p hp)
  have hfrozen : (need.wr && lines.any (s.judged.isFrozen (leafOf s.judged.cur))) = false := by
    cases hwr : need.wr with
    | false => rfl
    | true => exact List.any_eq_false.mpr fun l hl => Bool.eq_false_iff.mp (h.thawed hwr l hl)
  have hlines : s.judged.placeLines (leafOf s.judged.cur) need lines = .inl ps := by
    rw [← h.placed]
    delta State.placeLines
    rfl
  unfold xlated
  rw [(congrArg Strand.walk s.me_judged).trans h.walk]
  dsimp only
  rw [hlines]
  dsimp only
  rw [hgates, hfrozen]
  rfl

/-- An access waits for none of its strand's stores: the strand has none to its bytes, or no line lies in another member's memory
(R253). -/
noncomputable def Strand.NoneBefore (t : Strand) (va len : Nat) (ps : List (Nat × Phys)) : Prop :=
  t.storesTo va len = false ∨ ∀ p ∈ ps, ∀ m off, p.2 ≠ .remote m off

theorem Strand.NoneBefore.not_late {t : Strand} {va len : Nat} {ps : List (Nat × Phys)} (h : t.NoneBefore va len ps) :
    (t.storesTo va len && ps.any fun p => match p.2 with
      | .remote _ _ => true
      | _ => false) = false := by
  rcases h with h | h
  · exact congrArg (· && _) h
  · refine (congrArg _ (List.any_eq_false.mpr fun ⟨l, x⟩ hp => ?_)).trans (Bool.and_false _)
    cases x with
    | remote m off => exact absurd rfl (h _ hp m off)
    | _ => exact Bool.false_ne_true

/- The access in flight (R241). -/

/-- A strand with one more access in flight. -/
noncomputable def Strand.loading (t : Strand) (e : LoadEntry) : Strand :=
  t.withAccesses (t.loads ++ [e]) t.stores t.waits t.reports (t.memSeq + 1)

section
variable (kind : AccessKind) (dest : LoadDest) (va len : Nat) (ps : List (Nat × Phys)) (scope : Scope) (drops : Bool)

/-- The entry of an access of a strand. -/
noncomputable def Strand.accessEntry (t : Strand) : LoadEntry :=
  { id := t.memSeq, kind := kind, dest := dest, va := va, len := len, lines := ps, scope := scope, drops := drops }

variable {kind dest va len ps scope drops} {s : State} {i : Instr} {pre : State → State} {flits : Nat} {body : Nat → Nat → PacketBody}

/-- A state once an access of the strand cur has entered its list and the other members have been asked for their lines. -/
noncomputable def State.asked (s : State) (flits : Nat) (body : Nat → Nat → PacketBody) (e : LoadEntry) : State :=
  e.lines.foldl (fun s p => match p.2 with
    | .remote m off => s.ask (leafOf s.cur) m flits (.load s.cur e.id) p.1 (body off)
    | _ => s) (s.onMe fun t => t.loading e)

/-- The requests change no strand and no memory. -/
theorem kept_asked (s : State) (flits : Nat) (body : Nat → Nat → PacketBody) (e : LoadEntry) :
    (s.asked flits body e).kept = (s.onMe fun t => t.loading e).kept := by
  refine foldl_keeps State.kept (fun s ⟨l, x⟩ => ?_) e.lines _
  cases x with
  | remote m off => exact kept_ask ..
  | _ => rfl

theorem State.issueLoad_eq (s : State) : s.issueLoad kind dest va len ps scope drops flits body =
    (s.asked flits body (s.me.accessEntry kind dest va len ps scope drops)).post
      (.loadDataReturn (s.asked flits body (s.me.accessEntry kind dest va len ps scope drops)).cur s.me.memSeq .data) := rfl

variable (hplain : isPlain i = true)
include hplain

/-- A plan that puts an access in flight, once something has been done that touches no strand and no memory. -/
theorem exec_issueLoad (hpre : (pre s.judged).kept = s.judged.kept) (hclear : s.Clear i)
    (hplan : planOf i s.judged = .go fun s => (pre s).issueLoad kind dest va len ps scope drops flits body) :
    ∃ u, exec i s = .next u ∧ s.Issued u (s.judged.me.accessEntry kind dest va len ps scope drops) := by
  have hstart := (becomes_judged s).keeps (running_of_kept hpre)
  have hkept := kept_asked (pre s.judged) flits body ((pre s.judged).me.accessEntry kind dest va len ps scope drops)
  have hasked := (hstart.onMe _).keeps (running_of_kept hkept)
  rw [← me_of_running (running_of_kept hpre)]
  exact ⟨_, exec_plain_go hplain hclear hplan (State.issueLoad_eq _) hasked (·.withAccesses), (hasked.movedOn s.here).me,
    List.mem_append_right _ (List.mem_singleton.mpr (congrArg (Ev.loadDataReturn · _ .data) hasked.1.symm)),
    sameBytes_of_memory ((memory_of_kept hkept).trans (memory_of_kept hpre :)), (hasked.movedOn s.here).others⟩

/- The forms (R249, R251, R253, R256). -/

/-- An access of a plan whose checks hold. -/
theorem exec_globalLoad {align mask : Nat} (hpre : (pre s.judged).kept = s.judged.kept)
    (hplan : planOf i s.judged = globalLoad s.judged kind dest va align len mask scope drops pre) (hclear : s.Clear i) (haligned : va % align = 0)
    (htranslated : s.Translated needRd (linesOf va len mask) ps) (hfirst : kind = .load ∨ s.judged.me.NoneBefore va len ps) :
    ∃ u, exec i s = .next u ∧ s.Issued u (s.judged.me.accessEntry kind dest va len ps scope drops) := by
  refine exec_issueLoad hplain hpre hclear (((hplan.trans (if_pos (beq_iff_eq.mpr haligned))).trans (htranslated.xlated_eq va _)).trans
    (if_neg (Bool.eq_false_iff.mp ?_)))
  rcases hfirst with rfl | hfirst
  · rfl
  · rw [Bool.and_assoc]
    exact (congrArg _ hfirst.not_late).trans (Bool.and_false _)

/-- An operand of an atomic, of which a 4-byte form takes the low word. -/
noncomputable def atomicOperand (wide : Bool) (x : W64) : W64 := if wide then x else x &&& 0xFFFFFFFF

/-- The entry of an atomic of a strand. -/
noncomputable def Strand.atomicEntry (t : Strand) (op : BitVec 3) (d a b c : BitVec 6) (x : Scope) (wide : Bool) (ps : List (Nat × Phys)) : LoadEntry :=
  t.accessEntry (.atomic op wide (atomicOperand wide (t.rdS b)) (atomicOperand wide (t.rdS c))) (.scalar d.toNat (if wide then .raw else .int32))
    (t.rdS a).toNat (if wide then 8 else 4) ps x false

theorem exec_atomic {op : BitVec 3} {d a b c : BitVec 6} {wide : Bool}
    (hplan : planOf i s.judged = atomicForm op s.judged d a b c scope wide) (hclear : s.Clear i)
    (haligned : (s.judged.me.rdS a).toNat % (if wide then 8 else 4) = 0)
    (htranslated : s.Translated needRw (linesOf (s.judged.me.rdS a).toNat (if wide then 8 else 4) (2 ^ (8 * if wide then 8 else 4) - 1)) ps)
    (hfirst : s.judged.me.NoneBefore (s.judged.me.rdS a).toNat (if wide then 8 else 4) ps) :
    ∃ u, exec i s = .next u ∧ s.Issued u (s.judged.me.atomicEntry op d a b c scope wide ps) := by
  refine exec_issueLoad (pre := id) hplain rfl hclear (((hplan.trans (if_pos (beq_iff_eq.mpr haligned))).trans (htranslated.xlated_eq _ _)).trans
    (if_neg (Bool.eq_false_iff.mp ?_)))
  exact hfirst.not_late

end

theorem kept_acquireFirst (x : Scope) (s : State) : (acquireFirst x s).kept = s.kept := ite_keeps (g := State.kept) rfl rfl

/-- Settles O20: a translated access is put in flight (exec_globalLoad, exec_atomic), and its requests to other members change no strand
and no memory (kept_asked). -/
theorem globalLoadsAndAtomics : Obligations.GlobalLoadsAndAtomics := by
  refine ⟨fun s ps => ?_, fun s ps => ?_⟩ <;> rw [← s.me_judged]
  · intro t near vec sc va
    refine ⟨fun o => ⟨?_, ?_, exec_globalLoad (pre := id) rfl rfl rfl⟩, fun o => exec_globalLoad rfl (kept_acquireFirst o.scope _) rfl, fun o => ?_⟩
    · exact fun hclear haligned htag => exec_globalLoad (pre := id) rfl rfl (Plan.need_true htag ..) hclear haligned
    · exact fun hclear haligned htag => exec_globalLoad (pre := id) rfl rfl (Plan.need_true htag ..) hclear haligned
    · exact fun hclear haligned htag => exec_globalLoad rfl (kept_acquireFirst o.scope _) (Plan.need_true htag ..) hclear haligned
  · intro t form
    refine ⟨fun o p hp => ?_, fun o => exec_atomic rfl rfl⟩
    obtain ⟨hplain, hplan⟩ := plan_atomics o p hp
    exact exec_atomic hplain (congrFun hplan _)

end Machine

end Sys2Proof
end

section
/-! PROOFS. Global stores, releases and SIGNAL enter the store buffer (O21). -/

namespace Sys2Proof

namespace Machine

/-- A strand with one more store in its buffer. -/
noncomputable def Strand.buffering (t : Strand) (e : StoreEntry) : Strand :=
  t.withAccesses t.loads (t.stores ++ [e]) t.waits t.reports (t.memSeq + 1)

section
variable (kind : StoreKind) (va len data mask : Nat) (ps : List (Nat × Phys))

/-- The entry of a store of a strand. -/
noncomputable def Strand.storeEntry (t : Strand) : StoreEntry :=
  { id := t.memSeq, kind := kind, va := va, len := len, data := BitVec.ofNat 4096 data, mask := BitVec.ofNat 4096 mask, stage := .buffered,
    lines := ps }

theorem State.enterStore_eq (s : State) : s.enterStore s.cur kind ps va len data mask =
    (s.onMe fun t => t.buffering (t.storeEntry kind va len data mask ps)).post (.storePerform s.cur s.me.memSeq) := rfl

variable {kind va len data mask ps} {s : State} {i : Instr} {pre : State → State}

/-- A plan that enters a store in the buffer, once something has been done that touches no strand. -/
theorem exec_enterStore (hplain : isPlain i = true) (hclear : s.Clear i) (hpre : (pre s.judged).running = s.judged.running)
    (hplan : planOf i s.judged = .go fun s => (pre s).enterStore (pre s).cur kind ps va len data mask) :
    ∃ u, exec i s = .next u ∧ u.memory = (pre s.judged).memory ∧ s.Buffered u (s.judged.me.storeEntry kind va len data mask ps) := by
  have hstart := (becomes_judged s).keeps hpre
  have hstored := hstart.onMe fun t => t.buffering (t.storeEntry kind va len data mask ps)
  rw [s.me_judged]
  exact ⟨_, exec_plain_go hplain hclear hplan (State.enterStore_eq ..) hstored (·.withAccesses), rfl, (hstored.movedOn s.here).me,
    List.mem_append_right _ (List.mem_singleton.mpr (congrArg₂ _ hstart.1.symm (congrArg Strand.memSeq hstart.me.symm))), (hstored.movedOn s.here).others⟩

end

/-- A buffer with room takes a store. -/
theorem bufferStore_room {s : State} (hroom : s.me.buffered < 64) (kind : StoreKind) (lines : List (Nat × Phys)) (va len data mask : Nat) :
    bufferStore s kind lines va len data mask = .go fun s => s.enterStore s.cur kind lines va len data mask := if_neg (Nat.not_le.mpr hroom)

/-- A strand with no access has none before any place in its sequence. -/
theorem State.earlierDone_idle {s : State} {who : Nat} (hloads : (s.strand who).loads = []) (hstores : (s.strand who).stores = []) (before : Nat) :
    s.earlierDone who before = true := by
  unfold State.earlierDone
  dsimp only
  rw [hloads, hstores]
  rfl

/-- A load of the leaf's own memory in flight is not done (R254, R258). -/
theorem State.earlierDone_loading {s : State} {who before : Nat} (hbusy : ∃ e ∈ (s.strand who).loads, e.remote = false ∧ e.id < before) :
    s.earlierDone who before = false := by
  obtain ⟨e, he, hnear, hearlier⟩ := hbusy
  have hloads : ((s.strand who).loads.any fun e => decide (e.id < before) && !e.remote) = true :=
    List.any_eq_true.mpr ⟨e, he, by rw [hnear, decide_eq_true hearlier]; rfl⟩
  unfold State.earlierDone
  dsimp only
  rw [hloads]
  rfl

/-- A wait that is over, with no fault held, goes on. -/
theorem ordered_done {s : State} {done : Bool} (hdone : done = true) (hreports : s.me.reports = []) (p : Plan) : ordered s done p = p := by
  subst hdone
  unfold ordered
  rw [hreports]
  rfl

section
variable {s : State} {i : Instr} {kind : StoreKind} {va align len data mask : Nat} {ps : List (Nat × Phys)} (hplain : isPlain i = true) (hclear : s.Clear i)
  (haligned : va % align = 0) (hroom : s.judged.me.buffered < 64)
include hplain hclear haligned hroom

/-- A weak store changes no byte at issue. -/
theorem exec_weakStore (hplan : planOf i s.judged = weakStore s.judged va align len data mask) :
    ∃ u, exec i s = .next u ∧ s.SameBytes u ∧ s.Buffered u (s.judged.me.storeEntry .weak va len data mask []) := by
  obtain ⟨u, hexec, hbytes, hbuffered⟩ := exec_enterStore (pre := id) hplain hclear rfl
    ((hplan.trans (if_pos (beq_iff_eq.mpr haligned))).trans (bufferStore_room hroom ..))
  exact ⟨u, hexec, sameBytes_of_memory hbytes, hbuffered⟩

/-- A release of a strand that has nothing in flight, buffered or reported enters the buffer; behind a load of the leaf's own memory it
stalls. -/
theorem exec_releaseStore {x : Scope} (hplan : planOf i s.judged = releaseStore s.judged kind x va align len data mask)
    (htranslated : s.Translated needWr (linesOf va len mask) ps) :
    ((s.judged.me.loads = [] ∧ s.judged.me.stores = [] ∧ s.judged.me.reports = []) →
      ∃ u, exec i s = .next u ∧ s.Buffered u (s.judged.me.storeEntry kind va len data mask ps)) ∧
    ((∃ e ∈ s.judged.me.loads, e.remote = false ∧ e.id < s.judged.me.memSeq) → ∃ u, exec i s = .next u ∧ u.me = s.judged.me ∧ s.SameBytes u) := by
  have hchecked := (hplan.trans (if_pos (beq_iff_eq.mpr haligned))).trans (htranslated.xlated_eq va _)
  constructor
  · intro hdone
    obtain ⟨u, hexec, -, hbuffered⟩ := exec_enterStore (pre := fun s => s.cleanFor x) hplain hclear (running_cleanFor ..)
      ((hchecked.trans (ordered_done (State.earlierDone_idle hdone.1 hdone.2.1 _) hdone.2.2 _)).trans (by rw [bufferStore_room hroom]))
    exact ⟨u, hexec, hbuffered⟩
  · intro hbusy
    have hstall := hchecked.trans (if_pos (congrArg not (State.earlierDone_loading hbusy)))
    exact ⟨_, exec_of_plan_stall hclear (exec_isPlain hplain s) (legal_of_isPlain hplain hclear _) hstall, rfl, sameBytes_of_memory rfl⟩

end

/-- Settles O21: a weak store enters the buffer at once (exec_weakStore), and a release, GSTREL, GSTRELV or SIGNAL, once nothing of the
strand is outstanding (exec_releaseStore). -/
theorem globalStores : Obligations.GlobalStores := by
  intro s ps
  rw [← s.me_judged]
  intro t va entry done busy orders hroom
  refine ⟨?_, ?_, ?_, ?_⟩
  · intro o a b z
    exact ⟨fun hclear haligned htag => exec_weakStore rfl hclear haligned hroom (Plan.need_true htag ..),
      fun hclear haligned => exec_weakStore rfl hclear haligned hroom rfl⟩
  · intro o b z haligned hclear
    exact exec_releaseStore (x := o.scope) rfl hclear haligned hroom rfl
  · intro o a haligned htag hclear
    exact exec_releaseStore (x := o.scope) rfl hclear haligned hroom (Plan.need_true htag ..)
  · intro o a haligned hclear
    exact exec_releaseStore (x := .system) rfl hclear haligned hroom rfl

end Machine

end Sys2Proof
end

section
/-! PROOFS. Local loads and stores: the regions they touch, and the bytes they read, land and change (O18). -/

namespace Sys2Proof

namespace Machine

/- A touch of held regions (R77, R221). -/

/-- A region is held for a member. -/
noncomputable def Region.HeldFor (r : Region) (m : Member) : Prop :=
  r.state = .held ∧ ∃ o, r.owner = some o ∧ o.same m.owner = true ∧ o.dead = false

theorem touchAll_held {s : State} {core : Nat} {m : Member} (hmember : (s.leaf (leafOfCore core)).member = some m) (party : Party)
    {regions : List Nat} (h : ∀ n ∈ regions, (s.region core n).HeldFor m) : s.touchAll core party regions = (s, true) := by
  induction regions with
  | nil => rfl
  | cons n regions ih =>
    obtain ⟨hstate, o, howner, hsame, hlive⟩ := h n List.mem_cons_self
    have htouch : s.touch core n party = (s, true) :=
      (congrArg (fun v : State => if (v.region core n).state = .held then (v, true) else _)
        (State.ownRegion_own hmember howner hsame hlive)).trans (if_pos hstate)
    exact (congrArg (fun x : State × Bool => if x.2 then x.1.touchAll core party regions else (x.1, false)) htouch).trans
      (ih fun k hk => h k (List.mem_cons_of_mem n hk))

theorem leafOfCore_coreOf (w : Nat) : leafOfCore (coreOf w) = leafOf w := Nat.div_div_eq_div_mul w 4 64

/- Bytes written in local store (R224, R284). -/

/-- The memories beside local store. -/
noncomputable def State.banks (s : State) := (s.hbm, s.host, s.pool, s.flash)

theorem sameGlobal_of_banks {s u : State} (h : u.banks = s.banks) : s.SameGlobal u :=
  fun a => ⟨congrArg (·.1.read a) h, congrArg (·.2.1.read a) h, congrArg (·.2.2.1.read a) h, congrArg (·.2.2.2.read a) h⟩

/-- A core with another local store, other pushes on their way and other regions. -/
noncomputable def Core.having (x : Core) (bytes : Mem) (pushes : List Push) (regions : FMap Region) : Core :=
  { x with local_ := bytes, pushes := pushes, regions := regions }

/-- A core without its regions. -/
noncomputable def Core.besideRegions (x : Core) : Core := x.having x.local_ x.pushes []

/-- A core with bytes of local store written. -/
noncomputable def Core.put (x : Core) (a : Nat → Nat) (z data mask : Nat) : Core := x.having (x.local_.scatter a data mask z) x.pushes x.regions

theorem Core.eq_of_put {x y : Core} {a : Nat → Nat} {z data mask : Nat} (h : y.besideRegions = (x.put a z data mask).besideRegions) :
    y = x.having y.local_ x.pushes y.regions := (congrArg (fun w : Core => w.having y.local_ w.pushes y.regions) h :)

section
variable (s : State) (c : Nat) (a : Nat → Nat) (z data mask : Nat)

theorem localPut_keeps : let u := s.localPut c a z data mask
    u.running = s.running ∧ u.banks = s.banks ∧ (u.core c).besideRegions = ((s.core c).put a z data mask).besideRegions := by
  have hput := foldl_keeps (fun u : State => (u.running, u.banks, (u.core c).besideRegions)) (f := fun s l => let r := s.region c (l / 256)
    s.setRegion c (l / 256) { r with dirty := setBit r.dirty (l % 256) true }) (fun s l =>
    (congrArg (fun x : Core => (s.running, s.banks, x.besideRegions)) (State.core_onCore ..) :))
    ((List.range z).filterMap fun j => if byteIn mask j then some (a j / 64) else none).eraseDups (s.onCore c fun x => x.put a z data mask)
  exact ⟨congrArg Prod.fst hput, congrArg (·.2.1) hput, (congrArg (·.2.2) hput).trans (congrArg Core.besideRegions (State.core_onCore ..))⟩

theorem core_localPut_other {d : Nat} (hd : d ≠ c) : (s.localPut c a z data mask).core d = s.core d :=
  (foldl_keeps (State.core · d) (fun _ _ => State.core_setCore_other _ _ hd) _ _).trans (State.core_setCore_other _ _ hd)

end

/- A local access (R241, R258). -/

theorem Strand.holdsBack_of_fences {t : Strand} (h : t.fences ≠ []) : t.holdsBack = true := by
  unfold Strand.holdsBack
  rw [List.isEmpty_eq_false_iff.mpr h]
  rfl

/-- A strand with one more local access that waits for a FENCE. -/
noncomputable def Strand.holding (t : Strand) (e : HeldAccess) : Strand :=
  t.withAccesses t.loads t.stores (t.waits ++ [e]) t.reports (t.memSeq + 1)

section
variable {s : State} {i : Instr} {a : Nat → Nat} {z mask data : Nat} {dest : LoadDest} {kind : HeldKind} {t : Strand}
  {f : State → State} {k : State → Plan}

theorem State.Touched.touchPlan_go (h : s.Touched a z mask) (hk : k s.judged = .go f) :
    ∃ g, touchPlan s.judged (regionsOf a z mask) k = .go g ∧ g s.judged = f s.judged := by
  obtain ⟨hwalk, m, hmember, hheld⟩ := h
  have htouch : s.judged.touchAll (coreOf s.judged.cur) (.bundle s.judged.cur) (regionsOf a z mask) = (s.judged, true) :=
    touchAll_held ((leafOfCore_coreOf s.cur).symm ▸ hmember) _ hheld
  refine ⟨fun s => f (s.touchAll (coreOf s.cur) (.bundle s.cur) (regionsOf a z mask)).1, ?_, congrArg (fun x : State × Bool => f x.1) htouch⟩
  unfold touchPlan
  rw [s.me_judged, hwalk]
  dsimp only
  rw [htouch]
  dsimp only
  rw [hk]

variable (hplain : isPlain i = true)
include hplain

/-- An access of the strand cur to regions that are held. -/
theorem exec_touched (hclear : s.Clear i) (htouched : s.Touched a z mask) (hplan : planOf i s.judged = touchPlan s.judged (regionsOf a z mask) k)
    (hk : k s.judged = .go f) (hbecomes : s.Becomes (f s.judged) t) (hproceeds : s.me.Proceeds s.here → t.Proceeds s.here) :
    exec i s = .next ((f s.judged).movedOn s.here) := by
  obtain ⟨g, hgo, hg⟩ := htouched.touchPlan_go hk
  exact exec_plain_go hplain hclear (hplan.trans hgo) hg hbecomes hproceeds

/-- A load reads its bytes at issue, and they land 4 clocks on. -/
theorem exec_localLoad (hclear : s.Clear i) (hready : s.LocalReady a z mask) (hplan : planOf i s.judged = localLoad s.judged a z mask dest) :
    ∃ u, exec i s = .next u ∧ s.Flew u 4 (dest.lands s.judged.me ((s.core (coreOf s.cur)).local_.gather a z)) := by
  have hfree : s.judged.me.holdsBack ≠ true := Bool.eq_false_iff.mp (s.me_judged ▸ hready.free)
  exact ⟨_, exec_touched hplain hclear hready.touched hplan (if_neg hfree) ((becomes_judged s).onMe fun t => t.flying (s.issueClk + 4) (s.slot == .m) _)
    (fun h => ⟨h.retiring, h.next, h.trapReq, h.ends⟩), s.flew_flyRecorded 4 _ 0 false⟩

/-- An access that is left to wait changes no byte. -/
theorem exec_heldAccess (hclear : s.Clear i) (htouched : s.Touched a z mask) (hplan : planOf i s.judged = touchPlan s.judged (regionsOf a z mask) k)
    (hk : k s.judged = .go fun s => s.holdAccess a z mask kind) : ∃ u, exec i s = .next u ∧
      s.Held u { id := s.judged.me.memSeq, addrs := (List.range z).map a, mask := BitVec.ofNat 4096 mask, kind := kind } := by
  have hheld := (becomes_judged s).onMe fun t => t.holding
    { id := s.judged.me.memSeq, addrs := (List.range z).map a, mask := BitVec.ofNat 4096 mask, kind := kind}
  exact ⟨_, exec_touched hplain hclear htouched hplan hk hheld (·.withAccesses), (hheld.movedOn s.here).me,
    List.mem_append_right _ (List.mem_singleton_self _), sameBytes_of_memory rfl, (hheld.movedOn s.here).others⟩

/-- What a local store of the strand cur leaves. -/
noncomputable def State.StoredLocal (s u : State) (a : Nat → Nat) (z data mask : Nat) : Prop := let c := coreOf s.cur
  u.me = s.judged.me.moved s.here ∧ (u.core c).local_ = (s.core c).local_.scatter a data mask z ∧
    (∀ x, (∀ j < z, a j ≠ x) → (u.core c).local_.read x = (s.core c).local_.read x) ∧
    s.SameGlobal u ∧ s.SameOthers u ∧ (∀ d, d ≠ c → u.core d = s.core d) ∧
    u.core c = { s.core c with local_ := (u.core c).local_, regions := (u.core c).regions }

theorem exec_localStore (hclear : s.Clear i) (hready : s.LocalReady a z mask) (hplan : planOf i s.judged = localStore s.judged a z data mask) :
    ∃ u, exec i s = .next u ∧ s.StoredLocal u a z data mask := by
  have hfree : s.judged.me.holdsBack ≠ true := Bool.eq_false_iff.mp (s.me_judged ▸ hready.free)
  have hput := localPut_keeps s.judged (coreOf s.cur) a z data mask
  have hstored := (becomes_judged s).keeps hput.1
  have hbytes := congrArg Core.local_ hput.2.2
  refine ⟨_, exec_touched hplain hclear hready.touched hplan (if_neg hfree) hstored id, s.me_judged ▸ (hstored.movedOn s.here).me, hbytes, fun x hx => ?_,
    sameGlobal_of_banks hput.2.1, (hstored.movedOn s.here).others, fun d hd => core_localPut_other s.judged _ a z data mask hd, ?_⟩
  · exact (congrArg (·.read x) hbytes).trans (Mem.read_scatter_out _ _ _ _ _ _ hx)
  · exact Core.eq_of_put hput.2.2

end

/- The checks of the local forms (R244, R246, R247). -/

section
variable {s : State}

/-- The slots a circular-buffer access finds: its bytes lie in slots the buffer has, of which enough are filled, or free. -/
noncomputable def cbFits (o : Cbm) (d : W64) (z present : Nat) : Prop :=
  cbNslot d ≠ 0 ∧ o.nm1.toNat + 1 ≤ cbNslot d ∧ 64 * o.off.toNat + z ≤ (o.nm1.toNat + 1) * 64 * cbSlotSz d ∧ o.nm1.toNat + 1 ≤ present

theorem slots_of_cbFits {o : Cbm} {d : W64} {z present : Nat} (h : cbFits o d z present) :
    (cbNslot d != 0 && decide (o.nm1.toNat + 1 ≤ cbNslot d) && decide (64 * o.off.toNat + z ≤ (o.nm1.toNat + 1) * 64 * cbSlotSz d)) = true :=
  Bool.and_eq_true_iff.mpr ⟨cbSlots_ok h.1 h.2.1, decide_eq_true h.2.2.1⟩

theorem cbAccess_load {o : Cbm} {z : Nat} (h : cbFits o (s.me.rdCb o.cb.toNat) z (cbFilled (s.me.rdCb o.cb.toNat))) (k : (Nat → Nat) → Plan) :
    cbAccess o s true z k = k fun j => cbByte (s.me.rdCb o.cb.toNat) (cbCons (s.me.rdCb o.cb.toNat)) (64 * o.off.toNat + j) :=
  (if_pos (slots_of_cbFits h)).trans (if_pos h.2.2.2)

theorem cbAccess_store {o : Cbm} {z : Nat}
    (h : cbFits o (s.me.rdCb o.cb.toNat) z (cbNslot (s.me.rdCb o.cb.toNat) - cbFilled (s.me.rdCb o.cb.toNat))) (k : (Nat → Nat) → Plan) :
    cbAccess o s false z k = k fun j => cbByte (s.me.rdCb o.cb.toNat) (cbProd (s.me.rdCb o.cb.toNat)) (64 * o.off.toNat + j) :=
  (if_pos (slots_of_cbFits h)).trans (if_pos h.2.2.2)

/-- LLD and LST at a multiple of 64 inside local store. -/
theorem llCheck_inside {o : Gm} (haligned : llAddr s o % 64 = 0) (hlow : 0 ≤ llAddr s o) (hhigh : llAddr s o + memBytes o.fmt ≤ 0x100000)
    (k : Nat → Plan) : llCheck s o k = k (llAddr s o).toNat :=
  (if_pos (beq_iff_eq.mpr haligned)).trans (Plan.need_true (Bool.and_eq_true_iff.mpr ⟨decide_eq_true hlow, decide_eq_true hhigh⟩) ..)

/-- LSGATH and LSSCAT with tagged indices whose active elements lie in local store. -/
theorem lsCheck_inside {o : Vvs} {src : Bool} (hindex : groupTag s.me o.va.toNat (idxRegs o.fmt) .int16 = true) (hsrc : src = true)
    (hinside : ∀ i < o.fmt.count, active (s.me.rdK o.k) o.fmt i = true → lsElt s o i + o.fmt.halfBytes / 2 ≤ 0x100000) (p : Plan) :
    lsCheck s o src p = p := by
  refine (Plan.need_true (Bool.and_eq_true_iff.mpr ⟨hsrc, hindex⟩) ..).trans (Plan.need_true (List.all_eq_true.mpr fun i hi => ?_) ..)
  cases hactive : active (s.me.rdK o.k) o.fmt i with
  | false => rfl
  | true => exact decide_eq_true (hinside i (List.mem_range.mp hi) hactive)

end

/- What lands (R239, R240, R247). -/

theorem Mem.gather_lt (m : Mem) (a : Nat → Nat) {n k : Nat} (hk : 8 * n = k) : m.gather a n < 2 ^ k := by
  rw [← hk, Nat.pow_mul]
  clear hk
  induction n with
  | zero => exact Nat.one_pos
  | succ n ih => calc
      _ < (2 ^ 8) ^ n + (m.read (a n)).toNat * (2 ^ 8) ^ n := Nat.add_lt_add_right ih _
      _ = ((m.read (a n)).toNat + 1) * (2 ^ 8) ^ n := by rw [Nat.succ_mul, Nat.add_comm]
      _ ≤ 2 ^ 8 * (2 ^ 8) ^ n := Nat.mul_le_mul_right _ (m.read (a n)).isLt
      _ = (2 ^ 8) ^ (n + 1) := Nat.mul_comm ..

/-- A gather moves no elements of T6. -/
theorem fmt_of_lsgath {s : State} {o : Vvs} (h : s.Clear (.lsgath o)) : o.fmt ≠ .t6 := by
  intro hf
  have hwf : (vOk o.vd && baseOk o.va (idxRegs o.fmt) && gathFmt o.fmt) = true := h.wf
  rw [hf, Bool.and_eq_true] at hwf
  exact Bool.false_ne_true hwf.2

/-- A vector load in a format that memory does not pack lands the elements that it read. -/
theorem loaded_unpacked {f : Fmt} (hf : f ≠ .t6) (k : KBits) (old : VBits) (m : Mem) (a : Nat → Nat) : loaded f k old (m.gather a 512) =
    { bits := blend f k old fun i => cleanElt f f i (eltOf f.bits (BitVec.ofNat 4096 (m.gather a 512)) i), tag := f } := by
  unfold loaded fromMem eltOf
  rw [if_neg hf, BitVec.toNat_ofNat, Nat.mod_eq_of_lt (Mem.gather_lt m a rfl)]

/-- Settles O18: an access whose regions are held reads or writes at once (exec_localLoad, exec_localStore), and behind a FENCE it waits
(exec_heldAccess). The masked bytes LSGATH and LSSCAT name lie at the model's own addresses, and the unused bits of an element land as
zeros (log 77). -/
theorem localAccesses : Obligations.LocalAccesses := by
  refine ⟨fun s => ?_, fun s => ?_, fun s => ?_⟩ <;> rw [← s.me_judged]
  · intro t mem
    refine ⟨?_, ?_, ?_⟩
    · intro o d n a at_
      refine ⟨fun hclear hfits htag hready => ?_, fun hclear => ?_⟩
      · exact exec_localLoad rfl hclear hready ((Plan.need_true htag ..).trans (cbAccess_load hfits _))
      · intro z hfits hready
        rw [if_congr (BitVec.toNat_eq (x := o.reg.setWidth 6) (y := 0)) rfl rfl]
        exact exec_localLoad rfl hclear hready (cbAccess_load hfits fun a => localLoad s.judged a z (2 ^ (8 * z) - 1)
          (.scalar (o.reg.setWidth 6 : BitVec 6).toNat o.fmt))
    · intro o a hclear haligned hlow hhigh htag hready
      exact exec_localLoad rfl hclear hready ((Plan.need_true htag ..).trans (llCheck_inside haligned hlow hhigh _))
    · intro o w a hclear hindex htag hinside hready
      rw [← loaded_unpacked (fmt_of_lsgath hclear)]
      exact exec_localLoad rfl hclear hready (lsCheck_inside hindex htag hinside _)
  · intro o t a m e haligned hlow hhigh htouched hfences
    have hheld := Strand.holdsBack_of_fences hfences
    exact ⟨fun hclear htag => exec_heldAccess rfl hclear htouched ((Plan.need_true htag ..).trans (llCheck_inside haligned hlow hhigh _)) (if_pos hheld),
      fun hclear htag => exec_heldAccess rfl hclear htouched ((Plan.need_true htag ..).trans (llCheck_inside haligned hlow hhigh _)) (if_pos hheld)⟩
  · intro t c stored
    refine ⟨?_, ?_, ?_⟩
    · intro o d n ok at_
      refine ⟨fun hclear hfits htag hready => ?_, fun hclear => ?_⟩
      · exact exec_localStore rfl hclear hready ((Plan.need_true htag ..).trans (cbAccess_store hfits _))
      · intro z hfits hready
        exact exec_localStore rfl hclear hready (cbAccess_store hfits fun a => localStore s.judged a z
          (t.rdS (o.reg.setWidth 6)).toNat (2 ^ (8 * z) - 1))
    · intro o a hclear haligned hlow hhigh htag hready
      exact exec_localStore rfl hclear hready ((Plan.need_true htag ..).trans (llCheck_inside haligned hlow hhigh _))
    · intro o w a hclear hindex htag hinside hready
      exact exec_localStore rfl hclear hready (lsCheck_inside hindex htag hinside _)

end Machine

end Sys2Proof
end

section
/-! PROOFS. The return of loads and atomics (O37). -/

namespace Sys2Proof

namespace Machine

/- Bytes of a line (R3). -/

theorem Mem.readNat_add (m : Mem) (a j n : Nat) : m.readNat a (j + n) = m.readNat a j + 2 ^ (8 * j) * m.readNat (a + j) n := by
  induction j generalizing a with
  | zero => rw [Nat.zero_add, Nat.mul_zero, Nat.pow_zero, Nat.one_mul, Mem.readNat, Nat.zero_add, Nat.add_zero]
  | succ j ih =>
    rw [Nat.succ_add, Mem.readNat, Mem.readNat, ih, Nat.mul_succ, Nat.pow_add, Nat.mul_assoc, Nat.mul_add, ← Nat.add_assoc, Nat.mul_left_comm,
      Nat.add_assoc a 1 j, Nat.add_comm 1 j]

/-- What a load takes from one line of host memory. -/
theorem spliceLines_host (m : Mem) (a : Nat) {va n : Nat} (hn : va % 64 + n ≤ 64) :
    spliceLines va n [(va / 64, BitVec.ofNat 512 (m.readNat a 64))] = m.readNat (a + va % 64) n := by
  obtain ⟨r, hr⟩ := Nat.exists_eq_add_of_le hn
  have hline : 0 + (BitVec.ofNat 512 (m.readNat a 64)).toNat * 2 ^ (512 * (va / 64 - va / 64)) = m.readNat a (va % 64 + (n + r)) := by
    rw [Mem.toNat_readNat m a (n := 64) rfl, Nat.sub_self, Nat.mul_zero, Nat.pow_zero, Nat.mul_one, Nat.zero_add]
    exact congrArg _ (hr.trans (Nat.add_assoc ..))
  refine (congrArg (· / 2 ^ (8 * (va % 64)) % 2 ^ (8 * n)) hline).trans ?_
  rw [Mem.readNat_add, Nat.add_mul_div_left _ _ (Nat.two_pow_pos _), Nat.div_eq_of_lt (Mem.readNat_lt m a rfl), Nat.zero_add,
    Mem.readNat_add, Nat.add_mul_mod_self_left, Nat.mod_eq_of_lt (Mem.readNat_lt m _ rfl)]

/- An access that ends (R241). -/

/-- An access off the scoreboard of a strand. -/
noncomputable def Strand.without (t : Strand) (id : Nat) : Strand :=
  t.withAccesses (t.loads.filter fun d => d.id != id) t.stores t.waits t.reports t.memSeq

section
variable {s : State} {who id : Nat} {e : LoadEntry}

theorem Strand.loads_without {t : Strand} (h : t.loads = [e]) : (t.without e.id).loads = [] :=
  (congrArg (List.filter _) h).trans (List.filter_cons_of_neg (Bool.eq_false_iff.mp (bne_self_eq_false _)))

/-- With no FENCE pending the end of an access changes its strand alone. -/
theorem State.endLoad_keeps {f : Strand → Strand} {t : Strand} (hf : f ((s.strand who).without id) = t) (hfences : t.fences = []) :
    (s.endLoad who id f).strand who = t ∧ (s.endLoad who id f).memory = s.memory := by
  have hstrand : ((s.onStrand who fun t => f (t.without id)).forget (leafOf who) (.load who id)).strand who = t :=
    (State.strand_setStrand_same ..).trans hf
  have hnone : s.endLoad who id f = (s.onStrand who fun t => f (t.without id)).forget (leafOf who) (.load who id) :=
    congrArg (State.passFences _ who) (congrArg List.length ((congrArg Strand.fences hstrand).trans hfences))
  exact hnone ▸ ⟨hstrand, rfl⟩

/-- The end of the one access of a strand with no FENCE pending, which puts a word in its register. -/
theorem State.endLoad_returns {v : State} {n : Nat} {x : W64} (hstrand : v.strand who = s.strand who) (hn : n ≠ 0)
    (hloads : (s.strand who).loads = [e]) (hfences : (s.strand who).fences = []) : let u := v.endLoad who e.id fun t => t.land (.s n x)
    (u.strand who).loads = [] ∧ (u.strand who).sregs = (s.strand who).sregs.set n x ∧ u.memory = v.memory := by
  have hend := State.endLoad_keeps (f := fun t => t.land (.s n x)) (congrArg (fun t : Strand => (t.without e.id).land (.s n x)) hstrand)
    ((Strand.land_fences ..).trans hfences)
  exact ⟨(congrArg Strand.loads hend.1).trans ((Strand.land_loads ..).trans (Strand.loads_without hloads)),
    (congrArg Strand.sregs hend.1).trans (congrArg Strand.sregs (if_neg hn)), hend.2⟩

theorem running_poolHold (s : State) (key : BitVec 8) (line : Nat) (held : Bool) : (s.poolHold key line held).running = s.running := by
  unfold State.poolHold
  generalize s.poolLines.find? (poolSlot key line) = o
  cases o <;> exact @rfl _ s.running

/-- A pool line let go (R271, R272) is no strand's. -/
theorem State.running_poolLoose (s : State) (key : BitVec 8) (e : LoadEntry) : (s.poolLoose key e).running = s.running := by
  unfold State.poolLoose
  cases e.kind with
  | atomic =>
    rcases e.lines with _ | ⟨⟨_, p⟩, _⟩
    · rfl
    · cases p with
      | pool a => exact running_poolHold ..
      | _ => rfl
  | _ => rfl

/-- A strand with the loss of an access held as a report; a destination that has gone is owed none. -/
noncomputable def Strand.loses (t : Strand) (e : LoadEntry) (cause : BitVec 8) : Strand :=
  match e.dest.reg with
  | some r => t.withAccesses t.loads t.stores t.waits (t.reports ++ [{ cause := cause, addr := BitVec.ofNat 64 e.va, dest := some r }]) t.memSeq
  | none => t

theorem Strand.loses_keeps (t : Strand) (e : LoadEntry) (cause : BitVec 8) : let u := t.loses e cause
    (u.loads, u.fences, u.sregs, u.vregs) = (t.loads, t.fences, t.sregs, t.vregs) := by
  unfold Strand.loses
  cases e.dest.reg <;> rfl

theorem Strand.reports_loses (t : Strand) {e : LoadEntry} {r : Reg} (cause : BitVec 8) (h : e.dest.reg = some r) :
    (t.loses e cause).reports = t.reports ++ [{ cause := cause, addr := BitVec.ofNat 64 e.va, dest := some r }] := by
  unfold Strand.loses
  rw [h]
  rfl

/-- An access of a strand with no FENCE pending is lost. -/
theorem State.strand_loseLoad {v : State} (e : LoadEntry) (cause : BitVec 8) (hstrand : v.strand who = s.strand who) (hfences : (s.strand who).fences = []) :
    (v.loseLoad who e cause).strand who = ((s.strand who).without e.id).loses e cause := by
  have hloose : (v.poolLoose (v.keyVf (leafOf who)).1 e).strand who = s.strand who := (strand_of_running (v.running_poolLoose ..) who).trans hstrand
  refine (State.endLoad_keeps (f := fun t => t.loses e cause) ?_ ?_).1
  · rw [hloose]
  · exact (congrArg (·.2.1) (Strand.loses_keeps ..) : Strand.fences _ = _).trans hfences

/- LOAD_DATA_RETURN. -/

theorem find_of_one {α : Type} {l : List α} {x : α} (g : α → Nat) (h : l = [x]) : l.find? (fun y => g y == g x) = some x := by
  subst h
  exact List.find?_cons_of_pos (beq_self_eq_true _)

section
variable (hloads : (s.strand who).loads = [e]) (hruns : s.enginesRun (leafOf who) = true)
include hloads hruns

/-- A refusal by the owner. -/
theorem exec_load_refused : exec (.loadDataReturn who e.id .refused) s = .next ((s.unpost (.loadDataReturn who e.id .refused)).loseLoad who e WSFAULT) := by
  change execLoadDataReturn who e.id .refused s = _
  unfold execLoadDataReturn
  rw [find_of_one LoadEntry.id hloads, hruns]
  rfl

/-- An access that may perform and that needs no line's ownership first. -/
theorem exec_load_data (hgate : s.loadGate who e = .ok) (hready : s.loadReady who e = true) (hwants : s.wantsLine who e = none) :
    exec (.loadDataReturn who e.id .data) s = .next ((s.unpost (.loadDataReturn who e.id .data)).performLoad who e) := by
  change execLoadDataReturn who e.id .data s = _
  unfold execLoadDataReturn
  rw [find_of_one LoadEntry.id hloads]
  dsimp only
  rw [hruns, hgate, hready, hwants]
  rfl

end

theorem kept_hostBits (s : State) (a n data mask : Nat) : (s.hostBits a n data mask).kept =
    (s.strands, s.cur, s.host.scatter (a + ·) data mask n, s.cores, s.hbm, s.pool, s.flash) := kept_wakeLines ..

theorem running_hostBits (s : State) (a n data mask : Nat) : (s.hostBits a n data mask).running = s.running :=
  congrArg (fun x => (x.1, x.2.1)) (kept_hostBits s a n data mask)

theorem host_hostBits (s : State) (a n data mask : Nat) : (s.hostBits a n data mask).host = s.host.scatter (a + ·) data mask n :=
  congrArg (·.2.2.1) (kept_hostBits s a n data mask)

theorem entry_eq {k : AccessKind} {d : LoadDest} {ls : List (Nat × Phys)} {b : Bool} (hkind : e.kind = k) (hdest : e.dest = d) (hlines : e.lines = ls)
    (hdrops : e.drops = b) : e = ⟨e.id, k, d, e.va, e.len, ls, e.scope, b⟩ := by
  subst hkind hdest hlines hdrops
  rfl

/- What a load and an atomic of host memory do as they perform (R249, R256). -/

theorem kept_countBytes (s : State) (leaf va n : Nat) : (s.countBytes leaf va n).kept = s.kept := by
  unfold State.countBytes
  generalize (s.leaf leaf).member = m
  cases m <;> exact @rfl _ s.kept

/-- The state as an access performs, its bytes counted (R236). -/
noncomputable def State.counted (s : State) (who : Nat) (e : LoadEntry) : State :=
  (s.unpost (.loadDataReturn who e.id .data)).countBytes (leafOf who) e.va e.moved

theorem State.kept_counted (s : State) (who : Nat) (e : LoadEntry) : (s.counted who e).kept = s.kept := kept_countBytes ..

variable {l a n : Nat} (hlines : e.lines = [(l, .host a)])
include hlines

theorem State.loadReady_host (hloads : (s.strand who).loads = [e]) (hfences : (s.strand who).fences = []) (hstores : (s.strand who).stores = [])
    (hthawed : (e.kind.writes && s.isFrozen (leafOf who) l) = false) : s.loadReady who e = true := by
  refine Bool.and_eq_true_iff.mpr ⟨Bool.and_eq_true_iff.mpr ⟨Bool.and_eq_true_iff.mpr ⟨Bool.and_eq_true_iff.mpr ⟨?_, ?_⟩, ?_⟩, ?_⟩, ?_⟩
  · rw [hfences]
    exact Bool.or_true _
  · rw [hloads]
    exact congrArg (fun b => !(b && _ || false)) (decide_eq_false (Nat.lt_irrefl e.id))
  · rw [hstores]
    exact Bool.or_true _
  · rw [hlines]
    exact congrArg not ((congrArg _ (Bool.or_false _)).trans hthawed)
  · rw [hlines]
    rfl

theorem State.wantsLine_host : s.wantsLine who e = none := by
  unfold State.wantsLine
  rw [hlines]
  exact ite_self _

/-- A scalar load of host memory puts its bytes, extended, in its register. -/
theorem State.performLoad_host {f : Fmt} (hkind : e.kind = .load) (hdrops : e.drops = false) (hdest : e.dest = .scalar n f) (hn : n ≠ 0)
    (hline : e.va / 64 = l) (hwithin : e.va % 64 + e.len ≤ 64) (hstores : (s.strand who).stores = []) :
    (s.unpost (.loadDataReturn who e.id .data)).performLoad who e = (s.counted who e).endLoad who e.id fun t =>
      t.land (.s n (scalarExt f (s.host.readNat (a + e.va % 64) e.len))) := by
  subst hline
  have hkept := s.kept_counted who e
  have hbytes : forwarded ((s.counted who e).strand who) e.id e.va e.len
      (spliceLines e.va e.len [(e.va / 64, BitVec.ofNat 512 ((s.counted who e).host.readNat a 64))]) = s.host.readNat (a + e.va % 64) e.len := by
    rw [strand_of_running (running_of_kept hkept), forwarded_none hstores, spliceLines_host _ a hwithin, Nat.mod_eq_of_lt (Mem.readNat_lt _ _ rfl)]
    exact congrArg (fun m => Mem.readNat m _ _) (congrArg (·.2.2.1) hkept)
  rw [← hbytes, entry_eq hkind hdest hlines hdrops]
  exact congrArg (State.endLoad _ who e.id) (funext fun t => congrArg (List.foldl Strand.land t) (if_neg hn))

/-- An 8-byte AADD of host memory writes the sum and puts the old word in its register. -/
theorem State.performLoad_aadd {x q : W64} (hkind : e.kind = .atomic 0 true x q) (hdest : e.dest = .scalar n .raw) :
    (s.unpost (.loadDataReturn who e.id .data)).performLoad who e =
      ((s.counted who e).hostBits (a + e.va % 64) 8 (((s.counted who e).host.readNat (a + e.va % 64) 8 + x.toNat) % 2 ^ 64) (2 ^ 64 - 1)).endLoad who e.id
        fun t => t.land (.s n (BitVec.ofNat 64 ((s.counted who e).host.readNat (a + e.va % 64) 8))) := by
  rw [entry_eq hkind hdest hlines rfl]
  rfl

end

/-- Settles O37: a refused access leaves its register (State.strand_loseLoad); a load and an AADD of host memory perform
(State.performLoad_host, State.performLoad_aadd), and their word lands (State.endLoad_returns). -/
theorem loadsReturn : Obligations.LoadsReturn := by
  intro s who e t hloads hfences hstores hruns
  have hkept := s.kept_counted who e
  have hstrand := strand_of_running (running_of_kept hkept) who
  refine ⟨?_, ?_, ?_⟩
  · have hlost := State.strand_loseLoad (v := s.unpost (.loadDataReturn who e.id .refused)) e WSFAULT rfl hfences
    exact ⟨_, exec_load_refused hloads hruns, (congrArg Strand.loads hlost).trans ((congrArg Prod.fst (Strand.loses_keeps ..) : Strand.loads _ = _).trans
      (Strand.loads_without hloads)), (congrArg Strand.sregs hlost).trans (congrArg (·.2.2.1) (Strand.loses_keeps ..)),
      (congrArg Strand.vregs hlost).trans (congrArg (·.2.2.2) (Strand.loses_keeps ..)),
      fun r hr => (congrArg Strand.reports hlost).trans (Strand.reports_loses _ WSFAULT hr)⟩
  · intro l a n f hkind hdrops hlines hdest hn hline _ hwithin hgate
    have hready := State.loadReady_host hlines hloads hfences hstores (congrArg (fun k => k.writes && _) hkind)
    have hexec := exec_load_data hloads hruns hgate hready (if_pos (congrArg (fun k => !AccessKind.writes k) hkind))
    have hend := State.endLoad_returns (x := scalarExt f (s.host.readNat (a + e.va % 64) e.len)) hstrand hn hloads hfences
    exact ⟨_, hexec.trans (congrArg _ (State.performLoad_host hlines hkind hdrops hdest hn hline hwithin hstores)), hend.1,
      (sameBytes_of_memory (hend.2.2.trans (memory_of_kept hkept :))).1, hend.2.1⟩
  · intro l a n x q hkind hlines hdest hn hthawed hgate
    have hready := State.loadReady_host hlines hloads hfences hstores ((congrArg (_ && ·) hthawed).trans (Bool.and_false _))
    have hexec := exec_load_data hloads hruns hgate hready (State.wantsLine_host hlines)
    have hhost : (s.counted who e).host = s.host := congrArg (·.2.2.1) hkept
    have hend := State.endLoad_returns (v := (s.counted who e).hostBits (a + e.va % 64) 8 ((s.host.readNat (a + e.va % 64) 8 + x.toNat) % 2 ^ 64) (2 ^ 64 - 1))
      (x := BitVec.ofNat 64 (s.host.readNat (a + e.va % 64) 8)) ((strand_of_running (running_hostBits ..) who).trans hstrand) hn hloads hfences
    refine ⟨_, hexec.trans (congrArg _ ?_), hend.1, hend.2.1, (congrArg Prod.fst hend.2.2).trans ((host_hostBits ..).trans ?_)⟩
    · rw [← hhost]
      exact State.performLoad_aadd hlines hkind hdest
    · rw [host_hostBits, hhost]

end Machine

end Sys2Proof
end

section
/-! PROOFS. Buffered stores and pushes perform (O38). -/

namespace Sys2Proof

namespace Machine

/- Host memory under a drop of L1 (R285). -/

theorem host_wakeLines (s : State) (keys : List Nat) : (s.wakeLines keys).host = s.host := congrArg (·.2.2.1) (kept_wakeLines s keys)

theorem host_hbmWrite (s : State) (leaf off n data mask : Nat) (key : BitVec 8) : (s.hbmWrite leaf off n data mask key).host = s.host := by
  refine (host_wakeLines ..).trans (foldl_keeps State.host (fun _ _ => ?_) _ s)
  exact ite_keeps rfl rfl

theorem host_cleanLine (s : State) (core line : Nat) : (s.cleanLine core line).host = s.host := by
  unfold State.cleanLine
  cases (s.core core).l1.find? line with
  | none => rfl
  | some l => exact ite_keeps rfl ((congrArg (·.2.2.1) (kept_meter ..)).trans (host_hbmWrite ..))

theorem host_dropAll (s : State) (core : Nat) : (s.dropAll core).host = s.host :=
  (foldl_keeps State.host (f := State.emptyL1) (fun _ _ => rfl) _ _).trans
    (foldl_keeps State.host (f := State.cleanL1) (fun _ _ => foldl_keeps State.host (fun _ _ => host_cleanLine ..) _ _) _ s)

/- A part of a store reaches host memory (R250). -/

/-- Host memory, and the store buffer and scalar registers of a strand. -/
noncomputable def State.storing (s : State) (who : Nat) := (s.host, (s.strand who).stores, (s.strand who).sregs)

theorem storing_of_running {s u : State} (who : Nat) (h : u.running = s.running) (k : u.host = s.host) : u.storing who = s.storing who :=
  Prod.ext k (congrArg (fun t => (t.stores, t.sregs)) (strand_of_running h who))

theorem storing_onStrand (s : State) (who : Nat) (f : Strand → Strand) :
    (s.onStrand who f).storing who = (s.host, (f (s.strand who)).stores, (f (s.strand who)).sregs) :=
  congrArg (fun t => (s.host, t.stores, t.sregs)) (State.strand_setStrand_same ..)

/-- FENCEs that pass (R258). -/
theorem storing_passFences (s : State) (who n : Nat) : (s.passFences who n).storing who = s.storing who := by
  induction n generalizing s with
  | zero => rfl
  | succ n ih =>
    change State.storing (match (s.strand who).fences with | [] => _ | f :: t => _) who = _
    cases (s.strand who).fences with
    | nil => rfl
    | cons f fs =>
      refine ite_keeps (g := (State.storing · who)) ((ih _).trans (ite_keeps (g := (State.storing · who)) ?_ ?_)) rfl
      · exact (storing_of_running who (running_dropAll ..) (host_dropAll ..)).trans (storing_onStrand ..)
      · exact storing_onStrand ..

/-- A store leaves the buffer. -/
theorem storing_endStore (s : State) (who id : Nat) :
    (s.endStore who id).storing who = (s.host, (s.strand who).stores.filter fun d => d.id != id, (s.strand who).sregs) :=
  (storing_passFences ..).trans (storing_onStrand ..)

section
variable {s : State} {who : Nat} {e : StoreEntry} {p : Part} {x : TlbEntry} {a : Nat}

theorem exec_storePerform_ready (hfind : (s.strand who).stores.find? (fun d => d.id == e.id) = some e) (hruns : s.enginesRun (leafOf who) = true)
    (hready : s.storeReady who e = true) : exec (.storePerform who e.id) s = .next (s.performStore who e) := by
  change execStorePerform who e.id s = _
  unfold execStorePerform
  rw [hfind, hruns]
  exact if_pos hready

/-- A weak store's next part that lies in host memory. -/
theorem performStore_host (hpart : e.part 64 = some p) (hlines : e.lines = []) (hthawed : s.isFrozen (leafOf who) (p.va / 64) = false)
    (hmapped : s.xlate (leafOf who) needWr p.va = .mapped x) (hhost : x.at p.va = .host a) :
    s.performStore who e = (s.hostBits a p.n p.data p.mask).partDone who e p true := by
  unfold State.performStore StoreEntry.placed
  rw [hpart, hlines]
  dsimp only
  rw [hthawed, hmapped]
  exact congrArg (s.storeTo who e p) hhost

/-- What is left of a store's mask once a part of it has performed. -/
noncomputable def StoreEntry.left (e : StoreEntry) (p : Part) : VBits :=
  e.mask &&& ~~~(BitVec.ofNat 4096 ((2 ^ (8 * p.n) - 1) * 2 ^ (8 * (p.va - e.va))))

section
variable (hkind : e.kind = .weak)
include hkind

/-- A part of a weak store has performed: what is left of the store stays in the buffer. -/
theorem partDone_weak (s : State) (who : Nat) (p : Part) : s.partDone who e p true =
    if e.left p ≠ 0 then (s.countBytes (leafOf who) e.va p.moved).setStore who { e with mask := e.left p, stage := .buffered }
    else (s.countBytes (leafOf who) e.va p.moved).endStore who e.id := by
  unfold State.partDone
  rw [hkind]
  rfl

theorem beside_partDone (s : State) (who : Nat) (p : Part) : let u := s.partDone who e p true
    (u.host, (u.strand who).sregs) = (s.host, (s.strand who).sregs) := by
  have hcounted := kept_countBytes s (leafOf who) e.va p.moved
  refine (congrArg (fun u : State => (u.host, (u.strand who).sregs)) (partDone_weak hkind s who p)).trans
    ((ite_keeps (g := fun u : State => (u.host, (u.strand who).sregs)) (congrArg (fun x => (x.1, x.2.2)) (storing_onStrand ..))
      (congrArg (fun x => (x.1, x.2.2)) (storing_endStore ..))).trans ?_)
  exact congrArg (fun x => (x.1, x.2.2)) (storing_of_running who (running_of_kept hcounted) (congrArg (·.2.2.1) hcounted))

/-- With its last part a store leaves the buffer. -/
theorem stores_partDone (s : State) (who : Nat) {p : Part} (hlast : e.left p = 0) :
    ((s.partDone who e p true).strand who).stores = (s.strand who).stores.filter fun d => d.id != e.id :=
  (congrArg (fun u : State => (u.strand who).stores) ((partDone_weak hkind s who p).trans (if_neg (not_not_intro hlast)))).trans
    ((congrArg (·.2.1) (storing_endStore ..)).trans
      (congrArg (fun t : Strand => t.stores.filter _) (strand_of_running (running_of_kept (kept_countBytes ..)) who)))

end

end

/- Bytes scattered at addresses that follow one another (R3). -/

theorem Mem.read_scatter_beside (m : Mem) {a n b : Nat} (data mask : Nat) (hb : b < a ∨ a + n ≤ b) : (m.scatter (a + ·) data mask n).read b = m.read b :=
  Mem.read_scatter_out _ _ _ _ _ _ fun i hi h => hb.elim (fun hl => Nat.not_lt.mpr (Nat.le_add_right a i) (h ▸ hl))
    fun hr => Nat.not_lt.mpr hr (h ▸ Nat.add_lt_add_left hi a)

theorem ones_byte {n j k : Nat} (hk : 8 * n = k) (hj : j < n) : BitVec.ofNat 8 ((2 ^ k - 1) / 256 ^ j) = BitVec.allOnes 8 := by
  subst hk
  refine BitVec.eq_of_getLsbD_eq fun i hi => ?_
  have hin : 8 * j + i < 8 * n := (Nat.add_lt_add_left hi (8 * j)).trans_le (Nat.mul_le_mul_left 8 hj)
  rw [← Nat.pow_mul 2 8 j, BitVec.getLsbD_ofNat, Nat.testBit_div_two_pow, Nat.add_comm, Nat.testBit_two_pow_sub_one, BitVec.getLsbD_allOnes,
    decide_eq_true hi, decide_eq_true hin]
  rfl

/-- Bytes scattered under masks of ones. -/
theorem Mem.read_scatter_in {m : Mem} (hm : m.wf = true) (a data mask : Nat) {n : Nat}
    (hmask : ∀ j < n, BitVec.ofNat 8 (mask / 256 ^ j) = BitVec.allOnes 8) {j : Nat} (hj : j < n) :
    (m.scatter (a + ·) data mask n).read (a + j) = BitVec.ofNat 8 (data / 256 ^ j) := by
  induction n with
  | zero => exact absurd hj (Nat.not_lt_zero j)
  | succ n ih =>
    change Mem.read (if _ then _ else _) _ = _
    rw [hmask n (Nat.lt_succ_self n), if_neg (by decide), Mem.read_write _ _ _ _ (Mem.wf_scatter m _ data mask n hm)]
    by_cases hlast : a + j = a + n
    · obtain rfl := Nat.add_left_cancel hlast
      rw [if_pos rfl, BitVec.and_allOnes, BitVec.not_allOnes, BitVec.and_zero, BitVec.zero_or]
    · rw [if_neg hlast]
      exact ih (fun i hi => hmask i (Nat.lt_succ_of_lt hi)) (Nat.lt_of_le_of_ne (Nat.le_of_lt_succ hj) fun h => hlast (congrArg (a + ·) h))

/-- The bytes of a vector register scattered whole. -/
theorem Mem.read_scatter_vector {m : Mem} (hm : m.wf = true) (a : Nat) (x : VBits) {j : Nat} (hj : j < 512) :
    (m.scatter (a + ·) x.toNat (2 ^ 4096 - 1) 512).read (a + j) = x.extractLsb' (8 * j) 8 := by
  rw [Mem.read_scatter_in hm _ _ _ (fun i hi => ones_byte rfl hi) hj, ← Nat.pow_mul 2 8 j, ← Nat.shiftRight_eq_div_pow]
  rfl

/- XPUT_LAND (R255, R482). -/

/-- A core with one push on its way. -/
noncomputable def Core.onlyPush (x : Core) (q : Push) : Core := x.having x.local_ [q] x.regions

/-- A core with a push no longer on its way. -/
noncomputable def Core.without (x : Core) (id : Nat) : Core :=
  x.having x.local_ (x.pushes.filter fun q => q.id != id) x.regions

/-- Bytes land in local store, and the one push on its way leaves the list. -/
theorem localPut_without {s : State} {c : Nat} {x : Core} {q : Push} (hcore : s.core c = x.onlyPush q) (a : Nat → Nat)
    (z data mask : Nat) : let u := (s.localPut c a z data mask).onCore c (·.without q.id)
    (u.core c).pushes = [] ∧ (u.core c).local_ = x.local_.scatter a data mask z ∧ u.banks = s.banks := by
  have hput := localPut_keeps s c a z data mask
  rw [hcore] at hput
  exact ⟨(congrArg Core.pushes (State.core_onCore ..)).trans ((congrArg (List.filter _) (congrArg Core.pushes hput.2.2)).trans
      (List.filter_cons_of_neg (Bool.eq_false_iff.mp (bne_self_eq_false _)))),
    (congrArg Core.local_ (State.core_onCore ..)).trans (congrArg Core.local_ hput.2.2), hput.2.1⟩

/-- A push that has come to its clock. -/
noncomputable def Push.arrived (p : Push) : Push := { p with waiting := true }

/-- A core, the leaves, the memories beside local store and the FENCEs of a strand. -/
noncomputable def State.aroundPush (s : State) (c who : Nat) := (s.core c, s.leaves, s.banks, (s.strand who).fences)

section
variable {s : State} {c : Nat} {p : Push} {m : Member} (hpush : (s.core c).pushes = [p])
include hpush

/-- A core's one push arrives. -/
theorem aroundPush_pushArrived : (s.pushArrived c p).aroundPush c p.who =
    ((s.core c).onlyPush p.arrived, s.leaves, s.banks, (s.strand p.who).fences) := by
  by_cases hwaiting : p.waiting = true
  · have hsame : p = p.arrived := congrArg (fun b => { p with waiting := b }) hwaiting
    exact (congrArg (State.aroundPush · c p.who) (if_pos hwaiting)).trans
      (congrArg (fun l => ((s.core c).having (s.core c).local_ l (s.core c).regions, s.leaves, s.banks, (s.strand p.who).fences))
        (hpush.trans (congrArg (fun q => [q]) hsame)))
  · exact (congrArg (State.aroundPush · c p.who) (if_neg hwaiting)).trans
      (congrArg₂ (fun x l => (x, s.leaves, s.banks, l)) ((State.core_onStrand ..).trans ((State.core_onCore ..).trans
        (congrArg (fun l => (s.core c).having (s.core c).local_ l (s.core c).regions)
          ((congrArg (List.map _) hpush).trans (congrArg (fun q => [q]) (if_pos rfl))))))
        (congrArg Strand.fences (State.strand_setStrand_same ..) :))

theorem core_pushArrived : (s.pushArrived c p).core c = (s.core c).onlyPush p.arrived := congrArg Prod.fst (aroundPush_pushArrived hpush)

/-- No push is before it. -/
theorem none_behind : (((s.pushArrived c p).core c).pushes.any fun x => x.dir == p.dir && decide (x.id < p.id)) = false := by
  rw [core_pushArrived hpush]
  exact (Bool.or_false _).trans ((congrArg (_ && ·) (decide_eq_false (Nat.lt_irrefl p.id))).trans (Bool.and_false _))

theorem region_pushArrived (r : Nat) : (s.pushArrived c p).region c r = s.region c r :=
  (congrArg (fun x : Core => x.regions.get r .reset) (core_pushArrived hpush) :)

theorem leaf_pushArrived (l : Nat) : (s.pushArrived c p).leaf l = s.leaf l :=
  congrArg (FMap.get · _ _) (congrArg (·.2.1) (aroundPush_pushArrived hpush))

theorem exec_xputLand_lands (hdue : p.due ≤ (s.leaf (leafOfCore c)).clk) (hfences : (s.strand p.who).fences = [])
    (hruns : s.enginesRun (leafOfCore c) = true) (hwalks : ∀ w ∈ (s.leaf (leafOfCore c)).walks, w.party ≠ .push c p.id)
    (hmember : (s.leaf (leafOfCore c)).member = some m) (hheld : ∀ r ∈ regionSpan p.off 512, (s.region c r).HeldFor m) :
    exec (.xputLand c p.id) s = .next ((((s.pushArrived c p).unpost (.xputLand c p.id)).localPut c (p.off + ·) 512 p.data.toNat
      (2 ^ 4096 - 1)).onCore c (·.without p.id)) := by
  change execXputLand c p.id s = _
  unfold execXputLand
  rw [find_of_one Push.id hpush]
  refine (if_neg ?_).trans ((if_neg ?_).trans ?_)
  · exact Bool.eq_false_iff.mp (Bool.or_eq_false_iff.mpr ⟨(congrArg _ (decide_eq_false (Nat.not_lt.mpr hdue))).trans (Bool.and_false _),
      congrArg not hruns⟩)
  · exact Bool.eq_false_iff.mp (Bool.or_eq_false_iff.mpr ⟨Bool.or_eq_false_iff.mpr ⟨none_behind hpush,
      (congrArg (fun x : Leaf => x.walks.any _) (leaf_pushArrived hpush _)).trans (List.any_eq_false.mpr fun w hw h => hwalks w hw (eq_of_beq h))⟩,
      congrArg (List.any · _) ((congrArg (·.2.2.2) (aroundPush_pushArrived hpush)).trans hfences)⟩)
  · rw [touchAll_held ((congrArg Leaf.member (leaf_pushArrived hpush _)).trans hmember) _ fun r hr => (region_pushArrived hpush r).symm ▸ hheld r hr]
    rfl

end

/-- Settles O38: a store's part is written in host memory and the store leaves with its last part (stores_partDone); a push with nothing
in its way is written whole (Mem.read_scatter_vector) and no byte else is (Mem.read_scatter_beside). -/
theorem storesAndPushesPerform : Obligations.StoresAndPushesPerform := by
  refine ⟨fun s who e p x a hfind hruns hready hpart hkind hlines hthawed hmapped hhost => ?_,
    fun s c p m hpush hdue hfences hruns _ hwalks hmember hheld => ?_⟩
  · have hdone := beside_partDone hkind (s.hostBits a p.n p.data p.mask) who p
    have hstrand := strand_of_running (running_hostBits s a p.n p.data p.mask) who
    refine ⟨_, (exec_storePerform_ready hfind hruns hready).trans (congrArg _ (performStore_host hpart hlines hthawed hmapped hhost)),
      congrArg Prod.fst hdone, fun b hb => ?_, fun hlast => (stores_partDone hkind _ who hlast).trans (congrArg (fun t : Strand => t.stores.filter _) hstrand),
      (congrArg Prod.snd hdone).trans (congrArg Strand.sregs hstrand)⟩
    exact (congrArg (·.read b) ((congrArg Prod.fst hdone).trans (host_hostBits ..))).trans (Mem.read_scatter_beside _ _ _ hb)
  · have hlanded := localPut_without (s := (s.pushArrived c p).unpost (.xputLand c p.id)) (core_pushArrived hpush) (p.off + ·) 512
      p.data.toNat (2 ^ 4096 - 1)
    refine ⟨_, exec_xputLand_lands hpush hdue hfences hruns hwalks hmember hheld, hlanded.1, fun j hj => ?_, fun hwf j hj => ?_,
      sameGlobal_of_banks (hlanded.2.2.trans (congrArg (·.2.2.1) (aroundPush_pushArrived hpush)))⟩
    · exact (congrArg (·.read j) hlanded.2.1).trans (Mem.read_scatter_beside _ _ _ hj)
    · exact (congrArg (·.read (p.off + j)) hlanded.2.1).trans (Mem.read_scatter_vector hwf _ _ hj)

end Machine

end Sys2Proof
end
